-- ==== Sys2Proof/Word.lean ====
section
/-! DEFINITION. The widths the manual names (R4): a byte is 8 bits, a half 16, a word 32, a dword 64. -/

namespace Sys2Proof

abbrev Byte := BitVec 8
abbrev Half := BitVec 16
abbrev Word := BitVec 32
abbrev DWord := BitVec 64

/-- The 64-bit literal of an L word; `none` for an F word (R38). -/
abbrev Lit := Option DWord

end Sys2Proof
end

