-- ==== Sys2Proof/Syntax.lean ====
section
/-! DEFINITION. The instructions and events: one constructor of `Instr` for every row of spec/opcode_table.json.
Rows of the instruction set carry the fields of their words; rows that are events of the part carry what happened. -/

namespace Sys2Proof

/-- A 9-bit operand code (R41). `int k` is the constant `k - 32`; `reserved` holds the codes R41 reserves. -/
inductive Operand where
  | v (n : BitVec 8)
  | s (n : BitVec 7)
  | int (k : BitVec 6)
  | fp (k : BitVec 4)
  | special (k : BitVec 3)
  | immS
  | immZ
  | lit
  | reserved (c : BitVec 9)
  deriving DecidableEq, Repr

/-- What operand codes 0x1E0, 0x1E1 and 0x1E2 read: IMM10 and the literal (R38, R41). -/
structure Ext where
  imm : BitVec 10
  lit : Lit
  deriving DecidableEq, Repr

/-- Address spaces of a memory operand (R29). -/
inductive Space where
  | g | s | l
  deriving DecidableEq, Repr

/-- Scopes (R285). -/
inductive Scope where
  | group | team | core | gang | cluster | die | package | domain | system
  deriving DecidableEq, Repr

/-- Element sizes of loads and stores (R209); a store admits only the unsigned names. -/
inductive Size where
  | u8 | i8 | u16 | i16 | w | dw | qw
  deriving DecidableEq, Repr

/-- SEM of the control field (R208). -/
inductive Sem where
  | plain | acquire | release
  deriving DecidableEq, Repr

/-- HINT of the control field (R208). -/
inductive Hint where
  | normal | stream | keep
  deriving DecidableEq, Repr

/-- Rounding modes (R70). -/
inductive RM where
  | rne | rtz | rup | rdn
  deriving DecidableEq, Repr

/-- Formats of the floating vector instructions (R130). -/
inductive FFmt where
  | f32 | f16x2 | bf16x2
  deriving DecidableEq, Repr

/-- Saturation of SADD and SSUB (R95). -/
inductive SatMode where
  | wrap | sat | usat
  deriving DecidableEq, Repr

/-- The half of the product that SMUL delivers (R95). -/
inductive MulMode where
  | lo | hi | hiu
  deriving DecidableEq, Repr

/-- Conditions of SCMP (R97). -/
inductive SCond where
  | eq | ne | lt | le | gt | ge | ltu | leu | gtu | geu
  deriving DecidableEq, Repr

/-- Conditions of BRC (R102). -/
inductive BrCond where
  | z | nz | ltz | gez | gtz | lez
  deriving DecidableEq, Repr

/-- Conditions of BRM (R103). -/
inductive BrmCond where
  | any | none | all | nall
  deriving DecidableEq, Repr

/-- The source of an SMOV into an s-register (R94, forms 0x00 to 0x03). -/
inductive SmovForm where
  | word (a : Operand) (x : Ext)
  | w64 (a : Operand) (x : Ext)
  | f32 (a : Operand) (x : Ext)
  | special (num : BitVec 8) (l : Lit)
  deriving DecidableEq, Repr

/-- Operands of the two-source scalar instructions (R95 to R97). -/
structure SBin where
  w64 : Bool
  d : Operand
  a : Operand
  b : Operand
  x : Ext
  deriving DecidableEq, Repr

/-- Operations of SBIT (R99); the field forms read a position B and a width C. -/
inductive SbitOp where
  | popc | clz | ctz | brev | bswap
  | bfeU (b c : Operand)
  | bfeI (b c : Operand)
  | bfi (b c : Operand)
  deriving DecidableEq, Repr

/-- Where a CALL takes its target from (R104). -/
inductive CallTarget where
  | offset (b : Operand)
  | reg (a : Operand)
  deriving DecidableEq, Repr

/-- Where a JMP takes its target from (R105). -/
inductive JmpTarget where
  | reg (a : Operand)
  | tpc
  deriving DecidableEq, Repr

/-- Operations of EMOP (R109). -/
inductive EmopOp where
  | set (a : Operand)
  | and (a : Operand)
  | andn (a : Operand)
  | or (a : Operand)
  | els (a : Operand)
  | live
  deriving DecidableEq, Repr

/-- Operations of MASKOP (R108). -/
inductive MaskOp where
  | and (a b : Operand)
  | or (a b : Operand)
  | xor (a b : Operand)
  | andn (a b : Operand)
  | not (a : Operand)
  | mov (a : Operand)
  | live (a : Operand)
  | popc (a : Operand)
  | first (a : Operand)
  | last (a : Operand)
  | range (a b : Operand)
  deriving DecidableEq, Repr

/-- Fields of LD, ST, LDV, STV, SLD and SST (R207, R208). `scale` is STRIDED in LDV and STV (R212). -/
structure MemF where
  space : Space
  size : Size
  d : Operand
  a : Operand
  b : Operand
  sem : Sem
  scope : Scope
  scale : Bool
  hint : Hint
  n : BitVec 4
  disp : BitVec 10
  l : Lit
  deriving DecidableEq, Repr

/-- Modifiers of VADD and VSUB (R121): U, SAT and packed halves. -/
structure AddMode where
  u : Bool
  sat : Bool
  pk : Bool
  deriving DecidableEq, Repr

/-- Forms of VMAD (R122). -/
inductive MadMode where
  | wrap
  | sat (u : Bool)
  deriving DecidableEq, Repr

/-- Conditions of VCMP (R125). -/
inductive VCond where
  | eq | ne | lt | le | gt | ge
  deriving DecidableEq, Repr

/-- Conditions of VFCMP (R134). -/
inductive FCond where
  | eq | ne | lt | le | gt | ge | un | or
  deriving DecidableEq, Repr

/-- Functions of VSF (R136). -/
inductive SpecialFn where
  | rcp | rsqrt | exp2 | log2 | sinpi | cospi | tanh | sigmoid
  deriving DecidableEq, Repr

/-- Sources of VCLASS (R137). -/
inductive ClassSrc where
  | f32 | f16 | bf16
  deriving DecidableEq, Repr

/-- Forms of VBFE (R127). -/
inductive BfeMode where
  | u | i | ins
  deriving DecidableEq, Repr

/-- Operations of VBIT (R128). -/
inductive VbitOp where
  | popc | clz | ctz | brev | bswap
  deriving DecidableEq, Repr

/-- Byte types of VDOT4 (R129). -/
inductive DotTypes where
  | ss | uu | su
  deriving DecidableEq, Repr

/-- Forms of CVT (R79), named destination first; the rounding mode stands where the form rounds. -/
inductive CvtForm where
  | f32i32 (rm : RM) | f32u32 (rm : RM) | f32f16 | f32bf16
  | f16f32 (rm : RM) | bf16f32 (rm : RM) | f16bf16 (rm : RM) | bf16f16 (rm : RM)
  deriving DecidableEq, Repr

/-- Forms of CVT8 (R80). -/
inductive Cvt8Form where
  | f32e4m3 | f32e5m2
  | e4m3f32 (sat : Bool) (rm : RM)
  | e5m2f32 (sat : Bool) (rm : RM)
  deriving DecidableEq, Repr

/-- Forms of PACK (R81). -/
inductive PackForm where
  | f16x2 (rm : RM) | bf16x2 (rm : RM) | h16 | i16x2sat | ins8
  deriving DecidableEq, Repr

/-- Forms of UNPACK (R82). -/
inductive UnpackForm where
  | f32f16 | f32bf16 | u16 | i16 | u8 | i8
  deriving DecidableEq, Repr

/-- Forms of CVTSAT (R83); only the FP32 sources round. -/
inductive CvtsatForm where
  | i32f32 (rm : RM) | u32f32 (rm : RM) | i16f32 (rm : RM) | u16f32 (rm : RM) | i8f32 (rm : RM) | u8f32 (rm : RM)
  | i16i32 | u16i32 | i8i32 | u8i32 | u8u32
  deriving DecidableEq, Repr

/-- The operations that define scratch-operand mode (R48): every vector and conversion instruction that writes a lane
element by the lane loop. -/
inductive LaneOp where
  | add (m : AddMode) | sub (m : AddMode)
  | mul (pk : Bool) | mulh (u : Bool) | mad (m : MadMode) | div (u rem : Bool)
  | and (inv : Bool) | or (inv : Bool) | xor (inv : Bool)
  | shl (pk : Bool) | shr (u pk : Bool) | min (u pk : Bool) | max (u pk : Bool)
  | mov
  | fadd (fmt : FFmt) (rm : RM) | fsub (fmt : FFmt) (rm : RM) | fmul (fmt : FFmt) (rm : RM)
  | fma (fmt : FFmt) (np nc : Bool) (rm : RM)
  | fmin (fmt : FFmt) (nan : Bool) | fmax (fmt : FFmt) (nan : Bool)
  | fdiv (rm : RM) | fsqrt (rm : RM) | sf (fn : SpecialFn)
  | cls (src : ClassSrc) | bfe (m : BfeMode) | bit (op : VbitOp)
  | dot4 (tt : DotTypes) (sat : Bool) | rnd (fmt : FFmt) (rm : RM)
  | cvt (f : CvtForm) | cvt8 (f : Cvt8Form) | pack (f : PackForm) | unpack (f : UnpackForm)
  | qgdec (bf16 : Bool) (rm : RM) | qgenc (bf16 : Bool) | qgscl | cvtsat (f : CvtsatForm)
  deriving DecidableEq, Repr

/-- Operands of a lane operation (R116, R77). A field the operation does not read is code 0x000, `v 0`. -/
structure VOps where
  scr : Bool
  d : Operand
  a : Operand
  b : Operand
  c : Operand
  x : Ext
  deriving DecidableEq, Repr

/-- The 24 short ops (R46), in the order of their OPS values. -/
inductive ShortOp where
  | vaddI32 | vsubI32 | vmulI32 | vand | vor | vxor | vshl | vshrU32 | vshrI32
  | vminI32 | vmaxI32 | vminU32 | vmaxU32 | vmov
  | vfaddF32 | vfsubF32 | vfmulF32 | vfminF32 | vfmaxF32
  | vfaddF16x2 | vfmulF16x2 | vfaddBf16x2 | vfmulBf16x2 | cvtF32I32
  deriving DecidableEq, Repr

/-- One half of a P word (R44). -/
structure PHalf where
  op : ShortOp
  d : BitVec 8
  a : Operand
  b : Operand
  deriving DecidableEq, Repr

/-- A sweep prefix (R47); ORDER is 0b00 in every legal one. -/
structure SweepPrefix where
  count : BitVec 12
  sd : BitVec 12
  sa : BitVec 12
  sb : BitVec 12
  sc : BitVec 12
  deriving DecidableEq, Repr

/-- Forms of VFLAG (R139). -/
inductive VflagForm where
  | read (d : Operand) (f : BitVec 7)
  | readclr (d : Operand) (f : BitVec 7)
  | clr (f : BitVec 7)
  | set (f : BitVec 7)
  | get (d : Operand)
  | put (a : Operand)
  deriving DecidableEq, Repr

/-- Forms of SHFL (R144). -/
inductive ShflMode where
  | idx | up | down | xor | rot
  deriving DecidableEq, Repr

/-- Source lane of the vector forms of BCAST (R145). -/
inductive BcastSrc where
  | lane (b : Operand)
  | first
  | last
  deriving DecidableEq, Repr

/-- Operations of SCAN (R149), and those RED shares (R146). -/
inductive ScanOp where
  | add | min (u : Bool) | max (u : Bool) | and | or | xor | fadd (rm : RM)
  deriving DecidableEq, Repr

/-- Operations of RED (R146). -/
inductive RedOp where
  | scan (op : ScanOp)
  | fmin | fmax | amax
  deriving DecidableEq, Repr

/-- Operations of VOTE (R150). -/
inductive VoteOp where
  | any | all | ballot | popc | uni
  deriving DecidableEq, Repr

/-- Forms of LMAP (R152). -/
inductive LmapForm where
  | beat
  | phys
  | lane (a b : Operand)
  deriving DecidableEq, Repr

/-- Forms of LNSTAT (R153). -/
inductive LnstatOp where
  | live | nlive | nbeats | good | peak
  deriving DecidableEq, Repr

/-- Forms of TQRY (R175). -/
inductive TqryForm where
  | word (w : BitVec 4)
  | cur
  deriving DecidableEq, Repr

/-- Forms of SWFENCE (R186). -/
inductive SwfenceForm where
  | h (a : Operand)
  | h2 (a b : Operand)
  | all
  deriving DecidableEq, Repr

/-- Fields CPY and CPYT share (R243). -/
structure CopyF where
  a : Operand
  b : Operand
  c : Operand
  n : BitVec 4
  scope : Scope
  nc : Bool
  queue : BitVec 3
  l : Lit
  deriving DecidableEq, Repr

/-- Forms of CSTAT (R248). -/
inductive CstatForm where
  | infl (q : BitVec 3)
  | mask
  | pool
  deriving DecidableEq, Repr

/-- Operations of ATOM (R265). -/
inductive AtomOp where
  | add | min | max | minu | maxu | and | or | xor | xchg | cas | incw | fadd
  deriving DecidableEq, Repr

/-- ORD of ATOM (R263). -/
inductive Ord where
  | rlx | acq | rel | ar
  deriving DecidableEq, Repr

/-- Fields of ATOM (R263). -/
structure AtomF where
  scalar : Bool
  op : AtomOp
  d : Operand
  a : Operand
  b : Operand
  c : Operand
  n : BitVec 4
  ord : Ord
  scope : Scope
  space : Space
  ret : Bool
  w64 : Bool
  l : Lit
  deriving DecidableEq, Repr

/-- Kinds of FENCE (R299). -/
inductive FenceKind where
  | ar | acq | rel | all
  deriving DecidableEq, Repr

/-- A barrier named by IMM10[5:0] (R272). -/
structure BarRef where
  gang : Bool
  idx : BitVec 5
  deriving DecidableEq, Repr

/-! ### What the events carry -/

/-- Who writes to an event target (R280, R364, R370). -/
inductive EventSource where
  | systemCore
  | context (ctx : Nat)
  | channel (ch : Nat)
  deriving DecidableEq, Repr

/-- What firmware does about a page fault of a group or a copy (R232, R242). -/
inductive PageService where
  | mapPage (va : Nat) (level : Nat) (pte : DWord)
  | terminate
  deriving DecidableEq, Repr

/-- Firmware serves a paused copy (R242). -/
structure CopyService where
  id : Nat
  act : PageService
  deriving DecidableEq, Repr

/-- Firmware invalidates the translations of an address (R231); with `out` it unmaps the page and keeps its data in the second tier (R232). -/
structure Invalidation where
  va : Nat
  out : Bool := false
  deriving DecidableEq, Repr

/-- What the debug agent writes of a halted group (R349), and what firmware writes: breakpoints (R350, R352) and the mark that a
context is being debugged (R349). -/
inductive DebugTarget where
  | vreg (n : BitVec 8) (lane : Nat)
  | sreg (n : BitVec 7)
  | pc
  | bpa (n : BitVec 2)
  | bpd (n : BitVec 2)
  | debugged
  deriving DecidableEq, Repr

/-- What a flit brings from another package (R255, R257, R258): a write, read or atomic of `n` bytes on this package's memory, by physical
key, the answer to request `tag`; bytes of rank `from_`'s source for the part with number `part`, from byte `off` on, and whether its
fields agree with the part's; the acknowledgement of rank `from_` for that part's source; or the wish to have a flit again that failed its
CRC there. -/
inductive FlitLoad where
  | idle
  | write (key : Nat) (bytes : List Byte) (tag : Nat)
  | read (key n tag : Nat)
  | atomic (op : AtomOp) (key n : Nat) (c d : DWord) (tag : Nat)
  | reply (tag : Nat) (bytes : List Byte) (bad : Bool)
  | step (part from_ off : Nat) (agrees : Bool) (bytes : List Byte)
  | ack (part from_ : Nat)
  | nack (seq : Nat)
  deriving DecidableEq, Repr

/-- A flit on a Thojan link (R257): its sequence number on the link, whether its CRC is right, and the package that sent it with its number
from end to end. -/
structure Flit where
  port : Nat
  seq : Nat
  crcOk : Bool
  src : Nat
  num : Nat
  load : FlitLoad
  deriving DecidableEq, Repr

/-- A request's flits on a die-to-stack link: the row it names, and the key slot that they name (R383). -/
structure StackFlit where
  row : Nat
  slot : Bool := false
  deriving DecidableEq, Repr

/-- The requester of an endpoint request (R365, R366). -/
structure Requester where
  port : BitVec 4
  rid : BitVec 16
  pasid : Option (BitVec 20)
  deriving DecidableEq, Repr

/-- A memory request of an endpoint (R366): a posted write of `data`, or a read of `len` bytes. -/
structure EpRequest where
  who : Requester
  translated : Bool
  addr : DWord
  write : Bool
  data : List Byte
  len : Nat
  tag : Nat
  deriving DecidableEq, Repr

/-- AtomicOps served as completer (R360). -/
inductive EpAtomic where
  | fetchAdd | swap | cas
  deriving DecidableEq, Repr

/-- Root-die registers that firmware writes by REGISTER_WRITE (R5, R326, R359). -/
inductive RootReg where
  | schedcfg
  | portcfg (p : Nat)
  | portspd (p : Nat)
  | errorLogClear
  | ioLogClear
  /-- Firmware has handled the entries of a port's AER log (R360, R377). -/
  | aerLogClear (port : Nat)
  | partitionWord (i : Nat)
  /-- HDM decoder i: a range of the CXL window and the port it leads to; the word's bit 0 enables it (R361, log 58). -/
  | hdmDecoder (i base size port : Nat)
  /-- Bridge window i: a range of the endpoint window, the port, and the peer's address of its first byte; the word's bit 0
  enables it (R362, log 58). -/
  | bridgeWindow (i base size port peer : Nat)
  /-- BAR i: a range of the endpoint window and the port it leads to; the word's bit 0 assigns it (R377, R378). -/
  | bar (i base size port : Nat)
  deriving DecidableEq, Repr

/-- An access of a system core (R375), or the load of one's image by the firmware (R388). -/
inductive CoreAccess where
  | load (key : Nat) (len : Nat)
  | store (key : Nat) (data : List Byte)
  | amo (op : AtomOp) (w64 : Bool) (key : Nat) (c d : DWord)
  | spadLoad (core off len : Nat)
  | spadStore (core off : Nat) (data : List Byte)
  | fence
  | loadImage (image : List Byte)
  /-- Load-reserved and store-conditional of a hart. -/
  | lr (hart : Nat) (w64 : Bool) (key : Nat)
  | sc (hart : Nat) (w64 : Bool) (key : Nat) (value : DWord)
  /-- Reads of a root-die register and of a channel's entry. -/
  | register (r : RootReg)
  | channel (ch : Nat)
  deriving DecidableEq, Repr

/-- A principal of the management interface (R396). -/
inductive Principal where
  | operator
  | owner (k : BitVec 8)
  deriving DecidableEq, Repr

/-- What OUT_OF_SERVICE names (R397). -/
inductive Unit' where
  | datapath (core dp : Nat)
  | core (c : Nat)
  | cluster (k : Nat)
  | array (core j : Nat)
  | port (p : Nat)
  deriving DecidableEq, Repr

/-- What MAP does (R397): map a leaf, or declare a range allocatable on demand. -/
inductive MapReq where
  | leaf (va : Nat) (level : Nat) (pte : DWord)
  | onDemand (lo hi : Nat)
  deriving DecidableEq, Repr

/-- Which log LOG_READ returns (R397). -/
inductive LogSel where
  | faults | errors | io
  deriving DecidableEq, Repr

/-- The head of a management request inside a session (R395, R396): which session sent it, its SEQ, whether its tag is right, and its
message counter. -/
structure MgmtReq where
  session : Nat
  seq : BitVec 16
  tagOk : Bool := true
  counter : Nat := 0
  deriving DecidableEq, Repr

/-- The SEQ and the bytes of a request outside a session (R395). -/
structure SeqBytes where
  seq : BitVec 16
  bytes : List Byte
  deriving DecidableEq, Repr

/-- A piece of a firmware image and its place (R395, R397). -/
structure ImageChunk where
  off : Nat
  bytes : List Byte
  deriving DecidableEq, Repr

/-- The sizes of a context's tables (R397): bytes for its page tables, and for its record area. -/
structure TableSizes where
  pages : Nat
  records : Nat
  deriving DecidableEq, Repr

/-- One constructor for each row of spec/opcode_table.json, in the table's order but for SYSREQ_SERVICE_COMPLETE and LOG_READ,
which change places: Lean builds no value with fields from the constructors after the 245th. -/
inductive Instr where
  -- P and W words (R44, R47)
  | pWord (h0 h1 : PHalf)
  | sweep (w : SweepPrefix) (op : LaneOp) (f : VOps)
  -- scalar (R93 to R99)
  | nop (l : Lit)
  | smov (d : Operand) (f : SmovForm)
  | smovToSpecial (num : BitVec 8) (a : Operand) (l : Lit)
  | sadd (m : SatMode) (f : SBin)
  | ssub (m : SatMode) (f : SBin)
  | smul (m : MulMode) (f : SBin)
  | sdiv (u rem : Bool) (f : SBin)
  | sand (inv : Bool) (f : SBin)
  | sor (inv : Bool) (f : SBin)
  | sxor (inv : Bool) (f : SBin)
  | sshl (f : SBin)
  | sshr (arith : Bool) (f : SBin)
  | smin (u : Bool) (f : SBin)
  | smax (u : Bool) (f : SBin)
  | scmp (c : SCond) (f : SBin)
  | ssel (c : Operand) (f : SBin)
  | sbit (op : SbitOp) (w64 : Bool) (d a : Operand) (x : Ext)
  | sld (f : MemF)
  | sst (f : MemF)
  -- control flow and masks (R100 to R109)
  | br (b : Operand) (x : Ext)
  | brc (c : BrCond) (w64 : Bool) (a b : Operand) (x : Ext)
  | brm (c : BrmCond) (a b : Operand) (x : Ext)
  | call (d : Operand) (t : CallTarget) (x : Ext)
  | jmp (t : JmpTarget) (l : Lit)
  | loop (d b : Operand) (x : Ext)
  | emop (op : EmopOp) (save : Option Operand) (x : Ext)
  | maskop (op : MaskOp) (d : Operand) (x : Ext)
  -- region and system (R304, R310, R339, R346 to R348)
  | region (n : BitVec 8) (l : Lit)
  | yieldBar (bar : BarRef) (a : Operand) (l : Lit)
  | yieldEv (e : BitVec 8) (a : Operand) (l : Lit)
  | trap (n : BitVec 6) (l : Lit)
  | brk (n : BitVec 8) (l : Lit)
  | sysreq (n : BitVec 8) (d a : Operand) (l : Lit)
  | exit (l : Lit)
  | exitAbort (a : Operand) (l : Lit)
  -- vector (R121 to R139)
  | vadd (m : AddMode) (f : VOps)
  | vsub (m : AddMode) (f : VOps)
  | vmul (pk : Bool) (f : VOps)
  | vmulh (u : Bool) (f : VOps)
  | vmad (m : MadMode) (f : VOps)
  | vdiv (u rem : Bool) (f : VOps)
  | vand (inv : Bool) (f : VOps)
  | vor (inv : Bool) (f : VOps)
  | vxor (inv : Bool) (f : VOps)
  | vshl (pk : Bool) (f : VOps)
  | vshr (u pk : Bool) (f : VOps)
  | vmin (u pk : Bool) (f : VOps)
  | vmax (u pk : Bool) (f : VOps)
  | vcmp (c : VCond) (u : Bool) (d a b : Operand) (x : Ext)
  | vsel (d a b c : Operand) (x : Ext)
  | vmov (f : VOps)
  | vfadd (fmt : FFmt) (rm : RM) (f : VOps)
  | vfsub (fmt : FFmt) (rm : RM) (f : VOps)
  | vfmul (fmt : FFmt) (rm : RM) (f : VOps)
  | vfma (fmt : FFmt) (np nc : Bool) (rm : RM) (f : VOps)
  | vfmin (fmt : FFmt) (nan : Bool) (f : VOps)
  | vfmax (fmt : FFmt) (nan : Bool) (f : VOps)
  | vfcmp (c : FCond) (d a b : Operand) (x : Ext)
  | vfdiv (rm : RM) (f : VOps)
  | vfsqrt (rm : RM) (f : VOps)
  | vsf (fn : SpecialFn) (f : VOps)
  | vflag (f : VflagForm) (l : Lit)
  | vclass (src : ClassSrc) (f : VOps)
  | vbfe (m : BfeMode) (f : VOps)
  | vbit (op : VbitOp) (f : VOps)
  | vdot4 (tt : DotTypes) (sat : Bool) (f : VOps)
  | vrnd (fmt : FFmt) (rm : RM) (f : VOps)
  -- conversions (R79 to R86)
  | cvt (form : CvtForm) (f : VOps)
  | cvt8 (form : Cvt8Form) (f : VOps)
  | pack (form : PackForm) (f : VOps)
  | unpack (form : UnpackForm) (f : VOps)
  | qgdec (bf16 : Bool) (rm : RM) (f : VOps)
  | qgenc (bf16 : Bool) (f : VOps)
  | qgscl (f : VOps)
  | cvtsat (form : CvtsatForm) (f : VOps)
  -- cross-lane (R144 to R153)
  | shfl (m : ShflMode) (d a b : Operand) (x : Ext)
  | bcast (src : BcastSrc) (d a : Operand) (x : Ext)
  | bcastS (d a b : Operand) (x : Ext)
  | red (op : RedOp) (vec : Bool) (d a : Operand) (x : Ext)
  | scan (op : ScanOp) (excl : Bool) (d a : Operand) (x : Ext)
  | vote (op : VoteOp) (d a : Operand) (x : Ext)
  | compact (exp : Bool) (d a c : Operand) (x : Ext)
  | lmap (f : LmapForm) (d : Operand) (x : Ext)
  | lnstat (op : LnstatOp) (d : Operand) (l : Lit)
  -- matrix and tensor table (R173 to R186)
  | tdef (g : Bool) (d a b : Operand) (x : Ext)
  | tfree (a : Operand) (x : Ext)
  | tqry (f : TqryForm) (d a : Operand) (l : Lit)
  | mma (z : Bool) (a b c : Operand) (n : BitVec 4) (t : BitVec 3) (l : Lit)
  | mzero (t : BitVec 3) (l : Lit)
  | mload (a c : Operand) (n : BitVec 4) (t : BitVec 3) (l : Lit)
  | mstore (rm : RM) (a c : Operand) (n : BitVec 4) (t : BitVec 3) (l : Lit)
  | mcorr (part1 cb : Bool) (d a : Operand) (t : BitVec 3) (l : Lit)
  | mstat (clr : Bool) (d : Operand) (t : BitVec 3) (l : Lit)
  | msig (d : Operand) (t : BitVec 3) (l : Lit)
  | swfence (f : SwfenceForm) (x : Ext)
  -- memory (R212 to R224)
  | ld (f : MemF)
  | st (f : MemF)
  | ldv (f : MemF)
  | stv (f : MemF)
  | wait (n : BitVec 4) (k : BitVec 8) (l : Lit)
  | waitAll (l : Lit)
  | actrRead (d : Operand) (n : BitVec 4) (l : Lit)
  | actrMask (d : Operand) (l : Lit)
  | pref (perLane : Bool) (a b : Operand) (scale : Bool) (hint : Hint) (disp : BitVec 10) (l : Lit)
  | zfill (space : Space) (a b : Operand) (sem : Sem) (scope : Scope) (hint : Hint) (n : BitVec 4) (disp : BitVec 10) (l : Lit)
  | gwin (d a b : Operand) (l : Lit)
  -- copy and collective (R244 to R256)
  | cpy (dsp ssp : Space) (twoD : Bool) (f : CopyF)
  | cpyt (gmc : Option Operand) (f : CopyF)
  | qfence (k : BitVec 8) (l : Lit)
  | cstat (f : CstatForm) (d : Operand) (l : Lit)
  | coll (lspace : Bool) (a : Operand) (slot : BitVec 3) (l : Lit)
  | collwt (d : Operand) (slot : BitVec 3) (l : Lit)
  | collwtTry (d : Operand) (slot : BitVec 3) (l : Lit)
  -- sync (R263 to R282, R299)
  | atom (f : AtomF)
  | fence (k : FenceKind) (scope : Scope) (l : Lit)
  | barInit (bar : BarRef) (a : Operand) (l : Lit)
  | barArrive (d : Operand) (bar : BarRef) (l : Lit)
  | barArriveNw (d : Operand) (bar : BarRef) (l : Lit)
  | barArriveDefer (d : Operand) (bar : BarRef) (queue : BitVec 3) (l : Lit)
  | barWait (bar : BarRef) (a : Operand) (l : Lit)
  | barStat (d : Operand) (bar : BarRef) (l : Lit)
  | barStatExp (d : Operand) (bar : BarRef) (l : Lit)
  | qopDef (q : BitVec 5) (a b : Operand) (l : Lit)
  | qopPush (q : BitVec 5) (a b : Operand) (l : Lit)
  | qopPop (d : Operand) (q : BitVec 5) (l : Lit)
  | qopTrypush (d : Operand) (q : BitVec 5) (a b : Operand) (l : Lit)
  | qopTrypop (d : Operand) (q : BitVec 5) (l : Lit)
  | qopStat (d : Operand) (q : BitVec 5) (l : Lit)
  | qopStatCfg (d : Operand) (q : BitVec 5) (l : Lit)
  | evw (e : BitVec 8) (a : Operand) (l : Lit)
  | evwTry (d : Operand) (e : BitVec 8) (a : Operand) (l : Lit)
  | evwStat (d : Operand) (e : BitVec 8) (l : Lit)
  | evwClr (d : Operand) (e : BitVec 8) (l : Lit)
  -- launch and doorbell (R319, R371)
  | spawn (lspace : Bool) (a b : Operand) (l : Lit)
  | spawnTry (lspace : Bool) (d a b : Operand) (l : Lit)
  | launch (lspace : Bool) (d a : Operand) (l : Lit)
  | dbell (w64 team : Bool) (a b : Operand) (x : Ext)
  -- completions of split-phase, engine and copy operations
  | loadComplete (op : Nat)
  | storeComplete (op : Nat)
  | storeBufferWriteback (core line : Nat)
  | remoteSAccess (op : Nat)
  | asyncFault (group : Nat)
  | atomicPerform (op : Nat)
  | engineOpStart (core : Nat)
  | engineOpComplete (core : Nat)
  | copyComplete (id : Nat)
  | copyPageFault (id : Nat)
  | copyResume (f : CopyService)
  | deferredArrival (team idx : Nat)
  | barrierWaiterRelease (group : Nat)
  | collStep (team slot fromRank : Nat)
  | collStepFail (team slot fromRank : Nat)
  | collTimeout (team slot rank : Nat)
  | collComplete (team slot : Nat)
  -- discard, resumption, event barriers, scheduler
  | groupDiscard (group : Nat)
  | recordResume (group : Nat)
  | eventWrite (e : BitVec 8) (src : EventSource)
  | evwWaiterRelease (e : BitVec 8)
  | schedulerStep
  | forwardProgressExpiry (core : Nat)
  | gangSwapOut (gang : Nat)
  | gangSwapIn (gang die origin : Nat)
  | gridTakeUp (grid : Nat)
  | gridCompletion (grid : Nat)
  | termination (grid : Nat) (code : BitVec 16)
  | workQueueTake (wq : Nat)
  | kick (i : BitVec 12)
  | queueReread (slot : Nat)
  | depPacketRelease (slot : Nat)
  | queueMap (queue : Nat)
  | queueIdleExpiry (slot : Nat)
  -- faults, firmware and debug
  | faultRecordEnqueue (core : Nat)
  | pageFaultService (group : Nat) (act : PageService)
  | tlbInvalidate (ctx : Nat) (f : Invalidation)
  | debugRelease (group : Nat) (single : Bool)
  | firmwareStop (group : Nat)
  | debugRegisterWrite (group : Nat) (t : DebugTarget) (value : DWord)
  | illegalStateCheck (core : Nat)
  | clusterDrainResume (cluster : Nat) (tableOk : Bool)
  | packageSchedulerIllegal
  -- HBM4E and links
  | refreshSlot (pch : Nat)
  | refreshEnd (pch : Nat)
  | hbmAccess (pch bank : Nat) (f : StackFlit)
  | stackCriticalTemp (stack : Nat)
  | stackResume (stack : Nat)
  | memoryStallEvent (stack : Nat)
  | thojanFlowControl (port : Nat) (room : Nat)
  | flitReceive (f : Flit)
  | linkRetrain (port : Nat) (ok : Bool)
  | stackLinkTagFail (stack : Nat) (retrainOk : Bool)
  | keySwitch (stack : Nat)
  | keySlotRetire (stack : Nat)
  | stackOutOfService (stack : Nat)
  -- root complex and devices
  | endpointMemoryRequest (r : EpRequest)
  | endpointAtomicop (who : Requester) (translated : Bool) (op : EpAtomic) (bytes : Nat) (addr : DWord) (c d : DWord) (tag : Nat)
  | translationRequest (who : Requester) (addr : DWord) (tag : Nat)
  | pageRequest (who : Requester) (addr : DWord) (write : Bool) (prg : Nat) (last : Bool)
  | pageRequestGroupResponse (who : Requester) (prg : Nat) (pages : List Nat)
  | atsInvalidate (ctx va : Nat)
  | invalidateCompletion (ch : Nat)
  | invalidateTimeout (ch : Nat)
  | flrComplete (ch : Nat)
  | endpointCompletion (op lane : Nat) (ok : Bool) (data : List Byte)
  | completionTimeout (op lane : Nat)
  | tailstockSend (die : Nat)
  | portDown (port : Nat)
  | sandingPass (ctx unit : Nat) (key : Nat) (sizeCode : BitVec 2) (owner : BitVec 8) (readBackOk : Bool)
  -- caliper, power, registers
  | caliperReplay (id : Nat) (crc : Word)
  | caliperVerdict (id : Nat)
  | caliperTimeout (id : Nat)
  | powerLimitStep (watts : Nat)
  | dieCriticalTemp (die : Nat)
  | dieTempResume (die : Nat)
  | chuck0Read
  | registerWrite (r : RootReg) (v : Word)
  | moduleReset (slotAOk slotBOk trainOk : Bool)
  -- management interface
  | managementMessage (session : Nat) (tagOk : Bool) (counter : Nat)
  | sessionIdleTimeout (session : Nat)
  | hello (share : List Byte) (nonce : SeqBytes)
  | auth (session : Nat) (p : Principal) (sig : SeqBytes)
  | cert
  | operatorSet (session : Option MgmtReq) (key : SeqBytes)
  | evidence (r : MgmtReq) (nonce : List Byte)
  | measure (r : MgmtReq) (mr : BitVec 4) (item : List Byte)
  | receiptCheck (r : MgmtReq) (receipt : List Byte)
  | ownerRegister (r : MgmtReq) (k : BitVec 8) (key : List Byte)
  | ownerInstall (r : MgmtReq) (k : BitVec 8)
  | ownerErase (r : MgmtReq) (k : BitVec 8)
  | contextCreate (r : MgmtReq) (owner : BitVec 8) (quota : Nat) (sizes : TableSizes) (dbbase report cap : Nat)
  | contextDestroy (r : MgmtReq) (ctx : Nat)
  | map (r : MgmtReq) (ctx : Nat) (m : MapReq)
  | channelBind (r : MgmtReq) (ch : Nat) (entry : DWord)
  | channelRetire (r : MgmtReq) (ch : Nat)
  | eventBind (r : MgmtReq) (e : BitVec 8) (ctx : Nat)
  | wqBind (r : MgmtReq) (wq ctx size : Nat)
  | queueCreate (r : MgmtReq) (ctx : Nat) (qcb : List Byte)
  | powerSet (r : MgmtReq) (v : Word)
  | caliperSet (r : MgmtReq) (v : Word)
  | outOfService (r : MgmtReq) (u : Unit')
  | sysreqServiceComplete (group : Nat)
  | reportRead (r : MgmtReq)
  | imageWrite (r : MgmtReq) (image : ImageChunk)
  | reset (r : MgmtReq)
  | unknownCommand (r : MgmtReq) (cmd : BitVec 16)
  -- system cores, firmware, power
  | systemCoreAccess (a : CoreAccess)
  | firmwarePreEmption (gang : Nat)
  | logRead (r : MgmtReq) (sel : LogSel)
  | powerLoss
  | endpointUnsupportedRequest (who : Requester) (tag : Nat)
  | intxMessage (who : Requester)
  | i3cDynamicAddressAssignment (addr : BitVec 7)
  | mctpEndpointIdAssignment (eid : Byte)
  deriving DecidableEq, Repr

end Sys2Proof
end

