-- ==== Sys2Proof/Config.lean ====
section
/-! DEFINITION. What the manual leaves to the part or leaves open: every value here is an opaque constant without a body,
so that nothing can prove one of them (notes/assumptions name each). -/

namespace Sys2Proof.Config

/-- A fresh free value of 64 bits, drawn by the counter `State.fresh` (log 11). -/
opaque freeBits : Nat → DWord

/-- A fresh free choice between two allowed behaviours (log 11). -/
opaque freeChoice : Nat → Bool

/-- Cycles beyond the issue time that pass at an issue; timing is out of the model (log 3). -/
opaque stall : Nat → Nat

/-- Which of the two FP32 neighbours VSF delivers: `true` is the upper one in magnitude (R136, log 12). -/
opaque sfUpper : SpecialFn → Word → Bool

/-- The magnitude bits of the FP32 value just below the exact value of EXP2, LOG2, SINPI, COSPI, TANH or SIGMOID, in
magnitude, should the model's fraction of 400 bits leave more than one possible (R136, log 12). -/
opaque sfBelow : SpecialFn → Word → Nat

/-- What a read of another package's memory or of a device register delivers: drawn by `State.fresh` and the physical key
(log 17, log 18). -/
opaque remoteByte : Nat → Nat → Byte

/-- Whether an engine or copy read of a word that changed while the operation was in flight takes the old one: drawn by
`State.fresh` and the word (R171, R188). -/
opaque readsOld : Nat → Nat → Bool

/-- The pseudo-channel (stack × 65,536 + its number), bank and row of a physical address of the HBM tier (log 14). -/
opaque hbmPlace : Nat → Nat × Nat × Nat

/-- The compute die (0 to 3) whose quarter of the second tier holds a physical address (R12, log 14). -/
opaque lpddrDie : Nat → Nat

/-- The number of this package in its load-store domain (R230, R250, log 22). -/
opaque packageNumber : Nat

/-- The root port (0 to 15) that owns an address of the endpoint window as firmware assigns the BARs at boot (R372, R376, log 23). -/
opaque portOf : Nat → Nat

/-- The CRC of a flit: of its sequence number, its number from end to end, and its bytes (R257, log 17). -/
opaque flitCrc : Nat → Nat → List Byte → Word

/-- SHA-256 of a string of bytes, as 32 bytes (R388, log 16). -/
opaque sha256 : List Byte → DWord × DWord × DWord × DWord

/-- The HMAC-SHA-256 tag of a message under the key generated at a boot, as 32 bytes (R386, log 16). -/
opaque hmac : Nat → List Byte → DWord × DWord × DWord × DWord

/-- Whether an Ed25519 signature of a message verifies under a public key (R396, log 16). -/
opaque ed25519Ok : List Byte → List Byte → List Byte → Bool

/-- The image with which a slot of the flash left the factory (R376, log 16). -/
opaque factoryImage : Bool → List Byte

/-- The AES-256 key of a direction that HKDF-SHA-256 derives from a session's secret and transcript (R396, log 16). -/
opaque sessionKey : Nat → List Byte → Bool → List Byte

/-- The bytes of an LMS signature of a message made with one leaf of the identity key (R390, log 16). -/
opaque lmsSign : Nat → List Byte → List Byte

/-- The bytes a device-made public value or certificate holds (R390, R396, log 16). -/
opaque deviceBytes : Nat → List Byte

/-- What a read under a key other than the one a line was written under delivers (R381, log 10). -/
opaque wrongKeyByte : Nat → Nat → Nat → Byte → Byte

end Sys2Proof.Config
end

