-- ==== Sys2Proof/Machine/Bits.lean ====
section
/-! DEFINITION. Helpers over bits that many instructions share: counts, reversals, fields, saturation (R58, R99, R127). -/

namespace Sys2Proof.Machine

/-- Number of set bits among the low `n` bits of `x` (POPC). -/
def popcN : Nat → Nat → Nat
  | 0, _ => 0
  | n + 1, x => x % 2 + popcN n (x / 2)

/-- Trailing zero bits of the low `n` bits of `x`; `n` if there is no set bit (CTZ). -/
def ctzN : Nat → Nat → Nat
  | 0, _ => 0
  | n + 1, x => if x % 2 = 1 then 0 else 1 + ctzN n (x / 2)

/-- Leading zero bits of an `n`-bit `x` (CLZ). -/
def clzN (n x : Nat) : Nat := if x % 2 ^ n = 0 then n else n - 1 - Nat.log2 (x % 2 ^ n)

/-- The low `n` bits of `x` in reverse order (BREV). -/
def brevN : Nat → Nat → Nat
  | 0, _ => 0
  | n + 1, x => (x % 2) * 2 ^ n + brevN n (x / 2)

/-- The low `n` bytes of `x` in reverse order (BSWAP). -/
def bswapN : Nat → Nat → Nat
  | 0, _ => 0
  | n + 1, x => (x % 256) * 256 ^ n + bswapN n (x / 256)

/-- Zext(x[p+w-1:p], w) (R99, R127). -/
def bfeU {n : Nat} (x : BitVec n) (p w : Nat) : BitVec n := BitVec.ofNat n (x.toNat / 2 ^ p % 2 ^ w)

/-- Sext(x[p+w-1:p], w); 0 if w = 0 (R99, R127). -/
def bfeI {n : Nat} (x : BitVec n) (p w : Nat) : BitVec n :=
  if w = 0 then 0#n
  else
    let f := x.toNat / 2 ^ p % 2 ^ w
    if f < 2 ^ (w - 1) then BitVec.ofNat n f else BitVec.ofInt n ((f : Int) - 2 ^ w)

/-- `d` with bits [p+w-1:p] replaced by x[w-1:0] (R99, R127). -/
def bfi {n : Nat} (d x : BitVec n) (p w : Nat) : BitVec n :=
  let m : BitVec n := BitVec.ofNat n ((2 ^ w - 1) * 2 ^ p)
  (d &&& ~~~m) ||| ((x <<< p) &&& m)

/-- Sat(x, n) of R58: the signed n-bit number nearest x. -/
def satS (x : Int) (n : Nat) : Int := min (max x (-(2 ^ (n - 1) : Int))) (2 ^ (n - 1) - 1)

/-- Unsigned saturation of R58. -/
def satU (x : Int) (n : Nat) : Int := min (max x 0) (2 ^ n - 1)

/-- Integer quotient and remainder of R73 at width n, with the flags IDZ and IOV. -/
def divRem {n : Nat} (unsigned : Bool) (x y : BitVec n) : BitVec n × BitVec n × Bool × Bool :=
  if y = 0#n then (BitVec.allOnes n, x, true, false)
  else if unsigned then (x / y, x % y, false, false)
  else if x.toInt = -(2 ^ (n - 1) : Int) ∧ y.toInt = -1 then (x, 0#n, false, true)
  else (BitVec.ofInt n (x.toInt.tdiv y.toInt), BitVec.ofInt n (x.toInt.tmod y.toInt), false, false)

/-- The low half (`false`) or high half (`true`) of a packed element (R71). -/
def half (x : Word) (hi : Bool) : Half := if hi then x.extractLsb' 16 16 else x.extractLsb' 0 16

/-- Two halves as one element: element 0 in [15:0] (R71). -/
def pack16 (lo hi : Half) : Word := hi ++ lo

/-- The 64-bit value of a register pair: the even register holds the low word (R42, R94). -/
def pair (lo hi : Word) : DWord := hi ++ lo

/-- The words of a 64-bit value. -/
def loWord (x : DWord) : Word := x.extractLsb' 0 32
def hiWord (x : DWord) : Word := x.extractLsb' 32 32

/-- Little-endian value of a list of bytes. -/
def leNat : List Byte → Nat
  | [] => 0
  | b :: bs => b.toNat + 256 * leNat bs

/-- The `n` little-endian bytes of a number. -/
def leBytes : Nat → Nat → List Byte
  | 0, _ => []
  | n + 1, x => BitVec.ofNat 8 x :: leBytes n (x / 256)

/-- Bits [hi:lo] of a number, by lowest bit and width. -/
def bitsAt (x lo w : Nat) : Nat := x / 2 ^ lo % 2 ^ w

/-- Bit `i` of a number. -/
def bitAt (x i : Nat) : Bool := x / 2 ^ i % 2 = 1

end Sys2Proof.Machine
end

