-- ==== Sys2Proof/Machine/Float.lean ====
section
/-! DEFINITION. Floating formats, exact real results and their one rounding (R67 to R71), and the QG4 codebook (R74). -/

namespace Sys2Proof.Machine

/-- A floating format: exponent and fraction widths; E4M3 has no infinities (R67). -/
structure Fmt where
  ebits : Nat
  mbits : Nat
  inf : Bool
  deriving DecidableEq, Repr

def fp32 : Fmt := ⟨8, 23, true⟩
def fp16 : Fmt := ⟨5, 10, true⟩
def bf16 : Fmt := ⟨8, 7, true⟩
def e4m3 : Fmt := ⟨4, 3, false⟩
def e5m2 : Fmt := ⟨5, 2, true⟩

namespace Fmt
/-- Bits below the sign. -/
def mag (f : Fmt) : Nat := f.ebits + f.mbits
/-- Exponent bias (R67). -/
def bias (f : Fmt) : Nat := 2 ^ (f.ebits - 1) - 1
/-- The sign bit of an encoding. -/
def signBit (f : Fmt) : Nat := 2 ^ f.mag
/-- The magnitude bits of infinity; of the canonical NaN in E4M3 (R70). -/
def infBits (f : Fmt) : Nat := if f.inf then (2 ^ f.ebits - 1) * 2 ^ f.mbits else 2 ^ f.mag - 1
/-- The magnitude bits of the largest finite value (R67). -/
def maxBits (f : Fmt) : Nat := f.infBits - 1
/-- The canonical NaN (R68). -/
def nan (f : Fmt) : Nat := if f.inf then f.infBits + 2 ^ (f.mbits - 1) else 2 ^ f.mag - 1
/-- The exponent of the smallest subnormal: every finite value is a multiple of two to this. -/
def qmin (f : Fmt) : Int := 1 - (f.bias : Int) - (f.mbits : Int)
end Fmt

/-- A floating value read from its encoding; a finite one is (-1)^neg × m × 2^e. -/
inductive FVal where
  | nan (signalling : Bool)
  | inf (neg : Bool)
  | fin (neg : Bool) (m : Nat) (e : Int)
  deriving DecidableEq, Repr

/-- Read an encoding (R67, R68): the 8-bit formats have quiet NaNs only. -/
def Fmt.decode (f : Fmt) (x : Nat) : FVal :=
  let neg := bitAt x f.mag
  let mag := x % 2 ^ f.mag
  let ex := mag / 2 ^ f.mbits
  let fr := mag % 2 ^ f.mbits
  if mag = f.infBits ∧ f.inf then .inf neg
  else if mag > f.maxBits then .nan (f.mbits > 3 ∧ fr < 2 ^ (f.mbits - 1))
  else if ex = 0 then .fin neg fr f.qmin
  else .fin neg (2 ^ f.mbits + fr) (f.qmin + (ex : Int) - 1)

/-- An exact real: (-1)^neg × num / den, den positive. -/
structure Real' where
  neg : Bool
  num : Nat
  den : Nat
  deriving DecidableEq, Repr

/-- `m × 2^e` as a fraction. -/
def scaled (neg : Bool) (m : Nat) (e : Int) : Real' :=
  if e < 0 then ⟨neg, m, 2 ^ e.natAbs⟩ else ⟨neg, m * 2 ^ e.natAbs, 1⟩

/-- Flags of a lane operation in the bit order of `vflags` (R58). -/
abbrev Flags := BitVec 7
def flNone : Flags := 0
def flNV : Flags := 0x01
def flDZ : Flags := 0x02
def flOF : Flags := 0x04
def flUF : Flags := 0x08
def flNX : Flags := 0x10
def flIDZ : Flags := 0x20
def flIOV : Flags := 0x40

/-- A flag when a condition holds. -/
def flIf (c : Bool) (f : Flags) : Flags := if c then f else 0

/-- Whether a magnitude n + r/d (0 ≤ r < d) rounds up in a mode (R70). -/
def roundsUp (rm : RM) (neg : Bool) (n r d : Nat) : Bool :=
  match rm with
  | .rne => decide (d < 2 * r) || (decide (2 * r = d) && decide (n % 2 = 1))
  | .rtz => false
  | .rup => decide (r ≠ 0) && !neg
  | .rdn => decide (r ≠ 0) && neg

/-- Round num/den to a multiple of 2^q: the multiple, and whether anything was lost. -/
def roundTo (rm : RM) (neg : Bool) (num den : Nat) (q : Int) : Nat × Bool :=
  let N := if q < 0 then num * 2 ^ q.natAbs else num
  let D := if q < 0 then den else den * 2 ^ q.natAbs
  let n := N / D
  let r := N % D
  (if roundsUp rm neg n r D then n + 1 else n, r ≠ 0)

/-- floor(log2 (num/den)) for positive num and den. -/
def floorLog2 (num den : Nat) : Int :=
  let e : Int := (Nat.log2 num : Int) - (Nat.log2 den : Int)
  let ge : Bool := if e < 0 then decide (den ≤ num * 2 ^ e.natAbs) else decide (den * 2 ^ e.natAbs ≤ num)
  if ge then e else e - 1

/-- RoundFP of R58, R69, R70: the encoding nearest the exact real in the mode, and the flags OF, UF and NX. -/
def roundFP (f : Fmt) (rm : RM) (x : Real') : Nat × Flags :=
  let sign := if x.neg then f.signBit else 0
  if x.num = 0 then (sign, 0)
  else
    let e := floorLog2 x.num x.den
    let qu := e - (f.mbits : Int)
    let q := max qu f.qmin
    let u := roundTo rm x.neg x.num x.den qu
    let b := roundTo rm x.neg x.num x.den q
    let bits := b.1 + (q - f.qmin).toNat * 2 ^ f.mbits
    if f.maxBits < bits then
      let toInf := match rm with
        | .rne => true | .rtz => false | .rup => !x.neg | .rdn => x.neg
      let m := if toInf then (if f.inf then sign + f.infBits else f.nan) else sign + f.maxBits
      (m, flOF ||| flNX)
    else
      -- tiny: the result rounded with unbounded exponent lies below 2^emin, emin = qmin + mbits
      let tiny : Bool := decide (qu < f.qmin) &&
        decide (u.1 < 2 ^ (f.mbits + (f.qmin - qu).toNat))
      (sign + bits, flIf (tiny && b.2) flUF ||| flIf b.2 flNX)

/-- The flag of a NaN source (R68). -/
def nvOf : FVal → Flags
  | .nan true => flNV
  | _ => 0

/-- Whether a value is NaN. -/
def FVal.isNan : FVal → Bool
  | .nan _ => true
  | _ => false

/-- The encoding of an infinity; E4M3 delivers its NaN (R70). -/
def Fmt.encInf (f : Fmt) (neg : Bool) : Nat :=
  if f.inf then (if neg then f.signBit else 0) + f.infBits else f.nan

/-- The encoding of a zero. -/
def Fmt.encZero (f : Fmt) (neg : Bool) : Nat := if neg then f.signBit else 0

/-- The signed integer numerators of a sum over a common denominator. -/
def addReal (x y : Real') (rm : RM) : Real' :=
  let a : Int := (if x.neg then -(x.num : Int) else x.num) * y.den
  let b : Int := (if y.neg then -(y.num : Int) else y.num) * x.den
  let s := a + b
  let neg := if s = 0 then (if x.neg = y.neg then x.neg else rm = .rdn) else decide (s < 0)
  ⟨neg, s.natAbs, x.den * y.den⟩

def mulReal (x y : Real') : Real' := ⟨x.neg != y.neg, x.num * y.num, x.den * y.den⟩

/-- a + b rounded once (R131): NaN, infinities and exact zeros as R68 to R70 say. -/
def fAdd (f : Fmt) (rm : RM) (a b : FVal) : Nat × Flags :=
  match a, b with
  | .nan _, _ => (f.nan, nvOf a ||| nvOf b)
  | _, .nan _ => (f.nan, nvOf a ||| nvOf b)
  | .inf s, .inf t => if s = t then (f.encInf s, 0) else (f.nan, flNV)
  | .inf s, _ => (f.encInf s, 0)
  | _, .inf t => (f.encInf t, 0)
  | .fin s m e, .fin t n g => roundFP f rm (addReal (scaled s m e) (scaled t n g) rm)

/-- The negation of a value (a NaN stays). -/
def FVal.negate : FVal → FVal
  | .nan s => .nan s
  | .inf s => .inf (!s)
  | .fin s m e => .fin (!s) m e

/-- a × b rounded once (R131). -/
def fMul (f : Fmt) (rm : RM) (a b : FVal) : Nat × Flags :=
  match a, b with
  | .nan _, _ => (f.nan, nvOf a ||| nvOf b)
  | _, .nan _ => (f.nan, nvOf a ||| nvOf b)
  | .inf s, .inf t => (f.encInf (s != t), 0)
  | .inf s, .fin t n _ => if n = 0 then (f.nan, flNV) else (f.encInf (s != t), 0)
  | .fin s m _, .inf t => if m = 0 then (f.nan, flNV) else (f.encInf (s != t), 0)
  | .fin s m e, .fin t n g => roundFP f rm (mulReal (scaled s m e) (scaled t n g))

/-- ±(a × b) ± c rounded once (R132). -/
def fFma (f : Fmt) (rm : RM) (np nc : Bool) (a b c : FVal) : Nat × Flags :=
  let bad : Bool := match a, b with
    | .inf _, .fin _ n _ => n = 0
    | .fin _ m _, .inf _ => m = 0
    | _, _ => false
  let sig := nvOf a ||| nvOf b ||| nvOf c
  if bad then (f.nan, flNV)
  else if a.isNan || b.isNan || c.isNan then (f.nan, sig)
  else
    let q := if nc then c.negate else c
    match a, b, q with
    | .fin s m e, .fin t n g, .fin u k h =>
      let p := mulReal (scaled s m e) (scaled t n g)
      roundFP f rm (addReal { p with neg := p.neg != np } (scaled u k h) rm)
    | .fin _ _ _, .fin _ _ _, .inf u => (f.encInf u, 0)
    | x, y, z =>
      let sg : FVal → Bool := fun v => match v with
        | .nan _ => false | .inf s => s | .fin s _ _ => s
      let ps := (sg x != sg y) != np
      match z with
      | .inf u => if u = ps then (f.encInf u, 0) else (f.nan, flNV)
      | _ => (f.encInf ps, 0)

/-- Order of two finite values or infinities as (sign, magnitude) integers over one scale; −0 equals +0 here. -/
def FVal.key : FVal → Int × Int × Nat
  | .nan _ => (0, 0, 0)
  | .inf s => (if s then -2 else 2, 0, 0)
  | .fin s m e => (if m = 0 then 0 else if s then -1 else 1, e, m)

/-- a < b for values that are not NaN; zeros are equal. -/
def FVal.lt (a b : FVal) : Bool :=
  let (ca, ea, ma) := a.key
  let (cb, eb, mb) := b.key
  if ca ≠ cb then ca < cb
  else if ca = 1 ∨ ca = -1 then
    let d := ea - eb
    let x := if 0 ≤ d then ma * 2 ^ d.natAbs else ma
    let y := if 0 ≤ d then mb else mb * 2 ^ d.natAbs
    if ca = 1 then x < y else y < x
  else false

/-- a = b for values that are not NaN; zeros are equal. -/
def FVal.eqv (a b : FVal) : Bool := !(a.lt b) && !(b.lt a)

/-- Whether a value is a zero of the given sign. -/
def FVal.isZero : FVal → Option Bool
  | .fin s 0 _ => some s
  | _ => none

/-- VFMIN and VFMAX of R133 on encodings `x`, `y`; −0 is taken as less than +0. -/
def fMinMax (f : Fmt) (isMax nanProp : Bool) (x y : Nat) : Nat × Flags :=
  let a := f.decode x
  let b := f.decode y
  let fl := nvOf a ||| nvOf b
  if a.isNan && b.isNan then (f.nan, fl)
  else if a.isNan then (if nanProp then f.nan else y, fl)
  else if b.isNan then (if nanProp then f.nan else x, fl)
  else
    let less := a.lt b || (a.eqv b && a.isZero == some true && b.isZero == some false)
    (if less != isMax then x else y, fl)

/-- Integer square root by bits: the largest r below 2^k with r² ≤ n. -/
def isqrt : Nat → Nat → Nat → Nat
  | 0, _, r => r
  | k + 1, n, r => let t := r + 2 ^ k; isqrt k n (if t * t ≤ n then t else r)

/-- √(num/den) as a fraction with 2 sticky bits below 2^-160: it rounds as the exact root does in every format here. -/
def sqrtReal (num den : Nat) : Real' :=
  let n := num * 2 ^ 320 / den
  let r := isqrt (Nat.log2 n / 2 + 1) n 0
  let exact := decide (r * r * den = num * 2 ^ 320)
  ⟨false, 4 * r + (if exact then 0 else 1), 4 * 2 ^ 160⟩

/-- VFDIV (R135). -/
def fDiv (f : Fmt) (rm : RM) (a b : FVal) : Nat × Flags :=
  match a, b with
  | .nan _, _ => (f.nan, nvOf a ||| nvOf b)
  | _, .nan _ => (f.nan, nvOf a ||| nvOf b)
  | .inf _, .inf _ => (f.nan, flNV)
  | .inf s, .fin t _ _ => (f.encInf (s != t), 0)
  | .fin s _ _, .inf t => (f.encZero (s != t), 0)
  | .fin s m e, .fin t n g =>
    if n = 0 then (if m = 0 then (f.nan, flNV) else (f.encInf (s != t), flDZ))
    else
      let x := scaled s m e
      let y := scaled t n g
      roundFP f rm ⟨s != t, x.num * y.den, x.den * y.num⟩

/-- VFSQRT (R135). -/
def fSqrt (f : Fmt) (rm : RM) (a : FVal) : Nat × Flags :=
  match a with
  | .nan _ => (f.nan, nvOf a)
  | .inf s => if s then (f.nan, flNV) else (f.encInf false, 0)
  | .fin s m e =>
    if m = 0 then (f.encZero s, 0)
    else if s then (f.nan, flNV)
    else let x := scaled false m e; roundFP f rm (sqrtReal x.num x.den)

/-- VRND (R138): an integral value in the same format; NX when the result differs. -/
def fRnd (f : Fmt) (rm : RM) (x : Nat) : Nat × Flags :=
  match f.decode x with
  | .nan s => (f.nan, flIf s flNV)
  | .inf _ => (x, 0)
  | .fin s m e =>
    let r := scaled s m e
    let n := roundTo rm s r.num r.den 0
    ((roundFP f .rne ⟨s, n.1, 1⟩).1, flIf n.2 flNX)

/-- Convert a value to a format as CVT does (R79). -/
def fCvt (f : Fmt) (rm : RM) (v : FVal) : Nat × Flags :=
  match v with
  | .nan s => (f.nan, flIf s flNV)
  | .inf s => (f.encInf s, 0)
  | .fin s m e => roundFP f rm (scaled s m e)

/-- VCLASS (R137): the one-hot class word of an encoding. -/
def fClass (f : Fmt) (x : Nat) : Nat :=
  match f.decode x with
  | .inf true => 1
  | .inf false => 128
  | .nan true => 256
  | .nan false => 512
  | .fin s m _ =>
    if m = 0 then (if s then 8 else 16)
    else if m < 2 ^ f.mbits then (if s then 4 else 32)
    else (if s then 2 else 64)

/-- Conversion to an integer with saturation (R83): out of range sets NV and not NX. -/
def fToInt (rm : RM) (lo hi : Int) (v : FVal) : Int × Flags :=
  match v with
  | .nan _ => (0, flNV)
  | .inf s => (if s then lo else hi, flNV)
  | .fin s m e =>
    let r := scaled s m e
    let n := roundTo rm s r.num r.den 0
    let i : Int := if s then -(n.1 : Int) else n.1
    if i < lo then (lo, flNV) else if hi < i then (hi, flNV) else (i, flIf n.2 flNX)

/-! ### QG4 (R74 to R76) -/

/-- Image(i) of R74. -/
def qgImage (i : Nat) : Int :=
  match i % 16 with
  | 0 => -31 | 1 => -22 | 2 => -17 | 3 => -13 | 4 => -9 | 5 => -6 | 6 => -3 | 7 => -1
  | 8 => 0 | 9 => 2 | 10 => 4 | 11 => 7 | 12 => 10 | 13 => 14 | 14 => 19 | _ => 31

/-- The index whose image is nearest num/den (den positive), a tie going to the even index (R85). -/
def qgNearest (num : Int) (den : Nat) : Nat :=
  let dist : Nat → Nat := fun i => (num - qgImage i * den).natAbs
  (List.range 16).foldl (fun best i =>
    if dist i < dist best then i
    else if dist i = dist best ∧ i % 2 = 0 then i else best) 0

end Sys2Proof.Machine
end

