-- ==== Sys2Proof/Machine/Series.lean ====
section
/-! DEFINITION. The exact values of the special functions that are no rational numbers (R136), to within `fxSlack` units of a
fixed-point fraction of 400 bits: power series over the naturals. -/

namespace Sys2Proof.Machine

/-- One in fixed point. -/
def fxOne : Nat := 2 ^ 200 * 2 ^ 200

/-- A bound on the error of each value below, in units of the last place: every one is a sum of at most 140 terms, each
short of its exact value by less than 2^20 units. -/
def fxSlack : Nat := 2 ^ 40

/-- t + t·x/(n+1) + t·x²/((n+1)(n+2)) + …: with n = 0 and t = 1, e^x. -/
def expSeries (x : Nat) : Nat → Nat → Nat → Nat
  | 0, _, _ => 0
  | k + 1, n, t => t + expSeries x k (n + 1) (t * x / fxOne / (n + 1))

/-- t − t·y/((c+1)(c+2)) + …: with y = x², sin x for c = 1 and t = x, cos x for c = 0 and t = 1. -/
def altSeries (y : Nat) : Nat → Nat → Nat → Nat
  | 0, _, _ => 0
  | k + 1, c, t => t - altSeries y k (c + 2) (t * y / fxOne / ((c + 1) * (c + 2)))

/-- p/c + p·y/(c+2) + …: with y = z², c = 1 and p = z, the area tangent of z. -/
def atanhSeries (y : Nat) : Nat → Nat → Nat → Nat
  | 0, _, _ => 0
  | k + 1, c, p => p / c + atanhSeries y k (c + 2) (p * y / fxOne)

/-- p/c − p/(c+2)·q^-2 + …: with c = 1 and p = 1/q, the arc tangent of 1/q. -/
def atanSeries (q : Nat) : Nat → Nat → Nat → Nat
  | 0, _, _ => 0
  | k + 1, c, p => p / c - atanSeries q k (c + 2) (p / (q * q))

/-- e^x for 0 ≤ x ≤ 1. -/
def fxExp (x : Nat) : Nat := expSeries x 90 0 fxOne

/-- The natural logarithm of num/den, between 1 and 2: twice the area tangent of (num − den)/(num + den). -/
def fxLn (num den : Nat) : Nat :=
  let z := (num - den) * fxOne / (num + den)
  2 * atanhSeries (z * z / fxOne) 135 1 z

def fxLn2 : Nat := fxLn 2 1

/-- π, by Machin's formula. -/
def fxPi : Nat := 16 * atanSeries 5 100 1 (fxOne / 5) - 4 * atanSeries 239 30 1 (fxOne / 239)

/-- log2 of num/den, between 1 and 2. -/
def fxLog2 (num den : Nat) : Nat := fxLn num den * fxOne / fxLn2

/-- 2^(num/den), for a fraction between 0 and 1. -/
def fxExp2 (num den : Nat) : Nat := fxExp (num * fxLn2 / den)

/-- sin(π·num/den), for a fraction between 0 and 1/2. -/
def fxSinPi (num den : Nat) : Nat :=
  if 4 * num ≤ den then
    let x := num * fxPi / den
    altSeries (x * x / fxOne) 45 1 x
  else
    let x := (den - 2 * num) * fxPi / (2 * den)
    altSeries (x * x / fxOne) 45 0 fxOne

/-- e^−(num/den): a fraction of 256 or more gives 0. -/
def fxExpNeg (num den : Nat) : Nat :=
  if 256 * den ≤ num then 0
  else
    let y := num * fxOne / den
    let k := y / fxLn2
    fxOne * fxOne / fxExp (y - k * fxLn2) / 2 ^ k

/-- tanh(num/den). -/
def fxTanh (num den : Nat) : Nat :=
  let q := fxExpNeg (2 * num) den
  (fxOne - q) * fxOne / (fxOne + q)

/-- 1/(1 + e^−x) for x = num/den, or its negative. -/
def fxSigmoid (neg : Bool) (num den : Nat) : Nat :=
  let q := fxExpNeg num den
  (if neg then q else fxOne) * fxOne / (fxOne + q)

end Sys2Proof.Machine
end

