-- ==== Sys2Proof/Machine/Lane.lean ====
section
/-! DEFINITION. What a lane operation computes in one lane from its source elements (R79 to R86, R121 to R138): the
vector and conversion instructions, P halves and sweeps all go through `laneEval`. -/

namespace Sys2Proof.Machine

/-- How a source field is read (R41): not read, as an integer, as one floating element, or as two packed ones. -/
inductive SrcKind where
  | unused
  | int
  | flt (f : Fmt)
  | pk (f : Fmt)
  deriving DecidableEq, Repr

/-- The format of MOD[1:0] (R130) as a source kind. -/
def FFmt.kind : FFmt → SrcKind
  | .f32 => .flt fp32
  | .f16x2 => .pk fp16
  | .bf16x2 => .pk bf16

/-- The element format of MOD[1:0] (R130). -/
def FFmt.fmt : FFmt → Fmt
  | .f32 => fp32
  | .f16x2 => fp16
  | .bf16x2 => bf16

/-- Source format of a CVT form; `none` for an integer source (R79). -/
def CvtForm.src : CvtForm → SrcKind
  | .f32i32 _ | .f32u32 _ => .int
  | .f32f16 | .bf16f16 _ => .flt fp16
  | .f32bf16 | .f16bf16 _ => .flt bf16
  | .f16f32 _ | .bf16f32 _ => .flt fp32

/-- Source format of a CVTSAT form (R83). -/
def CvtsatForm.src : CvtsatForm → SrcKind
  | .i32f32 _ | .u32f32 _ | .i16f32 _ | .u16f32 _ | .i8f32 _ | .u8f32 _ => .flt fp32
  | .i16i32 | .u16i32 | .i8i32 | .u8i32 | .u8u32 => .int

/-- How a lane operation reads A, B and C (R116, R77 and the instruction tables). PACK.H16 and PACK.INS8 move raw bits: their sources are
read as integers (DEDUCED, log 25). -/
def LaneOp.kinds : LaneOp → SrcKind × SrcKind × SrcKind
  | .add _ | .sub _ | .mul _ | .mulh _ | .div _ _ | .and _ | .or _ | .xor _ | .shl _ | .shr _ _ | .min _ _ | .max _ _ =>
    (.int, .int, .unused)
  | .mad _ | .bfe _ | .dot4 _ _ => (.int, .int, .int)
  | .mov | .bit _ => (.int, .unused, .unused)
  | .fadd f _ | .fsub f _ | .fmul f _ | .fmin f _ | .fmax f _ => (FFmt.kind f, FFmt.kind f, .unused)
  | .fma f _ _ _ => (FFmt.kind f, FFmt.kind f, FFmt.kind f)
  | .fdiv _ => (.flt fp32, .flt fp32, .unused)
  | .fsqrt _ | .sf _ => (.flt fp32, .unused, .unused)
  | .rnd f _ => (FFmt.kind f, .unused, .unused)
  | .cls .f32 => (.flt fp32, .unused, .unused)
  | .cls .f16 => (.flt fp16, .unused, .unused)
  | .cls .bf16 => (.flt bf16, .unused, .unused)
  | .cvt f => (CvtForm.src f, .unused, .unused)
  | .cvt8 .f32e4m3 => (.flt e4m3, .unused, .unused)
  | .cvt8 .f32e5m2 => (.flt e5m2, .unused, .unused)
  | .cvt8 _ => (.flt fp32, .unused, .unused)
  | .pack (.f16x2 _) | .pack (.bf16x2 _) => (.flt fp32, .flt fp32, .unused)
  | .pack .h16 | .pack .i16x2sat => (.int, .int, .unused)
  | .pack .ins8 => (.int, .unused, .unused)
  | .unpack .f32f16 => (.pk fp16, .unused, .unused)
  | .unpack .f32bf16 => (.pk bf16, .unused, .unused)
  | .unpack _ => (.int, .unused, .unused)
  | .qgdec _ _ => (.int, .int, .flt fp32)
  | .qgenc false => (.flt fp32, .int, .flt fp32)
  | .qgenc true => (.flt bf16, .int, .flt fp32)
  | .qgscl => (.flt fp32, .flt fp32, .unused)
  | .cvtsat f => (CvtsatForm.src f, .unused, .unused)

/-- Whether the operation reads D as a source (R81, R85, R127). -/
def LaneOp.readsD : LaneOp → Bool
  | .pack .ins8 | .qgenc _ | .bfe .ins => true
  | _ => false

/-- IMM10 bits a conversion uses directly as a position k or n (R77, R81, R82, R84, R85). -/
def LaneOp.immBits : LaneOp → Nat
  | .pack .ins8 => 2
  | .unpack .f32f16 | .unpack .f32bf16 | .unpack .u16 | .unpack .i16 => 1
  | .unpack _ => 2
  | .qgdec _ _ | .qgenc _ => 3
  | _ => 0

/-- The conversion class, opcodes 0x40 to 0x47 (R77). -/
def LaneOp.isConversion : LaneOp → Bool
  | .cvt _ | .cvt8 _ | .pack _ | .unpack _ | .qgdec _ _ | .qgenc _ | .qgscl | .cvtsat _ => true
  | _ => false

/-- The integer vector operations, which CP admits (R54). -/
def LaneOp.isInteger : LaneOp → Bool
  | .add _ | .sub _ | .mul _ | .mulh _ | .mad _ | .and _ | .or _ | .xor _ | .shl _ | .shr _ _ | .min _ _ | .max _ _
  | .mov | .bfe _ | .bit _ => true
  | _ => false

/-- Cycles per beat, k of R113, without the bank penalty. -/
def LaneOp.perBeat : LaneOp → Nat
  | .div _ _ | .fdiv _ | .fsqrt _ => 8
  | .sf _ => 2
  | _ => 1

/-- The result element of one lane and the flags it sets. -/
structure LaneOut where
  val : Word
  flags : Flags
  deriving DecidableEq, Repr

/-- An integer result without flags. -/
def plainOut (x : Word) : LaneOut := ⟨x, 0⟩

/-- A floating result in the low bits (R72). -/
def floatOut (r : Nat × Flags) : LaneOut := ⟨BitVec.ofNat 32 r.1, r.2⟩

/-- Apply a floating operation to every element of the format; flags are ORed (R71). -/
def perElement (f : FFmt) (op : Nat → Nat → Nat → Nat × Flags) (a b c : Word) : LaneOut :=
  match f with
  | .f32 => floatOut (op a.toNat b.toNat c.toNat)
  | _ =>
    let lo := op (half a false).toNat (half b false).toNat (half c false).toNat
    let hi := op (half a true).toNat (half b true).toNat (half c true).toNat
    ⟨pack16 (BitVec.ofNat 16 lo.1) (BitVec.ofNat 16 hi.1), lo.2 ||| hi.2⟩

/-- Apply an integer operation to both halves (R71). -/
def perHalf (op : Half → Half → Half) (a b : Word) : Word :=
  pack16 (op (half a false) (half b false)) (op (half a true) (half b true))

/-- The exact integer a vector integer operation reads from an element. -/
def toIntU {n : Nat} (u : Bool) (x : BitVec n) : Int := if u then x.toNat else x.toInt

/-- x ± y of R121 at any width. -/
def addForm {n : Nat} (m : AddMode) (negate : Bool) (x y : BitVec n) : BitVec n :=
  let e := toIntU m.u x + (if negate then -(toIntU m.u y) else toIntU m.u y)
  if m.sat then BitVec.ofInt n (if m.u then satU e n else satS e n)
  else if negate then x - y else x + y

/-- Smaller or larger (R124). -/
def minMaxForm {n : Nat} (u isMax : Bool) (x y : BitVec n) : BitVec n :=
  if (decide (toIntU u x ≤ toIntU u y)) != isMax then x else y

/-- Shift right of R124. -/
def shrForm {n : Nat} (u : Bool) (x : BitVec n) (k : Nat) : BitVec n := if u then x >>> k else x.sshiftRight k

/-- Byte products of VDOT4 (R129). -/
def dotSum (aU bU : Bool) (a b : Word) : Int :=
  (List.range 4).foldl (fun t i =>
    t + toIntU aU (a.extractLsb' (8 * i) 8) * toIntU bU (b.extractLsb' (8 * i) 8)) 0

/-- `true` when the low `n` bits of `m` hold one set bit: the value is a power of two. -/
def isPow2 (m : Nat) : Bool := m ≠ 0 ∧ 2 ^ Nat.log2 m = m

/-- One of the two magnitudes that bracket an inexact value, `lo` and the next one; the choice is fixed by the source
(R136, log 12). -/
def sfPick (fn : SpecialFn) (x : Word) (neg : Bool) (lo : Nat) (fl : Flags) : LaneOut :=
  let m := if Config.sfUpper fn x then lo + 1 else lo
  ⟨BitVec.ofNat 32 (m + if neg then 2 ^ 31 else 0), fl ||| flNX⟩

/-- As `sfPick`, of a value known to within e/den as num/den, between `lo` and `hi` in any case: where that leaves two
lower neighbours possible, which one it is is a free value between them (R136, log 12). -/
def sfNear (fn : SpecialFn) (x : Word) (neg : Bool) (num den e lo hi : Nat) (fl : Flags) : LaneOut :=
  let l := max lo (roundFP fp32 .rtz ⟨false, num - e, den⟩).1
  let h := min hi (roundFP fp32 .rtz ⟨false, num + e, den⟩).1
  sfPick fn x neg (min (max (Config.sfBelow fn x) l) h) fl

/-- The magnitude bits of a small integer as FP32. -/
def f32OfNat (n : Nat) : Nat := (roundFP fp32 .rne ⟨false, n, 1⟩).1

/-- The magnitude bits of 2^k as FP32, -149 ≤ k ≤ 127. -/
def f32Pow2 (k : Int) : Nat :=
  if k < -126 then 2 ^ (k + 149).toNat else (k + 127).toNat * 2 ^ 23

def signWord (neg : Bool) (m : Nat) : Word := BitVec.ofNat 32 (m + if neg then 2 ^ 31 else 0)

def f32One : Nat := 0x3F800000
def f32Half : Nat := 0x3F000000
def f32Inf : Nat := 0x7F800000
def f32NaN : Nat := 0x7FC00000

/-- VSF (R136) of a finite nonzero source (-1)^s × m × 2^e with bits `x`. -/
def sfFinite (fn : SpecialFn) (x : Word) (s : Bool) (m : Nat) (e : Int) : LaneOut :=
  let r := scaled false m e
  -- integer part, fraction numerator over `r.den`
  let n := r.num / r.den
  let fr := r.num % r.den
  let neighbour (v : Real') : LaneOut :=
    let lo := (roundFP fp32 .rtz { v with neg := false }).1
    let fl := (roundFP fp32 .rne { v with neg := false }).2
    sfPick fn x s lo (fl &&& (flOF ||| flUF))
  match fn with
  | .rcp =>
    let v : Real' := ⟨s, r.den, r.num⟩
    let d := roundFP fp32 .rne v
    if isPow2 m && d.2 = 0 then ⟨BitVec.ofNat 32 d.1, 0⟩ else neighbour v
  | .rsqrt =>
    if s then ⟨BitVec.ofNat 32 f32NaN, flNV⟩
    else
      let v := sqrtReal r.den r.num
      if isPow2 m && (((Nat.log2 m : Int) + e) % 2 = 0) then ⟨BitVec.ofNat 32 (roundFP fp32 .rne v).1, 0⟩ else neighbour v
  | .exp2 =>
    if !s ∧ 128 ≤ n then ⟨BitVec.ofNat 32 f32Inf, flOF ||| flNX⟩
    else
      let fl : Int := if s then (if fr = 0 then -(n : Int) else -(n : Int) - 1) else n
      if fr = 0 ∧ -149 ≤ fl then plainOut (BitVec.ofNat 32 (f32Pow2 fl))
      else
        let uf := flIf (decide (fl < -126)) flUF
        if fl < -149 then sfPick fn x false 0 uf
        else
          let v := fxExp2 (if s then r.den - fr else fr) r.den
          sfNear fn x false (v * 2 ^ fl.toNat) (fxOne * 2 ^ (-fl).toNat) (fxSlack * 2 ^ fl.toNat) (f32Pow2 fl)
            (if fl = 127 then f32Inf - 1 else f32Pow2 (fl + 1) - 1) uf
  | .log2 =>
    if s then ⟨BitVec.ofNat 32 f32NaN, flNV⟩
    else
      let k := floorLog2 r.num r.den
      if isPow2 m then plainOut (signWord (decide (k < 0)) (f32OfNat k.natAbs))
      else
        -- between 1 and 2: the source over 2^k
        let l := fxLog2 (r.num * 2 ^ (-k).toNat) (r.den * 2 ^ k.toNat)
        if 0 ≤ k then sfNear fn x false (k.toNat * fxOne + l) fxOne fxSlack (f32OfNat k.toNat) (f32OfNat (k.toNat + 1) - 1) 0
        else sfNear fn x true (k.natAbs * fxOne - l) fxOne fxSlack (f32OfNat (k.natAbs - 1)) (f32OfNat k.natAbs - 1) 0
  | .sinpi =>
    let neg := s != decide (n % 2 = 1)
    if fr = 0 then plainOut (signWord s 0)
    else if 2 * fr = r.den then plainOut (signWord neg f32One)
    else
      -- below 2^-126 after rounding exactly for |a| = m × 2^-149 with m ≤ 2,670,176
      let uf := flIf (decide (r.num * 2 ^ 149 ≤ 2670176 * r.den)) flUF
      sfNear fn x neg (fxSinPi (min fr (r.den - fr)) r.den) fxOne fxSlack 0 (f32One - 1) uf
  | .cospi =>
    let neg := (decide (n % 2 = 1)) != decide (r.den < 2 * fr)
    if fr = 0 then plainOut (signWord (decide (n % 2 = 1)) f32One)
    else if 2 * fr = r.den then plainOut 0
    else sfNear fn x neg (fxSinPi ((r.den - 2 * fr) + (2 * fr - r.den)) (2 * r.den)) fxOne fxSlack 0 (f32One - 1) 0
  | .tanh =>
    let mag := x.toNat % 2 ^ 31
    let uf := flIf (decide (mag < 0x00800000)) flUF
    -- for |a| < 2^-12, |a| − |a|³/3 lies between the value below |a| and |a|
    if mag < f32Pow2 (-12) then sfPick fn x s (mag - 1) uf
    else sfNear fn x s (fxTanh r.num r.den) fxOne fxSlack 0 (min (mag - 1) (f32One - 1)) uf
  | .sigmoid =>
    if s then
      -- below 2^-126 after rounding exactly for a ≤ −11,447,376 × 2^-17
      let uf := flIf (decide (11447376 * r.den ≤ r.num * 2 ^ 17)) flUF
      sfNear fn x false (fxSigmoid true r.num r.den) fxOne fxSlack 0 (f32Half - 1) uf
    else sfNear fn x false (fxSigmoid false r.num r.den) fxOne fxSlack f32Half (f32One - 1) 0

/-- VSF (R136). -/
def sfEval (fn : SpecialFn) (x : Word) : LaneOut :=
  match fp32.decode x.toNat with
  | .nan s => ⟨BitVec.ofNat 32 f32NaN, flIf s flNV⟩
  | .inf s =>
    match fn with
    | .rcp => plainOut (signWord s 0)
    | .rsqrt | .log2 => if s then ⟨BitVec.ofNat 32 f32NaN, flNV⟩ else plainOut (if fn = .rsqrt then 0 else BitVec.ofNat 32 f32Inf)
    | .exp2 => plainOut (if s then 0 else BitVec.ofNat 32 f32Inf)
    | .sinpi | .cospi => ⟨BitVec.ofNat 32 f32NaN, flNV⟩
    | .tanh => plainOut (signWord s f32One)
    | .sigmoid => plainOut (if s then 0 else BitVec.ofNat 32 f32One)
  | .fin s m e =>
    if m = 0 then
      match fn with
      | .rcp | .rsqrt => ⟨signWord s f32Inf, flDZ⟩
      | .log2 => ⟨signWord true f32Inf, flDZ⟩
      | .exp2 | .cospi => plainOut (BitVec.ofNat 32 f32One)
      | .sinpi | .tanh => plainOut (signWord s 0)
      | .sigmoid => plainOut (BitVec.ofNat 32 f32Half)
    else sfFinite fn x s m e

/-- CVT (R79). -/
def cvtEval (f : CvtForm) (a : Word) : LaneOut :=
  let lo := a.toNat % 65536
  match f with
  | .f32i32 rm => floatOut (roundFP fp32 rm ⟨decide (a.toInt < 0), a.toInt.natAbs, 1⟩)
  | .f32u32 rm => floatOut (roundFP fp32 rm ⟨false, a.toNat, 1⟩)
  | .f32f16 => floatOut (fCvt fp32 .rne (fp16.decode lo))
  | .f32bf16 => floatOut (fCvt fp32 .rne (bf16.decode lo))
  | .f16f32 rm => floatOut (fCvt fp16 rm (fp32.decode a.toNat))
  | .bf16f32 rm => floatOut (fCvt bf16 rm (fp32.decode a.toNat))
  | .f16bf16 rm => floatOut (fCvt fp16 rm (bf16.decode lo))
  | .bf16f16 rm => floatOut (fCvt bf16 rm (fp16.decode lo))

/-- Conversion of FP32 to an 8-bit format (R80). -/
def cvt8To (dst : Fmt) (sat : Bool) (rm : RM) (a : Word) : LaneOut :=
  match fp32.decode a.toNat with
  | .nan s => floatOut (dst.nan, flIf s flNV)
  | .inf s =>
    if sat then floatOut (dst.encZero s + dst.maxBits, flOF ||| flNX)
    else if dst.inf then floatOut (dst.encInf s, 0)
    else floatOut (dst.nan, flNV)
  | .fin s m e =>
    let r := roundFP dst rm (scaled s m e)
    if sat && (r.2 &&& flOF ≠ 0) then floatOut (dst.encZero s + dst.maxBits, r.2) else floatOut r

/-- CVT8 (R80). -/
def cvt8Eval (f : Cvt8Form) (a : Word) : LaneOut :=
  match f with
  | .f32e4m3 => floatOut (fCvt fp32 .rne (e4m3.decode (a.toNat % 256)))
  | .f32e5m2 => floatOut (fCvt fp32 .rne (e5m2.decode (a.toNat % 256)))
  | .e4m3f32 sat rm => cvt8To e4m3 sat rm a
  | .e5m2f32 sat rm => cvt8To e5m2 sat rm a

/-- PACK (R81). -/
def packEval (f : PackForm) (a b d : Word) (k : Nat) : LaneOut :=
  let fl (dst : Fmt) (rm : RM) : LaneOut :=
    let lo := fCvt dst rm (fp32.decode a.toNat)
    let hi := fCvt dst rm (fp32.decode b.toNat)
    ⟨pack16 (BitVec.ofNat 16 lo.1) (BitVec.ofNat 16 hi.1), lo.2 ||| hi.2⟩
  match f with
  | .f16x2 rm => fl fp16 rm
  | .bf16x2 rm => fl bf16 rm
  | .h16 => plainOut (pack16 (half a false) (half b false))
  | .i16x2sat =>
    let lo := satS a.toInt 16
    let hi := satS b.toInt 16
    ⟨pack16 (BitVec.ofInt 16 lo) (BitVec.ofInt 16 hi), flIf (decide (lo ≠ a.toInt) || decide (hi ≠ b.toInt)) flNV⟩
  | .ins8 => plainOut (bfi d a (8 * (k % 4)) 8)

/-- UNPACK (R82). -/
def unpackEval (f : UnpackForm) (a : Word) (k : Nat) : LaneOut :=
  let h := (half a (k % 2 = 1)).toNat
  match f with
  | .f32f16 => floatOut (fCvt fp32 .rne (fp16.decode h))
  | .f32bf16 => floatOut (fCvt fp32 .rne (bf16.decode h))
  | .u16 => plainOut (bfeU a (16 * (k % 2)) 16)
  | .i16 => plainOut (bfeI a (16 * (k % 2)) 16)
  | .u8 => plainOut (bfeU a (8 * (k % 4)) 8)
  | .i8 => plainOut (bfeI a (8 * (k % 4)) 8)

/-- CVTSAT of an FP32 source (R83). -/
def satF32 (rm : RM) (lo hi : Int) (a : Word) : LaneOut :=
  let r := fToInt rm lo hi (fp32.decode a.toNat)
  ⟨BitVec.ofInt 32 r.1, r.2⟩

/-- CVTSAT of an integer source (R83). -/
def satInt (lo hi x : Int) : LaneOut :=
  if x < lo then ⟨BitVec.ofInt 32 lo, flNV⟩ else if hi < x then ⟨BitVec.ofInt 32 hi, flNV⟩ else ⟨BitVec.ofInt 32 x, 0⟩

/-- CVTSAT (R83). -/
def cvtsatEval (f : CvtsatForm) (a : Word) : LaneOut :=
  match f with
  | .i32f32 rm => satF32 rm (-2147483648) 2147483647 a
  | .u32f32 rm => satF32 rm 0 4294967295 a
  | .i16f32 rm => satF32 rm (-32768) 32767 a
  | .u16f32 rm => satF32 rm 0 65535 a
  | .i8f32 rm => satF32 rm (-128) 127 a
  | .u8f32 rm => satF32 rm 0 255 a
  | .i16i32 => satInt (-32768) 32767 a.toInt
  | .u16i32 => satInt 0 65535 a.toInt
  | .i8i32 => satInt (-128) 127 a.toInt
  | .u8i32 => satInt 0 255 a.toInt
  | .u8u32 => satInt 0 255 a.toNat

/-- QGDEC (R84): one rounding of Image(i) × c × S / 7905. -/
def qgdecEval (dst : Fmt) (rm : RM) (a b c : Word) (k : Nat) : LaneOut :=
  let im := qgImage (bitsAt a.toNat (4 * (k % 8)) 4)
  let code := b.toNat % 256
  if code = 0 ∨ im = 0 then plainOut 0
  else match fp32.decode c.toNat with
    | .nan s => floatOut (dst.nan, flIf s flNV)
    | .inf s => floatOut (dst.encInf (s != decide (im < 0)), 0)
    | .fin s m e =>
      let S := scaled s m e
      floatOut (roundFP dst rm ⟨s != decide (im < 0), im.natAbs * code * S.num, 7905 * S.den⟩)

/-- QGENC (R85). -/
def qgencEval (src : Fmt) (a b c d : Word) (k : Nat) : LaneOut :=
  let code := b.toNat % 256
  let put (i : Nat) (fl : Flags) : LaneOut := ⟨bfi d (BitVec.ofNat 32 i) (4 * (k % 8)) 4, fl⟩
  if code = 0 then put 8 0
  else
    match src.decode (a.toNat % 2 ^ (src.mag + 1)), fp32.decode c.toNat with
    | .nan _, _ => put 8 flNV
    | _, .nan _ => put 8 flNV
    | _, .inf _ => put 8 flNV
    | x, .fin t n g =>
      if n = 0 ∨ t then put 8 flNV
      else match x with
        | .inf s => put (if s then 0 else 15) flNX
        | .nan _ => put 8 flNV
        | .fin s m e =>
          let X := scaled s m e
          let S := scaled t n g
          let num : Int := (if s then -1 else 1) * (X.num * 7905 * S.den : Nat)
          let den : Nat := code * S.num * X.den
          let i := if num < -31 * (den : Int) then 0 else if 31 * (den : Int) < num then 15 else qgNearest num den
          put i (flIf (decide (qgImage i * den ≠ num)) flNX)

/-- QGSCL (R86). -/
def qgsclEval (a b : Word) : LaneOut :=
  match fp32.decode (a.toNat % 2 ^ 31), fp32.decode b.toNat with
  | .nan _, _ => ⟨0, flNV⟩
  | _, .nan _ => ⟨0, flNV⟩
  | _, .inf _ => ⟨0, flNV⟩
  | x, .fin t n g =>
    if n = 0 ∨ t then ⟨0, flNV⟩
    else match x with
      | .inf _ => ⟨255, flOF⟩
      | .nan _ => ⟨0, flNV⟩
      | .fin _ m e =>
        if m = 0 then plainOut 0
        else
          let M := scaled false m e
          let S := scaled false n g
          let num := 255 * M.num * S.den
          let den := S.num * M.den
          let k := (2 * num + den) / (2 * den)
          if 255 < k then ⟨255, flOF⟩ else ⟨BitVec.ofNat 32 k, flIf (decide (k * den ≠ num)) flNX⟩

/-- What one lane computes from its source elements a, b, c, its old destination d and the position k. -/
def laneEval (op : LaneOp) (a b c d : Word) (k : Nat) : LaneOut :=
  match op with
  | .add m => plainOut (if m.pk then perHalf (addForm m false) a b else addForm m false a b)
  | .sub m => plainOut (if m.pk then perHalf (addForm m true) a b else addForm m true a b)
  | .mul pk => plainOut (if pk then perHalf (· * ·) a b else a * b)
  | .mulh u => plainOut (BitVec.ofInt 32 ((toIntU u a * toIntU u b) / 2 ^ 32))
  | .mad .wrap => plainOut (a * b + c)
  | .mad (.sat u) =>
    let e := toIntU u a * toIntU u b + toIntU u c
    plainOut (BitVec.ofInt 32 (if u then satU e 32 else satS e 32))
  | .div u rem =>
    let (q, r, dz, ov) := divRem u a b
    ⟨if rem then r else q, flIf dz flIDZ ||| flIf ov flIOV⟩
  | .and inv => plainOut (a &&& (if inv then ~~~b else b))
  | .or inv => plainOut (a ||| (if inv then ~~~b else b))
  | .xor inv => plainOut (a ^^^ (if inv then ~~~b else b))
  | .shl pk =>
    plainOut (if pk then perHalf (fun x y => x <<< (y.toNat % 16)) a b else a <<< (b.toNat % 32))
  | .shr u pk =>
    plainOut (if pk then perHalf (fun x y => shrForm u x (y.toNat % 16)) a b else shrForm u a (b.toNat % 32))
  | .min u pk => plainOut (if pk then perHalf (minMaxForm u false) a b else minMaxForm u false a b)
  | .max u pk => plainOut (if pk then perHalf (minMaxForm u true) a b else minMaxForm u true a b)
  | .mov => plainOut a
  | .fadd f rm => perElement f (fun x y _ => fAdd (FFmt.fmt f) rm ((FFmt.fmt f).decode x) ((FFmt.fmt f).decode y)) a b c
  | .fsub f rm =>
    perElement f (fun x y _ => fAdd (FFmt.fmt f) rm ((FFmt.fmt f).decode x) ((FFmt.fmt f).decode y).negate) a b c
  | .fmul f rm => perElement f (fun x y _ => fMul (FFmt.fmt f) rm ((FFmt.fmt f).decode x) ((FFmt.fmt f).decode y)) a b c
  | .fma f np nc rm =>
    perElement f (fun x y z =>
      fFma (FFmt.fmt f) rm np nc ((FFmt.fmt f).decode x) ((FFmt.fmt f).decode y) ((FFmt.fmt f).decode z)) a b c
  | .fmin f nan => perElement f (fun x y _ => fMinMax (FFmt.fmt f) false nan x y) a b c
  | .fmax f nan => perElement f (fun x y _ => fMinMax (FFmt.fmt f) true nan x y) a b c
  | .fdiv rm => floatOut (fDiv fp32 rm (fp32.decode a.toNat) (fp32.decode b.toNat))
  | .fsqrt rm => floatOut (fSqrt fp32 rm (fp32.decode a.toNat))
  | .sf fn => sfEval fn a
  | .cls .f32 => plainOut (BitVec.ofNat 32 (fClass fp32 a.toNat))
  | .cls .f16 => plainOut (BitVec.ofNat 32 (fClass fp16 (a.toNat % 65536)))
  | .cls .bf16 => plainOut (BitVec.ofNat 32 (fClass bf16 (a.toNat % 65536)))
  | .bfe m =>
    let p := b.toNat % 32
    let w := min (c.toNat % 128) (32 - p)
    plainOut (match m with
      | .u => bfeU a p w
      | .i => bfeI a p w
      | .ins => bfi d a p w)
  | .bit .popc => plainOut (BitVec.ofNat 32 (popcN 32 a.toNat))
  | .bit .clz => plainOut (BitVec.ofNat 32 (clzN 32 a.toNat))
  | .bit .ctz => plainOut (BitVec.ofNat 32 (ctzN 32 a.toNat))
  | .bit .brev => plainOut (BitVec.ofNat 32 (brevN 32 a.toNat))
  | .bit .bswap => plainOut (BitVec.ofNat 32 (bswapN 4 a.toNat))
  | .dot4 tt sat =>
    let t := c.toInt + dotSum (tt = .uu) (tt ≠ .ss) a b
    plainOut (BitVec.ofInt 32 (if sat then satS t 32 else t))
  | .rnd f rm => perElement f (fun x _ _ => fRnd (FFmt.fmt f) rm x) a b c
  | .cvt f => cvtEval f a
  | .cvt8 f => cvt8Eval f a
  | .pack f => packEval f a b d k
  | .unpack f => unpackEval f a k
  | .qgdec false rm => qgdecEval fp32 rm a b c k
  | .qgdec true rm => qgdecEval bf16 rm a b c k
  | .qgenc false => qgencEval fp32 a b c d k
  | .qgenc true => qgencEval bf16 a b c d k
  | .qgscl => qgsclEval a b
  | .cvtsat f => cvtsatEval f a

/-- The short op's F-kind counterpart (R46, R140). -/
def ShortOp.laneOp : ShortOp → LaneOp
  | .vaddI32 => .add ⟨false, false, false⟩
  | .vsubI32 => .sub ⟨false, false, false⟩
  | .vmulI32 => .mul false
  | .vand => .and false
  | .vor => .or false
  | .vxor => .xor false
  | .vshl => .shl false
  | .vshrU32 => .shr true false
  | .vshrI32 => .shr false false
  | .vminI32 => .min false false
  | .vmaxI32 => .max false false
  | .vminU32 => .min true false
  | .vmaxU32 => .max true false
  | .vmov => .mov
  | .vfaddF32 => .fadd .f32 .rne
  | .vfsubF32 => .fsub .f32 .rne
  | .vfmulF32 => .fmul .f32 .rne
  | .vfminF32 => .fmin .f32 false
  | .vfmaxF32 => .fmax .f32 false
  | .vfaddF16x2 => .fadd .f16x2 .rne
  | .vfmulF16x2 => .fmul .f16x2 .rne
  | .vfaddBf16x2 => .fadd .bf16x2 .rne
  | .vfmulBf16x2 => .fmul .bf16x2 .rne
  | .cvtF32I32 => .cvt (.f32i32 .rne)

/-- The value of an FP constant code as an exact real; ln 2, log₂ e, π and 1/π to 2^-60, enough for one rounding in
every format (R41). -/
def fpConst (k : Nat) : Real' :=
  match k % 16 with
  | 0 => ⟨false, 0, 1⟩
  | 1 => ⟨false, 1, 2⟩
  | 2 => ⟨false, 1, 1⟩
  | 3 => ⟨false, 2, 1⟩
  | 4 => ⟨false, 4, 1⟩
  | 5 => ⟨true, 1, 2⟩
  | 6 => ⟨true, 1, 1⟩
  | 7 => ⟨true, 2, 1⟩
  | 8 => ⟨true, 4, 1⟩
  | 9 => ⟨false, 1, 4⟩
  | 10 => ⟨false, 8, 1⟩
  | 11 => ⟨false, 1, 8⟩
  | 12 => ⟨false, 693147180559945309417232, 10 ^ 24⟩
  | 13 => ⟨false, 1442695040888963407359925, 10 ^ 24⟩
  | 14 => ⟨false, 3141592653589793238462643, 10 ^ 24⟩
  | _ => ⟨false, 318309886183790671537768, 10 ^ 24⟩

end Sys2Proof.Machine
end

