-- ==== Sys2Proof/Machine/Forms.lean ====
section
/-! DEFINITION. The operand forms of every instruction of the opcode map, without a state: which operand codes each field
admits (R41, R42, R88, R116, R141, R169, R207, R243, R263 and the instructions' own lists), which registers a word writes,
which roles admit it (R54) and which words are commit-class (R59, R260). -/

namespace Sys2Proof.Machine

/-- What a field admits. -/
inductive OClass where
  /-- `n` consecutive registers from a multiple of `n`, vector or scalar. -/
  | reg (vec : Bool) (n : Nat) (dest : Bool)
  /-- An even s-register naming `n` consecutive ones (QOP.TRYPOP). -/
  | evenSpan (n : Nat)
  /-- A mask triple with base at most 125 (R90). -/
  | triple (dest : Bool)
  /-- A mask triple, or a uniform code that stands for its three words (R90). -/
  | tripleSrc
  /-- EMOP's SAVE triple, which may not overlap em (R109). -/
  | saveTriple
  /-- The four registers of a shape block (R244). -/
  | shape
  /-- D of a lane operation: a v-register, or with SCR an s-register naming a segment (R48). -/
  | laneDest (scr : Bool)
  /-- A source of a lane operation. -/
  | lane (k : SrcKind) (scr : Bool)
  /-- A uniform source; `imm` where codes 0x1E0 and 0x1E1 are admitted, `special` where 0x1D1 to 0x1D7 are. -/
  | uni (w64 imm special : Bool)
  /-- The source of SMOV.F32 (R94). -/
  | f32
  /-- An even s-register pair, or LIT. -/
  | pairLit
  /-- An even s-register pair. -/
  | pair
  /-- A branch offset (R100). -/
  | offset
  /-- A memory index; `vec` where a v-register or `$laneid` is admitted (R207). -/
  | index (vec laneid : Bool)
  /-- A stride: s-register, integer constant or LIT (R212). -/
  | stride
  /-- The operand of ATOM (R263). -/
  | atomC (vec w64 fadd : Bool)
  deriving DecidableEq, Repr

/-- An operand with the class of its field. -/
structure Opnd where
  cls : OClass
  o : Operand
  deriving DecidableEq, Repr

/-- Registers that a register code names in a class: vector or scalar, first, count. -/
def OClass.count : OClass → Nat
  | .reg _ n _ => n
  | .evenSpan n => n
  | .triple _ | .tripleSrc | .saveTriple => 3
  | .shape => 4
  | .uni w64 _ _ => if w64 then 2 else 1
  | .pairLit | .pair => 2
  | .atomC _ w64 _ => if w64 then 2 else 1
  | _ => 1

/-- Whether a class is a destination. -/
def OClass.isDest : OClass → Bool
  | .reg _ _ d => d
  | .evenSpan _ | .saveTriple => true
  | .triple d => d
  | .laneDest _ => true
  | _ => false

/-- Whether an operand code is admitted in a class (`hasLit`: the word is an L word, R40). Register counts are checked
elsewhere. -/
def Opnd.formOk (hasLit : Bool) (x : Opnd) : Bool :=
  match x.cls, x.o with
  | _, .reserved _ => false
  | .reg true n _, .v k => k.toNat % n = 0
  | .reg false n _, .s k => k.toNat % n = 0
  | .evenSpan _, .s k => k.toNat % 2 = 0
  | .triple _, .s k => k.toNat ≤ 125
  | .saveTriple, .s k => k.toNat ≤ 122
  | .shape, .s k => k.toNat ≤ 124
  | .tripleSrc, .s k => k.toNat ≤ 125
  | .tripleSrc, .int _ => true
  | .tripleSrc, .special k => k ≠ 0
  | .tripleSrc, .immS => true
  | .tripleSrc, .immZ => true
  | .tripleSrc, .lit => hasLit
  | .laneDest false, .v _ => true
  | .laneDest true, .v _ => true
  | .laneDest true, .s _ => true
  | .lane _ _, .v _ => true
  | .lane _ _, .s _ => true
  | .lane _ _, .int _ => true
  | .lane k _, .fp _ => k ≠ .int
  | .lane k _, .special _ => k = .int
  | .lane k _, .immS => k = .int
  | .lane k _, .immZ => k = .int
  | .lane _ _, .lit => hasLit
  | .uni w64 _ _, .s k => !w64 || k.toNat % 2 = 0
  | .uni _ _ _, .int _ => true
  | .uni _ _ sp, .special k => sp && k ≠ 0
  | .uni _ im _, .immS => im
  | .uni _ im _, .immZ => im
  | .uni _ _ _, .lit => hasLit
  | .f32, .s _ => true
  | .f32, .int _ => true
  | .f32, .fp _ => true
  | .f32, .special k => k ≠ 0
  | .f32, .immS => true
  | .f32, .immZ => true
  | .f32, .lit => hasLit
  | .pairLit, .s k => k.toNat % 2 = 0
  | .pairLit, .lit => hasLit
  | .pair, .s k => k.toNat % 2 = 0
  | .offset, .int _ => true
  | .offset, .immS => true
  | .offset, .lit => hasLit
  | .index vec _, .v _ => vec
  | .index _ _, .s _ => true
  | .index _ _, .int _ => true
  | .index _ laneid, .special k => laneid && k = 0
  | .stride, .s _ => true
  | .stride, .int _ => true
  | .stride, .lit => hasLit
  | .atomC vec w64 _, .v k => vec && (!w64 || k.toNat % 2 = 0)
  | .atomC _ w64 _, .s k => !w64 || k.toNat % 2 = 0
  | .atomC _ _ _, .int _ => true
  | .atomC _ _ fadd, .fp _ => fadd
  | .atomC _ _ _, .lit => hasLit
  | _, _ => false

/-- The registers an operand names: vector or scalar, first, count. -/
def Opnd.span (x : Opnd) : Option (Bool × Nat × Nat) :=
  match x.o with
  | .v k => some (true, k.toNat, x.cls.count)
  | .s k => some (false, k.toNat, match x.cls with
    | .laneDest _ | .lane _ _ => 1
    | c => c.count)
  | _ => none

/-- All the registers an operand names lie below the declared counts (R42). -/
def Opnd.declared (vregs sregs : Nat) (x : Opnd) : Bool :=
  match x.span with
  | none => true
  | some (vec, k, n) => k + n ≤ if vec then vregs else sregs

/-- The registers a word writes through an operand: none where SCR makes it a segment (R48). -/
def Opnd.writes (x : Opnd) : Option (Bool × Nat × Nat) :=
  match x.cls, x.o with
  | .laneDest _, .s _ => none
  | c, _ => if c.isDest then x.span else none

/-- Registers one element of a size occupies (R209). -/
def Size.regs : Size → Nat
  | .dw => 2
  | .qw => 4
  | _ => 1

/-- The base operand of a memory access by space (R207). -/
def baseClass : Space → OClass
  | .l => .uni false false false
  | _ => .pairLit

/-- Operands of a scalar instruction with two sources. -/
def SBin.opnds (f : SBin) (bWide dWide : Bool) : List Opnd :=
  [⟨.reg false (if f.w64 && dWide then 2 else 1) true, f.d⟩, ⟨.uni f.w64 true true, f.a⟩,
   ⟨.uni (f.w64 && bWide) true true, f.b⟩]

/-- Operands of a lane operation; a field the operation does not read is no operand. -/
def laneOpnds (op : LaneOp) (f : VOps) : List Opnd :=
  let src (k : SrcKind) (o : Operand) : List Opnd := if k = .unused then [] else [⟨.lane k f.scr, o⟩]
  ⟨.laneDest f.scr, f.d⟩ :: (src (LaneOp.kinds op).1 f.a ++ src (LaneOp.kinds op).2.1 f.b ++ src (LaneOp.kinds op).2.2 f.c)

/-- Operands of LD, ST, SLD and SST (`vec` for the per-lane forms). -/
def memOpnds (vec load : Bool) (f : MemF) : List Opnd :=
  [⟨.reg vec (Size.regs f.size) load, f.d⟩, ⟨baseClass f.space, f.a⟩, ⟨.index vec vec, f.b⟩]

/-- Operands of LDV and STV (R212). -/
def streamOpnds (load : Bool) (f : MemF) : List Opnd :=
  [⟨.reg true (Size.regs f.size) load, f.d⟩, ⟨baseClass f.space, f.a⟩] ++ (if f.scale then [⟨.stride, f.b⟩] else [])

/-- The LaneOp and operands of a vector or conversion instruction that runs the lane loop. -/
def Instr.lane? : Instr → Option (LaneOp × VOps)
  | .vadd m f => some (.add m, f)
  | .vsub m f => some (.sub m, f)
  | .vmul pk f => some (.mul pk, f)
  | .vmulh u f => some (.mulh u, f)
  | .vmad m f => some (.mad m, f)
  | .vdiv u r f => some (.div u r, f)
  | .vand i f => some (.and i, f)
  | .vor i f => some (.or i, f)
  | .vxor i f => some (.xor i, f)
  | .vshl pk f => some (.shl pk, f)
  | .vshr u pk f => some (.shr u pk, f)
  | .vmin u pk f => some (.min u pk, f)
  | .vmax u pk f => some (.max u pk, f)
  | .vmov f => some (.mov, f)
  | .vfadd t rm f => some (.fadd t rm, f)
  | .vfsub t rm f => some (.fsub t rm, f)
  | .vfmul t rm f => some (.fmul t rm, f)
  | .vfma t np nc rm f => some (.fma t np nc rm, f)
  | .vfmin t n f => some (.fmin t n, f)
  | .vfmax t n f => some (.fmax t n, f)
  | .vfdiv rm f => some (.fdiv rm, f)
  | .vfsqrt rm f => some (.fsqrt rm, f)
  | .vsf fn f => some (.sf fn, f)
  | .vclass s f => some (.cls s, f)
  | .vbfe m f => some (.bfe m, f)
  | .vbit op f => some (.bit op, f)
  | .vdot4 t s f => some (.dot4 t s, f)
  | .vrnd t rm f => some (.rnd t rm, f)
  | .cvt g f => some (.cvt g, f)
  | .cvt8 g f => some (.cvt8 g, f)
  | .pack g f => some (.pack g, f)
  | .unpack g f => some (.unpack g, f)
  | .qgdec b rm f => some (.qgdec b rm, f)
  | .qgenc b f => some (.qgenc b, f)
  | .qgscl f => some (.qgscl, f)
  | .cvtsat g f => some (.cvtsat g, f)
  | _ => none

/-- The operands of P halves: registers and codes without literals or IMM10 (R46). -/
def PHalf.opnds (h : PHalf) : List Opnd :=
  laneOpnds (ShortOp.laneOp h.op) ⟨false, .v h.d, h.a, h.b, .v 0, ⟨0, none⟩⟩

/-- A code that P halves refuse (R46). -/
def Operand.inHalf : Operand → Bool
  | .immS | .immZ | .lit => false
  | _ => true

/-- 64-bit special registers (R57). -/
def special64 (n : Nat) : Bool := (0x0D ≤ n ∧ n ≤ 0x0F) ∨ (0x12 ≤ n ∧ n ≤ 0x19)

/-- Operands of an EMOP. -/
def EmopOp.src : EmopOp → List Opnd
  | .set a | .and a | .andn a | .or a | .els a => [⟨.tripleSrc, a⟩]
  | .live => []

/-- Operands of a MASKOP (R108). -/
def MaskOp.opnds (d : Operand) : MaskOp → List Opnd
  | .and a b | .or a b | .xor a b | .andn a b => [⟨.triple true, d⟩, ⟨.tripleSrc, a⟩, ⟨.tripleSrc, b⟩]
  | .not a | .mov a | .live a => [⟨.triple true, d⟩, ⟨.tripleSrc, a⟩]
  | .popc a | .first a | .last a => [⟨.reg false 1 true, d⟩, ⟨.tripleSrc, a⟩]
  | .range a b => [⟨.triple true, d⟩, ⟨.uni false true true, a⟩, ⟨.uni false true true, b⟩]

/-- An s-register destination. -/
def dS (d : Operand) : Opnd := ⟨.reg false 1 true, d⟩
/-- An even s-register pair destination. -/
def dP (d : Operand) : Opnd := ⟨.reg false 2 true, d⟩
/-- A v-register destination. -/
def dV (d : Operand) : Opnd := ⟨.reg true 1 true, d⟩
/-- A uniform 32-bit source where IMM10 is read through codes only. -/
def uI (o : Operand) : Opnd := ⟨.uni false true true, o⟩
/-- A uniform 64-bit source where IMM10 is read through codes only. -/
def uI64 (o : Operand) : Opnd := ⟨.uni true true true, o⟩
/-- A uniform 32-bit source of an instruction that uses IMM10 directly. -/
def uD (o : Operand) : Opnd := ⟨.uni false false true, o⟩
/-- "An s-register, integer constant or LIT". -/
def uL (o : Operand) : Opnd := ⟨.uni false false false, o⟩
/-- A per-lane integer source. -/
def lI (o : Operand) : Opnd := ⟨.lane .int false, o⟩
/-- A per-lane FP32 source. -/
def lF (o : Operand) : Opnd := ⟨.lane (.flt fp32) false, o⟩

/-- Whether RED and SCAN read an operation's source as FP32 (R146). -/
def ScanOp.isF : ScanOp → Bool
  | .fadd _ => true
  | _ => false
def RedOp.isF : RedOp → Bool
  | .scan op => ScanOp.isF op
  | _ => true

/-- Every operand of an instruction with the class of its field. The A of SHFL, BCAST, VOTE and COMPACT has no type of its own: it is
read as an integer source (log 25). -/
def Instr.opnds : Instr → List Opnd
  | .pWord h0 h1 => PHalf.opnds h0 ++ PHalf.opnds h1
  | .sweep _ op f => laneOpnds op f
  | .smov d (.word a _) => [dS d, uI a]
  | .smov d (.w64 a _) => [dP d, uI64 a]
  | .smov d (.f32 a _) => [dS d, ⟨.f32, a⟩]
  | .smov d (.special n _) => [if special64 n.toNat then dP d else dS d]
  | .smovToSpecial n a _ => [if n = 0x0F then ⟨.uni true false true, a⟩ else uD a]
  | .sadd _ f | .ssub _ f | .smul _ f | .sdiv _ _ f | .sand _ f | .sor _ f | .sxor _ f | .smin _ f | .smax _ f =>
    SBin.opnds f true true
  | .sshl f | .sshr _ f => SBin.opnds f false true
  | .scmp _ f => SBin.opnds f true false
  | .ssel c f => SBin.opnds f true true ++ [uI c]
  | .sbit op w64 d a _ =>
    match op with
    | .popc | .clz | .ctz => [dS d, ⟨.uni w64 true true, a⟩]
    | .brev | .bswap => [if w64 then dP d else dS d, ⟨.uni w64 true true, a⟩]
    | .bfeU b c | .bfeI b c | .bfi b c => [if w64 then dP d else dS d, ⟨.uni w64 true true, a⟩, uI b, uI c]
  | .sld f => memOpnds false true f
  | .sst f => memOpnds false false f
  | .br b _ => [⟨.offset, b⟩]
  | .brc _ w64 a b _ => [⟨.uni w64 true true, a⟩, ⟨.offset, b⟩]
  | .brm _ a b _ => [⟨.tripleSrc, a⟩, ⟨.offset, b⟩]
  | .call d (.offset b) _ => [dP d, ⟨.offset, b⟩]
  | .call d (.reg a) _ => [dP d, uI64 a]
  | .jmp (.reg a) _ => [⟨.pair, a⟩]
  | .loop d b _ => [dS d, ⟨.offset, b⟩]
  | .emop op save _ => (match save with
    | some d => [⟨.saveTriple, d⟩]
    | none => []) ++ EmopOp.src op
  | .maskop op d _ => MaskOp.opnds d op
  | .yieldBar _ a _ | .yieldEv _ a _ => [uL a]
  | .sysreq _ d a _ => [dP d, ⟨.uni true false false, a⟩]
  | .exitAbort a _ => [uL a]
  | .vcmp _ _ d a b _ => [⟨.triple true, d⟩, lI a, lI b]
  | .vsel d a b c _ => [dV d, lI a, lI b, ⟨.triple false, c⟩]
  | .vfcmp _ d a b _ => [⟨.triple true, d⟩, lF a, lF b]
  | .vflag (.read d _) _ | .vflag (.readclr d _) _ => [⟨.triple true, d⟩]
  | .vflag (.get d) _ => [dV d]
  | .vflag (.put a) _ => [⟨.lane .int false, a⟩]
  | .shfl _ d a b _ => [dV d, lI a, lI b]
  | .bcast (.lane b) d a _ => [dV d, lI a, uI b]
  | .bcast _ d a _ => [dV d, lI a]
  | .bcastS d a b _ => [dS d, lI a, uI b]
  | .red op vec d a _ => [if vec then dV d else dS d, if RedOp.isF op then lF a else lI a]
  | .scan op _ d a _ => [dV d, if ScanOp.isF op then lF a else lI a]
  | .vote .ballot d a _ => [⟨.triple true, d⟩, lI a]
  | .vote _ d a _ => [dS d, lI a]
  | .compact _ d a c _ => [dV d, lI a, ⟨.triple false, c⟩]
  | .lmap (.lane a b) d _ => [dS d, uI a, uI b]
  | .lmap _ d _ => [dV d]
  | .lnstat .live d _ => [⟨.triple true, d⟩]
  | .lnstat _ d _ => [dS d]
  | .tdef g d a b _ => [dS d, if g then uI64 a else uI a, uI b]
  | .tfree a _ => [uI a]
  | .tqry _ d a _ => [dS d, uD a]
  | .mma _ a b c _ _ _ => [uD a, uD b, uD c]
  | .mload a c _ _ _ | .mstore _ a c _ _ _ => [uD a, uD c]
  | .mcorr _ _ d a _ _ => [dS d, uD a]
  | .mstat _ d _ _ | .msig d _ _ => [dS d]
  | .swfence (.h a) _ => [uI a]
  | .swfence (.h2 a b) _ => [uI a, uI b]
  | .ld f => memOpnds true true f
  | .st f => memOpnds true false f
  | .ldv f => streamOpnds true f
  | .stv f => streamOpnds false f
  | .actrRead d _ _ | .actrMask d _ => [dS d]
  | .pref perLane a b _ _ _ _ => [⟨.pairLit, a⟩, ⟨.index perLane perLane, b⟩]
  | .zfill sp a b _ _ _ _ _ _ => [⟨baseClass sp, a⟩, uD b]
  | .gwin d a b _ => [dP d, uI a, uI b]
  | .cpy dsp ssp twoD f =>
    [⟨baseClass dsp, f.a⟩, ⟨baseClass ssp, f.b⟩, if twoD then ⟨.shape, f.c⟩ else uD f.c]
  | .cpyt gmc f => (match gmc with
    | some d => [⟨.reg false 1 false, d⟩]
    | none => []) ++ [uD f.a, uD f.b, ⟨.pairLit, f.c⟩]
  | .cstat _ d _ => [dS d]
  | .coll l a _ _ => [if l then uL a else ⟨.pairLit, a⟩]
  | .collwt d _ _ | .collwtTry d _ _ => [dS d]
  | .atom f =>
    let n := if f.w64 then 2 else 1
    (if f.ret then [⟨.reg (!f.scalar) n true, f.d⟩]
     else if f.op = .cas then [⟨.reg (!f.scalar) n false, f.d⟩] else []) ++
    [⟨baseClass f.space, f.a⟩, ⟨.index (!f.scalar) false, f.b⟩, ⟨.atomC (!f.scalar) f.w64 (f.op = .fadd), f.c⟩]
  | .barInit _ a _ | .barWait _ a _ => [uD a]
  | .barArrive d _ _ | .barArriveNw d _ _ | .barArriveDefer d _ _ _ | .barStat d _ _ | .barStatExp d _ _ => [dS d]
  | .qopDef _ a b _ | .qopPush _ a b _ => [uD a, uD b]
  | .qopPop d _ _ => [dP d]
  | .qopTrypush d _ a b _ => [dS d, uD a, uD b]
  | .qopTrypop d _ _ => [⟨.evenSpan 3, d⟩]
  | .qopStat d _ _ | .qopStatCfg d _ _ => [dS d]
  | .evw _ a _ => [uD a]
  | .evwTry d _ a _ => [dS d, uD a]
  | .evwStat d _ _ | .evwClr d _ _ => [dS d]
  | .spawn l a b _ => [if l then uL a else ⟨.pairLit, a⟩, uL b]
  | .spawnTry l d a b _ => [dS d, if l then uL a else ⟨.pairLit, a⟩, uL b]
  | .launch l d a _ => [dS d, if l then uL a else ⟨.pairLit, a⟩]
  | .dbell w64 _ a b _ => [⟨.pairLit, a⟩, ⟨.uni w64 true false, b⟩]
  | i => match Instr.lane? i with
    | some (op, f) => laneOpnds op f
    | none => []

/-- The literal of an L word. -/
def Instr.litOf : Instr → Lit
  | .sweep _ _ _ | .pWord _ _ => none
  | .nop l | .smov _ (.special _ l) | .smovToSpecial _ _ l | .jmp _ l | .region _ l | .yieldBar _ _ l | .yieldEv _ _ l
  | .trap _ l | .brk _ l | .sysreq _ _ _ l | .exit l | .exitAbort _ l | .vflag _ l | .lnstat _ _ l | .tqry _ _ _ l
  | .mma _ _ _ _ _ _ l | .mzero _ l | .mload _ _ _ _ l | .mstore _ _ _ _ _ l | .mcorr _ _ _ _ _ l | .mstat _ _ _ l
  | .msig _ _ l | .wait _ _ l | .waitAll l | .actrRead _ _ l | .actrMask _ l | .pref _ _ _ _ _ _ l
  | .zfill _ _ _ _ _ _ _ _ l | .gwin _ _ _ l | .qfence _ l | .cstat _ _ l | .coll _ _ _ l | .collwt _ _ l
  | .collwtTry _ _ l | .fence _ _ l | .barInit _ _ l | .barArrive _ _ l | .barArriveNw _ _ l
  | .barArriveDefer _ _ _ l | .barWait _ _ l | .barStat _ _ l | .barStatExp _ _ l | .qopDef _ _ _ l | .qopPush _ _ _ l
  | .qopPop _ _ l | .qopTrypush _ _ _ _ l | .qopTrypop _ _ l | .qopStat _ _ l | .qopStatCfg _ _ l | .evw _ _ l
  | .evwTry _ _ _ l | .evwStat _ _ l | .evwClr _ _ l | .spawn _ _ _ l | .spawnTry _ _ _ _ l | .launch _ _ _ l => l
  | .smov _ (.word _ x) | .smov _ (.w64 _ x) | .smov _ (.f32 _ x) => x.lit
  | .sadd _ f | .ssub _ f | .smul _ f | .sdiv _ _ f | .sand _ f | .sor _ f | .sxor _ f | .smin _ f | .smax _ f
  | .sshl f | .sshr _ f | .scmp _ f | .ssel _ f => f.x.lit
  | .sbit _ _ _ _ x | .br _ x | .brc _ _ _ _ x | .brm _ _ _ x | .call _ _ x | .loop _ _ x | .emop _ _ x | .maskop _ _ x
  | .vcmp _ _ _ _ _ x | .vsel _ _ _ _ x | .vfcmp _ _ _ _ x | .shfl _ _ _ _ x | .bcast _ _ _ x | .bcastS _ _ _ x
  | .red _ _ _ _ x | .scan _ _ _ _ x | .vote _ _ _ x | .compact _ _ _ _ x | .lmap _ _ x | .tdef _ _ _ _ x | .tfree _ x
  | .swfence _ x | .dbell _ _ _ _ x => x.lit
  | .sld f | .sst f | .ld f | .st f | .ldv f | .stv f => f.l
  | .cpy _ _ _ f | .cpyt _ f => f.l
  | .atom f => f.l
  | i => match Instr.lane? i with
    | some (_, f) => f.x.lit
    | none => none

/-- Bytes of an instruction: a sweep counts its prefix and the swept word (R35, R47). -/
def Instr.size (i : Instr) : Nat :=
  match i with
  | .sweep _ _ _ => 16
  | _ => if (Instr.litOf i).isSome then 16 else 8

/-- Commit-class instructions (R59, R171, R238, R254, R260, R310, R319, R347, R371). -/
def Instr.isCommit : Instr → Bool
  | .yieldBar _ _ _ | .yieldEv _ _ _ | .sysreq _ _ _ _ | .tdef _ _ _ _ _ | .tfree _ _ | .mma _ _ _ _ _ _ _
  | .cpy _ _ _ _ | .cpyt _ _ | .coll _ _ _ _ | .atom _ | .barInit _ _ _ | .barArrive _ _ _ | .barArriveNw _ _ _
  | .barArriveDefer _ _ _ _ | .qopDef _ _ _ _ | .qopPush _ _ _ _ | .qopPop _ _ _ | .qopTrypush _ _ _ _ _
  | .qopTrypop _ _ _ | .evw _ _ _ | .evwTry _ _ _ _ | .evwClr _ _ _ | .spawn _ _ _ _ | .spawnTry _ _ _ _ _
  | .launch _ _ _ _ | .dbell _ _ _ _ _ => true
  | _ => false

/-- Groups of opcodes that R54 admits together. -/
inductive Klass where
  | control | ivec | fvec | xlane | matrix | memory | sync | copy | dbell
  deriving DecidableEq, Repr

/-- The class of a lane operation (R54). -/
def LaneOp.klass (op : LaneOp) : Klass := if LaneOp.isInteger op then .ivec else .fvec

/-- The classes a word belongs to: a P word has two (R46). -/
def Instr.klass : Instr → List Klass
  | .pWord h0 h1 => [LaneOp.klass (ShortOp.laneOp h0.op), LaneOp.klass (ShortOp.laneOp h1.op)]
  | .sweep _ op _ => [LaneOp.klass op]
  | .vcmp _ _ _ _ _ _ | .vsel _ _ _ _ _ => [.ivec]
  | .vfcmp _ _ _ _ _ | .vflag _ _ => [.fvec]
  | .shfl _ _ _ _ _ | .bcast _ _ _ _ | .bcastS _ _ _ _ | .red _ _ _ _ _ | .scan _ _ _ _ _ | .vote _ _ _ _
  | .compact _ _ _ _ _ | .lmap _ _ _ | .lnstat _ _ _ => [.xlane]
  | .tdef _ _ _ _ _ | .tfree _ _ | .tqry _ _ _ _ | .mma _ _ _ _ _ _ _ | .mzero _ _ | .mload _ _ _ _ _
  | .mstore _ _ _ _ _ _ | .mcorr _ _ _ _ _ _ | .mstat _ _ _ _ | .msig _ _ _ | .swfence _ _ => [.matrix]
  | .ld _ | .st _ | .ldv _ | .stv _ | .pref _ _ _ _ _ _ _ | .zfill _ _ _ _ _ _ _ _ _ | .gwin _ _ _ _ => [.memory]
  | .wait _ _ _ | .waitAll _ | .actrRead _ _ _ | .actrMask _ _ | .atom _ | .fence _ _ _ | .barInit _ _ _
  | .barArrive _ _ _ | .barArriveNw _ _ _ | .barArriveDefer _ _ _ _ | .barWait _ _ _ | .barStat _ _ _ | .barStatExp _ _ _
  | .qopDef _ _ _ _ | .qopPush _ _ _ _ | .qopPop _ _ _ | .qopTrypush _ _ _ _ _ | .qopTrypop _ _ _ | .qopStat _ _ _
  | .qopStatCfg _ _ _ | .evw _ _ _ | .evwTry _ _ _ _ | .evwStat _ _ _ | .evwClr _ _ _ => [.sync]
  | .cpy _ _ _ _ | .cpyt _ _ | .qfence _ _ | .cstat _ _ _ | .coll _ _ _ _ | .collwt _ _ _ | .collwtTry _ _ _ => [.copy]
  | .dbell _ _ _ _ _ => [.dbell]
  | i => match Instr.lane? i with
    | some (op, _) => [LaneOp.klass op]
    | none => [.control]

/-- Which roles admit a class (R54); roles 0 GN, 1 CP, 2 MX, 3 VX. -/
def Klass.admits (role : Nat) : Klass → Bool
  | .control | .sync => true
  | .ivec => role ≠ 2
  | .fvec | .xlane => role = 0 ∨ role = 3
  | .matrix => role = 0 ∨ role = 2
  | .memory => role ≠ 2
  | .copy | .dbell => role = 0 ∨ role = 1

/-- Step 5 beyond the operand codes: SMOV's special numbers (R57, R94), gang barriers (R272), codes in P halves (R46). -/
def Instr.formOk : Instr → Bool
  | .smov _ (.special n _) => n ≠ 0 ∧ n.toNat < 0x1C
  | .smovToSpecial n _ _ => n = 0x0F ∨ n = 0x10
  | .yieldBar b _ _ | .barInit b _ _ | .barArrive _ b _ | .barArriveNw _ b _ | .barArriveDefer _ b _ _ | .barWait b _ _
  | .barStat _ b _ | .barStatExp _ b _ => !b.gang || b.idx.toNat < 8
  | .pWord h0 h1 => Operand.inHalf h0.a && Operand.inHalf h0.b && Operand.inHalf h1.a && Operand.inHalf h1.b
  | _ => true

/-- Registers a word writes beside its destination fields: EMOP writes em (R109). -/
def Instr.extraWrites : Instr → List (Bool × Nat × Nat)
  | .emop _ _ _ => [(false, 125, 3)]
  | _ => []

/-- Every register a word writes: vector or scalar, first, count. -/
def Instr.writes (i : Instr) : List (Bool × Nat × Nat) := (Instr.opnds i).filterMap Opnd.writes ++ Instr.extraWrites i

/-- Operands and forms admitted, before the group's counts are looked at (R55 step 5). -/
def Instr.codesOk (i : Instr) : Bool := Instr.formOk i && (Instr.opnds i).all (Opnd.formOk (Instr.litOf i).isSome)

/-- Misuse of bank rules in a P word (R45). -/
def Instr.pairingOk : Instr → Bool
  | .pWord h0 h1 =>
    let names (h : PHalf) : List Operand :=
      if (LaneOp.kinds (ShortOp.laneOp h.op)).2.1 = .unused then [h.a] else [h.a, h.b]
    let regs := (names h0 ++ names h1).filterMap (fun o => match o with
      | .v k => some k.toNat
      | _ => none)
    decide (h0.d.toNat % 4 ≠ h1.d.toNat % 4) &&
    (List.range 4).all (fun b => decide ((regs.filter (fun k => k % 4 = b)).length ≤ 2)) &&
    !((names h1).contains (.v h0.d))
  | _ => true

end Sys2Proof.Machine
end

