-- ==== Sys2Proof/WellFormed.lean ====
section
/-! DEFINITION. Which instructions are well formed: exactly those an encoding of the manual stands for, before any state
is looked at. Events are well formed when the places they name exist. -/

namespace Sys2Proof

open Machine

/-- A field that reads IMM10: one that admits code 0x1E0 or 0x1E1 and holds it (R41, R88). -/
def Opnd.readsImm (x : Opnd) : Bool := (x.o = .immS || x.o = .immZ) && Opnd.formOk false x

/-- IMM10 of a word that reads it through codes only: zero unless a field reads it (R39, R116, log 21). -/
def Ext.ok (x : Ext) (os : List Opnd) : Bool := x.imm = 0 || os.any Opnd.readsImm

/-- Fields of a lane operation that it does not read are 0x000; IMM10 of a conversion holds its position and is else 0 (R77), and
that of a vector operation is as R116 says. -/
def VOps.ok (op : LaneOp) (f : VOps) : Bool :=
  let k := LaneOp.kinds op
  (k.1 ≠ .unused || f.a = .v 0) && (k.2.1 ≠ .unused || f.b = .v 0) && (k.2.2 ≠ .unused || f.c = .v 0) &&
  (if LaneOp.isConversion op then decide (f.x.imm.toNat < 2 ^ LaneOp.immBits op) else Ext.ok f.x (laneOpnds op f))

/-- Scopes and semantics a memory word admits (R208). -/
def MemF.ok (load stream : Bool) (f : MemF) : Bool :=
  (f.sem ≠ .acquire || load) && (f.sem ≠ .release || !load) &&
  (!(load && f.sem = .plain) || f.scope = .group) &&
  (f.space = .g || f.hint = .normal) &&
  (load || (f.size ≠ .i8 && f.size ≠ .i16)) &&
  (!stream || f.scale || f.b = .v 0)

/-- Offsets of a sweep: multiples of 4, and zero for a field that names no segment (R49). -/
def SweepPrefix.ok (w : SweepPrefix) (f : VOps) : Bool :=
  let seg (o : Operand) : Bool := match o with
    | .s _ => true
    | _ => false
  let step (s : BitVec 12) (o : Operand) : Bool := decide (s.toNat % 4 = 0) && (decide (s = 0) || seg o)
  decide (w.count ≠ 0) && step w.sd f.d && step w.sa f.a && step w.sb f.b && step w.sc f.c

/-- A P half whose operation has one source has B = 0 (R45). -/
def PHalf.fieldsOk (h : PHalf) : Bool := (LaneOp.kinds (ShortOp.laneOp h.op)).2.1 ≠ .unused || h.b = .v 0

/-- MOD, unused fields and direct uses of IMM10 (R55 step 3; R108 for MASKOP). -/
def Instr.fieldsOk (i : Instr) : Bool :=
  match i with
  | .pWord h0 h1 => PHalf.fieldsOk h0 && PHalf.fieldsOk h1
  | .sweep w op f => w.ok f && f.scr && f.x.lit.isNone && VOps.ok op f
  | .sld f | .ld f => f.ok true false
  | .sst f | .st f => f.ok false false
  | .ldv f => f.ok true true
  | .stv f => f.ok false true
  | .pref perLane _ _ scale _ _ _ => perLane || !scale
  | .zfill sp _ _ sem _ hint _ _ _ => sem ≠ .acquire && (sp = .g || hint = .normal)
  | .atom f => (f.ret || f.op = .cas || f.d = .v 0) && (!f.w64 || (f.op ≠ .incw && f.op ≠ .fadd))
  | .cpy _ _ _ f | .cpyt _ f => !f.nc || f.n = 0
  | .vflag (.read _ _) _ => true
  | .smov _ (.word _ x) | .smov _ (.w64 _ x) | .smov _ (.f32 _ x) => x.ok (Machine.Instr.opnds i)
  | .sadd _ f | .ssub _ f | .smul _ f | .sdiv _ _ f | .sand _ f | .sor _ f | .sxor _ f | .smin _ f | .smax _ f
  | .sshl f | .sshr _ f | .scmp _ f | .ssel _ f => f.x.ok (Machine.Instr.opnds i)
  | .sbit _ _ _ _ x | .br _ x | .brc _ _ _ _ x | .brm _ _ _ x | .call _ _ x | .loop _ _ x | .emop _ _ x
  | .vcmp _ _ _ _ _ x | .vsel _ _ _ _ x | .vfcmp _ _ _ _ x | .shfl _ _ _ _ x | .bcast _ _ _ x | .bcastS _ _ _ x
  | .red _ _ _ _ x | .scan _ _ _ _ x | .vote _ _ _ x | .compact _ _ _ _ x | .lmap _ _ x | .tdef _ _ _ _ x | .tfree _ x
  | .swfence _ x | .dbell _ _ _ _ x => x.ok (Machine.Instr.opnds i)
  | .maskop _ _ x => x.imm = 0
  | .endpointCompletion _ lane _ _ | .completionTimeout _ lane => decide (lane < 96)
  | .debugRegisterWrite _ (.vreg _ lane) _ => decide (lane < 96)
  | .storeBufferWriteback core line => decide (core < 448 ∧ line < 2 ^ 64)
  | .engineOpStart core | .engineOpComplete core | .forwardProgressExpiry core | .illegalStateCheck core
  | .faultRecordEnqueue core => decide (core < 448)
  | .tailstockSend die | .dieCriticalTemp die | .dieTempResume die => decide (die < 5)
  | .clusterDrainResume k _ => decide (k < 56)
  | .stackCriticalTemp k | .stackResume k | .memoryStallEvent k | .stackLinkTagFail k _ | .keySwitch k | .keySlotRetire k
  | .stackOutOfService k => decide (k < 8)
  | .thojanFlowControl p _ | .linkRetrain p _ => decide (p < 64)
  | .flitReceive f => decide (f.port < 64)
  | .queueReread k | .depPacketRelease k | .queueIdleExpiry k => decide (k < 32)
  | .registerWrite (.portcfg p) _ | .registerWrite (.portspd p) _ => decide (p < 4)
  | i => match Machine.Instr.lane? i with
    | some (op, f) => VOps.ok op f
    | none => true

/-- A well-formed instruction: the fields and the operand codes are ones its description admits. -/
abbrev WellFormed (i : Instr) : Prop := Instr.fieldsOk i = true ∧ Machine.Instr.codesOk i = true

end Sys2Proof
end

