-- ==== Sys2Proof/Decode.lean ====
section
/-! DEFINITION. Instruction words (R35 to R53): the decoder, total on any words and rejecting by name, and the encoder. -/

namespace Sys2Proof

open Machine

/-- Why a word is not an instruction, in the terms of R55 steps 2 to 4. -/
inductive DecodeError where
  | illegalSweep
  | illegalInstruction
  | illegalPairing
  deriving DecidableEq, Repr

/-- The fields of an F or L word (R38). -/
structure Fields where
  opc : BitVec 7
  mod : BitVec 5
  d : BitVec 9
  a : BitVec 9
  b : BitVec 9
  c : BitVec 9
  n : BitVec 4
  imm : BitVec 10
  deriving DecidableEq, Repr

/-- Cut an F or L word into its fields (R38). -/
def Fields.split (w : DWord) : Fields :=
  { opc := w.extractLsb' 55 7, mod := w.extractLsb' 50 5, d := w.extractLsb' 41 9, a := w.extractLsb' 32 9,
    b := w.extractLsb' 23 9, c := w.extractLsb' 14 9, n := w.extractLsb' 10 4, imm := w.extractLsb' 0 10 }

/-- Put the fields into a word of kind F (0b00) or L (0b10). -/
def Fields.pack (f : Fields) (long : Bool) : DWord :=
  let kind : BitVec 2 := if long then 2 else 0
  (kind ++ (f.opc ++ (f.mod ++ (f.d ++ (f.a ++ (f.b ++ (f.c ++ (f.n ++ f.imm)))))))).cast (by decide)

/-- The operand of a code (R41). -/
def Operand.ofCode (c : BitVec 9) : Operand :=
  let k := c.toNat
  if k < 0x100 then .v (BitVec.ofNat 8 k)
  else if k < 0x180 then .s (BitVec.ofNat 7 k)
  else if k < 0x1C0 then .int (BitVec.ofNat 6 k)
  else if k < 0x1D0 then .fp (BitVec.ofNat 4 k)
  else if k < 0x1D8 then .special (BitVec.ofNat 3 k)
  else if k = 0x1E0 then .immS
  else if k = 0x1E1 then .immZ
  else if k = 0x1E2 then .lit
  else .reserved c

/-- The code of an operand (R41). -/
def Operand.code : Operand → BitVec 9
  | .v n => BitVec.ofNat 9 n.toNat
  | .s n => BitVec.ofNat 9 (0x100 + n.toNat)
  | .int k => BitVec.ofNat 9 (0x180 + k.toNat)
  | .fp k => BitVec.ofNat 9 (0x1C0 + k.toNat)
  | .special k => BitVec.ofNat 9 (0x1D0 + k.toNat)
  | .immS => 0x1E0
  | .immZ => 0x1E1
  | .lit => 0x1E2
  | .reserved c => c

/-! ### Names of field values -/

def RM.ofBits (n : Nat) : Option RM :=
  match n with
  | 0 => some .rne | 1 => some .rtz | 2 => some .rup | 3 => some .rdn | _ => none
def RM.bits : RM → Nat
  | .rne => 0 | .rtz => 1 | .rup => 2 | .rdn => 3

def FFmt.ofBits (n : Nat) : Option FFmt :=
  match n with
  | 0 => some .f32 | 1 => some .f16x2 | 2 => some .bf16x2 | _ => none
def FFmt.bits : FFmt → Nat
  | .f32 => 0 | .f16x2 => 1 | .bf16x2 => 2

def Space.ofBits (n : Nat) : Option Space :=
  match n with
  | 0 => some .g | 1 => some .s | 2 => some .l | _ => none
def Space.bits : Space → Nat
  | .g => 0 | .s => 1 | .l => 2

def Scope.ofBits (n : Nat) : Option Scope :=
  match n with
  | 0 => some .group | 1 => some .team | 2 => some .core | 3 => some .gang | 4 => some .cluster | 5 => some .die
  | 6 => some .package | 7 => some .domain | 8 => some .system | _ => none
def Scope.bits : Scope → Nat
  | .group => 0 | .team => 1 | .core => 2 | .gang => 3 | .cluster => 4 | .die => 5 | .package => 6 | .domain => 7
  | .system => 8

def Size.ofBits (n : Nat) : Option Size :=
  match n with
  | 0 => some .u8 | 1 => some .i8 | 2 => some .u16 | 3 => some .i16 | 4 => some .w | 5 => some .dw | 6 => some .qw
  | _ => none
def Size.bits : Size → Nat
  | .u8 => 0 | .i8 => 1 | .u16 => 2 | .i16 => 3 | .w => 4 | .dw => 5 | .qw => 6

def Sem.ofBits (n : Nat) : Option Sem :=
  match n with
  | 0 => some .plain | 1 => some .acquire | 2 => some .release | _ => none
def Sem.bits : Sem → Nat
  | .plain => 0 | .acquire => 1 | .release => 2

def Hint.ofBits (n : Nat) : Option Hint :=
  match n with
  | 0 => some .normal | 1 => some .stream | 2 => some .keep | _ => none
def Hint.bits : Hint → Nat
  | .normal => 0 | .stream => 1 | .keep => 2

def SatMode.ofBits (n : Nat) : Option SatMode :=
  match n with
  | 0 => some .wrap | 1 => some .sat | 2 => some .usat | _ => none
def SatMode.bits : SatMode → Nat
  | .wrap => 0 | .sat => 1 | .usat => 2

def MulMode.ofBits (n : Nat) : Option MulMode :=
  match n with
  | 0 => some .lo | 1 => some .hi | 2 => some .hiu | _ => none
def MulMode.bits : MulMode → Nat
  | .lo => 0 | .hi => 1 | .hiu => 2

def SCond.ofBits (n : Nat) : Option SCond :=
  match n with
  | 0 => some .eq | 1 => some .ne | 2 => some .lt | 3 => some .le | 4 => some .gt | 5 => some .ge | 6 => some .ltu
  | 7 => some .leu | 8 => some .gtu | 9 => some .geu | _ => none
def SCond.bits : SCond → Nat
  | .eq => 0 | .ne => 1 | .lt => 2 | .le => 3 | .gt => 4 | .ge => 5 | .ltu => 6 | .leu => 7 | .gtu => 8 | .geu => 9

def BrCond.ofBits (n : Nat) : Option BrCond :=
  match n with
  | 0 => some .z | 1 => some .nz | 2 => some .ltz | 3 => some .gez | 4 => some .gtz | 5 => some .lez | _ => none
def BrCond.bits : BrCond → Nat
  | .z => 0 | .nz => 1 | .ltz => 2 | .gez => 3 | .gtz => 4 | .lez => 5

def BrmCond.ofBits (n : Nat) : Option BrmCond :=
  match n with
  | 0 => some .any | 1 => some .none | 2 => some .all | 3 => some .nall | _ => Option.none
def BrmCond.bits : BrmCond → Nat
  | .any => 0 | .none => 1 | .all => 2 | .nall => 3

def VCond.ofBits (n : Nat) : Option VCond :=
  match n with
  | 0 => some .eq | 1 => some .ne | 2 => some .lt | 3 => some .le | 4 => some .gt | 5 => some .ge | _ => none
def VCond.bits : VCond → Nat
  | .eq => 0 | .ne => 1 | .lt => 2 | .le => 3 | .gt => 4 | .ge => 5

def FCond.ofBits (n : Nat) : Option FCond :=
  match n with
  | 0 => some .eq | 1 => some .ne | 2 => some .lt | 3 => some .le | 4 => some .gt | 5 => some .ge | 6 => some .un
  | 7 => some .or | _ => none
def FCond.bits : FCond → Nat
  | .eq => 0 | .ne => 1 | .lt => 2 | .le => 3 | .gt => 4 | .ge => 5 | .un => 6 | .or => 7

def SpecialFn.ofBits (n : Nat) : Option SpecialFn :=
  match n with
  | 0 => some .rcp | 1 => some .rsqrt | 2 => some .exp2 | 3 => some .log2 | 4 => some .sinpi | 5 => some .cospi
  | 6 => some .tanh | 7 => some .sigmoid | _ => none
def SpecialFn.bits : SpecialFn → Nat
  | .rcp => 0 | .rsqrt => 1 | .exp2 => 2 | .log2 => 3 | .sinpi => 4 | .cospi => 5 | .tanh => 6 | .sigmoid => 7

def ClassSrc.ofBits (n : Nat) : Option ClassSrc :=
  match n with
  | 0 => some .f32 | 1 => some .f16 | 2 => some .bf16 | _ => none
def ClassSrc.bits : ClassSrc → Nat
  | .f32 => 0 | .f16 => 1 | .bf16 => 2

def BfeMode.ofBits (n : Nat) : Option BfeMode :=
  match n with
  | 0 => some .u | 1 => some .i | 2 => some .ins | _ => none
def BfeMode.bits : BfeMode → Nat
  | .u => 0 | .i => 1 | .ins => 2

def VbitOp.ofBits (n : Nat) : Option VbitOp :=
  match n with
  | 0 => some .popc | 1 => some .clz | 2 => some .ctz | 3 => some .brev | 4 => some .bswap | _ => none
def VbitOp.bits : VbitOp → Nat
  | .popc => 0 | .clz => 1 | .ctz => 2 | .brev => 3 | .bswap => 4

def DotTypes.ofBits (n : Nat) : Option DotTypes :=
  match n with
  | 0 => some .ss | 1 => some .uu | 2 => some .su | _ => none
def DotTypes.bits : DotTypes → Nat
  | .ss => 0 | .uu => 1 | .su => 2

def ShflMode.ofBits (n : Nat) : Option ShflMode :=
  match n with
  | 0 => some .idx | 1 => some .up | 2 => some .down | 3 => some .xor | 4 => some .rot | _ => none
def ShflMode.bits : ShflMode → Nat
  | .idx => 0 | .up => 1 | .down => 2 | .xor => 3 | .rot => 4

def VoteOp.ofBits (n : Nat) : Option VoteOp :=
  match n with
  | 0 => some .any | 1 => some .all | 2 => some .ballot | 3 => some .popc | 4 => some .uni | _ => none
def VoteOp.bits : VoteOp → Nat
  | .any => 0 | .all => 1 | .ballot => 2 | .popc => 3 | .uni => 4

def LnstatOp.ofBits (n : Nat) : Option LnstatOp :=
  match n with
  | 0 => some .live | 1 => some .nlive | 2 => some .nbeats | 3 => some .good | 4 => some .peak | _ => none
def LnstatOp.bits : LnstatOp → Nat
  | .live => 0 | .nlive => 1 | .nbeats => 2 | .good => 3 | .peak => 4

def AtomOp.ofBits (n : Nat) : Option AtomOp :=
  match n with
  | 0 => some .add | 1 => some .min | 2 => some .max | 3 => some .minu | 4 => some .maxu | 5 => some .and | 6 => some .or
  | 7 => some .xor | 8 => some .xchg | 9 => some .cas | 10 => some .incw | 11 => some .fadd | _ => none
def AtomOp.bits : AtomOp → Nat
  | .add => 0 | .min => 1 | .max => 2 | .minu => 3 | .maxu => 4 | .and => 5 | .or => 6 | .xor => 7 | .xchg => 8 | .cas => 9
  | .incw => 10 | .fadd => 11

def Ord.ofBits (n : Nat) : Option Ord :=
  match n with
  | 0 => some .rlx | 1 => some .acq | 2 => some .rel | 3 => some .ar | _ => none
def Ord.bits : Ord → Nat
  | .rlx => 0 | .acq => 1 | .rel => 2 | .ar => 3

def FenceKind.ofBits (n : Nat) : Option FenceKind :=
  match n with
  | 0 => some .ar | 1 => some .acq | 2 => some .rel | 3 => some .all | _ => none
def FenceKind.bits : FenceKind → Nat
  | .ar => 0 | .acq => 1 | .rel => 2 | .all => 3

def ShortOp.ofBits (n : Nat) : Option ShortOp :=
  match n with
  | 0 => some .vaddI32 | 1 => some .vsubI32 | 2 => some .vmulI32 | 3 => some .vand | 4 => some .vor | 5 => some .vxor
  | 6 => some .vshl | 7 => some .vshrU32 | 8 => some .vshrI32 | 9 => some .vminI32 | 10 => some .vmaxI32
  | 11 => some .vminU32 | 12 => some .vmaxU32 | 13 => some .vmov | 14 => some .vfaddF32 | 15 => some .vfsubF32
  | 16 => some .vfmulF32 | 17 => some .vfminF32 | 18 => some .vfmaxF32 | 19 => some .vfaddF16x2 | 20 => some .vfmulF16x2
  | 21 => some .vfaddBf16x2 | 22 => some .vfmulBf16x2 | 23 => some .cvtF32I32 | _ => none
def ShortOp.bits : ShortOp → Nat
  | .vaddI32 => 0 | .vsubI32 => 1 | .vmulI32 => 2 | .vand => 3 | .vor => 4 | .vxor => 5 | .vshl => 6 | .vshrU32 => 7
  | .vshrI32 => 8 | .vminI32 => 9 | .vmaxI32 => 10 | .vminU32 => 11 | .vmaxU32 => 12 | .vmov => 13 | .vfaddF32 => 14
  | .vfsubF32 => 15 | .vfmulF32 => 16 | .vfminF32 => 17 | .vfmaxF32 => 18 | .vfaddF16x2 => 19 | .vfmulF16x2 => 20
  | .vfaddBf16x2 => 21 | .vfmulBf16x2 => 22 | .cvtF32I32 => 23

/-- Operation of RED and SCAN by code, with the TYPE field N (R146, R149). -/
def ScanOp.ofBits (k n : Nat) : Option ScanOp :=
  match k with
  | 0 => if n = 0 then some .add else none
  | 1 => if n < 2 then some (.min (n = 1)) else none
  | 2 => if n < 2 then some (.max (n = 1)) else none
  | 3 => if n = 0 then some .and else none
  | 4 => if n = 0 then some .or else none
  | 5 => if n = 0 then some .xor else none
  | 6 => (RM.ofBits n).map .fadd
  | _ => none
def ScanOp.bits : ScanOp → Nat × Nat
  | .add => (0, 0)
  | .min u => (1, if u then 1 else 0)
  | .max u => (2, if u then 1 else 0)
  | .and => (3, 0)
  | .or => (4, 0)
  | .xor => (5, 0)
  | .fadd rm => (6, RM.bits rm)

def RedOp.ofBits (k n : Nat) : Option RedOp :=
  match k with
  | 7 => if n = 0 then some .fmin else none
  | 8 => if n = 0 then some .fmax else none
  | 9 => if n = 0 then some .amax else none
  | _ => (ScanOp.ofBits k n).map .scan
def RedOp.bits : RedOp → Nat × Nat
  | .scan op => ScanOp.bits op
  | .fmin => (7, 0)
  | .fmax => (8, 0)
  | .amax => (9, 0)

/-- Variant of a lane operation by opcode, MOD[3:0] and N (R79 to R86, R121 to R138). -/
def LaneOp.ofBits (opc m n : Nat) : Option LaneOp :=
  let n0 (op : LaneOp) : Option LaneOp := if n = 0 then some op else none
  let u (f : Bool → LaneOp) : Option LaneOp := if n < 2 then some (f (n = 1)) else none
  let r (f : RM → LaneOp) : Option LaneOp := (RM.ofBits n).map f
  match opc with
  | 0x20 => if m < 4 then u (fun b => .add ⟨b, m % 2 = 1, 2 ≤ m⟩) else none
  | 0x21 => if m < 4 then u (fun b => .sub ⟨b, m % 2 = 1, 2 ≤ m⟩) else none
  | 0x22 => if m < 2 then n0 (.mul (m = 1)) else none
  | 0x23 => if m = 0 then u .mulh else none
  | 0x24 => match m with
    | 0 => n0 (.mad .wrap)
    | 1 => u (fun b => .mad (.sat b))
    | _ => none
  | 0x25 => if m < 2 then u (fun b => .div b (m = 1)) else none
  | 0x26 => if m < 2 then n0 (.and (m = 1)) else none
  | 0x27 => if m < 2 then n0 (.or (m = 1)) else none
  | 0x28 => if m < 2 then n0 (.xor (m = 1)) else none
  | 0x29 => if m < 2 then n0 (.shl (m = 1)) else none
  | 0x2A => if m < 2 then u (fun b => .shr b (m = 1)) else none
  | 0x2B => if m < 2 then u (fun b => .min b (m = 1)) else none
  | 0x2C => if m < 2 then u (fun b => .max b (m = 1)) else none
  | 0x2F => if m = 0 then n0 .mov else none
  | 0x30 => (FFmt.ofBits m).bind (fun f => r (.fadd f))
  | 0x31 => (FFmt.ofBits m).bind (fun f => r (.fsub f))
  | 0x32 => (FFmt.ofBits m).bind (fun f => r (.fmul f))
  | 0x33 => (FFmt.ofBits (m % 4)).bind (fun f => r (.fma f (m / 4 % 2 = 1) (m / 8 % 2 = 1)))
  | 0x34 => if m < 8 then (FFmt.ofBits (m % 4)).bind (fun f => n0 (.fmin f (m / 4 = 1))) else none
  | 0x35 => if m < 8 then (FFmt.ofBits (m % 4)).bind (fun f => n0 (.fmax f (m / 4 = 1))) else none
  | 0x37 => if m = 0 then r .fdiv else none
  | 0x38 => if m = 0 then r .fsqrt else none
  | 0x39 => (SpecialFn.ofBits m).bind (fun f => n0 (.sf f))
  | 0x3B => (ClassSrc.ofBits m).bind (fun f => n0 (.cls f))
  | 0x3C => (BfeMode.ofBits m).bind (fun f => n0 (.bfe f))
  | 0x3D => (VbitOp.ofBits m).bind (fun f => n0 (.bit f))
  | 0x3E => if m < 8 then (DotTypes.ofBits (m % 4)).bind (fun f => n0 (.dot4 f (m / 4 = 1))) else none
  | 0x3F => (FFmt.ofBits m).bind (fun f => r (.rnd f))
  | 0x40 => match m with
    | 0 => r (fun x => .cvt (.f32i32 x)) | 1 => r (fun x => .cvt (.f32u32 x))
    | 2 => n0 (.cvt .f32f16) | 3 => n0 (.cvt .f32bf16)
    | 4 => r (fun x => .cvt (.f16f32 x)) | 5 => r (fun x => .cvt (.bf16f32 x))
    | 6 => r (fun x => .cvt (.f16bf16 x)) | 7 => r (fun x => .cvt (.bf16f16 x))
    | _ => none
  | 0x41 => match m with
    | 0 => n0 (.cvt8 .f32e4m3) | 1 => n0 (.cvt8 .f32e5m2)
    | 2 => r (fun x => .cvt8 (.e4m3f32 false x)) | 3 => r (fun x => .cvt8 (.e5m2f32 false x))
    | 4 => r (fun x => .cvt8 (.e4m3f32 true x)) | 5 => r (fun x => .cvt8 (.e5m2f32 true x))
    | _ => none
  | 0x42 => match m with
    | 0 => r (fun x => .pack (.f16x2 x)) | 1 => r (fun x => .pack (.bf16x2 x))
    | 2 => n0 (.pack .h16) | 3 => n0 (.pack .i16x2sat) | 4 => n0 (.pack .ins8)
    | _ => none
  | 0x43 => match m with
    | 0 => n0 (.unpack .f32f16) | 1 => n0 (.unpack .f32bf16) | 2 => n0 (.unpack .u16) | 3 => n0 (.unpack .i16)
    | 4 => n0 (.unpack .u8) | 5 => n0 (.unpack .i8)
    | _ => none
  | 0x44 => if m < 2 then r (.qgdec (m = 1)) else none
  | 0x45 => if m < 2 then n0 (.qgenc (m = 1)) else none
  | 0x46 => if m = 0 then n0 .qgscl else none
  | 0x47 => match m with
    | 0 => r (fun x => .cvtsat (.i32f32 x)) | 1 => r (fun x => .cvtsat (.u32f32 x))
    | 2 => r (fun x => .cvtsat (.i16f32 x)) | 3 => r (fun x => .cvtsat (.u16f32 x))
    | 4 => r (fun x => .cvtsat (.i8f32 x)) | 5 => r (fun x => .cvtsat (.u8f32 x))
    | 6 => n0 (.cvtsat .i16i32) | 7 => n0 (.cvtsat .u16i32) | 8 => n0 (.cvtsat .i8i32) | 9 => n0 (.cvtsat .u8i32)
    | 10 => n0 (.cvtsat .u8u32)
    | _ => none
  | _ => none

/-- A truth value as a bit. -/
def b01 (b : Bool) : Nat := if b then 1 else 0

/-- Opcode, MOD[3:0] and N of a lane operation. -/
def LaneOp.bits : LaneOp → Nat × Nat × Nat
  | .add m => (0x20, b01 m.sat + 2 * b01 m.pk, b01 m.u)
  | .sub m => (0x21, b01 m.sat + 2 * b01 m.pk, b01 m.u)
  | .mul pk => (0x22, b01 pk, 0)
  | .mulh u => (0x23, 0, b01 u)
  | .mad .wrap => (0x24, 0, 0)
  | .mad (.sat u) => (0x24, 1, b01 u)
  | .div u r => (0x25, b01 r, b01 u)
  | .and i => (0x26, b01 i, 0)
  | .or i => (0x27, b01 i, 0)
  | .xor i => (0x28, b01 i, 0)
  | .shl pk => (0x29, b01 pk, 0)
  | .shr u pk => (0x2A, b01 pk, b01 u)
  | .min u pk => (0x2B, b01 pk, b01 u)
  | .max u pk => (0x2C, b01 pk, b01 u)
  | .mov => (0x2F, 0, 0)
  | .fadd f rm => (0x30, FFmt.bits f, RM.bits rm)
  | .fsub f rm => (0x31, FFmt.bits f, RM.bits rm)
  | .fmul f rm => (0x32, FFmt.bits f, RM.bits rm)
  | .fma f np nc rm => (0x33, FFmt.bits f + 4 * b01 np + 8 * b01 nc, RM.bits rm)
  | .fmin f n => (0x34, FFmt.bits f + 4 * b01 n, 0)
  | .fmax f n => (0x35, FFmt.bits f + 4 * b01 n, 0)
  | .fdiv rm => (0x37, 0, RM.bits rm)
  | .fsqrt rm => (0x38, 0, RM.bits rm)
  | .sf f => (0x39, SpecialFn.bits f, 0)
  | .cls f => (0x3B, ClassSrc.bits f, 0)
  | .bfe f => (0x3C, BfeMode.bits f, 0)
  | .bit f => (0x3D, VbitOp.bits f, 0)
  | .dot4 f s => (0x3E, DotTypes.bits f + 4 * b01 s, 0)
  | .rnd f rm => (0x3F, FFmt.bits f, RM.bits rm)
  | .cvt f => match f with
    | .f32i32 x => (0x40, 0, RM.bits x) | .f32u32 x => (0x40, 1, RM.bits x) | .f32f16 => (0x40, 2, 0)
    | .f32bf16 => (0x40, 3, 0) | .f16f32 x => (0x40, 4, RM.bits x) | .bf16f32 x => (0x40, 5, RM.bits x)
    | .f16bf16 x => (0x40, 6, RM.bits x) | .bf16f16 x => (0x40, 7, RM.bits x)
  | .cvt8 f => match f with
    | .f32e4m3 => (0x41, 0, 0) | .f32e5m2 => (0x41, 1, 0)
    | .e4m3f32 s x => (0x41, 2 + 2 * b01 s, RM.bits x) | .e5m2f32 s x => (0x41, 3 + 2 * b01 s, RM.bits x)
  | .pack f => match f with
    | .f16x2 x => (0x42, 0, RM.bits x) | .bf16x2 x => (0x42, 1, RM.bits x) | .h16 => (0x42, 2, 0)
    | .i16x2sat => (0x42, 3, 0) | .ins8 => (0x42, 4, 0)
  | .unpack f => match f with
    | .f32f16 => (0x43, 0, 0) | .f32bf16 => (0x43, 1, 0) | .u16 => (0x43, 2, 0) | .i16 => (0x43, 3, 0)
    | .u8 => (0x43, 4, 0) | .i8 => (0x43, 5, 0)
  | .qgdec b rm => (0x44, b01 b, RM.bits rm)
  | .qgenc b => (0x45, b01 b, 0)
  | .qgscl => (0x46, 0, 0)
  | .cvtsat f => match f with
    | .i32f32 x => (0x47, 0, RM.bits x) | .u32f32 x => (0x47, 1, RM.bits x) | .i16f32 x => (0x47, 2, RM.bits x)
    | .u16f32 x => (0x47, 3, RM.bits x) | .i8f32 x => (0x47, 4, RM.bits x) | .u8f32 x => (0x47, 5, RM.bits x)
    | .i16i32 => (0x47, 6, 0) | .u16i32 => (0x47, 7, 0) | .i8i32 => (0x47, 8, 0) | .u8i32 => (0x47, 9, 0)
    | .u8u32 => (0x47, 10, 0)

/-- The instruction of a lane operation. -/
def LaneOp.instr (op : LaneOp) (f : VOps) : Instr :=
  match op with
  | .add m => .vadd m f
  | .sub m => .vsub m f
  | .mul pk => .vmul pk f
  | .mulh u => .vmulh u f
  | .mad m => .vmad m f
  | .div u r => .vdiv u r f
  | .and i => .vand i f
  | .or i => .vor i f
  | .xor i => .vxor i f
  | .shl pk => .vshl pk f
  | .shr u pk => .vshr u pk f
  | .min u pk => .vmin u pk f
  | .max u pk => .vmax u pk f
  | .mov => .vmov f
  | .fadd t rm => .vfadd t rm f
  | .fsub t rm => .vfsub t rm f
  | .fmul t rm => .vfmul t rm f
  | .fma t np nc rm => .vfma t np nc rm f
  | .fmin t n => .vfmin t n f
  | .fmax t n => .vfmax t n f
  | .fdiv rm => .vfdiv rm f
  | .fsqrt rm => .vfsqrt rm f
  | .sf fn => .vsf fn f
  | .cls s => .vclass s f
  | .bfe m => .vbfe m f
  | .bit b => .vbit b f
  | .dot4 t s => .vdot4 t s f
  | .rnd t rm => .vrnd t rm f
  | .cvt g => .cvt g f
  | .cvt8 g => .cvt8 g f
  | .pack g => .pack g f
  | .unpack g => .unpack g f
  | .qgdec b rm => .qgdec b rm f
  | .qgenc b => .qgenc b f
  | .qgscl => .qgscl f
  | .cvtsat g => .cvtsat g f

/-! ### Decoding the fields by family -/

/-- The operands of a word by name. -/
def Fields.A (f : Fields) : Operand := .ofCode f.a
def Fields.B (f : Fields) : Operand := .ofCode f.b
def Fields.C (f : Fields) : Operand := .ofCode f.c
def Fields.D (f : Fields) : Operand := .ofCode f.d

/-- The unused fields of a word are 0 (R39): a letter `true` marks a used field. -/
def Fields.only (f : Fields) (d a b c n imm : Bool) : Bool :=
  (d || f.d = 0) && (a || f.a = 0) && (b || f.b = 0) && (c || f.c = 0) && (n || f.n = 0) && (imm || f.imm = 0)

def opt {α : Type} (c : Bool) (x : α) : Option α := if c then some x else none

/-- Opcodes 0x00 to 0x0F (R93 to R99). -/
def decodeScalar (f : Fields) (l : Lit) : Option Instr :=
  let m := f.mod.toNat
  let x : Ext := ⟨f.imm, l⟩
  let two (hi : Nat) : Option SBin :=
    opt (m < hi && f.only true true true false false true) ⟨m % 2 = 1, f.D, f.A, f.B, x⟩
  match f.opc.toNat with
  | 0x00 => opt (m = 0 && f.only false false false false false false) (.nop l)
  | 0x01 => match m with
    | 0 => opt (f.only true true false false false true) (.smov f.D (.word f.A x))
    | 1 => opt (f.only true true false false false true) (.smov f.D (.w64 f.A x))
    | 2 => opt (f.only true true false false false true) (.smov f.D (.f32 f.A x))
    | 3 => opt (f.only true false false false false true && f.imm.toNat < 256)
      (.smov f.D (.special (f.imm.extractLsb' 0 8) l))
    | 4 => opt (f.only false true false false false true && f.imm.toNat < 256)
      (.smovToSpecial (f.imm.extractLsb' 0 8) f.A l)
    | _ => none
  | 0x02 => (two 8).bind (fun g => (SatMode.ofBits (m / 2)).map (fun k => .sadd k g))
  | 0x03 => (two 8).bind (fun g => (SatMode.ofBits (m / 2)).map (fun k => .ssub k g))
  | 0x04 => (two 8).bind (fun g => (MulMode.ofBits (m / 2)).map (fun k => .smul k g))
  | 0x05 => (two 8).map (fun g => .sdiv (m / 2 % 2 = 1) (m / 4 = 1) g)
  | 0x06 => (two 4).map (fun g => .sand (m / 2 = 1) g)
  | 0x07 => (two 4).map (fun g => .sor (m / 2 = 1) g)
  | 0x08 => (two 4).map (fun g => .sxor (m / 2 = 1) g)
  | 0x09 => (two 2).map .sshl
  | 0x0A => (two 4).map (fun g => .sshr (m / 2 = 1) g)
  | 0x0B => (two 4).map (fun g => .smin (m / 2 = 1) g)
  | 0x0C => (two 4).map (fun g => .smax (m / 2 = 1) g)
  | 0x0D => (two 32).bind (fun g => (SCond.ofBits (m / 2)).map (fun k => .scmp k g))
  | 0x0E => opt (m < 2 && f.only true true true true false true) (.ssel f.C ⟨m % 2 = 1, f.D, f.A, f.B, x⟩)
  | 0x0F =>
    let one := f.only true true false false false true
    let three := f.only true true true true false true
    let mk (c : Bool) (op : SbitOp) : Option Instr := opt c (.sbit op (16 ≤ m) f.D f.A x)
    match m % 16 with
    | 0 => mk one .popc
    | 1 => mk one .clz
    | 2 => mk one .ctz
    | 3 => mk three (.bfeU f.B f.C)
    | 4 => mk three (.bfeI f.B f.C)
    | 5 => mk three (.bfi f.B f.C)
    | 6 => mk one .brev
    | 7 => mk one .bswap
    | _ => none
  | _ => none

/-- A barrier named in IMM10[5:0] (R272). -/
def BarRef.ofImm (imm : BitVec 10) : BarRef := ⟨imm.toNat / 32 % 2 = 1, imm.extractLsb' 0 5⟩

/-- Opcodes 0x12 to 0x1F (R100 to R109, R304, R310, R339, R346 to R348). -/
def decodeControl (f : Fields) (l : Lit) : Option Instr :=
  let m := f.mod.toNat
  let x : Ext := ⟨f.imm, l⟩
  match f.opc.toNat with
  | 0x12 => opt (m = 0 && f.only false false true false false true) (.br f.B x)
  | 0x13 => if f.only false true true false false true && m < 16 then
      (BrCond.ofBits (m % 8)).map (fun k => .brc k (8 ≤ m) f.A f.B x) else none
  | 0x14 => if f.only false true true false false true then
      (BrmCond.ofBits m).map (fun k => .brm k f.A f.B x) else none
  | 0x15 => match m with
    | 0 => opt (f.only true false true false false true) (.call f.D (.offset f.B) x)
    | 1 => opt (f.only true true false false false true) (.call f.D (.reg f.A) x)
    | _ => none
  | 0x16 => match m with
    | 0 => opt (f.only false true false false false false) (.jmp (.reg f.A) l)
    | 1 => opt (f.only false false false false false false) (.jmp .tpc l)
    | _ => none
  | 0x17 => opt (m = 0 && f.only true false true false false true) (.loop f.D f.B x)
  | 0x18 =>
    let save : Option Operand := if 16 ≤ m then some f.D else none
    let mk (usesA : Bool) (op : EmopOp) : Option Instr :=
      opt (f.only (16 ≤ m) usesA false false false true) (.emop op save x)
    match m % 16 with
    | 0 => mk true (.set f.A)
    | 1 => mk true (.and f.A)
    | 2 => mk true (.andn f.A)
    | 3 => mk true (.or f.A)
    | 4 => mk true (.els f.A)
    | 5 => mk false .live
    | _ => none
  | 0x19 =>
    let mk (usesB : Bool) (op : MaskOp) : Option Instr := opt (f.only true true usesB false false true) (.maskop op f.D x)
    match m with
    | 0 => mk true (.and f.A f.B)
    | 1 => mk true (.or f.A f.B)
    | 2 => mk true (.xor f.A f.B)
    | 3 => mk true (.andn f.A f.B)
    | 4 => mk false (.not f.A)
    | 5 => mk false (.mov f.A)
    | 6 => mk false (.live f.A)
    | 7 => mk false (.popc f.A)
    | 8 => mk false (.first f.A)
    | 9 => mk false (.last f.A)
    | 10 => mk true (.range f.A f.B)
    | _ => none
  | 0x1A => opt (m = 0 && f.only false false false false false true && f.imm.toNat < 256)
      (.region (f.imm.extractLsb' 0 8) l)
  | 0x1B => match m with
    | 0 => opt (f.only false true false false false true && f.imm.toNat < 64) (.yieldBar (.ofImm f.imm) f.A l)
    | 1 => opt (f.only false true false false false true && f.imm.toNat < 256)
      (.yieldEv (f.imm.extractLsb' 0 8) f.A l)
    | _ => none
  | 0x1C => opt (m = 0 && f.only false false false false false true && f.imm.toNat < 64)
      (.trap (f.imm.extractLsb' 0 6) l)
  | 0x1D => opt (m = 0 && f.only false false false false false true && f.imm.toNat < 256)
      (.brk (f.imm.extractLsb' 0 8) l)
  | 0x1E => opt (m = 0 && f.only true true false false false true && f.imm.toNat < 256)
      (.sysreq (f.imm.extractLsb' 0 8) f.D f.A l)
  | 0x1F => match m with
    | 0 => opt (f.only false false false false false false) (.exit l)
    | 1 => opt (f.only false true false false false false) (.exitAbort f.A l)
    | _ => none
  | _ => none

/-- Opcodes 0x20 to 0x47: the lane operations, and VCMP, VSEL, VFCMP and VFLAG (R116 to R139, R77 to R86). -/
def decodeVector (f : Fields) (l : Lit) : Option Instr :=
  let m := f.mod.toNat
  let n := f.n.toNat
  let x : Ext := ⟨f.imm, l⟩
  match f.opc.toNat with
  | 0x2D => if n < 2 && f.only true true true false true true then
      (VCond.ofBits m).map (fun k => .vcmp k (n = 1) f.D f.A f.B x) else none
  | 0x2E => opt (m = 0 && f.only true true true true false true) (.vsel f.D f.A f.B f.C x)
  | 0x36 => if f.only true true true false false true then
      (FCond.ofBits m).map (fun k => .vfcmp k f.D f.A f.B x) else none
  | 0x3A =>
    let sel := f.imm.extractLsb' 0 7
    let small := f.imm.toNat < 128
    match m with
    | 0 => opt (f.only true false false false false true && small) (.vflag (.read f.D sel) l)
    | 1 => opt (f.only true false false false false true && small) (.vflag (.readclr f.D sel) l)
    | 2 => opt (f.only false false false false false true && small) (.vflag (.clr sel) l)
    | 3 => opt (f.only false false false false false true && small) (.vflag (.set sel) l)
    | 4 => opt (f.only true false false false false false) (.vflag (.get f.D) l)
    | 5 => opt (f.only false true false false false false) (.vflag (.put f.A) l)
    | _ => none
  | opc => (LaneOp.ofBits opc (m % 16) n).map (fun op => LaneOp.instr op ⟨16 ≤ m, f.D, f.A, f.B, f.C, x⟩)

/-- Opcodes 0x48 to 0x4F (R141 to R153). -/
def decodeCross (f : Fields) (l : Lit) : Option Instr :=
  let m := f.mod.toNat
  let n := f.n.toNat
  let x : Ext := ⟨f.imm, l⟩
  match f.opc.toNat with
  | 0x48 => if f.only true true true false false true then
      (ShflMode.ofBits m).map (fun k => .shfl k f.D f.A f.B x) else none
  | 0x49 => match m with
    | 0 => opt (f.only true true true false false true) (.bcast (.lane f.B) f.D f.A x)
    | 1 => opt (f.only true true false false false true) (.bcast .first f.D f.A x)
    | 2 => opt (f.only true true false false false true) (.bcast .last f.D f.A x)
    | 3 => opt (f.only true true true false false true) (.bcastS f.D f.A f.B x)
    | _ => none
  | 0x4A => if f.only true true false false true true then
      (RedOp.ofBits (m % 16) n).map (fun k => .red k (16 ≤ m) f.D f.A x) else none
  | 0x4B => if m < 16 && f.only true true false false true true then
      (ScanOp.ofBits (m % 8) n).map (fun k => .scan k (8 ≤ m) f.D f.A x) else none
  | 0x4C => if f.only true true false false false true then
      (VoteOp.ofBits m).map (fun k => .vote k f.D f.A x) else none
  | 0x4D => opt (m < 2 && f.only true true false true false true) (.compact (m = 1) f.D f.A f.C x)
  | 0x4E => match m with
    | 0 => opt (f.only true false false false false true) (.lmap .beat f.D x)
    | 1 => opt (f.only true false false false false true) (.lmap .phys f.D x)
    | 2 => opt (f.only true true true false false true) (.lmap (.lane f.A f.B) f.D x)
    | _ => none
  | 0x4F => if f.only true false false false false false then
      (LnstatOp.ofBits m).map (fun k => .lnstat k f.D l) else none
  | _ => none

/-- Opcodes 0x50 to 0x5A (R169, R173 to R186). -/
def decodeMatrix (f : Fields) (l : Lit) : Option Instr :=
  let m := f.mod.toNat
  let x : Ext := ⟨f.imm, l⟩
  let t := f.imm.extractLsb' 0 3
  let tile := f.imm.toNat < 8
  match f.opc.toNat with
  | 0x50 => opt (m < 2 && f.only true true true false false true) (.tdef (m = 1) f.D f.A f.B x)
  | 0x51 => opt (m = 0 && f.only false true false false false true) (.tfree f.A x)
  | 0x52 => match m with
    | 0 => opt (f.only true true false false false true && f.imm.toNat < 16)
      (.tqry (.word (f.imm.extractLsb' 0 4)) f.D f.A l)
    | 1 => opt (f.only true true false false false false) (.tqry .cur f.D f.A l)
    | _ => none
  | 0x53 => opt (m < 2 && f.only false true true true true true && tile) (.mma (m = 1) f.A f.B f.C f.n t l)
  | 0x54 => opt (m = 0 && f.only false false false false false true && tile) (.mzero t l)
  | 0x55 => opt (m = 0 && f.only false true false true true true && tile) (.mload f.A f.C f.n t l)
  | 0x56 => if f.only false true false true true true && tile then
      (RM.ofBits m).map (fun rm => .mstore rm f.A f.C f.n t l) else none
  | 0x57 => opt (m < 4 && f.only true true false false false true && tile) (.mcorr (2 ≤ m) (m % 2 = 1) f.D f.A t l)
  | 0x58 => opt (m < 2 && f.only true false false false false true && tile) (.mstat (m = 1) f.D t l)
  | 0x59 => opt (m = 0 && f.only true false false false false true && tile) (.msig f.D t l)
  | 0x5A => match m with
    | 0 => opt (f.only false true false false false true) (.swfence (.h f.A) x)
    | 1 => opt (f.only false true true false false true) (.swfence (.h2 f.A f.B) x)
    | 2 => opt (f.only false false false false false true) (.swfence .all x)
    | _ => none
  | _ => none

/-- The fields LD, ST, LDV, STV, SLD, SST share (R207, R208). -/
def decodeMem (f : Fields) (l : Lit) : Option MemF := do
  let m := f.mod.toNat
  let c := f.c.toNat
  let sp ← Space.ofBits (m / 8)
  let sz ← Size.ofBits (m % 8)
  let sem ← Sem.ofBits (c / 128)
  let scope ← Scope.ofBits (c / 8 % 16)
  let hint ← Hint.ofBits (c % 4)
  some ⟨sp, sz, f.D, f.A, f.B, sem, scope, c / 4 % 2 = 1, hint, f.n, f.imm, l⟩

/-- Opcodes 0x10, 0x11 and 0x60 to 0x68 (R207 to R224). -/
def decodeMemory (f : Fields) (l : Lit) : Option Instr :=
  let m := f.mod.toNat
  let c := f.c.toNat
  match f.opc.toNat with
  | 0x10 => (decodeMem f l).map .sld
  | 0x11 => (decodeMem f l).map .sst
  | 0x60 => (decodeMem f l).map .ld
  | 0x61 => (decodeMem f l).map .st
  | 0x62 => (decodeMem f l).map .ldv
  | 0x63 => (decodeMem f l).map .stv
  | 0x64 => match m with
    | 0 => opt (f.only false false false false true true && f.imm.toNat < 256)
      (.wait f.n (f.imm.extractLsb' 0 8) l)
    | 1 => opt (f.only false false false false false false) (.waitAll l)
    | _ => none
  | 0x65 => match m with
    | 0 => opt (f.only true false false false true false) (.actrRead f.D f.n l)
    | 1 => opt (f.only true false false false false false) (.actrMask f.D l)
    | _ => none
  | 0x66 => if m < 2 && f.only false true true true false true && c < 8 then
      (Hint.ofBits (c % 4)).map (fun h => .pref (m = 0) f.A f.B (c / 4 = 1) h f.imm l) else none
  | 0x67 => if f.only false true true true true true && m % 8 = 0 && c / 4 % 2 = 0 then do
      let sp ← Space.ofBits (m / 8)
      let sem ← Sem.ofBits (c / 128)
      let scope ← Scope.ofBits (c / 8 % 16)
      let hint ← Hint.ofBits (c % 4)
      some (.zfill sp f.A f.B sem scope hint f.n f.imm l)
    else none
  | 0x68 => opt (m = 0 && f.only true true true false false false) (.gwin f.D f.A f.B l)
  | _ => none

/-- The fields CPY and CPYT share (R243). -/
def decodeCopyF (f : Fields) (l : Lit) : Option CopyF :=
  if f.imm.toNat < 256 then
    (Scope.ofBits (f.imm.toNat / 16)).map (fun s =>
      ⟨f.A, f.B, f.C, f.n, s, f.imm.toNat / 8 % 2 = 1, f.imm.extractLsb' 0 3, l⟩)
  else none

/-- Opcodes 0x70 to 0x75 (R243 to R256). -/
def decodeCopy (f : Fields) (l : Lit) : Option Instr :=
  let m := f.mod.toNat
  let slot := f.imm.extractLsb' 0 3
  match f.opc.toNat with
  | 0x70 => if f.only false true true true true true then do
      let dsp ← Space.ofBits (m / 8)
      let ssp ← Space.ofBits (m / 2 % 4)
      let g ← decodeCopyF f l
      some (.cpy dsp ssp (m % 2 = 1) g)
    else none
  | 0x71 => if m < 2 && f.only (m = 1) true true true true true then
      (decodeCopyF f l).map (.cpyt (if m = 1 then some f.D else none)) else none
  | 0x72 => opt (m = 0 && f.only false false false false false true && f.imm.toNat < 256)
      (.qfence (f.imm.extractLsb' 0 8) l)
  | 0x73 => match m with
    | 0 => opt (f.only true false false false false true && f.imm.toNat < 8) (.cstat (.infl slot) f.D l)
    | 1 => opt (f.only true false false false false false) (.cstat .mask f.D l)
    | 2 => opt (f.only true false false false false false) (.cstat .pool f.D l)
    | _ => none
  | 0x74 => opt (m < 2 && f.only false true false false false true && f.imm.toNat < 8) (.coll (m = 1) f.A slot l)
  | 0x75 => match m with
    | 0 => opt (f.only true false false false false true && f.imm.toNat < 8) (.collwt f.D slot l)
    | 1 => opt (f.only true false false false false true && f.imm.toNat < 8) (.collwtTry f.D slot l)
    | _ => none
  | _ => none

/-- Opcodes 0x78 to 0x7F (R263 to R282, R299, R319, R371). -/
def decodeSync (f : Fields) (l : Lit) : Option Instr :=
  let m := f.mod.toNat
  let i := f.imm.toNat
  let x : Ext := ⟨f.imm, l⟩
  let bar := BarRef.ofImm f.imm
  let q := f.imm.extractLsb' 0 5
  let e := f.imm.extractLsb' 0 8
  match f.opc.toNat with
  | 0x78 => do
    let op ← AtomOp.ofBits (m % 16)
    let ord ← Ord.ofBits (i / 256)
    let scope ← Scope.ofBits (i / 16 % 16)
    let sp ← Space.ofBits (i / 4 % 4)
    some (.atom ⟨16 ≤ m, op, f.D, f.A, f.B, f.C, f.n, ord, scope, sp, i / 2 % 2 = 1, i % 2 = 1, l⟩)
  | 0x79 => if f.only false false false false false true && i % 16 = 0 && i < 256 then do
      let k ← FenceKind.ofBits m
      let s ← Scope.ofBits (i / 16)
      some (.fence k s l)
    else none
  | 0x7A =>
    let imm := i < 64
    match m with
    | 0 => opt (f.only false true false false false true && imm) (.barInit bar f.A l)
    | 1 => opt (f.only true false false false false true && imm) (.barArrive f.D bar l)
    | 2 => opt (f.only true false false false false true && imm) (.barArriveNw f.D bar l)
    | 3 => opt (f.only true false false false true true && imm && f.n.toNat < 8)
      (.barArriveDefer f.D bar (f.n.extractLsb' 0 3) l)
    | 4 => opt (f.only false true false false false true && imm) (.barWait bar f.A l)
    | 5 => opt (f.only true false false false false true && imm) (.barStat f.D bar l)
    | 6 => opt (f.only true false false false false true && imm) (.barStatExp f.D bar l)
    | _ => none
  | 0x7B =>
    let imm := i < 32
    match m with
    | 0 => opt (f.only false true true false false true && imm) (.qopDef q f.A f.B l)
    | 1 => opt (f.only false true true false false true && imm) (.qopPush q f.A f.B l)
    | 2 => opt (f.only true false false false false true && imm) (.qopPop f.D q l)
    | 3 => opt (f.only true true true false false true && imm) (.qopTrypush f.D q f.A f.B l)
    | 4 => opt (f.only true false false false false true && imm) (.qopTrypop f.D q l)
    | 5 => opt (f.only true false false false false true && imm) (.qopStat f.D q l)
    | 6 => opt (f.only true false false false false true && imm) (.qopStatCfg f.D q l)
    | _ => none
  | 0x7C =>
    let imm := i < 256
    match m with
    | 0 => opt (f.only false true false false false true && imm) (.evw e f.A l)
    | 1 => opt (f.only true true false false false true && imm) (.evwTry f.D e f.A l)
    | 2 => opt (f.only true false false false false true && imm) (.evwStat f.D e l)
    | 3 => opt (f.only true false false false false true && imm) (.evwClr f.D e l)
    | _ => none
  | 0x7D => if m < 2 then opt (f.only false true true false false false) (.spawn (m = 1) f.A f.B l)
    else opt (m < 4 && f.only true true true false false false) (.spawnTry (m = 3) f.D f.A f.B l)
  | 0x7E => opt (m < 2 && f.only true true false false false false) (.launch (m = 1) f.D f.A l)
  | 0x7F => opt (m < 4 && f.only false true true false false true) (.dbell (m % 2 = 1) (2 ≤ m) f.A f.B x)
  | _ => none

/-- Decode the fields of an F or L word (R53); `none` is an illegal instruction (R55 step 3). -/
def decodeFields (f : Fields) (l : Lit) : Option Instr :=
  let o := f.opc.toNat
  let i :=
    if o < 0x10 then decodeScalar f l
    else if o < 0x12 then decodeMemory f l
    else if o < 0x20 then decodeControl f l
    else if o < 0x48 then decodeVector f l
    else if o < 0x50 then decodeCross f l
    else if o < 0x60 then decodeMatrix f l
    else if o < 0x70 then decodeMemory f l
    else if o < 0x78 then decodeCopy f l
    else decodeSync f l
  i.bind (fun i => if Instr.fieldsOk i then some i else none)

/-- One half of a P word: OPS, D, A and B (R44). -/
def decodeHalf (ops : BitVec 5) (d : BitVec 8) (a b : BitVec 9) : Option PHalf :=
  (ShortOp.ofBits ops.toNat).map (fun op => ⟨op, d, .ofCode a, .ofCode b⟩)

/-- A P word (R44, R45). -/
def decodeP (w : DWord) : Except DecodeError Instr :=
  match decodeHalf (w.extractLsb' 57 5) (w.extractLsb' 49 8) (w.extractLsb' 40 9) (w.extractLsb' 31 9),
        decodeHalf (w.extractLsb' 26 5) (w.extractLsb' 18 8) (w.extractLsb' 9 9) (w.extractLsb' 0 9) with
  | some h0, some h1 =>
    let i := Instr.pWord h0 h1
    if !Instr.fieldsOk i then .error .illegalInstruction
    else if Machine.Instr.pairingOk i then .ok i
    else .error .illegalPairing
  | _, _ => .error .illegalInstruction

/-- The half of a refused P word that is illegal: `true` for half 1 (SLOT of R341). -/
def illegalHalf (w : DWord) : Bool :=
  (w.extractLsb' 62 2).toNat = 1 &&
  match decodeHalf (w.extractLsb' 57 5) (w.extractLsb' 49 8) (w.extractLsb' 40 9) (w.extractLsb' 31 9) with
  | some h => PHalf.fieldsOk h
  | none => false

/-- A W word and the word after it (R47 to R49). -/
def decodeW (w w1 : DWord) : Except DecodeError Instr :=
  let p : SweepPrefix := ⟨w.extractLsb' 50 12, w.extractLsb' 38 12, w.extractLsb' 26 12, w.extractLsb' 14 12, w.extractLsb' 2 12⟩
  let f := Fields.split w1
  let g : VOps := ⟨true, f.D, f.A, f.B, f.C, ⟨f.imm, none⟩⟩
  if w.extractLsb' 0 2 ≠ 0 ∨ w1.extractLsb' 62 2 ≠ 0 ∨ f.opc.toNat < 0x20 ∨ 0x48 ≤ f.opc.toNat ∨ f.mod.toNat < 16 ∨ !p.ok g then
    .error .illegalSweep
  else match decodeFields f none with
    | none => .error .illegalInstruction
    | some i => match Machine.Instr.lane? i with
      | some (op, h) => .ok (.sweep p op h)
      | none => .error .illegalInstruction

/-- Decode the word `w`, with the word `w1` after it: the literal of an L word, the swept word of a W word (R35). -/
def decode (w w1 : DWord) : Except DecodeError Instr :=
  match (w.extractLsb' 62 2).toNat with
  | 0 => match decodeFields (Fields.split w) none with
    | some i => .ok i
    | none => .error .illegalInstruction
  | 2 => match decodeFields (Fields.split w) (some w1) with
    | some i => .ok i
    | none => .error .illegalInstruction
  | 1 => decodeP w
  | _ => decodeW w w1

/-- A W prefix that is illegal whatever word follows it: COUNT 0, ORDER not 0b00, or a step that is no multiple of 4 (R49). -/
def illegalPrefix (w : DWord) : Bool :=
  (w.extractLsb' 62 2).toNat = 3 &&
  (decide (w.extractLsb' 0 2 ≠ 0 ∨ w.extractLsb' 50 12 = 0) ||
   [38, 26, 14, 2].any (fun i => decide ((w.extractLsb' i 12).toNat % 4 ≠ 0)))

/-- The branch that an F or L word with a nonzero unused field would be: the fields that its opcode and MOD do not use are taken as 0
(R55 steps 1 and 3). -/
def looseBranch (w : DWord) (lit : Lit) : Option Instr :=
  if (w.extractLsb' 62 1).toNat = 1 then none
  else
    let f := { Fields.split w with n := 0, c := 0 }
    let g : Option Fields := match f.opc.toNat with
      | 0x12 => some { f with d := 0, a := 0 }
      | 0x13 | 0x14 => some { f with d := 0 }
      | 0x15 => some (if f.mod = 0 then { f with a := 0 } else { f with b := 0 })
      | 0x16 => some (if f.mod = 0 then { f with d := 0, b := 0, imm := 0 } else { f with d := 0, a := 0, b := 0, imm := 0 })
      | 0x17 => some { f with a := 0 }
      | _ => none
    g.bind (fun f => (decodeFields f lit).or (decodeFields { f with imm := 0 } lit))

/-- The instruction the table's words stand for, by the numbering of spec/opcode_table.json: the first word is bits 63..0,
the second bits 127..64. -/
def decodeTableWord (nbits w : Nat) : Option Instr :=
  let v := w % 2 ^ nbits
  match decode (BitVec.ofNat 64 v) (BitVec.ofNat 64 (v / 2 ^ 64)) with
  | .ok i => some i
  | .error _ => none

/-! ### The encoder -/

/-- The fields of a word, from opcode and MOD on; the others 0 unless given. -/
def mkF (opc mod : Nat) (d a b c : Operand) (n : BitVec 4) (imm : BitVec 10) : Fields :=
  ⟨BitVec.ofNat 7 opc, BitVec.ofNat 5 mod, d.code, a.code, b.code, c.code, n, imm⟩

/-- The operand of an unused field, code 0x000. -/
def o0 : Operand := .v 0

def encSBin (opc mod : Nat) (f : SBin) (c : Operand) : Fields :=
  mkF opc (b01 f.w64 + 2 * mod) f.d f.a f.b c 0 f.x.imm

def ctl (sem : Sem) (scope : Scope) (scale : Bool) (hint : Hint) : BitVec 9 :=
  BitVec.ofNat 9 (Sem.bits sem * 128 + Scope.bits scope * 8 + b01 scale * 4 + Hint.bits hint)

def encMem (opc : Nat) (f : MemF) : Fields :=
  { mkF opc (Space.bits f.space * 8 + Size.bits f.size) f.d f.a f.b o0 f.n f.disp with c := ctl f.sem f.scope f.scale f.hint }

def encCopyImm (f : CopyF) : BitVec 10 :=
  BitVec.ofNat 10 (Scope.bits f.scope * 16 + b01 f.nc * 8 + f.queue.toNat)

def BarRef.imm (b : BarRef) : BitVec 10 := BitVec.ofNat 10 (b01 b.gang * 32 + b.idx.toNat)

def imm10 {n : Nat} (x : BitVec n) : BitVec 10 := BitVec.ofNat 10 x.toNat

/-- The fields of an instruction that is an F or L word. -/
def encodeFields : Instr → Option Fields
  | .pWord _ _ | .sweep _ _ _ => none
  | .nop _ => some (mkF 0 0 o0 o0 o0 o0 0 0)
  | .smov d (.word a x) => some (mkF 1 0 d a o0 o0 0 x.imm)
  | .smov d (.w64 a x) => some (mkF 1 1 d a o0 o0 0 x.imm)
  | .smov d (.f32 a x) => some (mkF 1 2 d a o0 o0 0 x.imm)
  | .smov d (.special n _) => some (mkF 1 3 d o0 o0 o0 0 (imm10 n))
  | .smovToSpecial n a _ => some (mkF 1 4 o0 a o0 o0 0 (imm10 n))
  | .sadd m f => some (encSBin 0x02 (SatMode.bits m) f o0)
  | .ssub m f => some (encSBin 0x03 (SatMode.bits m) f o0)
  | .smul m f => some (encSBin 0x04 (MulMode.bits m) f o0)
  | .sdiv u r f => some (encSBin 0x05 (b01 u + 2 * b01 r) f o0)
  | .sand i f => some (encSBin 0x06 (b01 i) f o0)
  | .sor i f => some (encSBin 0x07 (b01 i) f o0)
  | .sxor i f => some (encSBin 0x08 (b01 i) f o0)
  | .sshl f => some (encSBin 0x09 0 f o0)
  | .sshr i f => some (encSBin 0x0A (b01 i) f o0)
  | .smin u f => some (encSBin 0x0B (b01 u) f o0)
  | .smax u f => some (encSBin 0x0C (b01 u) f o0)
  | .scmp c f => some (encSBin 0x0D (SCond.bits c) f o0)
  | .ssel c f => some (encSBin 0x0E 0 f c)
  | .sbit op w64 d a x =>
    let (k, b, c) := match op with
      | .popc => (0, o0, o0)
      | .clz => (1, o0, o0)
      | .ctz => (2, o0, o0)
      | .bfeU b c => (3, b, c)
      | .bfeI b c => (4, b, c)
      | .bfi b c => (5, b, c)
      | .brev => (6, o0, o0)
      | .bswap => (7, o0, o0)
    some (mkF 0x0F (k + 16 * b01 w64) d a b c 0 x.imm)
  | .sld f => some (encMem 0x10 f)
  | .sst f => some (encMem 0x11 f)
  | .br b x => some (mkF 0x12 0 o0 o0 b o0 0 x.imm)
  | .brc k w64 a b x => some (mkF 0x13 (BrCond.bits k + 8 * b01 w64) o0 a b o0 0 x.imm)
  | .brm k a b x => some (mkF 0x14 (BrmCond.bits k) o0 a b o0 0 x.imm)
  | .call d (.offset b) x => some (mkF 0x15 0 d o0 b o0 0 x.imm)
  | .call d (.reg a) x => some (mkF 0x15 1 d a o0 o0 0 x.imm)
  | .jmp (.reg a) _ => some (mkF 0x16 0 o0 a o0 o0 0 0)
  | .jmp .tpc _ => some (mkF 0x16 1 o0 o0 o0 o0 0 0)
  | .loop d b x => some (mkF 0x17 0 d o0 b o0 0 x.imm)
  | .emop op save x =>
    let (k, a) := match op with
      | .set a => (0, a)
      | .and a => (1, a)
      | .andn a => (2, a)
      | .or a => (3, a)
      | .els a => (4, a)
      | .live => (5, o0)
    some (mkF 0x18 (k + 16 * b01 save.isSome) (save.getD o0) a o0 o0 0 x.imm)
  | .maskop op d x =>
    let (k, a, b) := match op with
      | .and a b => (0, a, b)
      | .or a b => (1, a, b)
      | .xor a b => (2, a, b)
      | .andn a b => (3, a, b)
      | .not a => (4, a, o0)
      | .mov a => (5, a, o0)
      | .live a => (6, a, o0)
      | .popc a => (7, a, o0)
      | .first a => (8, a, o0)
      | .last a => (9, a, o0)
      | .range a b => (10, a, b)
    some (mkF 0x19 k d a b o0 0 x.imm)
  | .region n _ => some (mkF 0x1A 0 o0 o0 o0 o0 0 (imm10 n))
  | .yieldBar b a _ => some (mkF 0x1B 0 o0 a o0 o0 0 b.imm)
  | .yieldEv e a _ => some (mkF 0x1B 1 o0 a o0 o0 0 (imm10 e))
  | .trap n _ => some (mkF 0x1C 0 o0 o0 o0 o0 0 (imm10 n))
  | .brk n _ => some (mkF 0x1D 0 o0 o0 o0 o0 0 (imm10 n))
  | .sysreq n d a _ => some (mkF 0x1E 0 d a o0 o0 0 (imm10 n))
  | .exit _ => some (mkF 0x1F 0 o0 o0 o0 o0 0 0)
  | .exitAbort a _ => some (mkF 0x1F 1 o0 a o0 o0 0 0)
  | .vcmp k u d a b x => some (mkF 0x2D (VCond.bits k) d a b o0 (BitVec.ofNat 4 (b01 u)) x.imm)
  | .vsel d a b c x => some (mkF 0x2E 0 d a b c 0 x.imm)
  | .vfcmp k d a b x => some (mkF 0x36 (FCond.bits k) d a b o0 0 x.imm)
  | .vflag (.read d s) _ => some (mkF 0x3A 0 d o0 o0 o0 0 (imm10 s))
  | .vflag (.readclr d s) _ => some (mkF 0x3A 1 d o0 o0 o0 0 (imm10 s))
  | .vflag (.clr s) _ => some (mkF 0x3A 2 o0 o0 o0 o0 0 (imm10 s))
  | .vflag (.set s) _ => some (mkF 0x3A 3 o0 o0 o0 o0 0 (imm10 s))
  | .vflag (.get d) _ => some (mkF 0x3A 4 d o0 o0 o0 0 0)
  | .vflag (.put a) _ => some (mkF 0x3A 5 o0 a o0 o0 0 0)
  | .shfl m d a b x => some (mkF 0x48 (ShflMode.bits m) d a b o0 0 x.imm)
  | .bcast (.lane b) d a x => some (mkF 0x49 0 d a b o0 0 x.imm)
  | .bcast .first d a x => some (mkF 0x49 1 d a o0 o0 0 x.imm)
  | .bcast .last d a x => some (mkF 0x49 2 d a o0 o0 0 x.imm)
  | .bcastS d a b x => some (mkF 0x49 3 d a b o0 0 x.imm)
  | .red op v d a x =>
    some (mkF 0x4A ((RedOp.bits op).1 + 16 * b01 v) d a o0 o0 (BitVec.ofNat 4 (RedOp.bits op).2) x.imm)
  | .scan op e d a x =>
    some (mkF 0x4B ((ScanOp.bits op).1 + 8 * b01 e) d a o0 o0 (BitVec.ofNat 4 (ScanOp.bits op).2) x.imm)
  | .vote op d a x => some (mkF 0x4C (VoteOp.bits op) d a o0 o0 0 x.imm)
  | .compact e d a c x => some (mkF 0x4D (b01 e) d a o0 c 0 x.imm)
  | .lmap .beat d x => some (mkF 0x4E 0 d o0 o0 o0 0 x.imm)
  | .lmap .phys d x => some (mkF 0x4E 1 d o0 o0 o0 0 x.imm)
  | .lmap (.lane a b) d x => some (mkF 0x4E 2 d a b o0 0 x.imm)
  | .lnstat op d _ => some (mkF 0x4F (LnstatOp.bits op) d o0 o0 o0 0 0)
  | .tdef g d a b x => some (mkF 0x50 (b01 g) d a b o0 0 x.imm)
  | .tfree a x => some (mkF 0x51 0 o0 a o0 o0 0 x.imm)
  | .tqry (.word w) d a _ => some (mkF 0x52 0 d a o0 o0 0 (imm10 w))
  | .tqry .cur d a _ => some (mkF 0x52 1 d a o0 o0 0 0)
  | .mma z a b c n t _ => some (mkF 0x53 (b01 z) o0 a b c n (imm10 t))
  | .mzero t _ => some (mkF 0x54 0 o0 o0 o0 o0 0 (imm10 t))
  | .mload a c n t _ => some (mkF 0x55 0 o0 a o0 c n (imm10 t))
  | .mstore rm a c n t _ => some (mkF 0x56 (RM.bits rm) o0 a o0 c n (imm10 t))
  | .mcorr p1 cb d a t _ => some (mkF 0x57 (b01 cb + 2 * b01 p1) d a o0 o0 0 (imm10 t))
  | .mstat clr d t _ => some (mkF 0x58 (b01 clr) d o0 o0 o0 0 (imm10 t))
  | .msig d t _ => some (mkF 0x59 0 d o0 o0 o0 0 (imm10 t))
  | .swfence (.h a) x => some (mkF 0x5A 0 o0 a o0 o0 0 x.imm)
  | .swfence (.h2 a b) x => some (mkF 0x5A 1 o0 a b o0 0 x.imm)
  | .swfence .all x => some (mkF 0x5A 2 o0 o0 o0 o0 0 x.imm)
  | .ld f => some (encMem 0x60 f)
  | .st f => some (encMem 0x61 f)
  | .ldv f => some (encMem 0x62 f)
  | .stv f => some (encMem 0x63 f)
  | .wait n k _ => some (mkF 0x64 0 o0 o0 o0 o0 n (imm10 k))
  | .waitAll _ => some (mkF 0x64 1 o0 o0 o0 o0 0 0)
  | .actrRead d n _ => some (mkF 0x65 0 d o0 o0 o0 n 0)
  | .actrMask d _ => some (mkF 0x65 1 d o0 o0 o0 0 0)
  | .pref p a b s h disp _ =>
    some { mkF 0x66 (b01 (!p)) o0 a b o0 0 disp with c := ctl .plain .group s h }
  | .zfill sp a b sem scope h n disp _ =>
    some { mkF 0x67 (Space.bits sp * 8) o0 a b o0 n disp with c := ctl sem scope false h }
  | .gwin d a b _ => some (mkF 0x68 0 d a b o0 0 0)
  | .cpy dsp ssp t f =>
    some (mkF 0x70 (Space.bits dsp * 8 + Space.bits ssp * 2 + b01 t) o0 f.a f.b f.c f.n (encCopyImm f))
  | .cpyt g f => some (mkF 0x71 (b01 g.isSome) (g.getD o0) f.a f.b f.c f.n (encCopyImm f))
  | .qfence k _ => some (mkF 0x72 0 o0 o0 o0 o0 0 (imm10 k))
  | .cstat (.infl q) d _ => some (mkF 0x73 0 d o0 o0 o0 0 (imm10 q))
  | .cstat .mask d _ => some (mkF 0x73 1 d o0 o0 o0 0 0)
  | .cstat .pool d _ => some (mkF 0x73 2 d o0 o0 o0 0 0)
  | .coll ls a k _ => some (mkF 0x74 (b01 ls) o0 a o0 o0 0 (imm10 k))
  | .collwt d k _ => some (mkF 0x75 0 d o0 o0 o0 0 (imm10 k))
  | .collwtTry d k _ => some (mkF 0x75 1 d o0 o0 o0 0 (imm10 k))
  | .atom f => some (mkF 0x78 (AtomOp.bits f.op + 16 * b01 f.scalar) f.d f.a f.b f.c f.n
      (BitVec.ofNat 10 (Ord.bits f.ord * 256 + Scope.bits f.scope * 16 + Space.bits f.space * 4 + b01 f.ret * 2 + b01 f.w64)))
  | .fence k s _ => some (mkF 0x79 (FenceKind.bits k) o0 o0 o0 o0 0 (BitVec.ofNat 10 (Scope.bits s * 16)))
  | .barInit b a _ => some (mkF 0x7A 0 o0 a o0 o0 0 b.imm)
  | .barArrive d b _ => some (mkF 0x7A 1 d o0 o0 o0 0 b.imm)
  | .barArriveNw d b _ => some (mkF 0x7A 2 d o0 o0 o0 0 b.imm)
  | .barArriveDefer d b q _ => some (mkF 0x7A 3 d o0 o0 o0 (BitVec.ofNat 4 q.toNat) b.imm)
  | .barWait b a _ => some (mkF 0x7A 4 o0 a o0 o0 0 b.imm)
  | .barStat d b _ => some (mkF 0x7A 5 d o0 o0 o0 0 b.imm)
  | .barStatExp d b _ => some (mkF 0x7A 6 d o0 o0 o0 0 b.imm)
  | .qopDef q a b _ => some (mkF 0x7B 0 o0 a b o0 0 (imm10 q))
  | .qopPush q a b _ => some (mkF 0x7B 1 o0 a b o0 0 (imm10 q))
  | .qopPop d q _ => some (mkF 0x7B 2 d o0 o0 o0 0 (imm10 q))
  | .qopTrypush d q a b _ => some (mkF 0x7B 3 d a b o0 0 (imm10 q))
  | .qopTrypop d q _ => some (mkF 0x7B 4 d o0 o0 o0 0 (imm10 q))
  | .qopStat d q _ => some (mkF 0x7B 5 d o0 o0 o0 0 (imm10 q))
  | .qopStatCfg d q _ => some (mkF 0x7B 6 d o0 o0 o0 0 (imm10 q))
  | .evw e a _ => some (mkF 0x7C 0 o0 a o0 o0 0 (imm10 e))
  | .evwTry d e a _ => some (mkF 0x7C 1 d a o0 o0 0 (imm10 e))
  | .evwStat d e _ => some (mkF 0x7C 2 d o0 o0 o0 0 (imm10 e))
  | .evwClr d e _ => some (mkF 0x7C 3 d o0 o0 o0 0 (imm10 e))
  | .spawn ls a b _ => some (mkF 0x7D (b01 ls) o0 a b o0 0 0)
  | .spawnTry ls d a b _ => some (mkF 0x7D (2 + b01 ls) d a b o0 0 0)
  | .launch ls d a _ => some (mkF 0x7E (b01 ls) d a o0 o0 0 0)
  | .dbell w t a b x => some (mkF 0x7F (b01 w + 2 * b01 t) o0 a b o0 0 x.imm)
  | i => (Machine.Instr.lane? i).map (fun p =>
      let k := LaneOp.bits p.1
      mkF k.1 (k.2.1 + 16 * b01 p.2.scr) p.2.d p.2.a p.2.b p.2.c (BitVec.ofNat 4 k.2.2) p.2.x.imm)

/-- The bits of a P half: OPS, D, A, B (R44). -/
def encodeHalf (h : PHalf) : BitVec 31 :=
  (BitVec.ofNat 5 (ShortOp.bits h.op) ++ (h.d ++ (h.a.code ++ h.b.code))).cast (by decide)

/-- The words of an instruction: the first word, and the word after it where there is one. `none` for an event. -/
def encode : Instr → Option (DWord × Option DWord)
  | .pWord h0 h1 => some (((1 : BitVec 2) ++ (encodeHalf h0 ++ encodeHalf h1)).cast (by decide), none)
  | .sweep p op f =>
    let k := LaneOp.bits op
    let w : DWord := ((3 : BitVec 2) ++ (p.count ++ (p.sd ++ (p.sa ++ (p.sb ++ (p.sc ++ (0 : BitVec 2))))))).cast (by decide)
    some (w, some ((mkF k.1 (k.2.1 + 16) f.d f.a f.b f.c (BitVec.ofNat 4 k.2.2) f.x.imm).pack false))
  | i => (encodeFields i).map (fun f => (f.pack (Machine.Instr.litOf i).isSome, Machine.Instr.litOf i))

/-- Decoding the words of an encoding. -/
def decodeWords (ws : DWord × Option DWord) : Except DecodeError Instr := decode ws.1 (ws.2.getD 0)

end Sys2Proof
end

