-- ==== Sys2Proof/Machine/Sparse.lean ====
section
/-! DEFINITION. Sparse maps: lists of (key, value) pairs with strictly rising keys, the one canonical form in which the
state holds memories, register files and tables. -/

namespace Sys2Proof.Machine

/-- A sparse map from Nat. -/
abbrev SMap (α : Type) := List (Nat × α)

namespace SMap

variable {α : Type}

/-- The keys rise strictly. -/
abbrev Sorted (m : SMap α) : Prop := m.Pairwise (fun a b => a.1 < b.1)

/-- The canonical form of a map whose unlisted keys hold `d`: the keys rise, and no entry holds `d`. -/
abbrev Canon (m : SMap α) (d : α) : Prop := Sorted m ∧ ∀ e ∈ m, e.2 ≠ d

/-- The value at a key. -/
def find? : SMap α → Nat → Option α
  | [], _ => none
  | (i, v) :: m, k => if i = k then some v else find? m k

/-- The value at a key; an unlisted key holds `d`. -/
def getD (m : SMap α) (k : Nat) (d : α) : α := (find? m k).getD d

/-- Put a value at a key. -/
def insert : SMap α → Nat → α → SMap α
  | [], k, v => [(k, v)]
  | (i, w) :: m, k, v =>
    if k < i then (k, v) :: (i, w) :: m
    else if i = k then (k, v) :: m
    else (i, w) :: insert m k v

/-- Remove a key. -/
def erase : SMap α → Nat → SMap α
  | [], _ => []
  | (i, w) :: m, k => if i = k then erase m k else (i, w) :: erase m k

/-- Put a value at a key of a map whose unlisted keys hold `d`: storing `d` removes the entry. -/
def setD [DecidableEq α] (m : SMap α) (k : Nat) (v d : α) : SMap α :=
  if v = d then erase m k else insert m k v

/-- Change the value at a key, where there is one. -/
def modify (m : SMap α) (k : Nat) (f : α → α) : SMap α :=
  match find? m k with
  | none => m
  | some v => insert m k (f v)

end SMap
end Sys2Proof.Machine
end

