-- ==== Sys2Proof/Machine/State.lean ====
section
/-! DEFINITION. The state of the module as plain data: groups, teams, gangs, grids and contexts; cores; memories; the root
die; the root of trust; and the few fields of the model itself. INVENTORY.md lists each with its rule. -/

namespace Sys2Proof.Machine

/-! ### Groups -/

/-- A continuation point: what REGION records (R304); `live` is `none` in the launch region (R306). -/
structure Cont where
  pc : DWord := 0
  em : BitVec 96 := BitVec.allOnes 96
  a : SMap Nat := []
  live : Option Nat := none
  /-- Operations with smaller ids were issued before the region began: they are counted in `a` (R171, R240). -/
  mark : Nat := 0
  deriving DecidableEq, Repr

/-- What a record waits on: WKIND, PARITY, INDEX, K of R308. -/
inductive WaitOn where
  | none
  | bar (gang : Bool) (idx : Nat) (parity : Bool)
  | event (e k : Nat)
  deriving DecidableEq, Repr

/-- A continuation record (R308). `sval` and `vval` hold the live-ins by register number (and lane). -/
structure Rec where
  pc : DWord
  em : BitVec 96
  dead : BitVec 96
  acnt : SMap Nat
  waitcyc : Nat
  tpc : DWord
  tcause : Word
  role : Nat
  group : Nat
  live : Option Nat
  cause : Nat
  wait : WaitOn
  sval : SMap Word
  vval : SMap Word
  deriving DecidableEq, Repr

/-- Where a group stands (R310, R312, R340, R346, R349, R332). -/
inductive Place where
  /-- In a slot: it issues. -/
  | resident
  /-- Its record is queued for resumption on its team's core (R312). -/
  | queued
  /-- Its record waits on a barrier or event barrier (R311). -/
  | yielded
  /-- Parked on a system fault until firmware resumes it (R340). -/
  | parked
  /-- It has executed EXIT, or was discarded by a termination (R346, R342). -/
  | gone
  deriving DecidableEq, Repr

/-- Why a resident group does not issue a new word (R25, R279, R281, R347, R349). -/
inductive Hold where
  | ready
  /-- Waiting in an instruction that is issued again when its condition may hold (R220, R256, R275). -/
  | waiting
  /-- In BAR.WAIT at the barrier unit, with the parity awaited and the next word (R273). -/
  | bar (gang : Bool) (idx : Nat) (parity : Bool) (next : DWord)
  /-- Blocked in QOP.PUSH or QOP.POP of queue q (R279). -/
  | push (q : Nat) (w0 w1 : Word) (next : DWord)
  | pop (q : Nat) (d : Nat) (next : DWord)
  /-- In the order of waiters of event barrier e with count k (R281). -/
  | evw (e k : Nat) (next : DWord)
  /-- Pinned in SYSREQ after its Commit(): service, argument, destination (R347). -/
  | sysreq (n : Nat) (a : DWord) (d : Nat) (next : DWord)
  /-- Halted for the debug agent (R349). -/
  | halted
  deriving DecidableEq, Repr

/-- A system fault to be recorded: CAUSE, DETAIL, LANE, ADDR, PC, ITER, SLOT of R341. -/
structure FaultInfo where
  cause : Nat
  detail : Nat := 0
  lane : Nat := 127
  addr : DWord := 0
  pc : DWord := 0
  iter : Nat := 0
  slot : Bool := false
  deriving DecidableEq, Repr

/-- What a release waits for (R300): operations that must complete, and store-buffer entries that must have reached their
homes, with every entry those operations wrote into; `wide` where the scope asks for the homes. -/
structure Rel where
  ops : List Nat := []
  entries : List Nat := []
  wide : Bool := false
  /-- Accesses to UN pages too, which no release covers (R290): those of FENCE.ALL, SYSREQ and DBELL. -/
  all : Bool := false
  deriving DecidableEq, Repr

/-- A group (R19). Registers are sparse: an unlisted one holds 0, as at launch (R317). -/
structure Group where
  pc : DWord := 0
  s : SMap Word := []
  v : SMap Word := []
  a : SMap Nat := []
  vflags : SMap Flags := []
  dead : BitVec 96 := 0
  vregs : Nat := 32
  sregs : Nat := 128
  role : Nat := 0
  core : Nat := 0
  dp : Nat := 0
  waitcyc : Nat := 0
  /-- The cycle in which the WAIT that now waits was issued; its counter (none for all) and bound; the word after it; and the first
  cycle in which its condition held (R220). -/
  waitFrom : Option Nat := none
  waitTest : Option (Option Nat × Nat) := none
  waitNext : DWord := 0
  waitMet : Option Nat := none
  tpc : DWord := 0
  tcause : Word := 0
  bpslot : Bool := false
  bpa : SMap DWord := []
  bpd : SMap DWord := []
  cont : Cont := {}
  place : Place := .resident
  hold : Hold := .ready
  rcd : Option Rec := none
  /-- Set between a commit-class instruction and its REGION (R27, R59). -/
  pairPending : Bool := false
  /-- The REGION of the commit-class instruction under way, as it was read before Commit(): the two issue as one (R27, R59). -/
  pairRegion : Option Instr := none
  /-- What the YIELD before the pending REGION parks the group on (R311). -/
  yielding : WaitOn := .none
  /-- The barrier the group waits on in BAR.WAIT or by YIELD has released it (R273, R311). -/
  released : Bool := false
  /-- Acquires in flight: later memory and sync instructions wait for these operations (R300). -/
  waitOps : List Nat := []
  /-- What the release that waits at issue waits for (R300). -/
  rel : Option Rel := none
  /-- What a FENCE.REL makes later stores wait for (R299, R300). -/
  fenceRel : Option Rel := none
  singleStep : Bool := false
  /-- Half 1 of a P word is to issue alone after a SLOT = 1 halt (R351). -/
  half1 : Bool := false
  /-- Instruction breakpoints that have halted the group at its next word: they do not match it again (R354). -/
  bpSkip : List Nat := []
  /-- A debug halt pending from the previous word (R343, R352). -/
  haltPending : Option FaultInfo := none
  asyncFault : Option FaultInfo := none
  scalarErr : Option FaultInfo := none
  /-- A discard asked for at the next region point, with its CAUSE (R332, R356). -/
  stopCause : Option Nat := none
  /-- A firmware stop asked for (R343). -/
  fwStop : Bool := false
  /-- Uncorrectable marks of v elements (key as `v`), s-registers and arrival counters (R118, R154). -/
  vBad : List Nat := []
  sBad : List Nat := []
  aBad : List Nat := []
  lastIssue : Nat := 0
  urgent : Bool := false
  resumeOrder : Nat := 0
  /-- Numbers below this one were given before the group was last discarded (R297). -/
  leftAt : Nat := 0
  /-- The record that a LAUNCH, SPAWN or COLL has read while it waits (R254, R320). -/
  recRead : Option (List Byte) := none
  deriving DecidableEq, Repr

/-! ### Teams, gangs, grids -/

/-- A barrier (R270). WCUR and WPEND are sets of group keys. -/
structure Bar where
  expect : Nat := 1
  count : Nat := 0
  phase : Bool := false
  wcur : List Nat := []
  wpend : List Nat := []
  deriving DecidableEq, Repr

/-- A queue (R276); `blocked` holds the groups that wait in PUSH or POP, oldest first (R279). -/
structure Queue where
  defd : Bool := false
  base : Nat := 0
  size : Nat := 0
  head : Nat := 0
  tail : Nat := 0
  count : Nat := 0
  pphase : Bool := false
  cphase : Bool := false
  blocked : List Nat := []
  deriving DecidableEq, Repr

/-- An accumulator tile (R159 to R161, R185): word (i, j) at key 64 i + j, snapshots at key 2 i + p. -/
structure Tile where
  words : SMap Word := []
  status : Word := 0
  ra : SMap Word := []
  cb : SMap Word := []
  sig : Word := 0
  bad : List Nat := []
  deriving DecidableEq, Repr

/-- A collective slot of a team (R256): its status word, and the collective while one is pending. -/
structure CollSlot where
  status : Word := 4
  pending : Option Nat := none
  deriving DecidableEq, Repr

/-- A deferred arrival held in the barrier unit (R274). -/
structure Deferred where
  group : Nat
  gang : Bool
  idx : Nat
  /-- Copies still to complete. -/
  copies : List Nat
  /-- When the last of them completed: the order in which held arrivals are performed. -/
  order : Option Nat
  /-- All the copies to which the arrival was bound. -/
  bound : List Nat := []
  deriving DecidableEq, Repr

/-- A team (R19, R314). -/
structure Team where
  core : Nat := 0
  base : Nat := 0
  scratch : Nat := 0
  acc : Nat := 0
  tile0 : Nat := 0
  ngroups : Nat := 1
  tiles : SMap Tile := []
  bars : SMap Bar := []
  queues : SMap Queue := []
  colls : SMap CollSlot := []
  deferred : List Deferred := []
  /-- QFENCE joins in force: the queues joined and the copies to wait for (R247). -/
  joins : List (Nat × List Nat) := []
  residentSince : Nat := 0
  deriving DecidableEq, Repr

/-- Where a gang stands (R22, R327, R332, R346). -/
inductive GangPlace where
  | waiting
  | placed
  | swapping (cause : Nat)
  | swapped
  /-- Its cores are taken, and its image is being read back. -/
  | returning
  | retired
  deriving DecidableEq, Repr

/-- A gang (R22). -/
structure Gang where
  ticket : Word := 0
  place : GangPlace := .waiting
  die : Nat := 0
  origin : Nat := 0
  dispatched : Nat := 0
  eprio : Nat := 0
  bars : SMap Bar := []
  /-- Scratchpad bytes of a swapped gang's team images, member × 2^19 + offset (R332). -/
  image : SMap Byte := []
  /-- Bytes of the image marked uncorrectable. -/
  imageBad : List Nat := []
  deriving DecidableEq, Repr

/-- A launch record (R316). -/
structure LaunchRec where
  kdesc : DWord := 0
  argp : DWord := 0
  inline : List Word := []
  doneaddr : DWord := 0
  ngangs : Nat := 0
  evidx : Nat := 0
  evt : Bool := false
  prio : Nat := 0
  dep : Bool := false
  valid : Bool := false
  /-- A field is out of its range or a reserved one nonzero. -/
  malformed : Bool := false
  deriving DecidableEq, Repr

/-- A live-set table entry (R305). -/
structure LiveSet where
  vs : List Nat := []
  ss : List Nat := []
  deriving DecidableEq, Repr

/-- A role slot of a team descriptor (R314). -/
structure RoleSlot where
  entry : Nat := 0
  sregs : Nat := 0
  vregs : Nat := 0
  deriving DecidableEq, Repr

/-- The descriptors of a grid once it is taken up (R313 to R315). -/
structure Kernel where
  code : DWord := 0
  trapoff : Nat := 0xFFFFFFFF
  live : List LiveSet := []
  roles : List Nat := []
  slots : List RoleSlot := []
  scratch : Nat := 0
  acc : Nat := 0
  w : Nat := 1
  h : Nat := 1
  ngroups : Nat := 1
  deriving DecidableEq, Repr

/-- Where a grid comes from: a LAUNCH, a work queue, or a hardware slot's queue (R320, R321, R323). -/
inductive GridSource where
  | launch
  | workQueue (q : Nat)
  | userQueue (q : Nat)
  deriving DecidableEq, Repr

/-- A grid (R19, R315, R318). -/
structure Grid where
  ctx : Nat := 0
  lr : LaunchRec := {}
  prio : Nat := 0
  source : GridSource := .launch
  dispatched : Nat := 0
  kernel : Option Kernel := none
  /-- Completion code of a failed or terminated grid (R315, R342). -/
  code : Option Nat := none
  terminating : Bool := false
  done : Bool := false
  deriving DecidableEq, Repr

/-! ### Contexts -/

/-- A context (R229, R322, R347, R368, R386). -/
structure Ctx where
  root : Nat := 0
  owner : BitVec 8 := 0
  dbbase : DWord := 0x0100000000000000
  quota : List Nat := []
  /-- Ranges that firmware fills on demand (R232). -/
  onDemand : List (Nat × Nat) := []
  /-- Where in HBM firmware has placed the tensor table: 4,096 entries of 64 bytes (R163, log 7). -/
  tensorTable : Nat := 0x5E00000000
  /-- Its record area as firmware has placed it, and its bytes (R308, R397); the records stand in `State.records` (log 63). -/
  recordArea : Nat := 0
  recordBytes : Nat := 0
  report : Nat := 0
  cap : Nat := 0
  reportCount : Nat := 0
  log : List (DWord × Nat × Nat) := []
  /-- The error area: records that firmware has passed to the context (R345). -/
  errors : List (List Byte) := []
  debugged : Bool := false
  /-- The CONTEXT_DESTROY that is being carried out (R395, R397). -/
  destroying : Option MgmtReq := none
  deriving DecidableEq, Repr

/-! ### Cores -/

/-- An element of a split-phase operation, at most 8 bytes (a line for ZFILL): a `.QW` element is two (R287). -/
structure Elem where
  /-- 127 for a scalar access. -/
  lane : Nat
  /-- Its first word among the registers of D. -/
  off : Nat := 0
  addr : DWord
  n : Nat
  data : List Byte := []
  cmp : List Byte := []
  /-- The request has gone to an endpoint or another package (R257, R364). -/
  sent : Bool := false
  /-- The physical key under which a store's element stands in the store buffer (R204). -/
  entered : Option Nat := none
  /-- The leaf that an atomic's translation found before Commit() (R266). -/
  leaf : Option DWord := none
  performed : Bool := false
  /-- Bytes read, and whether they are marked uncorrectable (R219). -/
  got : List Byte := []
  bad : Bool := false
  /-- Register words that have not arrived yet. -/
  todo : List Nat := []
  deriving DecidableEq, Repr

/-- Kinds of split-phase operation (R212, R223, R266). -/
inductive OpKind where
  | load
  | store
  | atomic (op : AtomOp) (ret : Bool)
  deriving DecidableEq, Repr

/-- A split-phase operation in flight (R213). -/
structure Op where
  group : Nat
  ctx : Nat
  core : Nat
  kind : OpKind
  space : Space
  scope : Scope
  size : Size
  /-- Destination of a load or atomic: vector or scalar, first register. -/
  vec : Bool
  reg : Nat
  counter : Nat
  pc : DWord
  elems : List Elem
  /-- The group was discarded: registers and counter are not touched (R218). -/
  abandoned : Bool := false
  /-- A fault was found: no further element is performed. -/
  faulted : Bool := false
  deriving DecidableEq, Repr

/-- What an engine operation does (R157, R171). -/
inductive EngineKind where
  | mma (z : Bool) (a b : List Byte) (ha hb : Word) (win : Word)
  | mzero
  | mload (e : List Byte) (win : Word)
  | mstore (rm : RM) (e : List Byte) (win : Word)
  | swfence (idx : Option (List Nat))
  deriving DecidableEq, Repr

/-- An MMA that has begun: the segments drained, and what goes from one to the next (R178, R198). -/
structure MmaRun where
  drained : Nat := 0
  crc : Nat := 0xFFFFFFFF
  /-- An uncorrectable word or a failed cell: the signature is free (R187, R196). -/
  bad : Bool := false
  /-- The superblock partials of the elements, row by row; none before the first segment of an MMA with a QG4 operand. -/
  q : List Word := []
  /-- The superblock scales of the lines of A and of B, as the edge units last fetched them in this superblock (R198). -/
  sa : List Word := []
  sb : List Word := []
  /-- The arrays that compute its rows: those enabled when it began (R392). -/
  arrays : BitVec 4 := 0xF
  deriving DecidableEq, Repr

/-- An entry of a core's engine queue (R158). -/
structure EngineOp where
  id : Nat
  group : Nat
  tile : Nat
  kind : EngineKind
  counter : Option Nat
  pc : DWord
  started : Bool := false
  abandoned : Bool := false
  /-- The team's allocation as it stood when the operation began: each word is read as old or new (R171, R188). -/
  snap : SMap Byte := []
  /-- What chooses the words that an MSTORE writes when it begins; the others are written when it completes (R188). -/
  seed : Nat := 0
  run : MmaRun := {}
  deriving DecidableEq, Repr

/-- An entry of the operand cache (R162): its tag, its 1 KiB, and with entry 0 the block codes and scales of the segment. -/
structure CacheEntry where
  ctx : Nat
  idx : Nat
  gen : Nat
  seg : Nat
  u : Nat
  bytes : List Byte
  codes : List Nat := []
  scales : List Word := []
  /-- Samples that pin the entry (R162). -/
  pins : List Nat := []
  /-- Invalidated while pinned: kept for its replay only. -/
  dropped : Bool := false
  /-- Lines filled from an uncorrectable word, with that word's scratchpad key. -/
  badWords : List (Nat × Nat) := []
  /-- The entry itself holds an uncorrectable error (R187). -/
  bad : Bool := false
  deriving DecidableEq, Repr

/-- A store-buffer entry: a physical line and the bytes it holds by offset (R204). -/
structure BufLine where
  id : Nat
  line : Nat
  owner : BitVec 8
  bytes : SMap Byte
  /-- Operations whose stores merged into the entry, and their groups. -/
  ops : List Nat
  groups : List Nat
  /-- It holds bytes of stores to UN pages alone (R290). -/
  un : Bool := false
  /-- The contexts and 64 KiB pages under whose translations stores entered it (R231). -/
  pages : List (Nat × Nat) := []
  deriving DecidableEq, Repr

/-- One byte of a copy: the byte written is (source byte AND mask) OR val, without a source `val`, beside the bits `keep` of the byte that
stood there. -/
structure MoveByte where
  src : Option DWord := none
  mask : Byte := 0xFF
  val : Byte := 0
  keep : Byte := 0
  deriving DecidableEq, Repr

/-- Bytes that a copy writes together: they lie in one aligned 4-byte word of the destination (R241). -/
structure Move where
  bytes : List MoveByte
  /-- First destination addresses still to be written: one, or one for each member of a GMC (R246). -/
  left : List DWord
  /-- Source bytes read so far by place, and whether one was marked uncorrectable. -/
  got : SMap Byte := []
  bad : Bool := false
  deriving DecidableEq, Repr

/-- A copy in a core's pool (R238); L addresses are held as S addresses. -/
structure Copy where
  core : Nat
  ctx : Nat
  team : Nat
  group : Nat
  queue : Nat
  dst : Space
  src : Space
  scope : Scope
  counter : Option Nat
  pc : DWord
  /-- Copies that a QFENCE orders before this one (R247). -/
  after : List Nat
  moves : List Move
  /-- Paused on a page fault: its address, its DETAIL, whether of a write (R242). -/
  paused : Option (DWord × Nat × Bool) := none
  faulted : Bool := false
  /-- The lowest source address with a mark (R242). -/
  badAddr : Option DWord := none
  /-- Aligned source words that another package has been asked for (R257). -/
  asked : List Nat := []
  deriving DecidableEq, Repr

/-- A caliper sample in progress (R391): where the segment ran, the CRC that its array produced, the replays so far. -/
structure Sample where
  core : Nat
  group : Nat
  tile : Nat
  pc : DWord
  sig : Word
  /-- The CRC of the segment's exact P, which a sound array gives. -/
  exact : Word
  start : Nat
  /-- Core and CRC of each replay. -/
  replays : List (Nat × Word) := []
  deriving DecidableEq, Repr

/-- A member's part of a collective (R254, R255): from its COLL until every member of the package has its data. -/
structure Coll where
  ctx : Nat
  core : Nat
  team : Nat
  slot : Nat
  rank : Nat
  desc : List Byte
  members : List Byte
  src : List Byte
  dst : List Byte
  pc : DWord := 0
  start : Nat
  /-- The member's source bytes read so far: its retention buffer (R255). -/
  data : SMap Byte := []
  /-- Source words marked uncorrectable that have made their error records (R344). -/
  badWords : List Nat := []
  /-- Source bytes received, by rank, and those that flits have brought so far. -/
  got : SMap (List Byte) := []
  arriving : SMap (SMap Byte) := []
  /-- Destination elements already written. -/
  wrote : List Nat := []
  retries : Nat := 0
  /-- Retries of the step from each rank. -/
  tries : SMap Nat := []
  /-- The member's slot is no longer pending on it. -/
  retired : Bool := false
  /-- Which of the collectives of equal TAG and list, counted while parts of one are kept (R250). -/
  round : Nat := 0
  /-- The code and rank with which the collective failed (R255, R256). -/
  failed : Option (Nat × Nat) := none
  /-- Ranks of other packages that have acknowledged the member's source, and those whose fields differ from the member's (R255, R256). -/
  acked : List Nat := []
  differs : List Nat := []
  deriving DecidableEq, Repr

/-- A page that firmware has unmapped, keeping its data in the second tier (R232): the leaf that mapped it, its bytes by place once they
have been moved, the bytes marked uncorrectable, and what made the data unreadable with the owner's key (R382). -/
structure PagedOut where
  ctx : Nat
  va : Nat
  level : Nat
  leaf : DWord
  moved : Bool := false
  data : SMap Byte := []
  bad : List Nat := []
  lost : Option Nat := none
  deriving DecidableEq, Repr

/-- A core (R14). -/
structure CoreSt where
  /-- Datapaths out of service (R32). -/
  oos : List Nat := []
  arrayEn : BitVec 4 := 0xF
  /-- Arrays that the caliper itself disabled (R392). -/
  calArrays : List Nat := []
  calSamp : Word := 0
  calSkip : Word := 0
  calTrans : Word := 0
  calFail : Word := 0
  /-- Segments still to be sampled at N = 0 (R391). -/
  calAll : Nat := 0
  storeBuf : List BufLine := []
  /-- Entries that have been sent to another package, which has still to acknowledge them (R215). -/
  away : List BufLine := []
  engine : List EngineOp := []
  opCache : List CacheEntry := []
  /-- Tensor-table entries in the core's table cache, context and index, last used first (R163). -/
  tensorTags : List (Nat × Nat) := []
  /-- The cells' accumulators after the last pass, by array, row and column: 1024 array + 64 row + column (R157, R195). -/
  cells : SMap (BitVec 26) := []
  /-- Bits that an error has flipped in a cell, by 4 × cell + pass, until that pass is next drained (R196). -/
  upset : SMap (BitVec 26) := []
  /-- The edge units' sums RA and CB of the segment last streamed, as in a tile's snapshot (R157). -/
  edgeRa : SMap Word := []
  edgeCb : SMap Word := []
  /-- The role that issued last on each datapath, as its place in the rotation MX, CP, VX, GN (R330). -/
  dpRole : SMap Nat := []
  /-- The waiting clock at the core's last issue or swap (R331). -/
  fpMark : Nat := 0
  /-- Bits that an error has flipped in the core's scheduler machines: machine and bit (R355). -/
  machFlip : List (Nat × Nat) := []
  /-- Issue stopped by a cluster drain (R356). -/
  drained : Bool := false
  /-- Fault records that wait in the core, each with its place in the order of all (R340). -/
  faultWait : List (Nat × List Byte) := []
  deriving DecidableEq, Repr

/-! ### HBM4E -/

/-- A pseudo-channel (R233, R234). Counters of row groups, open rows and refreshing banks by number. -/
structure PseudoCh where
  policy : SMap Nat := []
  openRow : SMap Nat := []
  /-- Row of a bank's last access, until a refresh closes the bank. -/
  prevRow : SMap Nat := []
  /-- When a bank ended serving its last request. -/
  served : SMap Nat := []
  /-- Requests at the controller that no bank has begun to serve, oldest first: bank, row, and the key slot they carry (R384). -/
  queue : List (Nat × Nat × Bool) := []
  refreshing : List Nat := []
  allowance : SMap Nat := []
  slot : Nat := 0
  allBank : Bool := false
  deriving DecidableEq, Repr

/-- A key slot of a die-to-stack link (R383): whether it holds a key, and the flit groups enciphered under it toward the stack and back. -/
structure KeySlot where
  live : Bool := false
  down : Nat := 0
  up : Nat := 0
  deriving DecidableEq, Repr

/-- A stack (R235, R236, R383, R384, R394). -/
structure StackSt where
  selfRefresh : Bool := false
  heldSince : Option Nat := none
  /-- Requests that wait in the base die, in arrival order: the operation's number and the physical key (R235). -/
  held : List (Nat × Nat) := []
  oos : Bool := false
  /-- The two key slots, the one that new requests carry, and the slots of held requests (R383, R384). -/
  key0 : KeySlot := { live := true }
  key1 : KeySlot := {}
  slot : Bool := false
  heldSlots : List (Nat × Nat × Bool) := []
  /-- Replays of the flit group that fails; the link has retrained since its last good one. -/
  replays : Nat := 0
  retrained : Bool := false
  deriving DecidableEq, Repr

/-! ### The root die -/

/-- An event barrier (R280): the context it is bound to, COUNT, OVF, and the waiters (group key and k) in order. -/
structure EventBar where
  ctx : Option Nat := none
  count : Nat := 0
  ovf : Bool := false
  waiters : List (Nat × Nat) := []
  deriving DecidableEq, Repr

/-- A package work queue (R321): records with the context that appended them. -/
structure WorkQueue where
  ctx : Option Nat := none
  size : Nat := 64
  /-- Records, each with the grid that appended it. -/
  recs : List (Nat × LaunchRec) := []
  deriving DecidableEq, Repr

/-- A user queue's control block (R322). -/
structure UserQueue where
  ring : DWord := 0
  log2n : Nat := 4
  prio : Nat := 0
  read : Nat := 0
  xphase : Bool := true
  stale : Bool := false
  ctx : Nat := 0
  dbidx : Nat := 0
  deriving DecidableEq, Repr

/-- A hardware queue slot (R322 to R325). -/
structure HwSlot where
  queue : Option Nat := none
  read : Nat := 0
  xphase : Bool := true
  stale : Bool := false
  /-- A scan is under way; it began from a kick; it has taken a packet (R323). -/
  scanning : Bool := false
  fromKick : Bool := false
  took : Bool := false
  /-- Reads of an invalid packet left before STALE. -/
  rereads : Nat := 0
  /-- The DEP packet that has been read and waits for the queue's earlier grids (R323). -/
  depWait : Option LaunchRec := none
  idleSince : Nat := 0
  deriving DecidableEq, Repr

/-- A translation granted to a function (R367): the page in G space, its level, and its leaf. -/
structure Grant where
  va : Nat
  level : Nat
  leaf : DWord
  deriving DecidableEq, Repr

/-- A channel of the root complex (R365): its 64-bit entry and its grants. -/
structure Channel where
  entry : DWord := 0
  grants : List Grant := []
  /-- Invalidations sent and not completed, oldest first: of some grants, or of everything (R367, R369). -/
  inval : List (Option (List Grant)) := []
  /-- A Function Level Reset has been sent and is not complete. -/
  flr : Bool := false
  /-- Translation requests that wait for room in the grant list: address and tag (R367). -/
  waiting : List (DWord × Nat) := []
  /-- The outstanding page requests that firmware has allowed the function (R368). -/
  allocation : Nat := 0
  deriving DecidableEq, Repr

/-- A read or AtomicOp of an endpoint that the root complex has sent on to another endpoint or package (R266, R360): who asks, with what
tag, and where. -/
structure PeerRead where
  rid : Nat
  tag : Nat
  addr : Nat
  /-- It is a system core that reads (R375). -/
  core : Bool := false
  deriving DecidableEq, Repr

/-- A page request waiting for firmware (R368). -/
structure PageReq where
  who : Requester
  addr : DWord
  write : Bool
  prg : Nat
  last : Bool
  /-- The channel that accepted it, and its context then: it is served under that binding (R369). -/
  ch : Nat := 0
  ctx : Nat := 0
  deriving DecidableEq, Repr

/-- A doorbell held in a tailstock, and the writes that must come first (R372). -/
structure Tail where
  group : Nat
  core : Nat
  target : Nat
  data : List Byte
  cover : Rel
  /-- Its place in the order of all doorbells: those of one group leave in issue order (R373). -/
  order : Nat := 0
  deriving DecidableEq, Repr

/-- A management session (R396). -/
structure Session where
  principal : Option Principal := none
  /-- The message counter of each direction: the next message expected, and the next to be sent. -/
  counter : Nat := 0
  sent : Nat := 0
  transcript : List Byte := []
  /-- The AES-256 keys derived for the two directions. -/
  keyIn : List Byte := []
  keyOut : List Byte := []
  /-- The cycle of its last message. -/
  last : Nat := 0
  deriving DecidableEq, Repr

/-- Who waits for another package's answer: element j of an operation, with what the store buffer held of its bytes; a word that a copy
reads, likewise; or a request of an endpoint (R257, R366). -/
inductive RemoteAsk where
  | elem (op j : Nat) (held : List (Option Byte))
  | word (copy word : Nat) (held : List (Option Byte))
  /-- A write of a store-buffer entry, a copy or a collective, by its number (R215). -/
  | written (id : Nat)
  | peer (id : Nat)
  deriving DecidableEq, Repr

/-- What a message the module sends out is. -/
inductive MsgKind where
  /-- A posted write to an endpoint, and a non-posted read of one (R364). -/
  | endpointWrite
  | endpointRead
  /-- The same through a bridge: `dest` is the address in the peer's channel context (R362). -/
  | bridgeWrite
  | bridgeRead
  /-- A doorbell write (R372). -/
  | doorbell
  /-- Completions of an endpoint's request: with data, and with Unsupported Request (R360, R366). -/
  | completion
  | completionUR
  /-- Replies to translation requests and page request groups; ATS Invalidate Requests and resets (R367, R368). -/
  | translation
  | pageSuccess
  | pageInvalid
  | pageFailure
  | invalidate
  | functionReset
  /-- A write, read or atomic on another package's memory (R215, R257, R266), a collective step (R255). -/
  | remoteWrite
  | remoteRead
  | remoteAtomic
  | collStep
  /-- The answer to another package's read or atomic; the acknowledgement of a collective step (R255). -/
  | remoteReply
  | collAck
  /-- Firmware sets a function's outstanding page-request allocation (R368). -/
  | pageAllocation
  /-- A management reply with its STATUS (R395). -/
  | mgmt (status : Nat)
  /-- A report to firmware (R236, R324, R391). -/
  | report
  deriving DecidableEq, Repr

/-- A message the module sends out. -/
structure OutMsg where
  kind : MsgKind
  dest : Nat := 0
  tag : Nat := 0
  data : List Byte := []
  /-- The Thojan port by which it goes, and its sequence number there (R257). -/
  link : Option (Nat × Nat) := none
  /-- A flit's number from end to end, by which a receiver discards a repeated one, and its CRC (R257, R258). -/
  num : Nat := 0
  crc : Word := 0
  deriving DecidableEq, Repr

/-- Why a request was discarded (R364, R366, R368, R370, R378). -/
inductive IoReason where
  | kickSize
  | windowUnused
  | eventUnused
  | eventBinding
  | noChannel
  | translation
  | notGranted
  | pageRequest
  | portDown
  | retired
  deriving DecidableEq, Repr

/-- An entry of the I/O log (R364). -/
structure IoEntry where
  rid : Nat := 0
  pasid : Nat := 0
  addr : Nat
  reason : IoReason
  deriving DecidableEq, Repr

/-- A Thojan port (R257, R258). -/
structure Port where
  expected : Nat := 0
  replays : Nat := 0
  /-- The receiver at the other end has signalled stop. -/
  stopped : Bool := false
  /-- The next sequence number to send; flits that wait to be sent; the last 64 sent, for replay. -/
  seq : Nat := 0
  tx : List OutMsg := []
  replay : List OutMsg := []
  /-- The link is to retrain; it has retrained since its last good flit. -/
  retraining : Bool := false
  retrained : Bool := false
  /-- The flit that the receiver at the other end has asked for again, and how often it has been replayed (R258). -/
  nackSeq : Nat := 0
  nacks : Nat := 0
  /-- The link has retrained for that flit. -/
  nackRetrained : Bool := false
  oos : Bool := false
  deriving DecidableEq, Repr

/-- The chuck (R329). -/
structure Chuck where
  gang : Nat
  die : Nat
  origin : Nat
  since : Nat
  deriving DecidableEq, Repr

/-- Whose action the next step is: the choice is open (log 2). -/
inductive Turn where
  /-- Any agent that can act. -/
  | any
  /-- The group with this key. -/
  | issue (k : Nat)
  deriving DecidableEq, Repr

/-- A range of a root-die window that firmware has decoded to a port: an HDM decoder, or a bridge window with the peer's address
of its first byte (R361, R362). -/
structure Decoder where
  base : Nat := 0
  size : Nat := 0
  port : Nat := 0
  peer : Nat := 0
  deriving DecidableEq, Repr

/-- The state of one package. -/
structure State where
  -- work
  groups : SMap Group := []
  teams : SMap Team := []
  gangs : SMap Gang := []
  grids : SMap Grid := []
  ctxs : SMap Ctx := []
  -- cores
  cores : SMap CoreSt := []
  laneWords : SMap Word := []
  spad : SMap Byte := []
  /-- Scratchpad bytes marked uncorrectable. -/
  spadBad : List Nat := []
  /-- Translations held in TLBs (R14, R231): the leaf by holder (a core, or 448 + a cluster), context and 64 KiB page. -/
  tlbs : SMap DWord := []
  ops : SMap Op := []
  /-- Loads marked urgent (R228). -/
  urgentLoads : List Nat := []
  copies : SMap Copy := []
  colls : SMap Coll := []
  samples : SMap Sample := []
  icache : SMap DWord := []
  /-- CALCFG, which CALIPER_SET writes alike for every core (R392, R397). -/
  calCfg : Word := 0x8000000C
  /-- The cycle of the last drain of each cluster (R357). -/
  lastDrain : SMap Nat := []
  -- memory
  phys : SMap Byte := []
  /-- Bytes of memory marked uncorrectable (R219). -/
  physBad : List Nat := []
  lineKey : SMap (BitVec 8) := []
  ownerKeys : SMap Bool := []
  pchs : SMap PseudoCh := []
  hbmStacks : SMap StackSt := []
  sandSeq : SMap Nat := []
  -- root die
  events : SMap EventBar := []
  workQueues : SMap WorkQueue := []
  userQueues : SMap UserQueue := []
  slots : SMap HwSlot := []
  pendingIdx : List Nat := []
  /-- Queues of a kicked index that firmware has still to map and scan (R324). -/
  fwScan : List Nat := []
  faultQueue : List (List Byte) := []
  errorLog : List (List Byte) := []
  errorOver : Nat := 0
  /-- The owner of each grid number's last grid, for the logs (R397). -/
  gridOwners : SMap (BitVec 8) := []
  ioLog : List IoEntry := []
  ioDropped : Nat := 0
  aerLog : List (Nat × Nat) := []
  reports : List (Nat × Nat) := []
  sysreqQueue : List Nat := []
  tails : SMap (List Tail) := []
  outbox : List OutMsg := []
  channels : SMap Channel := []
  /-- Peer-to-peer reads that wait for their completion, by number (R360). -/
  peerReads : SMap PeerRead := []
  pageReqs : List PageReq := []
  portDown : List Nat := []
  portCfg : SMap Word := []
  portSpd : SMap Word := []
  /-- HDM decoders and bridge windows by number (R361, R362). -/
  hdm : SMap Decoder := []
  /-- BARs that firmware has assigned anew (R377, R378): the others lie where `Config.portOf` says. -/
  bars : SMap Decoder := []
  bridges : SMap Decoder := []
  ports : SMap Port := []
  /-- The number of the next flit, the flits of other packages already received, and the answers awaited (R257, R258). -/
  linkNum : Nat := 0
  seenFlits : List (Nat × Nat) := []
  asks : SMap RemoteAsk := []
  schedcfg : Word := 0x00006414
  chuck : Option Chuck := none
  chuckLatch : Word × Word := (0, 0)
  placementStop : Bool := false
  nextGrid : Word := 1
  nextTicket : Word := 1
  powerCfg : Word := 0x960CE400
  freq : Nat := 3300
  critical : List Nat := []
  cycle : Nat := 0
  /-- Femtoseconds since module reset (R347). -/
  time : Nat := 0
  /-- Where firmware puts the next table of some context's page tables (R229, log 35). -/
  tableNext : Nat := 0x5F00000000
  /-- Words that system cores have load-reserved, by hart: key and bytes (R375). -/
  lrWords : SMap (Nat × Nat) := []
  /-- Pages that firmware has moved to the second tier (R232). -/
  pagedOut : List PagedOut := []
  /-- The contexts' record areas: the bytes of the last record of each group (R308). -/
  records : SMap (List Byte) := []
  /-- Cycles in which some gang waited for placement (R331). -/
  waitClock : Nat := 0
  -- root of trust
  mrs : SMap (List Byte) := []
  partition : SMap Word := []
  slotB : Bool := false
  /-- Images that IMAGE_WRITE has put into slots A (0) and B (1) of the flash. -/
  images : SMap (List Byte) := []
  /-- Boots so far: each has its own receipt key (R386). -/
  boots : Nat := 0
  operatorKey : Option (List Byte) := none
  ownerPub : SMap (List Byte) := []
  nextLeaf : Nat := 0
  /-- Retired pages by unit: base key and bytes (R387). -/
  retired : SMap (List (Nat × Nat)) := []
  sessions : SMap Session := []
  i3cAddr : Option (BitVec 7) := none
  mctpEid : Option Byte := none
  booted : Bool := true
  bootStep : Nat := 0
  powered : Bool := true
  -- the model's own
  /-- Events from outside, each with the number of steps that pass before it (log 2). -/
  agenda : List (Nat × Instr) := []
  turn : Turn := .any
  cur : Nat := 0
  fresh : Nat := 0
  nextId : Nat := 0
  deriving DecidableEq, Repr

/-- Why a step ends without a next state. -/
inductive Fault where
  /-- Raised by `step` after POWER_LOSS until a MODULE_RESET event (R390). Safe: the module without power takes no step. -/
  | poweredOff
  deriving DecidableEq, Repr

/-- An instruction without a meaning. -/
inductive Refusal where
  /-- Raised by the arms of `exec` that have no meaning yet. Safe: nothing is claimed of them. -/
  | notModelled (mnemonic : String)
  deriving DecidableEq, Repr

/-- The machine right after module reset. The values that no rule gives are those of the entries named in INVENTORY.md. -/
def State.reset : State := {}

end Sys2Proof.Machine
end

