-- ==== Sys2Proof/Machine/Ops.lean ====
section
/-! DEFINITION. Named operations over the state: groups and their registers, memories and translation, error and fault
records, taking a user trap and a system fault, discard and resumption. -/

namespace Sys2Proof.Machine

/-! ### Keys: grid, gang, member and group in one number -/

def groupKey (grid gang member g : Nat) : Nat := ((grid * 65536 + gang) * 16 + member) * 16 + g
def teamOf (k : Nat) : Nat := k / 16
def gangOf (k : Nat) : Nat := k / 256
def gridOf (k : Nat) : Nat := k / 16777216
def groupIdx (k : Nat) : Nat := k % 16
def memberOf (k : Nat) : Nat := k / 16 % 16
def gangIdx (k : Nat) : Nat := k / 256 % 65536

/-! ### Looking things up -/

def State.group? (s : State) (k : Nat) : Option Group := s.groups.find? k
def State.team (s : State) (k : Nat) : Team := s.teams.getD (teamOf k) {}
def State.teamAt (s : State) (t : Nat) : Team := s.teams.getD t {}
def State.gang (s : State) (k : Nat) : Gang := s.gangs.getD (gangOf k) {}
def State.grid (s : State) (k : Nat) : Grid := s.grids.getD (gridOf k) {}
def State.kernel (s : State) (k : Nat) : Kernel := (s.grid k).kernel.getD {}
def State.ctxOf (s : State) (k : Nat) : Nat := (s.grid k).ctx
/-- The core a group stands on. -/
def State.coreOf (s : State) (k : Nat) : Nat := ((s.group? k).map (·.core)).getD 0
def State.ctx (s : State) (c : Nat) : Ctx := s.ctxs.getD c {}
def State.core (s : State) (c : Nat) : CoreSt := s.cores.getD c {}

def State.setGroup (s : State) (k : Nat) (g : Group) : State := { s with groups := s.groups.insert k g }
def State.modGroup (s : State) (k : Nat) (f : Group → Group) : State := { s with groups := s.groups.modify k f }
def State.setTeam (s : State) (t : Nat) (x : Team) : State := { s with teams := s.teams.insert t x }
def State.setGang (s : State) (t : Nat) (x : Gang) : State := { s with gangs := s.gangs.insert t x }
def State.setGrid (s : State) (t : Nat) (x : Grid) : State := { s with grids := s.grids.insert t x }
def State.setCtx (s : State) (t : Nat) (x : Ctx) : State := { s with ctxs := s.ctxs.insert t x }
def State.setCore (s : State) (c : Nat) (x : CoreSt) : State := { s with cores := s.cores.setD c x {} }

/-- A fresh number for a new operation or copy. -/
def State.newId (s : State) : Nat × State := (s.nextId, { s with nextId := s.nextId + 1 })

/-- The next free value (log 11). -/
def State.free64 (s : State) : DWord × State := (Config.freeBits s.fresh, { s with fresh := s.fresh + 1 })

/-- The next free choice (log 11). -/
def State.freeBool (s : State) : Bool × State := (Config.freeChoice s.fresh, { s with fresh := s.fresh + 1 })

/-! ### Registers of a group -/

namespace Group

/-- A scalar register (R14, R19). -/
def rs (g : Group) (n : Nat) : Word := g.s.getD n 0
/-- A 64-bit pair (R42). -/
def rp (g : Group) (n : Nat) : DWord := pair (g.rs n) (g.rs (n + 1))
/-- A vector register element. -/
def rv (g : Group) (r lane : Nat) : Word := g.v.getD (r * 96 + lane) 0
/-- An arrival counter (R213). -/
def ra (g : Group) (n : Nat) : Nat := g.a.getD n 0
/-- The flags of a lane (R58). -/
def rf (g : Group) (lane : Nat) : Flags := g.vflags.getD lane 0

/-- Write a scalar register; good data clears an uncorrectable mark. -/
def ws (g : Group) (n : Nat) (x : Word) : Group := { g with s := g.s.setD n x 0, sBad := g.sBad.filter (· ≠ n) }
/-- Write a pair: low word in the even register (R94). -/
def wp (g : Group) (n : Nat) (x : DWord) : Group := (g.ws n (loWord x)).ws (n + 1) (hiWord x)
/-- Write a vector register element. -/
def wv (g : Group) (r lane : Nat) (x : Word) : Group :=
  { g with v := g.v.setD (r * 96 + lane) x 0, vBad := g.vBad.filter (· ≠ r * 96 + lane) }
def wa (g : Group) (n : Nat) (x : Nat) : Group := { g with a := g.a.setD n x 0 }
def wf (g : Group) (lane : Nat) (x : Flags) : Group := { g with vflags := g.vflags.setD lane x 0 }

/-- A mask triple as 96 bits: bit L is lane L (R90). -/
def rt (g : Group) (n : Nat) : BitVec 96 := (g.rs (n + 2) ++ g.rs (n + 1) ++ g.rs n).cast (by decide)
def wt (g : Group) (n : Nat) (x : BitVec 96) : Group :=
  ((g.ws n (x.extractLsb' 0 32)).ws (n + 1) (x.extractLsb' 32 32)).ws (n + 2) (x.extractLsb' 64 32)

/-- The execution mask em0 to em2, s125 to s127 (R90). -/
def em (g : Group) : BitVec 96 := g.rt 125
/-- Active(L) and Live(L) of R58. -/
def active (g : Group) (lane : Nat) : Bool := g.em.getLsbD lane
def live (g : Group) (lane : Nat) : Bool := !g.dead.getLsbD lane
def part (g : Group) (lane : Nat) : Bool := g.live lane && g.active lane
/-- The participating lanes in ascending order (R142). -/
def lanes (g : Group) : List Nat := (List.range 96).filter g.part

/-- Change an arrival counter by one. -/
def incA (g : Group) (n : Nat) : Group := g.wa n (g.ra n + 1)
def decA (g : Group) (n : Nat) : Group := g.wa n (g.ra n - 1)
/-- The condition of a WAIT on a counter and its bound, or on all counters (R220). -/
def waitHolds (g : Group) : Option Nat × Nat → Bool
  | (some n, c) => decide (g.ra n ≤ c)
  | (none, _) => (List.range 16).all (fun n => g.ra n = 0)
/-- The condition of the group's WAIT may hold now: the WAIT ends in that very cycle, and the next word may issue in it (R220). A group
that is halted in its WAIT notes the first such cycle. `step` tells that the group is single-stepped (R353). -/
def noteWait (g : Group) (now : Nat) (step : Bool) : Group :=
  match g.waitTest, g.waitFrom, g.waitMet with
  | some t, some c, none =>
    if !g.waitHolds t then g
    else if g.hold = .waiting then
      { g with
        pc := g.waitNext, hold := .ready, waitcyc := (g.waitcyc + (now - c)) % 2 ^ 64, waitFrom := none, waitTest := none,
        bpSkip := [], haltPending := if step then some { cause := 0x23 } else g.haltPending }
    else { g with waitMet := some now }
  | _, _, _ => g

end Group

/-! ### Lane maps (R15, R16) -/

/-- Good lanes of a lane word. -/
def goodLanes (w : Word) : List Nat := (List.range 32).filter (fun p => w.getLsbD p)
/-- The lane word of a datapath (R15): all ones unless the fuses say otherwise (log 5); one with fewer than 24 good lanes is fused off
whole. -/
def State.laneWord (s : State) (core dp : Nat) : Word :=
  let w := s.laneWords.getD (core * 4 + dp) 0xFFFFFFFF
  if (goodLanes w).length < 24 then 0 else w
/-- Beats(G) = ceil(96 / G). -/
def beatsOf (G : Nat) : Nat := if G = 0 then 0 else (95 + G) / G
def State.goodOf (s : State) (g : Group) : Nat := (goodLanes (s.laneWord g.core g.dp)).length
def State.beats (s : State) (g : Group) : Nat := beatsOf (s.goodOf g)
/-- Non-empty beats E (R18). -/
def State.nonEmptyBeats (s : State) (g : Group) : Nat :=
  let G := s.goodOf g
  ((List.range (s.beats g)).filter (fun b => g.lanes.any (fun L => L / G = b))).length

/-! ### Live-ins of the current region (R24, R305, R306) -/

/-- The live-set of a group's current region. -/
def State.liveSet (s : State) (k : Nat) (g : Group) (live : Option Nat) : LiveSet :=
  match live with
  | none => { ss := List.range (min 10 g.sregs) }
  | some n => (s.kernel k).live.getD n {}

/-- Whether a span of registers meets the live-ins. -/
def LiveSet.meets (l : LiveSet) (w : Bool × Nat × Nat) : Bool :=
  (List.range w.2.2).any (fun i => (if w.1 then l.vs else l.ss).contains (w.2.1 + i))

/-! ### Physical memory (R4, R28, R203, R381) -/

/-- A physical address in a tier: 0 HBM, 1 second tier, 2 system, 3 another package (R230, log 6). -/
def physKey (tier pa : Nat) : Nat := tier * 4503599627370496 + pa

/-- What a physical key names (R230, R363): memory, a window of the root die with the offset in it, another package, or
nothing. -/
inductive Dest where
  | memory
  | endpoint
  | kick (off : Nat)
  | event (off : Nat)
  | remote
  | nowhere
  deriving DecidableEq, Repr

/-- R363. Every address of the HBM and second tiers below 2^52 is memory, beyond the 384 GB and 1,024 GB present too: the spec gives no
outcome there (log 6). -/
def destOf (key : Nat) : Dest :=
  let tier := key / 4503599627370496
  let pa := key % 4503599627370496
  if tier ≤ 1 then .memory
  else if tier = 3 then .remote
  else if 0x000C000000000000 ≤ pa ∧ pa < 0x000E000000000000 then .memory
  else if 0x000E000000000000 ≤ pa ∧ pa < 0x000F000000000000 then .endpoint
  else if 0x000FFFFFE0000000 ≤ pa ∧ pa < 0x000FFFFFF0000000 then .kick (pa - 0x000FFFFFE0000000)
  else if 0x000FFFFFFFFF0000 ≤ pa then .event (pa - 0x000FFFFFFFFF0000)
  else .nowhere

/-- What a byte of memory that nothing has written reads as (log 4). -/
def memDefault : Byte := 0

/-- The canonical form of a memory (R4, R14). -/
abbrev Memory.wf (m : SMap Byte) : Prop := SMap.Canon m memDefault

/-- The stored byte, whatever its owner key. -/
def State.rawByte (s : State) (k : Nat) : Byte := s.phys.getD k memDefault

/-- The part does not encrypt CXL memory: only the stacks and the LPDDR controllers do (R381). -/
def plainKey (k : Nat) : Bool := decide (2 ≤ k / 4503599627370496)

/-- A byte read under an owner key: under another key than the line's the bits are free where memory is encrypted (R381, log 10); a kick
register or event target reads 0 (R364); what a device or another package answers is free (log 17, log 18). -/
def State.physByte (s : State) (owner : BitVec 8) (k : Nat) : Byte :=
  match destOf k with
  | .memory =>
    let lk := s.lineKey.getD (k / 64) 0
    if lk = owner || plainKey k then s.rawByte k else Config.wrongKeyByte owner.toNat lk.toNat k (s.rawByte k)
  | .kick _ | .event _ => 0
  | _ => Config.remoteByte s.fresh k

/-- Bring a line under an owner key before it is written: its other bytes become what a read under that key gives. -/
def State.rekey (s : State) (owner : BitVec 8) (line : Nat) : State :=
  if s.lineKey.getD line 0 = owner then s
  else
    { s with
      phys := (List.range 64).foldl (fun m i => m.setD (line * 64 + i) (s.physByte owner (line * 64 + i)) memDefault) s.phys
      lineKey := s.lineKey.setD line owner 0 }

/-- Write one byte of physical memory: good data clears an uncorrectable mark (R219), and a system core's reservation of the byte is lost
(R375). -/
def State.setPhysByte (s : State) (owner : BitVec 8) (k : Nat) (b : Byte) : State :=
  let s := s.rekey owner (k / 64)
  { s with
    phys := s.phys.setD k b memDefault
    physBad := s.physBad.filter (· ≠ k)
    lrWords := s.lrWords.filter (fun e => !decide (e.2.1 ≤ k ∧ k < e.2.1 + e.2.2)) }

/-- Write bytes from a key on. -/
def State.setPhys (s : State) (owner : BitVec 8) (k : Nat) : List Byte → State
  | [] => s
  | b :: bs => State.setPhys (s.setPhysByte owner k b) owner (k + 1) bs

/-- Read bytes from a key on. -/
def State.getPhys (s : State) (owner : BitVec 8) (k n : Nat) : List Byte :=
  (List.range n).map (fun i => s.physByte owner (k + i))

/-! ### Scratchpad (R14, R29, R206) -/

/-- A byte of core c's scratchpad. -/
def spadKey (core off : Nat) : Nat := core * 524288 + off
/-- The S address of a scratchpad byte by its key (R29). -/
def sKeyAddr (key : Nat) : DWord := BitVec.ofNat 64 (0x01F0000000000000 + key)

def State.spadByte (s : State) (k : Nat) : Byte := s.spad.getD k memDefault
def State.getSpad (s : State) (k n : Nat) : List Byte := (List.range n).map (fun i => s.spadByte (k + i))
def State.setSpad (s : State) (k : Nat) : List Byte → State
  | [] => s
  | b :: bs => State.setSpad { s with spad := s.spad.setD k b memDefault } (k + 1) bs

/-- Write bytes of scratchpad: they lose their uncorrectable marks (R219). -/
def State.storeSpad (s : State) (key : Nat) (bs : List Byte) : State :=
  { s with spadBad := s.spadBad.filter (fun x => decide (x < key ∨ key + bs.length ≤ x)) }.setSpad key bs

/-- Whether a scratchpad range holds a byte marked uncorrectable. -/
def State.spadMarked (s : State) (key n : Nat) : Bool := s.spadBad.any (fun x => decide (key ≤ x ∧ x < key + n))

/-- The scratchpad bytes of a team's L offset. -/
def State.lKey (s : State) (k off : Nat) : Nat := spadKey (s.team k).core ((s.team k).base + off)

/-- Whether `n` bytes at an L offset lie in the allocation (R206). -/
def State.lBounds (s : State) (k : Nat) (off : Int) (n : Nat) : Bool := decide (0 ≤ off ∧ off + n ≤ (s.team k).scratch)

/-- The S address of a scratchpad byte (R29). -/
def sAddr (core off : Nat) : DWord := BitVec.ofNat 64 (0x01F0000000000000 + core * 524288 + off)

/-! ### Translation (R229 to R232) -/

/-- Fields of a page-table entry (R230). -/
structure Pte where
  raw : DWord
  deriving DecidableEq, Repr

namespace Pte
def bits (p : Pte) (lo w : Nat) : Nat := bitsAt p.raw.toNat lo w
def valid (p : Pte) : Bool := bitAt p.raw.toNat 0
def leaf (p : Pte) : Bool := bitAt p.raw.toNat 4
def pR (p : Pte) : Bool := bitAt p.raw.toNat 1
def pW (p : Pte) : Bool := bitAt p.raw.toNat 2
def pX (p : Pte) : Bool := bitAt p.raw.toNat 3
def tier (p : Pte) : Nat := p.bits 8 2
def kind (p : Pte) : Nat := p.bits 10 2
/-- Physical address of the page or of the next table. -/
def addr (p : Pte) : Nat := p.bits 12 40 * 4096
def owner (p : Pte) : BitVec 8 := p.raw.extractLsb' 52 8
/-- KIND 0b01 is SO, 0b10 is UN (R230). -/
def isUN (p : Pte) : Bool := p.kind = 2
def isSO (p : Pte) : Bool := p.kind = 1
end Pte

/-- log2 of the bytes an entry of a level maps (R229). -/
def levelShift (level : Nat) : Nat :=
  match level with
  | 4 => 48 | 3 => 39 | 2 => 30 | 1 => 21 | _ => 16

/-- Malformed entries of R230. -/
def Pte.malformed (p : Pte) (level : Nat) : Bool :=
  p.bits 60 4 ≠ 0 || p.bits 5 3 ≠ 0 || p.kind = 3 ||
  (!p.leaf && (p.bits 52 8 ≠ 0 || p.kind ≠ 0 || p.tier ≠ 0)) ||
  (p.leaf && 3 ≤ level) || (level = 0 && !p.leaf) ||
  (p.leaf && p.addr % 2 ^ levelShift level ≠ 0)

/-- The walk from one level down (R231): a leaf narrowed to its 64 KiB page, or CAUSE and DETAIL of the fault. -/
def State.walkFrom (s : State) (table va : Nat) : Nat → Except (Nat × Nat) Pte
  | 0 => .error (7, 1)
  | level + 1 =>
    let entries := if level = 0 then 32 else 512
    let idx := va / 2 ^ levelShift level % entries
    let p : Pte := ⟨BitVec.ofNat 64 (leNat ((List.range 8).map (fun i => s.rawByte (table + 8 * idx + i))))⟩
    if !p.valid then .error (7, 0)
    else if p.malformed level then .error (7, 1)
    else if p.leaf then
      let pa := p.addr + va % 2 ^ levelShift level / 65536 * 65536
      .ok ⟨BitVec.ofNat 64 (p.raw.toNat - p.addr + pa)⟩
    else State.walkFrom s p.addr va level

/-- The walk of a context's tables. -/
def State.walk (s : State) (c va : Nat) : Except (Nat × Nat) Pte := s.walkFrom (s.ctx c).root va 5

/-- The TLBs of R14 and R231: holder h is core h's first level, and 448 + n the second level of cluster n. -/
def tlbKey (h c page : Nat) : Nat := (c * 1024 + h) * 2 ^ 41 + page

/-- The package number of a core's cluster (R13). -/
def clusterOf (core : Nat) : Nat := core / 112 * 14 + core % 112 / 16 * 2 + core % 8 / 4

/-- The second-level TLB behind a core's is its cluster's (R14, R231); that behind the root die's agents is their own. -/
def tlbBehind (h : Nat) : Nat := 448 + clusterOf h

/-- The holder of translations that agents of the root die use. -/
def rootTlb : Nat := 600

/-- A translation that a TLB still holds and that the tables no longer give: which ones it has replaced is open (log 8). -/
def State.tlbHit (s : State) (h c page : Nat) (walk : Except (Nat × Nat) Pte) : Option DWord :=
  match s.tlbs.find? (tlbKey h c page) with
  | none => none
  | some old =>
    if (match walk with | .ok p => decide (p.raw = old) | .error _ => false) then none
    else if Config.freeChoice (s.fresh + tlbKey h c page) then some old else none

/-- The leaf an access of core h uses (R231): its own TLB's, its cluster's, or the tables'. -/
def State.leafOf (s : State) (h c va : Nat) : Except (Nat × Nat) Pte :=
  let page := va / 65536
  let walk := s.walk c va
  match s.tlbHit h c page walk with
  | some old => .ok ⟨old⟩
  | none =>
    match s.tlbHit (tlbBehind h) c page walk with
    | some old => .ok ⟨old⟩
    | none => walk

/-- A range of G space meets the context's doorbell window: firmware maps nothing there but the kick registers of its own queues
(R322). -/
def Ctx.window (x : Ctx) (a n : Nat) : Bool := decide (a < x.dbbase.toNat + 268435456 ∧ x.dbbase.toNat < a + n)

/-- An address lies in a range that the context has declared allocatable on demand (R232). -/
def Ctx.demand (x : Ctx) (a : Nat) : Bool := !x.window a 1 && x.onDemand.any (fun r => decide (r.1 ≤ a ∧ a < r.2))

/-- What an access needs of a leaf (R231). -/
inductive Need where
  | load | store | fetch | atomic
  deriving DecidableEq, Repr

def Pte.admits (p : Pte) : Need → Bool
  | .load => p.pR
  | .store => p.pW
  | .fetch => p.pX
  | .atomic => p.pR && p.pW

/-- Where a leaf sends an address, and whether it admits the access (R231, R363). -/
def Pte.reach (p : Pte) (va : Nat) (need : Need) : Option Nat :=
  let key := physKey p.tier (p.addr + va % 65536)
  if p.admits need ∧ destOf key ≠ .nowhere then some key else none

/-- Translate a G address for core h: the physical key and the leaf, or CAUSE and DETAIL. -/
def State.translate (s : State) (h c va : Nat) (need : Need) : Except (Nat × Nat) (Nat × Pte) :=
  if 2 ^ 57 ≤ va then .error (8, 0)
  else match s.leafOf h c va with
    | .error (a, b) => .error (a, if need = .fetch ∧ a = 7 then 2 else b)
    | .ok p =>
      match p.reach va need with
      | some key => .ok (key, p)
      | none => .error (8, 0)

/-- Entries that a TLB holds. -/
def State.tlbCount (s : State) (h : Nat) : Nat := (s.tlbs.filter (fun e => e.1 / 2 ^ 41 % 1024 = h)).length

/-- Put a leaf into a TLB of `room` entries; a full one first replaces some entry: which is open (log 8). -/
def State.tlbPut (s : State) (h room c va : Nat) (p : Pte) : State :=
  let k := tlbKey h c (va / 65536)
  let mine := (s.tlbs.filter (fun e => e.1 / 2 ^ 41 % 1024 = h && e.1 ≠ k)).map (·.1)
  let m := if mine.length < room then s.tlbs
    else s.tlbs.erase (mine.getD ((Config.freeBits s.fresh).toNat % mine.length) 0)
  { s with tlbs := m.insert k p.raw }

/-- Keep the leaf of a translation of core h in its TLB and its cluster's (R14, R231). -/
def State.noteLeaf (s : State) (h c va : Nat) (p : Pte) : State :=
  (s.tlbPut h 1024 c va p).tlbPut (tlbBehind h) 16384 c va p

/-- Bytes of a store buffer line of a core, if it holds the byte (R204). -/
def State.bufByte (s : State) (core key : Nat) : Option Byte :=
  match (s.core core).storeBuf.find? (fun l => l.line = key / 64) with
  | none => none
  | some l => l.bytes.find? (key % 64)

/-- A byte as a group of a core reads it in G space: the core's store buffer first (R204). -/
def State.coreByte (s : State) (core : Nat) (owner : BitVec 8) (key : Nat) : Byte :=
  (s.bufByte core key).getD (s.physByte owner key)

/-! ### Error and fault records (R341, R344, R345) -/

/-- The 32 bytes of a fault record (R341). -/
def faultBytes (s : State) (k : Nat) (g : Group) (f : FaultInfo) : List Byte :=
  let team := gangIdx k * ((s.kernel k).w * (s.kernel k).h) + memberOf k
  leBytes 4 (f.cause * 2 ^ 24 + f.detail % 256 * 2 ^ 16 + f.iter % 4096 * 16 + (if f.slot then 8 else 0)) ++
  leBytes 4 (team % 2 ^ 20 * 2 ^ 12) ++
  leBytes 4 (g.core * 2 ^ 23 + g.dp * 2 ^ 21 + groupIdx k * 2 ^ 17 + f.lane % 128 * 2 ^ 10) ++
  leBytes 4 (gridOf k) ++ leBytes 8 f.pc.toNat ++ leBytes 8 f.addr.toNat

/-- Put a fault record into the fault queue, or keep it in the core while the queue is full or earlier records wait: they are queued
in order (R340). -/
def State.pushFault (s : State) (core : Nat) (r : List Byte) : State :=
  if s.faultQueue.length < 1024 && s.cores.all (fun c => c.2.faultWait.isEmpty) then { s with faultQueue := s.faultQueue ++ [r] }
  else { s.setCore core { s.core core with faultWait := (s.core core).faultWait ++ [(s.nextId, r)] } with nextId := s.nextId + 1 }

/-- Firmware passes an error record to the error area of the context that owns its grid (R345); when it does is not modelled (log 49). -/
def State.passError (s : State) (grid : Nat) (r : List Byte) : State :=
  match s.grids.find? grid with
  | none => s
  | some g => s.setCtx g.ctx { s.ctx g.ctx with errors := (s.ctx g.ctx).errors ++ [r] }

/-- Make an error record (R344); a full log drops it and counts (R345). -/
def State.errorRec (s : State) (core dp group grid : Nat) (pc addr : DWord) (loc source lane : Nat) (dead : Bool) : State :=
  let r := leBytes 4 (source * 2 ^ 24 + lane % 128 * 2 ^ 17 + (if dead then 2 ^ 16 else 0)) ++ leBytes 4 loc ++
    leBytes 8 addr.toNat ++ leBytes 8 pc.toNat ++ leBytes 4 grid ++
    leBytes 4 (core * 2 ^ 23 + dp * 2 ^ 21 + group * 2 ^ 17)
  if s.errorLog.length < 4096 then { s with errorLog := s.errorLog ++ [r] }.passError grid r
  else { s with errorOver := min (s.errorOver + 1) 0xFFFFFFFF }

/-- The error record of an operation of a group after its issue. -/
def State.opError (s : State) (core group : Nat) (pc addr : DWord) (source lane : Nat) (dead : Bool) : State :=
  s.errorRec core (((s.group? group).map (·.dp)).getD 0) (groupIdx group) (gridOf group) pc addr 0 source lane dead

/-- The error record of a group's lane or register. -/
def State.groupError (s : State) (k : Nat) (g : Group) (addr : DWord) (loc source lane : Nat) (dead : Bool) : State :=
  s.errorRec g.core g.dp (groupIdx k) (gridOf k) g.pc addr loc source lane dead

/-! ### Lane death (R154) -/

/-- Make a lane of a group dead. -/
def Group.kill (g : Group) (lane : Nat) : Group := { g with dead := g.dead ||| BitVec.ofNat 96 (2 ^ lane) }

/-! ### Discard and resumption (R25, R26, R308, R309) -/

/-- Live-in values of a record (R308): 0 for a dead lane. -/
def recordOf (l : LiveSet) (k : Nat) (g : Group) (cause : Nat) (wait : WaitOn) : Rec :=
  { pc := g.cont.pc, em := g.cont.em, dead := g.dead, acnt := g.cont.a, waitcyc := g.waitcyc, tpc := g.tpc,
    tcause := g.tcause, role := g.role, group := groupIdx k, live := g.cont.live, cause := cause, wait := wait,
    sval := l.ss.foldl (fun m r => SMap.setD m r (g.rs r) 0) [],
    vval := l.vs.foldl (fun m r =>
      (List.range 96).foldl (fun m L => SMap.setD m (r * 96 + L) (if g.live L then g.rv r L else 0) 0) m) [] }

/-- The bytes of a continuation record in the context's record area (R308): `l` is the live-set of its region. -/
def Rec.bytes (r : Rec) (l : LiveSet) : List Byte :=
  let wait : Nat := match r.wait with
    | .none => 0
    | .bar gang i p => (if gang then 2 else 1) * 2 ^ 30 + (if p then 2 ^ 29 else 0) + i % 256 * 65536
    | .event e n => 3 * 2 ^ 30 + e % 256 * 65536 + n % 65536
  leBytes 8 r.pc.toNat ++ leBytes 12 r.em.toNat ++ leBytes 12 r.dead.toNat ++
  (List.range 16).flatMap (fun n => leBytes 1 (SMap.getD r.acnt n 0)) ++ leBytes 8 r.waitcyc ++ leBytes 8 r.tpc.toNat ++
  leBytes 4 r.tcause.toNat ++
  leBytes 4 (r.cause * 2 ^ 24 + r.live.getD 0 % 256 * 65536 + r.group % 16 * 4096 + r.role % 4 * 1024) ++
  leBytes 4 wait ++ leBytes 4 0 ++ leBytes 1 l.vs.length ++ leBytes 1 l.ss.length ++ leBytes 46 0 ++
  (List.range 16).flatMap (fun i => leBytes 4 ((l.ss[i]?.map (fun n => (SMap.getD r.sval n 0).toNat)).getD 0)) ++
  l.vs.flatMap (fun v => (List.range 96).flatMap (fun L => leBytes 4 (SMap.getD r.vval (v * 96 + L) 0).toNat))

/-- Lanes whose live-in elements cannot be saved die first (R309). -/
def Group.savable (g : Group) (l : LiveSet) : Group :=
  l.vs.foldl (fun g r => (List.range 96).foldl (fun g L =>
    if g.live L && g.vBad.contains (r * 96 + L) then g.kill L else g) g) g

/-- Take a group off the waiting orders it stands in: queues, event barriers, barriers it waits on. -/
def State.unwait (s : State) (k : Nat) : State :=
  let t := s.team k
  let t := { t with queues := t.queues.map (fun e => (e.1, { e.2 with blocked := e.2.blocked.filter (· ≠ k) })) }
  { s.setTeam (teamOf k) t with
    events := s.events.map (fun e => (e.1, { e.2 with waiters := e.2.waiters.filter (fun w => w.1 ≠ k) })) }

/-- Outstanding operations of a discarded group are abandoned (R218); engine operations issued in the discarded region
complete uncounted (R171). -/
def State.abandon (s : State) (k mark : Nat) : State :=
  { s with
    ops := (s.ops.filter (fun e => !(e.2.group = k && e.2.faulted))).map (fun e =>
      if e.2.group = k then (e.1, { e.2 with abandoned := true }) else e)
    cores := s.cores.map (fun c => (c.1, { c.2 with
      engine := c.2.engine.map (fun o => if o.group = k ∧ mark ≤ o.id then { o with abandoned := true } else o) })) }

/-! ### The end of a group (R342, R346) -/

/-- A team has no group left, and none of its copies and engine operations is in flight (R259, R346). -/
def State.teamFinished (s : State) (t : Nat) : Bool :=
  s.groups.all (fun e => decide (teamOf e.1 ≠ t) || decide (e.2.place = .gone)) &&
  s.copies.all (fun e => decide (e.2.team ≠ t)) &&
  s.cores.all (fun c => c.2.engine.all (fun o => decide (teamOf o.group ≠ t)))

/-- The gang retires when its last team is finished; the ticket is released (R346). -/
def State.settle (s : State) (x : Nat) : State :=
  match s.gangs.find? x with
  | none => s
  | some g =>
    if g.place ≠ .waiting ∧ g.place ≠ .retired ∧ (List.range 16).all (fun m => s.teamFinished (x * 16 + m)) then
      s.setGang x { g with place := .retired }
    else s

/-- Free a group's slot and registers for good. -/
def Group.ended (g : Group) : Group :=
  { g with place := .gone, hold := .ready, s := [], v := [], a := [], rcd := none, pairPending := false, waitOps := [],
           rel := none, fenceRel := none, haltPending := none, asyncFault := none, scalarErr := none, stopCause := none,
           fwStop := false, yielding := .none, released := false, pairRegion := none, waitFrom := none, waitTest := none,
           waitMet := none, recRead := none, vBad := [], sBad := [], aBad := [] }

/-- Discard a group of a terminating grid, without a record (R342). -/
def State.endGroup (s : State) (k : Nat) (g : Group) : State :=
  let s := (s.unwait k).abandon k g.cont.mark
  (s.setGroup k { g.ended with leftAt := s.nextId }).settle (gangOf k)

/-- The record of a discarded group stands in its context's record area (R308): it is written at the discard, and again as
completions adjust its counters (R240). -/
def State.saveRecord (s : State) (k : Nat) : State :=
  match s.group? k with
  | none => s
  | some g => match g.rcd with
    | none => s
    | some r => { s with records := s.records.insert k (r.bytes (s.liveSet k g r.live)) }

/-- Discard a group to its region start: the record is written, everything else of the group is lost but the order that a FENCE.REL
gave its later writes (R295), and that its copies and collectives on SO pages give its later accesses (R288). -/
def State.discardTo (s : State) (k : Nat) (g0 : Group) (cause : Nat) (wait : WaitOn) (place : Place) : State :=
  let l := s.liveSet k g0 g0.cont.live
  let g := g0.savable l
  let r := recordOf l k g cause wait
  let s := (s.unwait k).abandon k g.cont.mark
  let s := if g.dead = g0.dead then s
    else (List.range 96).foldl (fun s L => if g.live L != g0.live L then s.groupError k g 0 0 9 L true else s) s
  ({ s with nextId := s.nextId + 1 }.setGroup k { g with
    s := r.sval, v := r.vval, vflags := [], a := r.acnt, pc := r.pc, rcd := some r, place := place, hold := .ready,
    pairPending := false, pairRegion := none, rel := none, half1 := false, fwStop := false, leftAt := s.nextId,
    waitOps := g.waitOps.filter (fun i => (s.copies.find? i).isSome || (s.colls.find? i).isSome),
    waitFrom := none, waitTest := none, waitMet := none, recRead := none, yielding := .none, released := false, haltPending := none, asyncFault := none,
    scalarErr := none, stopCause := none, singleStep := false, bpSkip := [], vBad := [], sBad := [], aBad := [],
    resumeOrder := s.nextId }).saveRecord k

/-- A live-in of the region that cannot be saved: an s-register with an uncorrectable error (R309). -/
def State.unsavable (s : State) (k : Nat) (g : Group) : Bool := (s.liveSet k g g.cont.live).ss.any g.sBad.contains

/-- Discard a group at a region point. In a terminating grid no record is kept (R342). Where an s-register live-in cannot be saved,
the system fault for scalar state is raised instead: the record has CAUSE 6, and the group is parked (R309). -/
def State.discard (s : State) (k : Nat) (g : Group) (cause : Nat) (wait : WaitOn) (place : Place) : State :=
  if (s.grid k).terminating then s.endGroup k g
  else if s.unsavable k g then
    let r := faultBytes s k g { cause := 0x0A, pc := g.pc }
    (((s.groupError k g 0 0 9 127 false).discardTo k g 6 .none .parked).pushFault g.core r)
  else s.discardTo k g cause wait place

/-- Restore a discarded group from its record (R26, R308): other registers and `vflags` read 0. -/
def Group.restore (g : Group) : Group :=
  match g.rcd with
  | none => g
  | some r =>
    { g with
      pc := r.pc, s := r.sval, v := r.vval, vflags := [], a := r.acnt, dead := r.dead, tpc := r.tpc, tcause := r.tcause,
      waitcyc := r.waitcyc, place := .resident, hold := .ready, rcd := none,
      cont := { g.cont with pc := r.pc, em := r.em, a := r.acnt, live := r.live } }.wt 125 r.em

/-! ### Taking traps and faults (R60, R335 to R343) -/

/-- The place of a role in the rotation MX, CP, VX, GN (R330). -/
def roleOrder (role : Nat) : Nat :=
  match role with
  | 2 => 0 | 1 => 1 | 3 => 2 | _ => 3

/-- Take a system fault (R340): discard to the region start, free the slot, park, place a fault record. The record's CAUSE
is 3 for a page fault, 6 for an uncorrectable error in scalar state, 5 otherwise. -/
def State.systemFault (s : State) (k : Nat) (g : Group) (f : FaultInfo) : State :=
  let cause := if f.cause = 7 then 3 else if f.cause = 0x0A then 6 else 5
  let r := faultBytes s k g f
  (s.discard k g cause .none .parked).pushFault g.core r

/-- A word of the group issues: the rotation of its datapath and the forward-progress count of its core begin anew (R330, R331). -/
def State.markIssue (s : State) (g : Group) : State :=
  let c := s.core g.core
  s.setCore g.core { c with dpRole := c.dpRole.setD g.dp (roleOrder g.role) 3, fpMark := s.waitClock }

/-- Take a user trap (R60, R336): save the pc and the cause, continue at the kernel's `.trap` entry; without one it is the
system fault 0x0B (R336). -/
def State.userTrap (s : State) (k : Nat) (g : Group) (cause info : Nat) : State :=
  let kr := s.kernel k
  if kr.trapoff = 0xFFFFFFFF then s.systemFault k g { cause := 0x0B, detail := cause, pc := g.pc }
  else
    (s.markIssue g).setGroup k { g with
      rel := none, tpc := g.pc, tcause := BitVec.ofNat 32 (info % 2 ^ 20 * 4096 + cause), hold := .ready,
      bpSkip := [], recRead := none, lastIssue := s.cycle, urgent := false,
      pc := kr.code + BitVec.ofNat 64 (8 * kr.trapoff) }

/-- Halt a group for the debug agent (R349): frozen in place, with a halt record. A group halted in an instruction that waits leaves
its place among the waiters, and issues the instruction again on release (log 53). -/
def State.haltGroup (s : State) (k : Nat) (g : Group) (f : FaultInfo) : State :=
  let r := faultBytes s k g f
  ((s.unwait k).setGroup k { g with
    hold := .halted, released := false, haltPending := none, singleStep := false, recRead := none, pairRegion := none,
    bpslot := if f.cause = 0x21 then f.slot else g.bpslot,
    bpSkip := if f.cause = 0x21 then f.detail :: g.bpSkip else g.bpSkip }).pushFault g.core r

/-! ### Issue -/

/-- Split-phase operations of a group that have not completed (R217). -/
def State.outstanding (s : State) (k : Nat) : Bool := s.ops.any (fun e => e.2.group = k && !e.2.abandoned)

/-- Some gang waits for placement (R331). -/
def State.gangWaits (s : State) : Bool := s.gangs.any (fun e => e.2.place = .waiting || e.2.place = .swapped)

/-- A group on a datapath is ready to issue (R228, R330). -/
def State.dpReady (s : State) (core dp : Nat) : Bool :=
  s.groups.any (fun e => e.2.core = core && e.2.dp = dp && e.2.place = .resident && e.2.hold = .ready)

/-- The oldest outstanding G load of a group (R228). -/
def State.oldestLoad (s : State) (k : Nat) : List Nat :=
  ((s.ops.filter (fun e => e.2.group = k && !e.2.abandoned && e.2.kind = .load && e.2.space = .g)).map (·.1)).take 1

/-- The loads that datapaths without a ready group mark urgent: the oldest of each group stalled in WAIT (R228). -/
def State.urgentNow (s : State) : List Nat :=
  (s.groups.filter (fun e => e.2.place = .resident && e.2.waitFrom.isSome && !s.dpReady e.2.core e.2.dp)).flatMap (fun e => s.oldestLoad e.1)

/-- Cycles pass; how many beyond the issue time is not modelled (log 3). The schedulers mark loads urgent (R228). -/
def State.tick (s : State) (n : Nat) : State :=
  let d := max n 1 + Config.stall s.fresh
  { s with cycle := s.cycle + d, time := s.time + d * (1000000000 / s.freq), waitClock := s.waitClock + (if s.gangWaits then d else 0), fresh := s.fresh + 1,
           urgentLoads := s.urgentLoads.filter (fun i => (s.ops.find? i).isSome && !s.urgentNow.contains i) ++ s.urgentNow }

/-- A group that waits in its instruction: it stays at the word and is tried again (R25). -/
def State.wait (s : State) (k : Nat) (g : Group) : State := (s.setGroup k { g with hold := .waiting }).tick 1

/-! ### Holding issue (R217, R300) -/

/-- Scopes at which a store is performed in the core's store buffer (R215). -/
def Scope.narrow : Scope → Bool
  | .group | .team | .core => true
  | _ => false

/-- An element of an operation lies on a UN page (R230, R290). -/
def State.onUN (s : State) (o : Op) (e : Elem) : Bool :=
  o.space = .g && match e.leaf with
    | some raw => Pte.isUN ⟨raw⟩
    | none => match s.leafOf o.core o.ctx e.addr.toNat with
      | .ok p => p.isUN
      | .error _ => false

/-- Store-buffer entries of a core that have not been written at their homes: those in the buffer, and those that another package has still
to acknowledge (R215). -/
def CoreSt.unhomed (c : CoreSt) : List BufLine := c.storeBuf ++ c.away

/-- What a release of a group at a scope waits for, as things stand (R300); with `all` accesses to UN pages too (R290). -/
def State.mkRel (s : State) (k : Nat) (g : Group) (scope : Scope) (all : Bool := false) : Rel :=
  { ops := (s.ops.filter (fun e => e.2.group = k && !e.2.abandoned)).map (·.1),
    entries := if Scope.narrow scope then [] else ((s.core g.core).unhomed.filter (fun b => all || !b.un)).map (·.id),
    wide := !Scope.narrow scope, all := all }

/-- An operation in flight has nothing left that a release waits for: its elements on other than UN pages, or with `all` the whole of it,
are complete (R290, R300). -/
def State.opCovered (s : State) (all : Bool) (o : Op) : Bool :=
  !all && o.elems.all (fun e => (e.performed && e.todo.isEmpty) || s.onUN o e) && o.elems.any (s.onUN o)

/-- Whether a release may be made: its operations have completed, and at a wide scope no store-buffer entry in question is
left (R300). -/
def State.relDone (s : State) (core : Nat) (r : Rel) : Bool :=
  r.ops.all (fun i => match s.ops.find? i with
    | none => true
    | some o => s.opCovered r.all o) &&
  (!r.wide || (s.core core).unhomed.all (fun b =>
    !r.entries.contains b.id && ((b.un && !r.all) || !b.ops.any r.ops.contains)))

/-- Wait at issue as a release: the group as it waits, or nothing where it may go on. -/
def State.releaseWait (s : State) (k : Nat) (g : Group) (scope : Scope) (all : Bool := false) : Option Group :=
  let r := g.rel.getD (s.mkRel k g scope all)
  if s.relDone g.core r then none else some { g with rel := some r }

/-- Instructions that an acquire in flight holds (R300). -/
def Instr.isHeld : Instr → Bool
  | .ld _ | .st _ | .ldv _ | .stv _ | .sld _ | .sst _ | .pref _ _ _ _ _ _ _ | .zfill _ _ _ _ _ _ _ _ _ | .atom _
  | .cpy _ _ _ _ | .cpyt _ _ | .qfence _ _ | .coll _ _ _ _ | .collwt _ _ _ | .collwtTry _ _ _
  | .tdef _ _ _ _ _ | .tfree _ _ | .tqry _ _ _ _ | .mma _ _ _ _ _ _ _ | .mzero _ _ | .mload _ _ _ _ _
  | .mstore _ _ _ _ _ _ | .mcorr _ _ _ _ _ _ | .mstat _ _ _ _ | .msig _ _ _ | .swfence _ _
  | .barInit _ _ _ | .barArrive _ _ _ | .barArriveNw _ _ _ | .barArriveDefer _ _ _ _ | .barWait _ _ _ | .barStat _ _ _
  | .barStatExp _ _ _ | .qopDef _ _ _ _ | .qopPush _ _ _ _ | .qopPop _ _ _ | .qopTrypush _ _ _ _ _ | .qopTrypop _ _ _
  | .qopStat _ _ _ | .qopStatCfg _ _ _ | .evw _ _ _ | .evwTry _ _ _ _ | .evwStat _ _ _ | .evwClr _ _ _ | .fence _ _ _
  | .spawn _ _ _ _ | .spawnTry _ _ _ _ _ | .launch _ _ _ _ | .dbell _ _ _ _ _ | .sysreq _ _ _ _ | .yieldBar _ _ _
  | .yieldEv _ _ _ => true
  | _ => false

/-- Instructions that wait behind a FENCE.REL in force (R300): the stores, MSTORE among them (R295, R299). -/
def Instr.isRelHeld : Instr → Bool
  | .st _ | .stv _ | .sst _ | .zfill _ _ _ _ _ _ _ _ _ | .atom _ | .cpy _ _ _ _ | .cpyt _ _ | .coll _ _ _ _ | .mstore _ _ _ _ _ _
  | .barInit _ _ _ | .barArrive _ _ _ | .barArriveNw _ _ _ | .barArriveDefer _ _ _ _ | .barWait _ _ _ | .barStat _ _ _
  | .barStatExp _ _ _ | .qopDef _ _ _ _ | .qopPush _ _ _ _ | .qopPop _ _ _ | .qopTrypush _ _ _ _ _ | .qopTrypop _ _ _
  | .qopStat _ _ _ | .qopStatCfg _ _ _ | .evw _ _ _ | .evwTry _ _ _ _ | .evwStat _ _ _ | .evwClr _ _ _ | .fence _ _ _
  | .spawn _ _ _ _ | .spawnTry _ _ _ _ _ | .launch _ _ _ _ | .dbell _ _ _ _ _ | .sysreq _ _ _ _ | .yieldBar _ _ _
  | .yieldEv _ _ _ => true
  | _ => false

/-- Commit-class instructions that wait for the earlier split-phase operations before their checks (R217, R260); the others
name the place of the wait in their own rules. -/
def Instr.drainsFirst : Instr → Bool
  | .atom _ | .cpy _ _ _ _ | .cpyt _ _ | .coll _ _ _ _ | .spawn _ _ _ _ | .spawnTry _ _ _ _ _ | .launch _ _ _ _
  | .dbell _ _ _ _ _ => false
  | i => Instr.isCommit i

/-- The arrival counter an instruction increments (R213). -/
def Instr.counter? : Instr → Option Nat
  | .ld f | .st f | .ldv f | .stv f | .sld f | .sst f => some f.n.toNat
  | .zfill _ _ _ _ _ _ n _ _ => some n.toNat
  | .atom f => some f.n.toNat
  | .mma _ _ _ _ n _ _ => some n.toNat
  | .mload _ _ n _ _ | .mstore _ _ _ n _ _ => some n.toNat
  | .cpy _ _ _ f | .cpyt _ f => if f.nc then none else some f.n.toNat
  | _ => none

/-- Instructions that enter the core's engine queue (R158). -/
def Instr.isMatrix : Instr → Bool
  | .tdef _ _ _ _ _ | .tfree _ _ | .tqry _ _ _ _ | .mma _ _ _ _ _ _ _ | .mzero _ _ | .mload _ _ _ _ _
  | .mstore _ _ _ _ _ _ | .mcorr _ _ _ _ _ _ | .mstat _ _ _ _ | .msig _ _ _ | .swfence _ _ => true
  | _ => false

/-- Mask readers (R91, R142). -/
def Instr.maskReader : Instr → Bool
  | .ld _ | .st _ | .ldv _ | .stv _ | .mma _ _ _ _ _ _ _ | .brm _ _ _ _ | .pWord _ _ | .sweep _ _ _
  | .vcmp _ _ _ _ _ _ | .vsel _ _ _ _ _ | .vfcmp _ _ _ _ _ | .vflag _ _ | .shfl _ _ _ _ _ | .bcast _ _ _ _
  | .red _ _ _ _ _ | .scan _ _ _ _ _ | .vote _ _ _ _ | .compact _ _ _ _ _ | .lmap .beat _ _ | .lmap .phys _ _
  | .lnstat .nbeats _ _ => true
  | .pref perLane _ _ _ _ _ _ => perLane
  | .atom f => !f.scalar
  | i => (Instr.lane? i).isSome

/-- Whether an operation writes registers. -/
def Op.writesRegs (o : Op) : Bool :=
  match o.kind with
  | .load => true
  | .store => false
  | .atomic _ ret => ret

/-- A split-phase operation that will write one of s125 to s127 is outstanding (R91). -/
def State.maskBusy (s : State) (k : Nat) : Bool :=
  s.ops.any (fun e => e.2.group = k && !e.2.abandoned && !e.2.vec && Op.writesRegs e.2 &&
    decide (125 < e.2.reg + Size.regs e.2.size))

/-- An operation, copy or collective that has not completed. -/
def State.inFlight (s : State) (n : Nat) : Bool :=
  (s.ops.find? n).isSome || (s.copies.find? n).isSome || (s.colls.find? n).any (fun c => !c.retired)

/-- Whether an instruction must wait at issue whatever its operands: for an acquire in flight or a FENCE.REL in force (R300),
at a counter of 255 (R213), for earlier split-phase operations (R217), for room in the engine queue (R158), for a load of
the mask (R91). An instruction that has started counts among the queue's 32 until it completes (log 54). -/
def State.mustWait (s : State) (k : Nat) (g : Group) (i : Instr) : Bool :=
  (Instr.isHeld i && g.waitOps.any s.inFlight) ||
  (Instr.isRelHeld i && match g.fenceRel with
    | some r => !s.relDone g.core r
    | none => false) ||
  (match Instr.counter? i with
    | some n => g.ra n = 255
    | none => false) ||
  (Instr.drainsFirst i && s.outstanding k) ||
  (Instr.isMatrix i && decide (32 ≤ (s.core g.core).engine.length)) ||
  (Instr.maskReader i && s.maskBusy k)

/-- A word has issued: the group's next word is at `pc`, the datapath was occupied for `n` cycles (R18, R330). -/
def State.retire (s : State) (k : Nat) (g : Group) (pc : DWord) (n : Nat) : State :=
  let s := s.setGroup k { g with
    pc := pc, hold := .ready, rel := none, waitFrom := none, waitTest := none, waitMet := none,
    recRead := none, lastIssue := s.cycle, urgent := false, bpSkip := [] }
  (s.markIssue g).tick n

/-- The next word of a group. -/
def Group.after (g : Group) (i : Instr) : DWord := g.pc + BitVec.ofNat 64 (Instr.size i)

/-- Retire an instruction that falls through. -/
def State.done (s : State) (k : Nat) (g : Group) (i : Instr) (n : Nat) : State := s.retire k g (g.after i) n

/-! ### The word after a commit-class instruction (R59) -/

/-- The 64-bit word a fetch reads at a G address, without a fault (R37, log 9). -/
def State.fetchWord (s : State) (k : Nat) (a : DWord) : Except (Nat × Nat) DWord :=
  match s.translate (s.coreOf k) (s.ctxOf k) a.toNat .fetch with
  | .error e => .error e
  | .ok (key, p) =>
    let now := BitVec.ofNat 64 (leNat (s.getPhys p.owner key 8))
    match s.icache.find? (gridOf k * 2 ^ 57 + a.toNat) with
    | none => .ok now
    | some old => .ok (if old = now then now else if Config.freeChoice (s.fresh + a.toNat) then old else now)

/-- The REGION that stands after a word, if the word there is one (R59, R304): it must decode, so a REGION with a bad field, or an L
word in the last slot of a fetch block, is none. A word that cannot be fetched is none either (log 52). -/
def State.regionAfter (s : State) (k : Nat) (g : Group) (i : Instr) : Option Instr :=
  let a := g.after i
  match s.fetchWord k a with
  | .error _ => none
  | .ok w =>
    let long := bitsAt w.toNat 62 2 = 2
    let lit := if long then s.fetchWord k (a + 8) else .ok 0
    match lit with
    | .error _ => none
    | .ok v =>
      if long ∧ a.toNat % 64 = 56 then none
      else match decode w v with
        | .ok (.region n l) => some (.region n l)
        | _ => none

/-- A commit-class instruction must be followed by REGION (R59). -/
def State.commitOk (s : State) (k : Nat) (g : Group) (i : Instr) : Bool := !Instr.isCommit i || (s.regionAfter k g i).isSome

end Sys2Proof.Machine
end

