-- ==== Sys2Proof/Machine/Flags.lean ====
section
/-! DEFINITION. The flags of the lanes (R58): a lane operation ORs what it raises into `vflags`, where it stays until VFLAG
clears it. -/

namespace Sys2Proof.Machine

/-- Flag(L, f) of R58: OR flags into a lane's `vflags`. -/
def Group.orFlags (g : Group) (lane : Nat) (f : Flags) : Group := if f = 0 then g else g.wf lane (g.rf lane ||| f)

/-- OR flags into several lanes. -/
def Group.orFlagsAll (g : Group) (lanes : List Nat) (f : Flags) : Group := lanes.foldl (fun g L => g.orFlags L f) g

end Sys2Proof.Machine
end

