-- ==== Sys2Proof/Machine/Operands.lean ====
section
/-! DEFINITION. Reading operands (R41, R42, R57, R90): uniform and per-lane sources, pairs, triples and special
registers, and writing scalar destinations. -/

namespace Sys2Proof.Machine

/-- The special register with an operand code 0x1D0 + k (R41); `lane` counts only for `$laneid`. -/
def State.specialOp (s : State) (k : Nat) (g : Group) (n lane : Nat) : Word :=
  let kr := s.kernel k
  match n with
  | 0 => BitVec.ofNat 32 lane
  | 1 => BitVec.ofNat 32 (groupIdx k)
  | 2 => BitVec.ofNat 32 (gangIdx k * (kr.w * kr.h) + memberOf k)
  | 3 => BitVec.ofNat 32 g.core
  | 4 => BitVec.ofNat 32 g.dp
  | 5 => BitVec.ofNat 32 (s.beats g)
  | 6 => BitVec.ofNat 32 (memberOf k)
  | _ => (s.gang k).ticket

/-- The special register with a number of R57, as 64 bits. -/
def State.specialReg (s : State) (k : Nat) (g : Group) (n : Nat) : DWord :=
  let w (x : Word) : DWord := x.setWidth 64
  let kr := s.kernel k
  match n with
  | 0x01 => w (s.specialOp k g 1 0)
  | 0x02 => w (s.specialOp k g 2 0)
  | 0x03 => w (s.specialOp k g 6 0)
  | 0x04 => w (s.specialOp k g 3 0)
  | 0x05 => w (s.specialOp k g 4 0)
  | 0x06 => w (s.specialOp k g 5 0)
  | 0x07 => w (s.laneWord g.core g.dp)
  | 0x08 => w (g.dead.extractLsb' 0 32)
  | 0x09 => w (g.dead.extractLsb' 32 32)
  | 0x0A => w (g.dead.extractLsb' 64 32)
  | 0x0B => BitVec.ofNat 64 g.role
  | 0x0C => w (s.specialOp k g 7 0)
  | 0x0D => BitVec.ofNat 64 s.cycle
  | 0x0E => BitVec.ofNat 64 g.waitcyc
  | 0x0F => g.tpc
  | 0x10 => w g.tcause
  | 0x11 => if g.bpslot then 1 else 0
  | 0x12 => g.bpa.getD 0 0
  | 0x13 => g.bpa.getD 1 0
  | 0x14 => g.bpa.getD 2 0
  | 0x15 => g.bpa.getD 3 0
  | 0x16 => g.bpd.getD 0 0
  | 0x17 => g.bpd.getD 1 0
  | 0x18 => g.bpd.getD 2 0
  | 0x19 => g.bpd.getD 3 0
  | 0x1A => BitVec.ofNat 64 (s.team k).ngroups
  | 0x1B => BitVec.ofNat 64 (kr.w * 16 + kr.h)
  | _ => 0

/-- The value of an integer constant code: code − 0x1A0 (R41). -/
def constInt (c : BitVec 6) : Int := (c.toNat : Int) - 32

/-- A uniform 32-bit source (R41, R88). -/
def State.uni32 (s : State) (k : Nat) (g : Group) (x : Ext) (o : Operand) : Word :=
  match o with
  | .s n => g.rs n.toNat
  | .int c => BitVec.ofInt 32 (constInt c)
  | .special n => s.specialOp k g n.toNat 0
  | .immS => x.imm.signExtend 32
  | .immZ => x.imm.setWidth 32
  | .lit => loWord (x.lit.getD 0)
  | .fp c => BitVec.ofNat 32 (roundFP fp32 .rne (fpConst c.toNat)).1
  | _ => 0

/-- A uniform 64-bit source: an even pair, or a code sign-extended (R41, R42). -/
def State.uni64 (s : State) (k : Nat) (g : Group) (x : Ext) (o : Operand) : DWord :=
  match o with
  | .s n => g.rp n.toNat
  | .int c => BitVec.ofInt 64 (constInt c)
  | .special n => (s.specialOp k g n.toNat 0).signExtend 64
  | .immS => x.imm.signExtend 64
  | .immZ => x.imm.setWidth 64
  | .lit => x.lit.getD 0
  | _ => 0

/-- A mask triple as a source: another code stands for all three words (R90). -/
def State.tripleSrc (s : State) (k : Nat) (g : Group) (x : Ext) (o : Operand) : BitVec 96 :=
  match o with
  | .s n => g.rt n.toNat
  | o => let w := s.uni32 k g x o; (w ++ w ++ w).cast (by decide)

/-- Integer constants and FP constants as a floating source: packed operands hold them twice (R41). An integer that the format of an
E4M3 or E5M2 source cannot hold is rounded to nearest even, without flags (log 25). -/
def constAs (kd : SrcKind) (r : Real') : Word :=
  match kd with
  | .flt f => BitVec.ofNat 32 (roundFP f .rne r).1
  | .pk f => let h : Half := BitVec.ofNat 16 (roundFP f .rne r).1; pack16 h h
  | _ => 0

/-- A per-lane source of a vector, conversion or cross-lane instruction (R41). -/
def State.laneSrc (s : State) (k : Nat) (g : Group) (kd : SrcKind) (x : Ext) (o : Operand) (lane : Nat) : Word :=
  match o with
  | .v n => g.rv n.toNat lane
  | .s n => g.rs n.toNat
  | .int c =>
    match kd with
    | .flt _ | .pk _ => constAs kd ⟨decide (constInt c < 0), (constInt c).natAbs, 1⟩
    | _ => BitVec.ofInt 32 (constInt c)
  | .fp c => constAs kd (fpConst c.toNat)
  | .special n => s.specialOp k g n.toNat lane
  | .immS => x.imm.signExtend 32
  | .immZ => x.imm.setWidth 32
  | .lit => loWord (x.lit.getD 0)
  | .reserved _ => 0

/-- The number of a register code. -/
def regNo : Operand → Nat
  | .v n => n.toNat
  | .s n => n.toNat
  | _ => 0

/-- Write a scalar destination of 32 or 64 bits. -/
def Group.wd (g : Group) (w64 : Bool) (d : Operand) (x : DWord) : Group :=
  if w64 then g.wp (regNo d) x else g.ws (regNo d) (loWord x)

end Sys2Proof.Machine
end

