-- ==== Sys2Proof/Machine/Checks.lean ====
section
/-! DEFINITION. What stands between a decoded word and its effect: the checks of R55 in their order, the waits at issue, and the
issuing group. -/

namespace Sys2Proof.Machine

/-! ### Targets (R36, R55 step 1, R100 to R106) -/

/-- Whether a word of a fetch block is a literal: the block is decoded from its first word (R35). `n` words remain before
slot `slot` of the block at `base`. -/
def State.literalScan (s : State) (k : Nat) (base : Nat) : Nat → Nat → Nat → Bool
  | 0, _, _ => false
  | fuel + 1, at_, slot =>
    if slot ≤ at_ then false
    else match s.fetchWord k (BitVec.ofNat 64 (base + 8 * at_)) with
      | .error _ => false
      | .ok w =>
        if bitsAt w.toNat 62 2 = 2 then (if at_ + 1 = slot then true else State.literalScan s k base fuel (at_ + 2) slot)
        else State.literalScan s k base fuel (at_ + 1) slot

/-- Whether the word at an address is the literal of an L word (R35, R36). -/
def State.isLiteral (s : State) (k : Nat) (a : DWord) : Bool :=
  s.literalScan k (a.toNat / 64 * 64) 8 0 (a.toNat % 64 / 8)

/-- A target that raises the misaligned-target fault (R36). -/
def State.badTarget (s : State) (k : Nat) (t : DWord) : Bool := t.toNat % 8 ≠ 0 || s.isLiteral k t

/-- The target of a word offset (R100). -/
def State.target (s : State) (k : Nat) (g : Group) (x : Ext) (b : Operand) : DWord := g.pc + 8 * s.uni64 k g x b

/-- Conditions of BRC on a signed value (R102). -/
def brHolds (c : BrCond) (v : Int) : Bool :=
  match c with
  | .z => decide (v = 0)
  | .nz => decide (v ≠ 0)
  | .ltz => decide (v < 0)
  | .gez => decide (0 ≤ v)
  | .gtz => decide (0 < v)
  | .lez => decide (v ≤ 0)

/-- Conditions of BRM on the selected lanes x of the participating lanes m (R103). -/
def brmHolds (c : BrmCond) (x m : BitVec 96) : Bool :=
  match c with
  | .any => decide (x ≠ 0)
  | .none => decide (x = 0)
  | .all => decide (x = m)
  | .nall => decide (x ≠ m)

/-! ### The checks of R55 on a decoded instruction -/

/-- OPC of an instruction; of the swept word for a sweep. -/
def Instr.opc (i : Instr) : Nat :=
  match i with
  | .sweep _ op _ => (LaneOp.bits op).1
  | _ => ((encodeFields i).map (fun f => f.opc.toNat)).getD 0

/-- INFO of a role violation (R337): OPC, or OPS for a P half with bit 7 set and bit 8 the half. -/
def roleInfo (i : Instr) (role : Nat) : Nat :=
  match i with
  | .pWord h0 h1 =>
    if Klass.admits role (LaneOp.klass (ShortOp.laneOp h0.op)) then ShortOp.bits h1.op + 128 + 256
    else ShortOp.bits h0.op + 128
  | _ => Instr.opc i

/-- How an instruction is refused before it has an effect. -/
inductive Stop where
  | fault (f : FaultInfo)
  | trap (cause info : Nat)
  deriving DecidableEq, Repr

/-- SLOT of an operand that step 5 refuses: half 1 of a P word where half 0 passes. -/
def slotOf (vregs sregs : Nat) : Instr → Bool
  | .pWord h0 _ =>
    Operand.inHalf h0.a && Operand.inHalf h0.b && (PHalf.opnds h0).all (fun x => x.formOk false && x.declared vregs sregs)
  | _ => false

/-- SLOT of a write to a live-in: half 1 of a P word where half 0 writes none. -/
def liveSlotOf (l : LiveSet) : Instr → Bool
  | .pWord h0 _ => !((PHalf.opnds h0).filterMap Opnd.writes).any l.meets
  | _ => false

/-- Whether an operand reads a scalar register with an uncorrectable error (R154). -/
def Opnd.readsBad (bad : List Nat) (x : Opnd) : Bool :=
  (!x.cls.isDest || match x.cls with
    | .laneDest _ => true
    | _ => false) && match x.span with
  | some (false, r, n) => (List.range n).any (fun i => bad.contains (r + i))
  | _ => false

/-- s-registers an instruction reads beside its source fields: the execution mask of mask readers, EMOP and REGION, the old value
of the destination of LOOP and SBIT.BFI, and the compare value of CAS (R91, R99, R106, R109, R263, R304). -/
def Instr.alsoReads : Instr → List Nat
  | .emop _ _ _ => [125, 126, 127]
  | .loop (.s d) _ _ => [d.toNat]
  | .sbit (.bfi _ _) w64 (.s d) _ _ => if w64 then [d.toNat, d.toNat + 1] else [d.toNat]
  | .region _ _ => [125, 126, 127]
  | .atom f => if f.scalar && f.op = .cas then (if f.w64 then [regNo f.d, regNo f.d + 1] else [regNo f.d]) else []
  | i => if Instr.maskReader i then [125, 126, 127] else []

/-- Whether an instruction reads a scalar register with an uncorrectable error (R154). -/
def Instr.readsBad (bad : List Nat) (i : Instr) : Bool :=
  !bad.isEmpty && ((Instr.opnds i).any (Opnd.readsBad bad) || (Instr.alsoReads i).any bad.contains)

/-- Arrival counters an instruction reads: its own as it goes up, those a WAIT or ACTR reads, and all of them for the snapshot of
REGION (R213, R220, R221, R304). -/
def Instr.countersRead : Instr → List Nat
  | .wait n _ _ | .actrRead _ n _ => [n.toNat]
  | .waitAll _ | .actrMask _ _ | .region _ _ => List.range 16
  | i => (Instr.counter? i).toList

/-- An instruction of the group reads scalar state with an uncorrectable error: s-registers or counters (R154). A commit-class instruction
issues as one with its REGION, which reads the execution mask and every counter (R27, R304). -/
def Group.readsError (g : Group) (i : Instr) : Bool :=
  Instr.readsBad g.sBad i || (!g.aBad.isEmpty && (Instr.countersRead i).any g.aBad.contains) ||
  (Instr.isCommit i && ([125, 126, 127].any g.sBad.contains || (List.range 16).any g.aBad.contains))

/-- Where a branch, call or jump of the group goes, if it is taken (R101 to R106). -/
def State.takenTarget (s : State) (k : Nat) (g : Group) : Instr → Option DWord
  | .br b x => some (s.target k g x b)
  | .brc c w64 a b x =>
    if brHolds c (if w64 then (s.uni64 k g x a).toInt else (s.uni32 k g x a).toInt) then some (s.target k g x b) else none
  | .brm c a b x =>
    let m := g.em &&& ~~~g.dead
    if brmHolds c (s.tripleSrc k g x a &&& m) m then some (s.target k g x b) else none
  | .call _ (.offset b) x => some (s.target k g x b)
  | .call _ (.reg a) x => some (s.uni64 k g x a)
  | .jmp (.reg a) _ => some (g.rp (regNo a))
  | .jmp .tpc _ => some g.tpc
  | .loop d b x => if g.rs (regNo d) = 1 then none else some (s.target k g x b)
  | _ => none

/-- The operands that a target is formed from are ones their fields admit: all but the link register of a CALL. -/
def Instr.sourcesOk (vregs sregs : Nat) (i : Instr) : Bool :=
  let isLoop : Bool := match i with
    | .loop _ _ _ => true
    | _ => false
  ((Instr.opnds i).filter (fun x => isLoop || !x.cls.isDest)).all (fun x =>
    x.formOk (Instr.litOf i).isSome && x.declared vregs sregs)

/-- Step 1 of R55: a taken branch to a bad target. Where its operands are refused by a later step, or hold an uncorrectable error,
there is no target to check, nor while the word waits for its mask (log 52). -/
def State.badBranch (s : State) (k : Nat) (g : Group) (i : Instr) : Option DWord :=
  if Instr.sourcesOk g.vregs g.sregs i && !g.readsError i && !s.mustWait k g i then
    (s.takenTarget k g i).filter (s.badTarget k) else none

/-- The accumulator tile an instruction names (R159). -/
def Instr.tile? : Instr → Option Nat
  | .mma _ _ _ _ _ t _ | .mzero t _ | .mload _ _ _ t _ | .mstore _ _ _ _ t _ | .mcorr _ _ _ _ t _ | .mstat _ _ t _
  | .msig _ t _ => some t.toNat
  | _ => none

/-- A tile index lies in the team's allocation (R159). -/
def State.tileOk (s : State) (k : Nat) (i : Instr) : Bool :=
  match Instr.tile? i with
  | some t => decide (t < (s.team k).acc)
  | none => true

/-- Steps 1 (a bad target), 3 (a commit-class instruction without its REGION), 5 and 6 of R55, and scalar errors. -/
def State.stops (s : State) (k : Nat) (g : Group) (i : Instr) : Option Stop :=
  let l := s.liveSet k g g.cont.live
  match s.badBranch k g i with
  | some t => some (.fault { cause := 5, pc := g.pc, addr := t })
  | none =>
  if !s.commitOk k g i then some (.fault { cause := 1, pc := g.pc })
  else if !Instr.codesOk i || !(Instr.opnds i).all (Opnd.declared g.vregs g.sregs) || !s.tileOk k i then
    some (.fault { cause := 2, pc := g.pc, slot := slotOf g.vregs g.sregs i })
  else if (Instr.writes i).any l.meets then some (.fault { cause := 2, detail := 1, pc := g.pc, slot := liveSlotOf l i })
  else if !(Instr.klass i).all (Klass.admits g.role) then some (.trap 0x41 (roleInfo i g.role))
  else if g.readsError i && !g.pairPending then some (.fault { cause := 0x0A, pc := g.pc })
  else none

/-- Run an instruction for the issuing group `s.cur`: the checks of R55, the waits at issue, then its own effect. Without an issuing group
nothing happens (log 20). -/
def State.run (s : State) (i : Instr) (effect : Nat → Group → State) : Host.Outcome State Fault Refusal :=
  match s.group? s.cur with
  | none => .next s
  | some g =>
    if g.place ≠ .resident then .next s
    else match s.stops s.cur g i with
      | some (.fault f) =>
        let s := if f.cause = 0x0A then s.groupError s.cur g 0 0 6 127 false else s
        .next (s.systemFault s.cur g f)
      | some (.trap c n) => .next ((s.userTrap s.cur g c n).tick 8)
      | none => if s.mustWait s.cur g i then .next (s.wait s.cur g) else .next (effect s.cur g)

end Sys2Proof.Machine
end

