-- ==== Sys2Proof/Machine/Watch.lean ====
section
/-! DEFINITION. Breakpoints (R350 to R354): instruction breakpoints on the next word, and data breakpoints on the addresses
of accesses checked at issue. -/

namespace Sys2Proof.Machine

/-- Breakpoints are armed only while firmware marks the context as being debugged (R349). -/
def State.armed (s : State) (k : Nat) : Bool := (s.ctx (s.ctxOf k)).debugged

/-- The instruction breakpoint that matches the word at an address, for a slot (R350); one that has halted the group there does
not match again (R354). -/
def Group.bpHit (g : Group) (a : DWord) (slot : Bool) : Option Nat :=
  (List.range 4).find? (fun i =>
    let b := (g.bpa.getD i 0).toNat
    !g.bpSkip.contains i && bitAt b 0 && (bitAt b 2 == slot) && (bitsAt b 3 54 == bitsAt a.toNat 3 54))

/-- An access checked against the data breakpoints: lane, address, bytes, read, write; `inS` where the address is an S
address (L accesses are matched by theirs). -/
structure Access where
  lane : Nat
  addr : Nat
  size : Nat
  inS : Bool
  rd : Bool
  wr : Bool
  deriving DecidableEq, Repr

/-- Whether a data breakpoint register matches an access (R352). LEN = 7, which the rule does not give, counts as 6 (DESIGN CHOICE, log
64). -/
def bpdMatch (b : Nat) (x : Access) : Bool :=
  let kind := bitsAt b 61 2
  let len := 2 ^ min (bitsAt b 58 3) 6
  let base := (if bitAt b 57 then bitsAt b 0 28 else bitsAt b 0 57) / len * len
  let a := if x.inS then x.addr % 2 ^ 28 else x.addr
  bitAt b 63 && (bitAt b 57 == x.inS) && ((bitAt kind 0 && x.rd) || (bitAt kind 1 && x.wr)) &&
  decide (a < base + len ∧ base < a + x.size)

/-- The halt that a list of accesses calls for: the lowest breakpoint's lowest matching lane (R352). -/
def State.dataHalt (s : State) (k : Nat) (g : Group) (iter : Nat) (xs : List Access) : Option FaultInfo :=
  if !s.armed k then none
  else
    (List.range 4).findSome? (fun i =>
      match xs.find? (bpdMatch (g.bpd.getD i 0).toNat) with
      | none => none
      | some x => some { cause := 0x22, detail := i, lane := x.lane, addr := BitVec.ofNat 64 x.addr, pc := g.pc, iter := iter })

end Sys2Proof.Machine
end

