-- ==== Sys2Proof/Machine/Vector.lean ====
section
/-! DEFINITION. The lane loop (R117), P words (R44 to R46), sweeps (R47 to R52), and the vector instructions, opcodes 0x20
to 0x3F (R121 to R139). -/

namespace Sys2Proof.Machine

/-- The v-register a field reads, if it names one. -/
def vReg? : Operand → List Nat
  | .v n => [n.toNat]
  | _ => []

/-- The v-registers a lane operation reads: its source fields, and D where it is a source (R113). -/
def laneReads (op : LaneOp) (f : VOps) : List Nat :=
  let k := LaneOp.kinds op
  (if k.1 = .unused then [] else vReg? f.a) ++ (if k.2.1 = .unused then [] else vReg? f.b) ++
  (if k.2.2 = .unused then [] else vReg? f.c) ++ (if LaneOp.readsD op then vReg? f.d else [])

/-- Participating lanes that read an element with an uncorrectable error: they die (R118, R154). -/
def Group.dying (g : Group) (regs : List Nat) : List Nat :=
  if g.vBad.isEmpty then [] else g.lanes.filter (fun L => regs.any (fun r => g.vBad.contains (r * 96 + L)))

/-- A lane that dies, and what its error record says of the error: SOURCE, LOC and ADDR (R344). -/
structure Death where
  lane : Nat
  source : Nat := 0
  loc : Nat := 0
  addr : DWord := 0
  deriving DecidableEq, Repr

/-- Lanes that die by an element of one of some v-registers: LOC is the first such register with an error (R344). -/
def Group.deaths (g : Group) (regs lanes : List Nat) : List Death :=
  lanes.map (fun L => { lane := L, loc := (regs.find? (fun r => g.vBad.contains (r * 96 + L))).getD 0 })

/-- Make lanes dead, with an error record each (R154, R344). -/
def State.killLanes (s : State) (k : Nat) (g : Group) (ds : List Death) : State × Group :=
  (ds.foldl (fun s d => s.groupError k g d.addr d.loc d.source d.lane true) s, ds.foldl (fun g d => g.kill d.lane) g)

/-- Lanes that read an error in some v-registers become dead. -/
def State.die (s : State) (k : Nat) (g : Group) (regs dying : List Nat) : State × Group :=
  if dying.isEmpty then (s, g) else s.killLanes k g (g.deaths regs dying)

/-- Lanes die as an instruction issues: their elements of the destination registers become 0 (R118, R154). -/
def State.lanesDie (s : State) (k : Nat) (g : Group) (regs dying dest : List Nat) : State × Group :=
  let (s, g) := s.die k g regs dying
  (s, dying.foldl (fun g L => dest.foldl (fun g r => g.wv r L 0) g) g)

/-- The position k or n of a conversion (R77). -/
def posOf (x : Ext) : Nat := x.imm.toNat

/-- The sources of a lane: A, B, C by their kinds, and the old D. -/
def State.laneArgs (s : State) (k : Nat) (g : Group) (op : LaneOp) (f : VOps) (L : Nat) : Word × Word × Word × Word :=
  let kd := LaneOp.kinds op
  (s.laneSrc k g kd.1 f.x f.a L, s.laneSrc k g kd.2.1 f.x f.b L, s.laneSrc k g kd.2.2 f.x f.c L, g.rv (regNo f.d) L)

/-- What a lane operation computes in lane L from the registers of `g`. -/
def State.laneResult (s : State) (k : Nat) (g : Group) (op : LaneOp) (f : VOps) (L : Nat) : LaneOut :=
  let x := s.laneArgs k g op f L
  laneEval op x.1 x.2.1 x.2.2.1 x.2.2.2 (posOf f.x)

/-- The lane loop on registers: every lane reads `g` and writes the accumulated group; a dying lane's element is 0 and its
flags stay (R117, R118). -/
def State.laneLoop (s : State) (k : Nat) (g : Group) (dying : List Nat) (op : LaneOp) (f : VOps) (acc : Group) : Group :=
  g.lanes.foldl (fun acc L =>
    if dying.contains L then acc.wv (regNo f.d) L 0
    else
      let r := s.laneResult k g op f L
      (acc.wv (regNo f.d) L r.val).orFlags L r.flags) acc

/-- Issue time of an unswept lane operation: E × k, with one more per beat for a bank overload (R113), QGDEC and QGENC included
(log 54). -/
def State.laneTime (s : State) (g : Group) (op : LaneOp) (f : VOps) : Nat :=
  let regs := laneReads op f
  let crowded := (List.range 4).any (fun b => 3 ≤ (regs.filter (fun r => r % 4 = b)).length)
  s.nonEmptyBeats g * (LaneOp.perBeat op + if crowded then 1 else 0)

/-! ### Sweeps -/

/-- Signed byte step of a segment (R47). -/
def stepOf (x : BitVec 12) : Int := x.toInt

/-- The segment operands in the order D, A, B, C: offset and step (R48, R50). -/
def State.segments (_s : State) (g : Group) (p : SweepPrefix) (op : LaneOp) (f : VOps) : List (Int × Int) :=
  let kd := LaneOp.kinds op
  let seg (used : Bool) (o : Operand) (st : BitVec 12) : List (Int × Int) :=
    match o with
    | .s n => if used then [((g.rs n.toNat).toNat, stepOf st)] else []
    | _ => []
  seg true f.d p.sd ++ seg (kd.1 ≠ .unused) f.a p.sa ++ seg (kd.2.1 ≠ .unused) f.b p.sb ++ seg (kd.2.2 ≠ .unused) f.c p.sc

/-- The first failed segment check of a sweep, in iteration order: misaligned, then outside the allocation (R50). -/
def State.sweepFault (s : State) (k : Nat) (g : Group) (p : SweepPrefix) (op : LaneOp) (f : VOps) : Option FaultInfo :=
  let segs := s.segments g p op f
  let base := (s.team k).base
  let find (bad : Int → Bool) (cause detail : Nat) : Option FaultInfo :=
    (List.range p.count.toNat).findSome? (fun (i : Nat) =>
      segs.findSome? (fun x =>
        let off := x.1 + (i : Int) * x.2
        if bad off then
          some { cause := cause, detail := detail, pc := g.pc, iter := i,
                 addr := sAddr (s.team k).core 0 + BitVec.ofInt 64 (base + off) }
        else none))
  match find (fun off => off % 4 ≠ 0) 6 0 with
  | some x => some x
  | none => find (fun off => !s.lBounds k off 384) 8 1

/-- Scratchpad key of lane L's element of a segment in iteration i. -/
def State.segKey (s : State) (k : Nat) (g : Group) (o : Operand) (st : BitVec 12) (i L : Nat) : Nat :=
  s.lKey k (((g.rs (regNo o)).toNat : Int) + (i : Int) * stepOf st + 4 * (L : Int)).toNat

/-- Read a source field of lane L in iteration i: a segment element, or as R41 says. -/
def State.sweepSrc (s : State) (k : Nat) (g0 g : Group) (kd : SrcKind) (x : Ext) (o : Operand) (st : BitVec 12) (i L : Nat) :
    Word :=
  match o with
  | .s _ => BitVec.ofNat 32 (leNat (s.getSpad (s.segKey k g0 o st i L) 4))
  | _ => s.laneSrc k g kd x o L

/-- The scratchpad words a lane reads in an iteration. -/
def State.sweepKeys (s : State) (k : Nat) (g0 : Group) (p : SweepPrefix) (op : LaneOp) (f : VOps) (i L : Nat) : List Nat :=
  let kd := LaneOp.kinds op
  let one (used : Bool) (o : Operand) (st : BitVec 12) : List Nat :=
    match o with
    | .s _ => if used then [s.segKey k g0 o st i L] else []
    | _ => []
  one (kd.1 ≠ .unused) f.a p.sa ++ one (kd.2.1 ≠ .unused) f.b p.sb ++ one (kd.2.2 ≠ .unused) f.c p.sc ++
  one (LaneOp.readsD op) f.d p.sd

/-- What a lane that dies in an iteration of a sweep read: a v-register, else a scratchpad word (R154, R344). -/
def State.sweepDeath (s : State) (g : Group) (regs keys : List Nat) (L : Nat) : Death :=
  match regs.find? (fun r => g.vBad.contains (r * 96 + L)) with
  | some r => { lane := L, loc := r }
  | none => { lane := L, source := 1, addr := sKeyAddr ((keys.find? (fun w => s.spadMarked w 4)).getD 0) }

/-- One iteration of a sweep (R50, R51): all lanes read, then all write. `g0` holds the offsets. -/
def State.sweepIter (s : State) (k : Nat) (g0 g : Group) (p : SweepPrefix) (op : LaneOp) (f : VOps) (i : Nat) : State × Group :=
  let kd := LaneOp.kinds op
  let regs := (laneReads op f)
  let dying := g.lanes.filter (fun L =>
    regs.any (fun r => g.vBad.contains (r * 96 + L)) || (s.sweepKeys k g0 p op f i L).any (fun w => s.spadMarked w 4))
  let outs := g.lanes.map (fun L =>
    if dying.contains L then (L, (⟨0, 0⟩ : LaneOut))
    else
      let d : Word := match f.d with
        | .s _ => s.sweepSrc k g0 g .int f.x f.d p.sd i L
        | _ => g.rv (regNo f.d) L
      (L, laneEval op (s.sweepSrc k g0 g kd.1 f.x f.a p.sa i L) (s.sweepSrc k g0 g kd.2.1 f.x f.b p.sb i L)
        (s.sweepSrc k g0 g kd.2.2 f.x f.c p.sc i L) d (posOf f.x)))
  let (s, g) := s.killLanes k g (dying.map (fun L => s.sweepDeath g regs (s.sweepKeys k g0 p op f i L) L))
  outs.foldl (fun sg x =>
    let (s, g) := sg
    let g := g.orFlags x.1 x.2.flags
    match f.d with
    | .s _ =>
      let key := s.segKey k g0 f.d p.sd i x.1
      (s.storeSpad key (leBytes 4 x.2.val.toNat), g)
    | _ => (s, g.wv (regNo f.d) x.1 x.2.val)) (s, g)

/-- The data-breakpoint match of an iteration of a sweep, over the lanes that are live as it begins (R51, R352). -/
def State.sweepHalt (s : State) (k : Nat) (g0 g : Group) (p : SweepPrefix) (op : LaneOp) (f : VOps) (i : Nat) : Option FaultInfo :=
  if !s.armed k then none
  else
    let kd := LaneOp.kinds op
    let one (used : Bool) (rd wr : Bool) (o : Operand) (st : BitVec 12) (L : Nat) : List Access :=
      match o with
      | .s _ => if used then [⟨L, 0x01F0000000000000 + s.segKey k g0 o st i L, 4, true, rd, wr⟩] else []
      | _ => []
    s.dataHalt k g i (g.lanes.flatMap (fun L =>
      one true (LaneOp.readsD op) true f.d p.sd L ++ one (kd.1 ≠ .unused) true false f.a p.sa L ++
      one (kd.2.1 ≠ .unused) true false f.b p.sb L ++ one (kd.2.2 ≠ .unused) true false f.c p.sc L))

/-- The iterations of a sweep from number `i` on: the state, the group, and the first data-breakpoint match. -/
def State.sweepFrom (s : State) (k : Nat) (g0 g : Group) (p : SweepPrefix) (op : LaneOp) (f : VOps) (halt : Option FaultInfo)
    (i : Nat) : Nat → State × Group × Option FaultInfo
  | 0 => (s, g, halt)
  | n + 1 =>
    let h := halt.orElse (fun _ => s.sweepHalt k g0 g p op f i)
    let r := s.sweepIter k g0 g p op f i
    State.sweepFrom r.1 k g0 r.2 p op f h (i + 1) n

/-- A whole sweep: the segment checks, then the iterations (R50 to R52). A word without a segment operand issues as one with a
segment (log 54). -/
def State.sweep (s : State) (k : Nat) (g : Group) (p : SweepPrefix) (op : LaneOp) (f : VOps) (i : Instr) : State :=
  match s.sweepFault k g p op f with
  | some x => s.systemFault k g x
  | none =>
    let n := (s.segments g p op f).length
    let time := p.count.toNat * (s.nonEmptyBeats g * max n (LaneOp.perBeat op))
    let r := s.sweepFrom k g g p op f none 0 p.count.toNat
    r.1.done k { r.2.1 with haltPending := r.2.2 } i time

/-- Issue a lane operation: unswept on registers, or with SCR = 1 as a sweep of one iteration (R48). -/
def State.runLane (s : State) (op : LaneOp) (f : VOps) (i : Instr) : Host.Outcome State Fault Refusal :=
  s.run i (fun k g =>
    if f.scr then s.sweep k g ⟨1, 0, 0, 0, 0⟩ op f i
    else
      let dying := g.dying (laneReads op f)
      let (s', g') := s.die k g (laneReads op f) dying
      s'.done k (s.laneLoop k g dying op f g') i (s.laneTime g op f))

/-- The fields of a P half as a lane operation. -/
def halfOps (h : PHalf) : VOps := ⟨false, .v h.d, h.a, h.b, .v 0, ⟨0, none⟩⟩

/-- R44 to R46: both halves read all sources before either writes; flags are ORed. A SLOT = 1 breakpoint parts the halves
(R351). -/
def execPWord (h0 h1 : PHalf) (s : State) : Host.Outcome State Fault Refusal :=
  s.run (.pWord h0 h1) (fun k g =>
    let op0 := ShortOp.laneOp h0.op
    let op1 := ShortOp.laneOp h1.op
    let f0 := halfOps h0
    let f1 := halfOps h1
    let r0 := laneReads op0 f0
    let r1 := laneReads op1 f1
    if g.half1 then
      let dying := g.dying r1
      let (s', g') := s.die k g r1 dying
      s'.done k { s.laneLoop k g dying op1 f1 g' with half1 := false } (.pWord h0 h1) (1 + s.nonEmptyBeats g)
    else
      let hit := if s.armed k then g.bpHit g.pc true else none
      match hit with
      | some b =>
        let dying := g.dying r0
        let (s', g') := s.die k g r0 dying
        s'.haltGroup k { s.laneLoop k g dying op0 f0 g' with half1 := true }
          { cause := 0x21, detail := b, pc := g.pc, slot := true }
      | none =>
        let dying := g.dying (r0 ++ r1)
        let (s', g') := s.die k g (r0 ++ r1) dying
        s'.done k (s.laneLoop k g dying op1 f1 (s.laneLoop k g dying op0 f0 g')) (.pWord h0 h1) (s.nonEmptyBeats g))

/-- R47 to R52. -/
def execSweep (w : SweepPrefix) (op : LaneOp) (f : VOps) (s : State) : Host.Outcome State Fault Refusal :=
  s.run (.sweep w op f) (fun k g => s.sweep k g w op f (.sweep w op f))

/-! ### The vector instructions that run the lane loop -/

/-- R121. -/
def execVadd (m : AddMode) (f : VOps) (s : State) : Host.Outcome State Fault Refusal := s.runLane (.add m) f (.vadd m f)
/-- R121. -/
def execVsub (m : AddMode) (f : VOps) (s : State) : Host.Outcome State Fault Refusal := s.runLane (.sub m) f (.vsub m f)
/-- R122. -/
def execVmul (pk : Bool) (f : VOps) (s : State) : Host.Outcome State Fault Refusal := s.runLane (.mul pk) f (.vmul pk f)
/-- R122. -/
def execVmulh (u : Bool) (f : VOps) (s : State) : Host.Outcome State Fault Refusal := s.runLane (.mulh u) f (.vmulh u f)
/-- R122. -/
def execVmad (m : MadMode) (f : VOps) (s : State) : Host.Outcome State Fault Refusal := s.runLane (.mad m) f (.vmad m f)
/-- R123. -/
def execVdiv (u rem : Bool) (f : VOps) (s : State) : Host.Outcome State Fault Refusal :=
  s.runLane (.div u rem) f (.vdiv u rem f)
/-- R124. -/
def execVand (inv : Bool) (f : VOps) (s : State) : Host.Outcome State Fault Refusal := s.runLane (.and inv) f (.vand inv f)
/-- R124. -/
def execVor (inv : Bool) (f : VOps) (s : State) : Host.Outcome State Fault Refusal := s.runLane (.or inv) f (.vor inv f)
/-- R124. -/
def execVxor (inv : Bool) (f : VOps) (s : State) : Host.Outcome State Fault Refusal := s.runLane (.xor inv) f (.vxor inv f)
/-- R124. -/
def execVshl (pk : Bool) (f : VOps) (s : State) : Host.Outcome State Fault Refusal := s.runLane (.shl pk) f (.vshl pk f)
/-- R124. -/
def execVshr (u pk : Bool) (f : VOps) (s : State) : Host.Outcome State Fault Refusal :=
  s.runLane (.shr u pk) f (.vshr u pk f)
/-- R124. -/
def execVmin (u pk : Bool) (f : VOps) (s : State) : Host.Outcome State Fault Refusal :=
  s.runLane (.min u pk) f (.vmin u pk f)
/-- R124. -/
def execVmax (u pk : Bool) (f : VOps) (s : State) : Host.Outcome State Fault Refusal :=
  s.runLane (.max u pk) f (.vmax u pk f)
/-- R126. -/
def execVmov (f : VOps) (s : State) : Host.Outcome State Fault Refusal := s.runLane .mov f (.vmov f)
/-- R131. -/
def execVfadd (fmt : FFmt) (rm : RM) (f : VOps) (s : State) : Host.Outcome State Fault Refusal :=
  s.runLane (.fadd fmt rm) f (.vfadd fmt rm f)
/-- R131. -/
def execVfsub (fmt : FFmt) (rm : RM) (f : VOps) (s : State) : Host.Outcome State Fault Refusal :=
  s.runLane (.fsub fmt rm) f (.vfsub fmt rm f)
/-- R131. -/
def execVfmul (fmt : FFmt) (rm : RM) (f : VOps) (s : State) : Host.Outcome State Fault Refusal :=
  s.runLane (.fmul fmt rm) f (.vfmul fmt rm f)
/-- R132. -/
def execVfma (fmt : FFmt) (np nc : Bool) (rm : RM) (f : VOps) (s : State) : Host.Outcome State Fault Refusal :=
  s.runLane (.fma fmt np nc rm) f (.vfma fmt np nc rm f)
/-- R133. -/
def execVfmin (fmt : FFmt) (nan : Bool) (f : VOps) (s : State) : Host.Outcome State Fault Refusal :=
  s.runLane (.fmin fmt nan) f (.vfmin fmt nan f)
/-- R133. -/
def execVfmax (fmt : FFmt) (nan : Bool) (f : VOps) (s : State) : Host.Outcome State Fault Refusal :=
  s.runLane (.fmax fmt nan) f (.vfmax fmt nan f)
/-- R135. -/
def execVfdiv (rm : RM) (f : VOps) (s : State) : Host.Outcome State Fault Refusal := s.runLane (.fdiv rm) f (.vfdiv rm f)
/-- R135. -/
def execVfsqrt (rm : RM) (f : VOps) (s : State) : Host.Outcome State Fault Refusal := s.runLane (.fsqrt rm) f (.vfsqrt rm f)
/-- R136. -/
def execVsf (fn : SpecialFn) (f : VOps) (s : State) : Host.Outcome State Fault Refusal := s.runLane (.sf fn) f (.vsf fn f)
/-- R137. -/
def execVclass (src : ClassSrc) (f : VOps) (s : State) : Host.Outcome State Fault Refusal :=
  s.runLane (.cls src) f (.vclass src f)
/-- R127. -/
def execVbfe (m : BfeMode) (f : VOps) (s : State) : Host.Outcome State Fault Refusal := s.runLane (.bfe m) f (.vbfe m f)
/-- R128. -/
def execVbit (op : VbitOp) (f : VOps) (s : State) : Host.Outcome State Fault Refusal := s.runLane (.bit op) f (.vbit op f)
/-- R129. -/
def execVdot4 (tt : DotTypes) (sat : Bool) (f : VOps) (s : State) : Host.Outcome State Fault Refusal :=
  s.runLane (.dot4 tt sat) f (.vdot4 tt sat f)
/-- R138. -/
def execVrnd (fmt : FFmt) (rm : RM) (f : VOps) (s : State) : Host.Outcome State Fault Refusal :=
  s.runLane (.rnd fmt rm) f (.vrnd fmt rm f)

/-! ### Triples and flags -/

/-- The triple of the participating lanes that satisfy a predicate (R125). -/
def Group.ballot (g : Group) (p : Nat → Bool) : BitVec 96 :=
  BitVec.ofNat 96 ((g.lanes.filter p).foldl (fun m L => m + 2 ^ L) 0)

/-- Conditions of VCMP (R125). -/
def vcond (c : VCond) (u : Bool) (x y : Word) : Bool :=
  match c with
  | .eq => decide (x = y)
  | .ne => decide (x ≠ y)
  | .lt => decide (toIntU u x < toIntU u y)
  | .le => decide (toIntU u x ≤ toIntU u y)
  | .gt => decide (toIntU u y < toIntU u x)
  | .ge => decide (toIntU u y ≤ toIntU u x)

/-- R125: bits of lanes that do not take part are 0. -/
def execVcmp (c : VCond) (u : Bool) (d a b : Operand) (x : Ext) (s : State) : Host.Outcome State Fault Refusal :=
  s.run (.vcmp c u d a b x) (fun k g =>
    let dying := g.dying (vReg? a ++ vReg? b)
    let (s', g') := s.die k g (vReg? a ++ vReg? b) dying
    let m := g'.ballot (fun L => vcond c u (s.laneSrc k g .int x a L) (s.laneSrc k g .int x b L))
    s'.done k (g'.wt (regNo d) m) (.vcmp c u d a b x) (s.nonEmptyBeats g))

/-- R126. -/
def execVsel (d a b c : Operand) (x : Ext) (s : State) : Host.Outcome State Fault Refusal :=
  s.run (.vsel d a b c x) (fun k g =>
    let dying := g.dying (vReg? a ++ vReg? b)
    let (s', g') := s.die k g (vReg? a ++ vReg? b) dying
    let t := g.rt (regNo c)
    let g'' := g.lanes.foldl (fun acc L =>
      acc.wv (regNo d) L (if dying.contains L then 0 else s.laneSrc k g .int x (if t.getLsbD L then a else b) L)) g'
    s'.done k g'' (.vsel d a b c x) (s.nonEmptyBeats g))

/-- Conditions of VFCMP, and whether a quiet NaN sets NV (R134). -/
def fcond (c : FCond) (x y : FVal) : Bool :=
  let un := x.isNan || y.isNan
  match c with
  | .eq => !un && x.eqv y
  | .ne => un || !x.eqv y
  | .lt => !un && x.lt y
  | .le => !un && !y.lt x
  | .gt => !un && y.lt x
  | .ge => !un && !x.lt y
  | .un => un
  | .or => !un

/-- Flags of VFCMP (R134). -/
def fcondFlags (c : FCond) (x y : FVal) : Flags :=
  let quiet : Bool := match c with
    | .lt | .le | .gt | .ge => true
    | _ => false
  nvOf x ||| nvOf y ||| flIf ((x.isNan || y.isNan) && quiet) flNV

/-- R134. -/
def execVfcmp (c : FCond) (d a b : Operand) (x : Ext) (s : State) : Host.Outcome State Fault Refusal :=
  s.run (.vfcmp c d a b x) (fun k g =>
    let dying := g.dying (vReg? a ++ vReg? b)
    let (s', g') := s.die k g (vReg? a ++ vReg? b) dying
    let va (o : Operand) (L : Nat) : FVal := fp32.decode (s.laneSrc k g (.flt fp32) x o L).toNat
    let m := g'.ballot (fun L => fcond c (va a L) (va b L))
    let g'' := g'.lanes.foldl (fun acc L => acc.orFlags L (fcondFlags c (va a L) (va b L))) g'
    s'.done k (g''.wt (regNo d) m) (.vfcmp c d a b x) (s.nonEmptyBeats g))

/-- R139. -/
def execVflag (f : VflagForm) (l : Lit) (s : State) : Host.Outcome State Fault Refusal :=
  s.run (.vflag f l) (fun k g =>
    let any (sel : Flags) : BitVec 96 := g.ballot (fun L => decide (g.rf L &&& sel ≠ 0))
    let each (h : Group → Nat → Group) : Group := g.lanes.foldl h g
    match f with
    | .read d sel => s.done k (g.wt (regNo d) (any sel)) (.vflag f l) (s.nonEmptyBeats g)
    | .readclr d sel =>
      s.done k ((each (fun acc L => acc.wf L (acc.rf L &&& ~~~sel))).wt (regNo d) (any sel)) (.vflag f l) (s.nonEmptyBeats g)
    | .clr sel => s.done k (each (fun acc L => acc.wf L (acc.rf L &&& ~~~sel))) (.vflag f l) (s.nonEmptyBeats g)
    | .set sel => s.done k (each (fun acc L => acc.wf L (acc.rf L ||| sel))) (.vflag f l) (s.nonEmptyBeats g)
    | .get d => s.done k (each (fun acc L => acc.wv (regNo d) L ((g.rf L).setWidth 32))) (.vflag f l) (s.nonEmptyBeats g)
    | .put a =>
      let dying := g.dying (vReg? a)
      let (s', g') := s.die k g (vReg? a) dying
      let g'' := g'.lanes.foldl (fun acc L => acc.wf L ((s.laneSrc k g .int ⟨0, l⟩ a L).setWidth 7)) g'
      s'.done k g'' (.vflag f l) (s.nonEmptyBeats g))

end Sys2Proof.Machine
end

