-- ==== Sys2Proof/Machine/Access.lean ====
section
/-! DEFINITION. Issuing memory accesses: element addresses and their checks (R203 to R210), page kinds (R288 to R291), and
the operation that a load, store or atomic puts in flight (R213). -/

namespace Sys2Proof.Machine

/-- Bytes of an element (R209). -/
def Size.bytes : Size → Nat
  | .u8 | .i8 => 1
  | .u16 | .i16 => 2
  | .w => 4
  | .dw => 8
  | .qw => 16

/-- The form of an S address (R29, R205). -/
def sForm (a : Int) : Bool :=
  decide (0 ≤ a) && decide (a.toNat / 2 ^ 28 = 0x01F0000000000000 / 2 ^ 28) && decide (a.toNat / 524288 % 512 < 448) &&
  decide (a.toNat % 524288 < 393216)

/-- Core and offset of an S address. -/
def sCore (a : Nat) : Nat := a / 524288 % 512
def sOff (a : Nat) : Nat := a % 524288

/-- Members of a group's gang. -/
def State.gangSize (s : State) (k : Nat) : Nat := (s.kernel k).w * (s.kernel k).h

/-- The team of a group's gang on a core (R205). -/
def State.memberOn (s : State) (k core : Nat) : Option Nat :=
  ((List.range (s.gangSize k)).map (fun m => gangOf k * 16 + m)).find? (fun t => (s.teamAt t).core = core)

/-- Whether `n` bytes at an offset of a core lie in a team's allocation (R205). -/
def Team.holds (t : Team) (off n : Nat) : Bool := decide (t.base ≤ off ∧ off + n ≤ t.base + t.scratch)

/-- The address a record names: the S address for S and L accesses (R341). -/
def State.faultAddr (s : State) (k : Nat) (sp : Space) (a : Int) : DWord :=
  match sp with
  | .l => BitVec.ofInt 64 (a + ((0x01F0000000000000 + spadKey (s.team k).core (s.team k).base : Nat) : Int))
  | _ => BitVec.ofInt 64 a

/-- The base operand of an access: exact for L, 64 bits for G and S (R210). -/
def State.accBase (s : State) (k : Nat) (g : Group) (sp : Space) (x : Ext) (a : Operand) : Int :=
  match sp with
  | .l => ((s.uni32 k g x a).toNat : Int)
  | _ => ((s.uni64 k g x a).toNat : Int)

/-- An element address from the base and what is added to it (R210). -/
def formAddr (sp : Space) (base add : Int) : Int :=
  match sp with
  | .l => base + add
  | _ => (base + add) % 2 ^ 64

/-- `n` bytes at an offset of a core lie in the allocation of the gang's member there. -/
def State.memberHolds (s : State) (k core off n : Nat) : Bool :=
  match s.memberOn k core with
  | some t => (s.teamAt t).holds off n
  | none => false

/-- The checks of R210 on elements of `n` bytes at the given lanes and addresses: the first check that some lane fails, and
the lowest such lane. An atomic makes all those of R205 at issue, of another member's allocation too (R266). -/
def State.accessFaultWith (s : State) (k : Nat) (g : Group) (atomic : Bool) (sp : Space) (n align : Nat) (els : List (Nat × Int)) :
    Option FaultInfo :=
  let fail (cause detail : Nat) (bad : Int → Bool) : Option FaultInfo :=
    (els.find? (fun e => bad e.2)).map (fun e =>
      { cause := cause, detail := detail, lane := e.1, addr := s.faultAddr k sp e.2, pc := g.pc })
  match fail 6 0 (fun a => a % align ≠ 0) with
  | some f => some f
  | none =>
    match sp with
    | .g => fail 8 0 (fun a => decide (2 ^ 57 ≤ a))
    | .s =>
      match fail 8 0 (fun a => !sForm a) with
      | some f => some f
      | none =>
        match fail 9 0 (fun a => (s.memberOn k (sCore a.toNat)).isNone) with
        | some f => some f
        | none => fail 8 0 (fun a => (sCore a.toNat = g.core && !(s.team k).holds (sOff a.toNat) n) ||
            (atomic && sCore a.toNat ≠ g.core && !s.memberHolds k (sCore a.toNat) (sOff a.toNat) n))
    | .l => fail 8 1 (fun a => !s.lBounds k a n)

/-- The checks of R210 on a load or a store. -/
def State.accessFault (s : State) (k : Nat) (g : Group) (sp : Space) (n align : Nat) (els : List (Nat × Int)) :
    Option FaultInfo := s.accessFaultWith k g false sp n align els

/-- The page kind of a G address as the tables now stand: 0 RC, 1 SO, 2 UN; S and L are RC (R205, R230). -/
def State.kindOf (s : State) (k : Nat) (sp : Space) (a : Int) : Nat :=
  match sp with
  | .g =>
    match s.leafOf (s.coreOf k) (s.ctxOf k) a.toNat with
    | .ok p => p.kind
    | .error _ => 0
  | _ => 0

/-- Elements of at most 8 bytes for one access of `size` at a lane (R287), or `whole` where it is one request (R364): a load's
destination words, a store's data. -/
def pieces (size n lane : Nat) (a : DWord) (load whole : Bool) (data cmp : List Byte) : List Elem :=
  let one (off at_ m : Nat) : Elem :=
    { lane := lane, off := off, addr := a + BitVec.ofNat 64 at_, n := m, data := (data.drop at_).take m,
      cmp := cmp, todo := if load then List.range ((m + 3) / 4) else [] }
  if size = 16 && !whole then [one 0 0 8, one 2 8 8] else [one 0 0 n]

/-- A G address lies in a window of the root die, whose registers take each element as one request (R364). -/
def State.deviceAt (s : State) (k : Nat) (g : Group) (sp : Space) (load : Bool) (a : Int) : Bool :=
  sp = .g && match s.translate g.core (s.ctxOf k) a.toNat (if load then .load else .store) with
    | .ok (key, _) => !(destOf key == .memory || destOf key == .remote)
    | .error _ => false

/-- The S or L address of an element as the operation holds it: an L offset becomes its S address (R206). -/
def State.opAddr (s : State) (k : Nat) (sp : Space) (a : Int) : DWord := s.faultAddr k sp a

/-- Put an operation in flight: the counter goes up; with `acq` later memory instructions wait for it (R213, R300). -/
def State.launchOp (s : State) (k : Nat) (g : Group) (i : Instr) (o : Op) (acq : Bool) (halt : Option FaultInfo) (time : Nat) :
    State :=
  let (id, s) := s.newId
  let g := g.incA o.counter
  let g := { g with haltPending := halt, waitOps := if acq then id :: g.waitOps else g.waitOps }
  ({ s with ops := s.ops.insert id o }).done k g i time

/-- What holds an access at issue, by the kinds of its pages (R288, R290, R300): an SO page as a release at SYSTEM scope, a
release on other than UN pages as a release at its scope. -/
def State.accessHold (s : State) (k : Nat) (g : Group) (sp : Space) (rel : Bool) (scope : Scope) (els : List (Nat × Int)) :
    Option Group :=
  let kinds := els.map (fun e => s.kindOf k sp e.2)
  if kinds.contains 1 then s.releaseWait k g .system
  else if rel && kinds.any (· ≠ 2) then s.releaseWait k g scope
  else none

/-- Whether an access holds later issue as an acquire: an acquire read of a page not UN, or any access to an SO page. -/
def State.accessAcq (s : State) (k : Nat) (sp : Space) (acq : Bool) (els : List (Nat × Int)) : Bool :=
  let kinds := els.map (fun e => s.kindOf k sp e.2)
  kinds.contains 1 || (acq && kinds.any (· ≠ 2))

/-- A G store's lowest lane must find its line or a free entry in the store buffer (R204). -/
def State.bufferFull (s : State) (k : Nat) (g : Group) (els : List (Nat × Int)) : Bool :=
  let b := (s.core g.core).storeBuf
  decide (32 ≤ b.length) &&
  match els.head? with
  | none => false
  | some e =>
    match s.translate g.core (s.ctxOf k) e.2.toNat .store with
    | .error _ => false
    | .ok (key, _) => destOf key = .endpoint || !b.any (fun l => l.line = key / 64)

/-- A core's memory port is full: requests of a stack in self-refresh wait there as the queues of its base die are full. How many requests
fill them is open; none is full where no request waits (R235, log 43). -/
def State.portFull (s : State) (sp : Space) : Bool :=
  sp = .g && s.hbmStacks.any (fun e => e.2.selfRefresh && !e.2.held.isEmpty) && Config.freeChoice s.fresh

/-- The accesses that data breakpoints are compared with (R352). -/
def State.watched (s : State) (k : Nat) (sp : Space) (n : Nat) (rd wr : Bool) (els : List (Nat × Int)) : List Access :=
  els.map (fun e => ⟨e.1, (s.faultAddr k sp e.2).toNat, n, sp ≠ .g, rd, wr⟩)

/-- What a memory instruction issues: kind, space, size, order, registers, counter. -/
structure Req where
  kind : OpKind
  sp : Space
  size : Size
  sem : Sem
  scope : Scope
  vec : Bool
  reg : Nat
  counter : Nat
  /-- Lanes and element addresses. -/
  els : List (Nat × Int)
  /-- Store data by lane. -/
  data : Nat → List Byte
  /-- Lanes that die by reading an uncorrectable element: they take no part, and their elements of `dest` become 0 (R154). -/
  dying : List Nat := []
  /-- The v-registers read, and those written. -/
  reads : List Nat := []
  dest : List Nat := []

/-- Issue an access: zero elements complete at once; the checks of R210; the waits of R204 and R300; then lanes die and the
operation is in flight: a word that faults or waits has no effect (R55). -/
def State.issueAccess (s : State) (k : Nat) (g : Group) (i : Instr) (r : Req) (time : Nat) : State :=
  let n := Size.bytes r.size
  let load := decide (r.kind = .load)
  if r.els.isEmpty then
    let (s, g) := s.lanesDie k g r.reads r.dying r.dest
    s.done k g i 1
  else match s.accessFault k g r.sp n n r.els with
    | some f => s.systemFault k g f
    | none =>
      match s.accessHold k g r.sp (r.sem = .release) r.scope r.els with
      | some g' => s.wait k g'
      | none =>
        if s.portFull r.sp || (!load && r.sp = .g && s.bufferFull k g r.els) then s.wait k g
        else
          let o : Op :=
            { group := k, ctx := s.ctxOf k, core := g.core, kind := r.kind, space := r.sp, scope := r.scope, size := r.size,
              vec := r.vec, reg := r.reg, counter := r.counter, pc := g.pc,
              elems := r.els.flatMap (fun e => pieces n n e.1 (s.opAddr k r.sp e.2) load (s.deviceAt k g r.sp load e.2) (r.data e.1) []) }
          let (s, g) := s.lanesDie k g r.reads r.dying r.dest
          s.launchOp k g i o (s.accessAcq k r.sp (r.sem = .acquire) r.els)
            (s.dataHalt k g 0 (s.watched k r.sp n load (!load) r.els)) time

end Sys2Proof.Machine
end

