-- ==== Sys2Proof/Machine/Barrier.lean ====
section
/-! DEFINITION. Team and gang barriers: BAR, deferred arrivals and the release of waiters (R270 to R275, R283). -/

namespace Sys2Proof.Machine

/-- The barrier a group names (R270). -/
def State.bar (s : State) (k : Nat) (gang : Bool) (i : Nat) : Bar :=
  if gang then (s.gang k).bars.getD i {} else (s.team k).bars.getD i {}

def State.setBar (s : State) (k : Nat) (gang : Bool) (i : Nat) (b : Bar) : State :=
  if gang then s.setGang (gangOf k) { s.gang k with bars := (s.gang k).bars.setD i b {} }
  else s.setTeam (teamOf k) { s.team k with bars := (s.team k).bars.setD i b {} }

/-- Whether a waiter's barrier is the one named from group k. -/
def sameBar (k k' : Nat) (gang : Bool) : Bool := if gang then gangOf k = gangOf k' else teamOf k = teamOf k'

/-- What a group's record waits on. -/
def Group.waitsOn (g : Group) : WaitOn :=
  match g.rcd with
  | some r => r.wait
  | none => .none

/-- The waiters of a barrier whose parity differs from the phase are released: in BAR.WAIT, or with a yielded record (R273,
R311). -/
def State.releaseWaiters (s : State) (k : Nat) (gang : Bool) (i : Nat) (phase : Bool) : State :=
  { s with groups := s.groups.map (fun e =>
    let hit (w : Bool) (j : Nat) (p : Bool) : Bool := w == gang && j == i && p != phase && sameBar k e.1 gang
    match e.2.hold, e.2.waitsOn with
    | .bar w j p _, _ => if hit w j p then (e.1, { e.2 with released := true }) else e
    | _, .bar w j p => if e.2.place = .yielded ∧ hit w j p then (e.1, { e.2 with released := true }) else e
    | _, _ => e) }

/-- An accepted arrival (R273); `reg` registers the group. Nothing where it is refused. -/
def Bar.arrive (b : Bar) (reg : Option Nat) : Option Bar :=
  if b.wpend ≠ [] then none
  else
    let wcur := match reg with
      | some k => if b.wcur.contains k then b.wcur else b.wcur ++ [k]
      | none => b.wcur
    if b.count + 1 = b.expect then some { b with count := 0, phase := !b.phase, wpend := wcur, wcur := [] }
    else some { b with count := b.count + 1, wcur := wcur }

/-- Perform an arrival of group k: the state after it, or nothing where it is refused. -/
def State.arrive (s : State) (k : Nat) (gang : Bool) (i : Nat) (reg : Option Nat) : Option State :=
  let b := s.bar k gang i
  match b.arrive reg with
  | none => none
  | some b' =>
    let s := s.setBar k gang i b'
    some (if b'.phase = b.phase then s else s.releaseWaiters k gang i b'.phase)

/-- A waiter has observed the completed phase. -/
def Bar.observe (b : Bar) (k : Nat) : Bar := { b with wpend := b.wpend.filter (· ≠ k) }

/-- A held arrival on a gang barrier waits until no write of its bound copies is left in a store buffer: it is performed once they are
performed at GANG scope (R292). -/
def State.boundHome (s : State) (x : Deferred) : Bool :=
  !x.gang || s.cores.all (fun c => c.2.unhomed.all (fun l => !l.ops.any x.bound.contains))

/-- A held arrival may be performed: its copies are complete and their writes performed, WPEND is empty, and no arrival on the same
barrier comes before it (R274, R292). -/
def State.deferredReady (s : State) (x : Deferred) : Bool :=
  match x.order with
  | none => false
  | some n =>
    (s.bar x.group x.gang x.idx).wpend.isEmpty && s.boundHome x &&
    s.teams.all (fun e => e.2.deferred.all (fun y =>
      !(y.gang == x.gang && y.idx == x.idx && sameBar y.group x.group x.gang) || match y.order with
        | some m => decide (n ≤ m)
        | none => true))

/-- Perform the held arrival at a place of a team. -/
def State.arriveHeld (s : State) (team idx : Nat) : State :=
  match (s.teamAt team).deferred[idx]? with
  | none => s
  | some x =>
    if s.deferredReady x then
      let t := s.teamAt team
      let s' := s.setTeam team { t with deferred := t.deferred.eraseIdx idx }
      (s'.arrive x.group x.gang x.idx none).getD s'
    else s

/-- The held arrivals that can be performed, by team and place. -/
def State.heldReady (s : State) : List (Nat × Nat) :=
  s.teams.flatMap (fun e => (List.range e.2.deferred.length).filterMap (fun i =>
    if (e.2.deferred[i]?).any s.deferredReady then some (e.1, i) else none))

/-- Perform held arrivals one after another, as long as there is one that can be. -/
def State.flushHeld (s : State) : Nat → State
  | 0 => s
  | n + 1 =>
    match s.heldReady with
    | [] => s
    | x :: _ => (s.arriveHeld x.1 x.2).flushHeld n

/-- Held arrivals are performed as soon as WPEND is empty, in order (R274, R283). -/
def State.flushDeferred (s : State) : State := s.flushHeld ((s.teams.map (fun e => e.2.deferred.length)).foldl (· + ·) 0)

/-- EXIT removes a group from every barrier of its team and gang (R273). -/
def State.leaveBars (s : State) (k : Nat) : State :=
  let clean (m : SMap Bar) : SMap Bar :=
    m.map (fun e => (e.1, { e.2 with wcur := e.2.wcur.filter (· ≠ k), wpend := e.2.wpend.filter (· ≠ k) }))
  let s := s.setTeam (teamOf k) { s.team k with bars := clean (s.team k).bars }
  (s.setGang (gangOf k) { s.gang k with bars := clean (s.gang k).bars }).flushDeferred

/-- The status word of R271. -/
def Bar.word (b : Bar) : Word :=
  BitVec.ofNat 32 ((if b.phase then 2 ^ 31 else 0) + b.wpend.length * 2 ^ 22 + b.wcur.length * 2 ^ 13 + b.count)

/-- After Commit() the REGION must follow: the group issues nothing else (R27, R59). -/
def State.commitDone (s : State) (k : Nat) (g : Group) (i : Instr) : State := s.done k { g with pairPending := true } i 1

/-- Arrivals release at TEAM scope, and at GANG scope on a gang barrier (R292): the wait of R300. -/
def State.barHold (s : State) (k : Nat) (g : Group) (gang : Bool) : Option Group :=
  if gang then s.releaseWait k g .gang else none

/-- R273. -/
def execBarInit (bar : BarRef) (a : Operand) (l : Lit) (s : State) : Host.Outcome State Fault Refusal :=
  s.run (.barInit bar a l) (fun k g =>
    let n := (s.uni32 k g ⟨0, l⟩ a).toNat
    if n = 0 ∨ 4096 < n then s.systemFault k g { cause := 8, pc := g.pc }
    else
      let s := s.setBar k bar.gang bar.idx.toNat { expect := n }
      ((s.releaseWaiters k bar.gang bar.idx.toNat false).flushDeferred).commitDone k g (.barInit bar a l))

/-- ARRIVE in its registering and other form (R273). -/
def State.arriveNow (s : State) (k : Nat) (g : Group) (i : Instr) (d : Operand) (bar : BarRef) (reg : Option Nat) : State :=
  match s.barHold k g bar.gang with
  | some g' => s.wait k g'
  | none =>
    match s.arrive k bar.gang bar.idx.toNat reg with
    | some s' => s'.commitDone k (g.ws (regNo d) 1) i
    | none => s.commitDone k (g.ws (regNo d) 0) i

/-- R273. -/
def execBarArrive (d : Operand) (bar : BarRef) (l : Lit) (s : State) : Host.Outcome State Fault Refusal :=
  s.run (.barArrive d bar l) (fun k g => s.arriveNow k g (.barArrive d bar l) d bar (some k))

/-- R273. -/
def execBarArriveNw (d : Operand) (bar : BarRef) (l : Lit) (s : State) : Host.Outcome State Fault Refusal :=
  s.run (.barArriveNw d bar l) (fun k g => s.arriveNow k g (.barArriveNw d bar l) d bar none)

/-- The group's copies on a team queue that have not completed (R274). -/
def State.boundCopies (s : State) (k q : Nat) : List Nat :=
  (s.copies.filter (fun e => e.2.group = k && e.2.team = teamOf k && e.2.queue = q)).map (·.1)

/-- R274. -/
def execBarArriveDefer (d : Operand) (bar : BarRef) (queue : BitVec 3) (l : Lit) (s : State) :
    Host.Outcome State Fault Refusal :=
  s.run (.barArriveDefer d bar queue l) (fun k g =>
    let i : Instr := .barArriveDefer d bar queue l
    let t := s.team k
    if 32 ≤ t.deferred.length then s.wait k g
    else match s.barHold k g bar.gang with
      | some g' => s.wait k g'
      | none =>
        let copies := s.boundCopies k queue.toNat
        let g' := g.ws (regNo d) 1
        let held (s : State) : State :=
          let (n, s) := s.newId
          s.setTeam (teamOf k) { t with deferred := t.deferred ++
            [⟨k, bar.gang, bar.idx.toNat, copies, if copies.isEmpty then some n else none, copies⟩] }
        if copies.isEmpty then
          match s.arrive k bar.gang bar.idx.toNat none with
          | some s' => s'.commitDone k g' i
          | none => (held s).commitDone k g' i
        else (held s).commitDone k g' i)

/-- R273: completes where PHASE differs from the parity, else the group waits in the barrier unit. -/
def execBarWait (bar : BarRef) (a : Operand) (l : Lit) (s : State) : Host.Outcome State Fault Refusal :=
  s.run (.barWait bar a l) (fun k g =>
    let i : Instr := .barWait bar a l
    let p := (s.uni32 k g ⟨0, l⟩ a).getLsbD 0
    let b := s.bar k bar.gang bar.idx.toNat
    if b.phase ≠ p then ((s.setBar k bar.gang bar.idx.toNat (b.observe k)).flushDeferred).done k g i 1
    else (s.setGroup k { g with hold := .bar bar.gang bar.idx.toNat p (g.after i), released := false }).tick 1)

/-- R271. -/
def execBarStat (d : Operand) (bar : BarRef) (l : Lit) (s : State) : Host.Outcome State Fault Refusal :=
  s.run (.barStat d bar l) (fun k g =>
    s.done k (g.ws (regNo d) (s.bar k bar.gang bar.idx.toNat).word) (.barStat d bar l) 1)

/-- R271. -/
def execBarStatExp (d : Operand) (bar : BarRef) (l : Lit) (s : State) : Host.Outcome State Fault Refusal :=
  s.run (.barStatExp d bar l) (fun k g =>
    s.done k (g.ws (regNo d) (BitVec.ofNat 32 (s.bar k bar.gang bar.idx.toNat).expect)) (.barStatExp d bar l) 1)

/-- R274. -/
def execDeferredArrival (team idx : Nat) (s : State) : Host.Outcome State Fault Refusal := .next (s.arriveHeld team idx)

/-- A released waiter observes the phase and goes on, or its yielded record is queued for resumption (R273, R275, R311). -/
def execBarrierWaiterRelease (group : Nat) (s : State) : Host.Outcome State Fault Refusal :=
  match s.group? group with
  | none => .next s
  | some g =>
    if !g.released then .next s
    else match g.place, g.hold, g.waitsOn with
      | .resident, .bar w i _ next, _ =>
        let s := s.setBar group w i ((s.bar group w i).observe group)
        .next ((s.setGroup group { g with hold := .ready, released := false, pc := next }).flushDeferred)
      | .yielded, _, .bar w i _ =>
        let s := s.setBar group w i ((s.bar group w i).observe group)
        let (n, s) := s.newId
        .next ((s.setGroup group { g with released := false, place := .queued, resumeOrder := n }).flushDeferred)
      | _, _, _ => .next s

/-- Barrier steps that the state admits. -/
def State.barEvents (s : State) : List Instr :=
  s.groups.filterMap (fun e => if e.2.released then some (.barrierWaiterRelease e.1) else none) ++
  s.teams.flatMap (fun e => (List.range e.2.deferred.length).map (fun i => .deferredArrival e.1 i))

end Sys2Proof.Machine
end

