-- ==== Sys2Proof/Machine/LoadStore.lean ====
section
/-! DEFINITION. Loads, stores, waits, prefetch, ZFILL and GWIN: opcodes 0x10, 0x11 and 0x60 to 0x68 (R207 to R224). -/

namespace Sys2Proof.Machine

/-- The low bytes of consecutive registers of a lane (R209). -/
def Group.vBytes (g : Group) (r lane n : Nat) : List Byte :=
  ((List.range ((n + 3) / 4)).flatMap (fun i => leBytes 4 (g.rv (r + i) lane).toNat)).take n

/-- The low bytes of consecutive s-registers. -/
def Group.sBytes (g : Group) (r n : Nat) : List Byte :=
  ((List.range ((n + 3) / 4)).flatMap (fun i => leBytes 4 (g.rs (r + i)).toNat)).take n

/-- Registers an access names through D. -/
def memRegs (f : MemF) : List Nat := (List.range (Size.regs f.size)).map (fun i => regNo f.d + i)

/-- The address of a lane's element in LD and ST (R210). -/
def State.ldAddr (s : State) (k : Nat) (g : Group) (f : MemF) (L : Nat) : Int :=
  let x : Ext := ⟨0, f.l⟩
  formAddr f.space (s.accBase k g f.space x f.a)
    ((s.laneSrc k g .int x f.b L).toInt * (if f.scale then (Size.bytes f.size : Int) else 1) + f.disp.toInt)

/-- The address of a lane's element in LDV and STV: base + disp + L × stride (R212). -/
def State.ldvAddr (s : State) (k : Nat) (g : Group) (f : MemF) (L : Nat) : Int :=
  let x : Ext := ⟨0, f.l⟩
  let stride : Int := if f.scale then (s.uni32 k g x f.b).toInt else Size.bytes f.size
  formAddr f.space (s.accBase k g f.space x f.a) (f.disp.toInt + (L : Int) * stride)

/-- The address of SLD and SST (R210). -/
def State.sldAddr (s : State) (k : Nat) (g : Group) (f : MemF) : Int :=
  let x : Ext := ⟨0, f.l⟩
  formAddr f.space (s.accBase k g f.space x f.a)
    ((s.uni32 k g x f.b).toInt * (if f.scale then (Size.bytes f.size : Int) else 1) + f.disp.toInt)

/-- The vector loads and stores (R212): a lane that reads an uncorrectable register element takes no part, and its
destination is 0 (R154). -/
def State.vecAccess (s : State) (k : Nat) (g : Group) (i : Instr) (f : MemF) (load : Bool) (addr : Nat → Int) : State :=
  let reads := vReg? f.b ++ if load then [] else memRegs f
  let dying := g.dying reads
  s.issueAccess k g i
    { kind := if load then .load else .store, sp := f.space, size := f.size, sem := f.sem, scope := f.scope, vec := true,
      reg := regNo f.d, counter := f.n.toNat, els := (g.lanes.filter (fun L => !dying.contains L)).map (fun L => (L, addr L)),
      data := fun L => if load then [] else g.vBytes (regNo f.d) L (Size.bytes f.size),
      dying := dying, reads := reads, dest := if load then memRegs f else [] }
    (s.nonEmptyBeats g)

/-- The scalar load and store (R212). -/
def State.scalarAccess (s : State) (k : Nat) (g : Group) (i : Instr) (f : MemF) (load : Bool) : State :=
  s.issueAccess k g i
    { kind := if load then .load else .store, sp := f.space, size := f.size, sem := f.sem, scope := f.scope, vec := false,
      reg := regNo f.d, counter := f.n.toNat, els := [(127, s.sldAddr k g f)],
      data := fun _ => if load then [] else g.sBytes (regNo f.d) (Size.bytes f.size) } 1

/-- R212. -/
def execSld (f : MemF) (s : State) : Host.Outcome State Fault Refusal :=
  s.run (.sld f) (fun k g => s.scalarAccess k g (.sld f) f true)

/-- R212. -/
def execSst (f : MemF) (s : State) : Host.Outcome State Fault Refusal :=
  s.run (.sst f) (fun k g => s.scalarAccess k g (.sst f) f false)

/-- R212. -/
def execLd (f : MemF) (s : State) : Host.Outcome State Fault Refusal :=
  s.run (.ld f) (fun k g => s.vecAccess k g (.ld f) f true (s.ldAddr k g f))

/-- R212. -/
def execSt (f : MemF) (s : State) : Host.Outcome State Fault Refusal :=
  s.run (.st f) (fun k g => s.vecAccess k g (.st f) f false (s.ldAddr k g f))

/-- R212. -/
def execLdv (f : MemF) (s : State) : Host.Outcome State Fault Refusal :=
  s.run (.ldv f) (fun k g => s.vecAccess k g (.ldv f) f true (s.ldvAddr k g f))

/-- R212. -/
def execStv (f : MemF) (s : State) : Host.Outcome State Fault Refusal :=
  s.run (.stv f) (fun k g => s.vecAccess k g (.stv f) f false (s.ldvAddr k g f))

/-- Issue a WAIT, or continue one (R220): `$waitcyc` grows by the cycles from its issue to the first one in which the condition held. One
that has begun to wait ends where its counter goes down (`Group.noteWait`). -/
def State.waitFor (s : State) (k : Nat) (g : Group) (i : Instr) (test : Option Nat × Nat) : State :=
  match g.waitHolds test, g.waitFrom with
  | true, none => s.done k g i 1
  | true, some c => s.done k { g with waitcyc := (g.waitcyc + (g.waitMet.getD s.cycle - c)) % 2 ^ 64 } i 1
  | false, none =>
    (s.markIssue g).wait k { g with
      waitFrom := some s.cycle, waitTest := some test, waitNext := g.after i, waitMet := none, lastIssue := s.cycle, urgent := false }
  | false, some _ => s.wait k g

/-- R220. -/
def execWait (n : BitVec 4) (c : BitVec 8) (l : Lit) (s : State) : Host.Outcome State Fault Refusal :=
  s.run (.wait n c l) (fun k g => s.waitFor k g (.wait n c l) (some n.toNat, c.toNat))

/-- R220. -/
def execWaitAll (l : Lit) (s : State) : Host.Outcome State Fault Refusal :=
  s.run (.waitAll l) (fun k g => s.waitFor k g (.waitAll l) (none, 0))

/-- R221. -/
def execActrRead (d : Operand) (n : BitVec 4) (l : Lit) (s : State) : Host.Outcome State Fault Refusal :=
  s.run (.actrRead d n l) (fun k g => s.done k (g.ws (regNo d) (BitVec.ofNat 32 (g.ra n.toNat))) (.actrRead d n l) 1)

/-- The counters that are not 0, as bits (R221). -/
def Group.counterMask (g : Group) : Nat := (List.range 16).foldl (fun m n => if g.ra n = 0 then m else m + 2 ^ n) 0

/-- R221. -/
def execActrMask (d : Operand) (l : Lit) (s : State) : Host.Outcome State Fault Refusal :=
  s.run (.actrMask d l) (fun k g => s.done k (g.ws (regNo d) (BitVec.ofNat 32 g.counterMask)) (.actrMask d l) 1)

/-- R222: the issue checks at 1 byte; a line in the home L2 changes no value. -/
def execPref (perLane : Bool) (a b : Operand) (scale : Bool) (hint : Hint) (disp : BitVec 10) (l : Lit) (s : State) :
    Host.Outcome State Fault Refusal :=
  s.run (.pref perLane a b scale hint disp l) (fun k g =>
    let i : Instr := .pref perLane a b scale hint disp l
    let x : Ext := ⟨0, l⟩
    let dying := if perLane then g.dying (vReg? b) else []
    let base := s.accBase k g .g x a
    let addr (v : Word) : Int := formAddr .g base (v.toInt * (if scale then 64 else 1) + disp.toInt)
    let els : List (Nat × Int) :=
      if perLane then (g.lanes.filter (fun L => !dying.contains L)).map (fun L => (L, addr (s.laneSrc k g .int x b L)))
      else [(127, addr (s.uni32 k g x b))]
    match s.accessFault k g .g 1 1 els with
    | some f => s.systemFault k g f
    | none =>
      if s.portFull .g then s.wait k g else
      let (s', g') := s.lanesDie k g (vReg? b) dying []
      s'.done k g' i (if perLane then s.nonEmptyBeats g else 1))

/-- R223. -/
def execZfill (space : Space) (a b : Operand) (sem : Sem) (scope : Scope) (hint : Hint) (n : BitVec 4) (disp : BitVec 10)
    (l : Lit) (s : State) : Host.Outcome State Fault Refusal :=
  s.run (.zfill space a b sem scope hint n disp l) (fun k g =>
    let i : Instr := .zfill space a b sem scope hint n disp l
    let x : Ext := ⟨0, l⟩
    let len := (s.uni32 k g x b).toNat
    let addr := formAddr space (s.accBase k g space x a) disp.toInt
    if len = 0 then s.done k g i 1
    else if len % 64 ≠ 0 ∨ addr % 64 ≠ 0 then
      s.systemFault k g { cause := 6, pc := g.pc, addr := s.faultAddr k space addr }
    else if 65536 < len then s.systemFault k g { cause := 8, pc := g.pc, addr := s.faultAddr k space addr }
    else
      let els : List (Nat × Int) := (List.range (len / 64)).map (fun (j : Nat) => (127, formAddr space addr (64 * (j : Int))))
      match s.accessFault k g space 64 64 els with
      | some f => s.systemFault k g f
      | none =>
        match s.accessHold k g space (sem = .release) scope els with
        | some g' => s.wait k g'
        | none =>
          if s.portFull space || (space = .g && s.bufferFull k g els) then s.wait k g
          else
            let o : Op :=
              { group := k, ctx := s.ctxOf k, core := g.core, kind := .store, space := space, scope := scope, size := .u8,
                vec := false, reg := 0, counter := n.toNat, pc := g.pc,
                elems := els.map (fun e =>
                  { lane := 127, addr := s.opAddr k space e.2, n := 64, data := List.replicate 64 0 }) }
            s.launchOp k g i o (s.accessAcq k space false els) (s.dataHalt k g 0 (s.watched k space 64 false true els)) 1)

/-- The S address of a byte of a gang member's allocation, or all ones (R224). -/
def State.gwinValue (s : State) (k : Nat) (a b : Nat) : DWord :=
  if s.gangSize k ≤ a ∨ (s.team k).scratch ≤ b then BitVec.allOnes 64
  else
    let t := s.teamAt (gangOf k * 16 + a % 16)
    sAddr t.core (t.base + b)

/-- R224. -/
def execGwin (d a b : Operand) (l : Lit) (s : State) : Host.Outcome State Fault Refusal :=
  s.run (.gwin d a b l) (fun k g =>
    let x : Ext := ⟨0, l⟩
    s.done k (g.wp (regNo d) (s.gwinValue k (s.uni32 k g x a).toNat (s.uni32 k g x b).toNat)) (.gwin d a b l) 1)

end Sys2Proof.Machine
end

