-- ==== Sys2Proof/Machine/Device.lean ====
section
/-! DEFINITION. The root die toward the cores: the I/O log, event targets (R280, R370), kick registers and packet scans
(R322 to R324), launch records and new grids (R316, R320), and writes that reach their homes (R204, R364). -/

namespace Sys2Proof.Machine

/-! ### The I/O log (R364) -/

/-- Enter an event in the I/O log; a full log drops and counts it. -/
def State.logIo (s : State) (e : IoEntry) : State :=
  if s.ioLog.length < 1024 then { s with ioLog := s.ioLog ++ [e] } else { s with ioDropped := s.ioDropped + 1 }

/-- The number of a reason. -/
def IoReason.code : IoReason → Nat
  | .kickSize => 0 | .windowUnused => 1 | .eventUnused => 2 | .eventBinding => 3 | .noChannel => 4 | .translation => 5
  | .notGranted => 6 | .pageRequest => 7 | .portDown => 8 | .retired => 9

/-- The bytes of an I/O log entry as firmware and a reply carry them: RID, PASID, address and reason (log 59). -/
def IoEntry.bytes (e : IoEntry) : List Byte := leBytes 4 e.rid ++ leBytes 4 e.pasid ++ leBytes 8 e.addr ++ leBytes 4 e.reason.code

/-- The bytes of a decoder. -/
def Decoder.bytes (d : Decoder) : List Byte := leBytes 8 d.base ++ leBytes 8 d.size ++ leBytes 8 d.port ++ leBytes 8 d.peer

/-- Send a message. -/
def State.send (s : State) (m : OutMsg) : State := { s with outbox := s.outbox ++ [m] }

/-! ### Event barriers (R280) -/

def State.event (s : State) (e : Nat) : EventBar := s.events.getD e {}
def State.setEvent (s : State) (e : Nat) (b : EventBar) : State := { s with events := s.events.setD e b {} }

/-- Count one write; at saturation OVF is set. -/
def EventBar.post (b : EventBar) : EventBar := if b.count = 65535 then { b with ovf := true } else { b with count := b.count + 1 }

/-- A write at an event target: counted from a system core or an agent of the bound context, else discarded and logged. -/
def State.postEvent (s : State) (e : Nat) (src : EventSource) : State :=
  let b := s.event e
  let ok := match src with
    | .systemCore => true
    | .context c => b.ctx = some c
    | .channel ch => b.ctx = some (bitsAt (s.channels.getD ch {}).entry.toNat 7 12)
  if ok then s.setEvent e b.post
  else
    let entry := match src with
      | .channel ch => (s.channels.getD ch {}).entry.toNat
      | _ => 0
    s.logIo { rid := bitsAt entry 23 16, pasid := if bitAt entry 59 then bitsAt entry 39 20 else 0, addr := 0x01FFFFFFFFFF0000 + 16 * e, reason := .eventBinding }

/-! ### Launch records (R316) -/

/-- Bytes of a list as a number. -/
def natAt (bs : List Byte) (at_ n : Nat) : Nat := leNat ((bs.drop at_).take n)

/-- A launch record from its 64 bytes. -/
def parseLaunch (bs : List Byte) : LaunchRec :=
  let w := natAt bs 56 4
  let v := natAt bs 60 4
  { kdesc := BitVec.ofNat 64 (natAt bs 0 8), argp := BitVec.ofNat 64 (natAt bs 8 8),
    inline := (List.range 8).map (fun i => BitVec.ofNat 32 (natAt bs (16 + 4 * i) 4)),
    doneaddr := BitVec.ofNat 64 (natAt bs 48 8), ngangs := bitsAt w 16 16, evidx := bitsAt w 8 8, evt := bitAt w 7,
    prio := bitsAt w 4 3, dep := bitAt w 3, valid := bitAt v 31,
    malformed := decide (bitsAt v 0 31 ≠ 0) || decide (bitsAt w 0 3 ≠ 0) || decide (bitsAt w 16 16 = 0) ||
      decide (natAt bs 0 8 % 64 ≠ 0) || decide (natAt bs 48 8 % 8 ≠ 0) }

/-! ### Grids (R320) -/

/-- The grid counter after a number has been taken: the next one that is not 0 and not held. -/
def nextFree (held : List Nat) : Nat → Nat → Nat
  | 0, n => n
  | fuel + 1, n =>
    let m := (n + 1) % 2 ^ 32
    if m = 0 ∨ held.contains m then nextFree held fuel m else m

/-- A new grid takes the counter's number. -/
def State.newGrid (s : State) (ctx prio : Nat) (lr : LaunchRec) (src : GridSource) : State :=
  let n := s.nextGrid.toNat
  let s := s.setGrid n { ctx := ctx, lr := lr, prio := prio, source := src, dispatched := s.cycle }
  { s with
    nextGrid := BitVec.ofNat 32 (nextFree (s.grids.map (·.1)) (s.grids.length + 2) n)
    gridOwners := s.gridOwners.insert n (s.ctx ctx).owner }

/-! ### Kicks and scans (R322 to R324) -/

/-- A scan begins in a slot, or a kick merges into the one under way. -/
def HwSlot.start (h : HwSlot) (kick : Bool) : HwSlot :=
  if h.scanning then h
  else { h with scanning := true, fromKick := kick, took := false, rereads := 65, stale := if kick then false else h.stale }

/-- Set the pending bit of a doorbell index. -/
def State.pend (s : State) (i : Nat) : State :=
  if s.pendingIdx.contains i then s else { s with pendingIdx := s.pendingIdx ++ [i] }

/-- The queue a slot holds. -/
def State.slotQueue (s : State) (h : HwSlot) : Option UserQueue := h.queue.bind (fun q => s.userQueues.find? q)

/-- A kick of doorbell index i: mapped queues of the index are scanned, and for one that is not mapped, or an index without
any, the pending bit is set (R324). -/
def State.kickIdx (s : State) (i : Nat) : State :=
  let mapped := s.slots.filterMap (fun e => if (s.slotQueue e.2).map (·.dbidx) = some i then e.2.queue else none)
  let all := (s.userQueues.filter (fun e => e.2.dbidx = i)).map (·.1)
  let s := { s with slots := s.slots.map (fun e =>
    if (s.slotQueue e.2).map (·.dbidx) = some i then (e.1, e.2.start true) else e) }
  if mapped.isEmpty || all.any (fun q => !mapped.contains q) then s.pend i else s

/-- Grids of a queue that have not completed. -/
def State.queueBusy (s : State) (q : Nat) : Bool := s.grids.any (fun e => e.2.source = .userQueue q)

/-- Dispatch the packet at READ and go on (R323). -/
def State.takePacket (s : State) (i : Nat) (h : HwSlot) (q : Nat) (u : UserQueue) (lr : LaunchRec) : State :=
  let read := (h.read + 1) % 2 ^ u.log2n
  let h := { h with stale := false, took := true, depWait := none, read := read,
                    xphase := if read = 0 then !h.xphase else h.xphase }
  { s.newGrid u.ctx u.prio lr (.userQueue q) with slots := s.slots.insert i h }

/-- End a scan. -/
def HwSlot.stop (h : HwSlot) (now : Nat) (stale : Bool) : HwSlot :=
  { h with scanning := false, depWait := none, idleSince := now, stale := stale }

/-- One read of packet READ by the scan of a slot (R323). -/
def State.scanStep (s : State) (i : Nat) : State :=
  match s.slots.find? i with
  | none => s
  | some h =>
    if !h.scanning || h.depWait.isSome then s
    else match h.queue, s.slotQueue h with
      | some q, some u =>
        let va := u.ring.toNat + 64 * h.read
        match s.translate rootTlb u.ctx va .load with
        | .error _ => { s with slots := s.slots.insert i (h.stop s.cycle h.stale) }
        | .ok (key, p) =>
          let bs := s.getPhys p.owner key 64
          let s := s.noteLeaf rootTlb u.ctx va p
          let lr := parseLaunch bs
          if lr.valid = h.xphase then
            if lr.dep && s.queueBusy q then { s with slots := s.slots.insert i { h with stale := false, depWait := some lr } }
            else s.takePacket i h q u lr
          else if h.fromKick && !h.took then
            if h.rereads ≤ 1 then { s with slots := s.slots.insert i (h.stop s.cycle true) }
            else { s with slots := s.slots.insert i { h with rereads := h.rereads - 1 } }
          else { s with slots := s.slots.insert i (h.stop s.cycle h.stale) }
      | _, _ => s

/-- The DEP packet that was read is dispatched once the queue's earlier grids have completed (R323). -/
def State.depRelease (s : State) (i : Nat) : State :=
  match s.slots.find? i with
  | none => s
  | some h =>
    match h.queue, s.slotQueue h, h.depWait with
    | some q, some u, some lr => if s.queueBusy q then s else s.takePacket i h q u lr
    | _, _, _ => s

/-- Choose one of the things that can happen; the choice is free (log 2). -/
def State.choose {α : Type} (s : State) (l : List α) : Option (α × State) :=
  match l with
  | [] => none
  | [x] => some (x, s)
  | x :: xs =>
    let (n, s') := s.free64
    some ((x :: xs).getD (n.toNat % (x :: xs).length) x, s')

/-! ### Thojan ports (R257, R258) -/

def State.port (s : State) (n : Nat) : Port := s.ports.getD n {}
def State.setPort (s : State) (n : Nat) (p : Port) : State := { s with ports := s.ports.setD n p {} }

/-- A message as flits of 64 bytes: at least one, numbered from `n` on. -/
def OutMsg.flits (m : OutMsg) (n : Nat) : List OutMsg :=
  (List.range (max 1 ((m.data.length + 63) / 64))).map (fun i => { m with data := (m.data.drop (64 * i)).take 64, num := n + i })

/-- Send the flits that wait at a port, each with the next sequence number, unless the receiver has signalled stop (R258). -/
def State.pump (s : State) (n : Nat) : State :=
  let p := s.port n
  if p.stopped || p.retraining || p.oos then s
  else p.tx.foldl (fun s m =>
    let p := s.port n
    let f := { m with link := some (n, p.seq), crc := Config.flitCrc p.seq m.num m.data }
    ((s.setPort n { p with seq := p.seq + 1, replay := (p.replay ++ [f]).drop (p.replay.length - 63) }).send f))
    (s.setPort n { p with tx := [] })

/-- The ports in service. -/
def State.livePorts (s : State) : List Nat := (List.range 64).filter (fun n => !(s.port n).oos)

/-- Flits go over some port in service: which is open (log 17). With none left they go nowhere. -/
def State.sendFlits (s : State) (fs : List OutMsg) : State :=
  match s.choose s.livePorts with
  | none => s
  | some (n, s) => (s.setPort n { s.port n with tx := (s.port n).tx ++ fs }).pump n

/-- Traffic to another package: its flits get their numbers from end to end. -/
def State.linkSend (s : State) (m : OutMsg) : State :=
  let fs := m.flits s.linkNum
  { s with linkNum := s.linkNum + fs.length }.sendFlits fs

/-- Ask another package: the request carries the number by which the answer comes back. -/
def State.linkAsk (s : State) (a : RemoteAsk) (m : OutMsg) : State :=
  let (n, s) := s.newId
  { s with asks := s.asks.insert n a }.linkSend { m with tag := n }

/-! ### Ports (R359) -/

def State.portCfgOf (s : State) (p : Nat) : Word := s.portCfg.getD p 0x0000FF30
def State.portSpdOf (s : State) (p : Nat) : Word := s.portSpd.getD p 0x70000000

/-- Modes of a port (R359). -/
inductive PortMode where
  | pcie | cxl | bridge
  deriving DecidableEq, Repr

/-- The mode PORTCFG gives port n, if it is not down: a root port is one port 4p, or four subports that are no bridges. -/
def State.portMode (s : State) (n : Nat) : Option PortMode :=
  let cfg := (s.portCfgOf (n / 4)).toNat
  match bitsAt cfg 2 2 with
  | 0 =>
    if n % 4 ≠ 0 then none
    else match bitsAt cfg 4 2 with
      | 0 => some .pcie
      | 1 => some .cxl
      | 2 => some .bridge
      | _ => none
  | 1 =>
    match bitsAt cfg (8 + 2 * (n % 4)) 2 with
    | 0 => some .pcie
    | 1 => some .cxl
    | _ => none
  | _ => none

/-- Whether port n runs, as its root port's PORTCFG and PORTSPD say, and its link has not gone down (R359, R378); in recovery every port is
down (R376). -/
def State.portUp (s : State) (n : Nat) : Bool :=
  let speed := bitsAt (s.portSpdOf (n / 4)).toNat 28 4
  s.booted && decide (1 ≤ speed ∧ speed ≤ 7) && !s.portDown.contains n && (s.portMode n).isSome

/-- Port n runs in mode m. -/
def State.runsAs (s : State) (n : Nat) (m : PortMode) : Bool := s.portUp n && decide (s.portMode n = some m)

/-! ### CXL memory and bridges (R361, R362) -/

/-- The range of an address in a set of decoders. -/
def decoderOf (ds : SMap Decoder) (pa : Nat) : Option Decoder :=
  (ds.map (·.2)).find? (fun d => decide (d.base ≤ pa ∧ pa < d.base + d.size))

/-- The port that owns an address of the endpoint window: by a bridge window, a BAR that firmware has assigned anew, or the assignment at
boot (R362, R372, R378). -/
def State.portOf (s : State) (key : Nat) : Nat :=
  let pa := key % 4503599627370496
  match decoderOf s.bridges pa, decoderOf s.bars pa with
  | some d, _ => d.port
  | none, some d => d.port
  | none, none => Config.portOf key % 16

/-- An address of the CXL window to which no HDM decoder and port in CXL mode lead (log 58). -/
def State.cxlLost (s : State) (key : Nat) : Bool :=
  if key / 4503599627370496 = 2 ∧ destOf key = .memory then
    match decoderOf s.hdm (key % 4503599627370496) with
    | some d => !s.runsAs d.port .cxl
    | none => true
  else false

/-- A request to the endpoint window: through a bridge window it goes to the peer's address, else to an endpoint (R362, R364). -/
def State.endpointMsg (s : State) (write : Bool) (key : Nat) (tag : Nat) (data : List Byte) : OutMsg :=
  let pa := key % 4503599627370496
  match decoderOf s.bridges pa with
  | some d =>
    if s.runsAs d.port .bridge then
      { kind := if write then .bridgeWrite else .bridgeRead, dest := d.peer + (pa - d.base), tag := tag, data := data }
    else { kind := if write then .endpointWrite else .endpointRead, dest := key, tag := tag, data := data }
  | none => { kind := if write then .endpointWrite else .endpointRead, dest := key, tag := tag, data := data }


/-! ### A write reaches its home (R204, R215, R364) -/

/-- Who writes: its context, and for an endpoint its RID and PASID. -/
structure Writer where
  ctx : Nat := 0
  rid : Nat := 0
  pasid : Nat := 0

/-- Bytes of one element arrive at their home: memory, a device register, or another package. -/
def State.writeHome (s : State) (w : Writer) (owner : BitVec 8) (key : Nat) (bs : List Byte) : State :=
  match destOf key with
  | .memory => s.setPhys owner key bs
  | .endpoint => s.send (s.endpointMsg true key 0 bs)
  | .remote => let (n, s) := s.newId; s.linkSend { kind := .remoteWrite, dest := key, tag := n, data := bs }
  | .kick off =>
    if (bs.length = 4 ∨ bs.length = 8) ∧ off % 65536 = 0 then s.kickIdx (off / 65536)
    else s.logIo { rid := w.rid, pasid := w.pasid, addr := key % 4503599627370496, reason := .kickSize }
  | .event off =>
    if off < 4096 ∧ off % 16 = 0 then s.postEvent (off / 16) (.context w.ctx)
    else s.logIo { rid := w.rid, pasid := w.pasid, addr := key % 4503599627370496, reason := .windowUnused }
  | .nowhere => s

/-- Another package has still to acknowledge a write of an entry, a copy or a collective (R215). -/
def State.owes (s : State) (id : Nat) : Bool := s.asks.any (fun e => e.2 = .written id)

/-- A write of a context's group, or of the part itself. -/
def State.homeWrite (s : State) (ctx : Nat) (owner : BitVec 8) (key : Nat) (bs : List Byte) : State := s.writeHome { ctx := ctx } owner key bs

/-- A write whose acknowledgement its entry, copy or collective waits for, where it goes to another package (R215). -/
def State.ownWrite (s : State) (id ctx : Nat) (owner : BitVec 8) (key : Nat) (bs : List Byte) : State :=
  if destOf key = .remote then s.linkAsk (.written id) { kind := .remoteWrite, dest := key, data := bs } else s.homeWrite ctx owner key bs

end Sys2Proof.Machine
end

