-- ==== Sys2Proof/Machine/Perform.lean ====
section
/-! DEFINITION. Performing split-phase operations: which element may be performed (R216, R288), what a load, a store and an
atomic do at the memory (R204, R213 to R219, R226, R266 to R268), and the store buffer. -/

namespace Sys2Proof.Machine

/-! ### Completion (R213) -/

/-- The counter goes down: the group's own, wherever its state lies (R213, R240). `id` tells whether a continuation point's
snapshot counts the operation. A counter with an uncorrectable error raises the fault for scalar state, with its record (R154, R344). -/
def State.countDown (s : State) (k n id : Nat) : State :=
  let s := match s.group? k with
    | some g => if g.rcd.isNone && g.aBad.contains n then s.groupError k g 0 0 6 127 false else s
    | none => s
  (s.modGroup k (fun g =>
    let dec (m : SMap Nat) : SMap Nat := m.setD n (m.getD n 0 - 1) 0
    let g := if g.rcd.isSome then g
      else if g.aBad.contains n then { g with scalarErr := some { cause := 0x0A, pc := g.pc } }
      else (g.decA n).noteWait s.cycle (g.singleStep && s.armed k)
    let old := decide (id < g.cont.mark)
    { g with
      cont := if old then { g.cont with a := dec g.cont.a } else g.cont,
      a := if g.rcd.isSome && old then dec g.a else g.a,
      rcd := if old then g.rcd.map (fun r => { r with acnt := dec r.acnt }) else g.rcd })).saveRecord k

/-- An operation whose elements are all performed and whose data have arrived completes (R213, R215). A load that was marked
urgent makes its group urgent (R228, R330). -/
def State.finishOp (s : State) (id : Nat) : State :=
  match s.ops.find? id with
  | none => s
  | some o =>
    if o.elems.all (fun e => e.performed && e.todo.isEmpty) then
      let s := { s with ops := s.ops.erase id }
      if o.abandoned then s
      else
        let s := s.countDown o.group o.counter id
        if s.urgentLoads.contains id then s.modGroup o.group (fun g => { g with urgent := true }) else s
    else s

/-- Put an element back into its operation. -/
def State.setElem (s : State) (id : Nat) (o : Op) (j : Nat) (e : Elem) : State :=
  { s with ops := s.ops.insert id { o with elems := o.elems.set j e } }

/-! ### Stacks (R235, R394) -/

/-- The stack of a physical key, if it lies in HBM (log 14). -/
def stackOf (key : Nat) : Option Nat :=
  if key < 4503599627370496 then some ((Config.hbmPlace key).1 / 65536 % 8) else none

/-- The stack of a key. -/
def State.stackAt (s : State) (key : Nat) : StackSt :=
  if s.hbmStacks.isEmpty then {} else match stackOf key with
    | some n => s.hbmStacks.getD n {}
    | none => {}

/-- The stack of a key holds its requests in self-refresh. -/
def State.stackHeld (s : State) (key : Nat) : Bool := (s.stackAt key).selfRefresh

/-- No memory answers behind a key: its stack is out of service (R236), or it is CXL memory that is not decoded (R361, log 58). -/
def State.stackLost (s : State) (key : Nat) : Bool := (s.stackAt key).oos || s.cxlLost key

/-- The number of an operation, copy, collective or store-buffer entry that still exists. -/
def State.alive (s : State) (id : Nat) : Bool :=
  (s.ops.find? id).isSome || (s.copies.find? id).isSome || (s.colls.find? id).isSome ||
  s.cores.any (fun c => c.2.storeBuf.any (fun l => l.id = id))

/-- The requests that wait in the base die of a key's stack. -/
def State.heldAt (s : State) (key : Nat) : List (Nat × Nat) := (s.stackAt key).held.filter (fun r => s.alive r.1)

/-- The stack of a key performs this request now: it is out of self-refresh, and no request that came before waits (R235). -/
def State.stackServes (s : State) (id key : Nat) : Bool :=
  !s.stackHeld key && ((s.heldAt key).isEmpty || (s.heldAt key).head? = some (id, key))

/-- A request may go to its stack: it is performed, or it has not yet come to wait there. -/
def State.stackTakes (s : State) (id key : Nat) : Bool := s.stackServes id key || !(s.heldAt key).contains (id, key)

/-- Change the requests that wait at the stack of a key. -/
def State.setHeld (s : State) (key : Nat) (held : List (Nat × Nat)) : State :=
  match stackOf key with
  | some n => { s with hbmStacks := s.hbmStacks.setD n { s.stackAt key with held := held } {} }
  | none => s

/-- A request comes to wait at its stack, behind the others, with the key slot that it carries (R384). -/
def State.stackArrive (s : State) (id key : Nat) : State :=
  match stackOf key with
  | some n =>
    let x := s.stackAt key
    { s with hbmStacks := s.hbmStacks.setD n { x with
        held := s.heldAt key ++ [(id, key)], heldSlots := (id, key, x.slot) :: x.heldSlots.filter (fun r => (s.heldAt key).contains (r.1, r.2.1)) } {} }
  | none => s

/-- A request that waited is served. -/
def State.stackLeave (s : State) (id key : Nat) : State :=
  if (s.heldAt key).isEmpty then s else s.setHeld key ((s.heldAt key).filter (· ≠ (id, key)))

/-- A request reaches its stack: it waits there, or is served by `serve`. -/
def State.atStack (s : State) (id key : Nat) (serve : State → State) : State :=
  if s.stackServes id key then serve (s.stackLeave id key) else s.stackArrive id key

/-! ### The store buffer (R204) -/

/-- The bytes of an entry as runs of successive bytes. -/
def byteRuns : SMap Byte → List (Nat × List Byte)
  | [] => []
  | (k, b) :: rest =>
    match byteRuns rest with
    | (k', bs) :: rs => if k' = k + 1 then (k, b :: bs) :: rs else (k, [b]) :: (k', bs) :: rs
    | [] => [(k, [b])]

/-- Elements of an operation that stood in an entry have been written at their home. -/
def Op.home (o : Op) (l : BufLine) : Op :=
  { o with elems := o.elems.map (fun e =>
      match e.entered with
      | some key => if key / 64 = l.line && (l.bytes.find? (key % 64)).isSome then { e with performed := true } else e
      | none => e) }

/-- The operations whose stores an entry held see them written, and complete where those were the last (R215). -/
def State.entryHome (s : State) (l : BufLine) : State :=
  l.ops.foldl (fun s id =>
    match s.ops.find? id with
    | some o => ({ s with ops := s.ops.insert id (o.home l) }).finishOp id
    | none => s) s

/-- Write the oldest entry of a line to its home and free it; where the stack is lost its bytes are dropped and logged (R394). One for
another package is written when that acknowledges it (R215). -/
def State.writeback (s : State) (core line : Nat) : State :=
  let c := s.core core
  match c.storeBuf.find? (fun l => l.line = line) with
  | none => s
  | some l =>
    let c := { c with storeBuf := c.storeBuf.filter (fun x => x.id ≠ l.id) }
    if destOf (line * 64) = .remote then
      (byteRuns l.bytes).foldl (fun s r => s.ownWrite l.id 0 l.owner (line * 64 + r.1) r.2) (s.setCore core { c with away := c.away ++ [l] })
    else
    let s := s.setCore core c
    (if s.stackLost (line * 64) then s.errorRec core 0 0 0 0 0 0 2 127 false
     else (byteRuns l.bytes).foldl (fun s r => s.homeWrite 0 l.owner (line * 64 + r.1) r.2) s).entryHome l

/-- Whether a line has an entry that a store may merge into, or a free one is left: stores to the endpoint window never merge (R364). -/
def State.bufferRoom (s : State) (core line : Nat) : Bool :=
  let b := (s.core core).storeBuf
  decide (b.length < 32) || (destOf (line * 64) ≠ .endpoint && b.any (fun l => l.line = line))

/-- Bytes merged into an entry. -/
def mergeBytes (m : SMap Byte) (off : Nat) : List Byte → SMap Byte
  | [] => m
  | b :: bs => mergeBytes (m.insert off b) (off + 1) bs

/-- Bytes of operation `id` at the address `va` of a context enter the store buffer; `un` where their page is UN. An element for the
endpoint window is an entry of its own: it is sent as one request (R364). -/
def State.bufferStore (s : State) (core id group ctx va : Nat) (un : Bool) (owner : BitVec 8) (key : Nat) (bs : List Byte) : State :=
  let c := s.core core
  let line := key / 64
  match (if destOf key = .endpoint then none else c.storeBuf.find? (fun l => l.line = line)) with
  | some _ =>
    let merge (l : BufLine) : BufLine :=
      { l with owner := owner, bytes := mergeBytes l.bytes (key % 64) bs, ops := id :: l.ops, groups := group :: l.groups.erase group,
               un := l.un && un, pages := (ctx, va / 65536) :: l.pages.erase (ctx, va / 65536) }
    s.setCore core { c with storeBuf := c.storeBuf.map (fun l => if l.line = line then merge l else l) }
  | none =>
    let (n, s) := s.newId
    s.setCore core { c with storeBuf := c.storeBuf ++ [⟨n, line, owner, mergeBytes [] (key % 64) bs, [id], [group], un, [(ctx, va / 65536)]⟩] }

/-! ### Locations and order (R216, R288) -/

def OpKind.need : OpKind → Need
  | .load => .load
  | .store => .store
  | .atomic _ _ => .atomic

/-- The physical key and leaf of a G element: by the translation checked before Commit() where there is one (R266). -/
def State.elemReach (s : State) (o : Op) (e : Elem) : Except (Nat × Nat) (Nat × Pte) :=
  match e.leaf with
  | some raw => .ok (physKey (Pte.tier ⟨raw⟩) (Pte.addr ⟨raw⟩ + e.addr.toNat % 65536), ⟨raw⟩)
  | none => s.translate o.core o.ctx e.addr.toNat o.kind.need

/-- Where an element lies: scratchpad or not, key, and page kind. -/
def State.locOf (s : State) (o : Op) (e : Elem) : Except (Nat × Nat) (Bool × Nat × Nat) :=
  match o.space with
  | .g =>
    match s.elemReach o e with
    | .error x => .error x
    | .ok (key, p) => .ok (false, key, p.kind)
  | _ => .ok (true, spadKey (sCore e.addr.toNat) (sOff e.addr.toNat), 0)

/-- Two elements name a common byte, and neither lies on a UN page. -/
def State.clash (s : State) (o : Op) (e : Elem) (o' : Op) (e' : Elem) : Bool :=
  match s.locOf o e, s.locOf o' e' with
  | .ok (a, k, t), .ok (a', k', t') =>
    a == a' && t ≠ 2 && t' ≠ 2 && decide (k < k' + e'.n ∧ k' < k + e.n)
  | _, _ => false

/-- Two elements of one operation name a common 4-byte word (R225, R267). -/
def State.sameWord (s : State) (o : Op) (e e' : Elem) : Bool :=
  match s.locOf o e, s.locOf o e' with
  | .ok (_, k, _), .ok (_, k', _) => decide (k / 4 ≤ (k' + e'.n - 1) / 4 ∧ k' / 4 ≤ (k + e.n - 1) / 4)
  | _, _ => false

/-- Both elements lie on SO pages. -/
def State.bothSO (s : State) (o : Op) (e : Elem) (o' : Op) (e' : Elem) : Bool :=
  match s.locOf o e, s.locOf o' e' with
  | .ok (_, _, t), .ok (_, _, t') => t = 1 ∧ t' = 1
  | _, _ => false

/-- An element that holds back no other: performed, or a store's in the buffer. -/
def Elem.through (e : Elem) : Bool := e.performed || e.entered.isSome

/-- An earlier lane of an operation goes first: a G store's elements enter the buffer in lane order (R204), lanes that write one word
of scratchpad or name one element of an atomic go in lane order, whatever the page (R216, R225, R267), as do lanes on SO pages (R288). -/
def State.laneFirst (s : State) (o : Op) (e e' : Elem) : Bool :=
  match o.kind with
  | .load => s.bothSO o e o e'
  | .store => decide (o.space = .g) || s.sameWord o e e'
  | .atomic _ _ => s.bothSO o e o e' || s.sameWord o e e'

/-- Element j of operation `id` must wait for an earlier access of its group (R216), or for an earlier lane. -/
def State.blocked (s : State) (id : Nat) (o : Op) (j : Nat) (e : Elem) : Bool :=
  s.ops.any (fun x => decide (x.1 < id) && x.2.group = o.group &&
    x.2.elems.any (fun e' => !e'.through && (s.clash o e x.2 e' || s.bothSO o e x.2 e'))) ||
  (o.elems.take j).any (fun e' => !e'.through && s.laneFirst o e e')

/-- An S element on another core than the one that issued it (R226). -/
def Op.remote (o : Op) (e : Elem) : Bool := o.space ≠ .g && decide (sCore e.addr.toNat ≠ o.core)

/-- Whether an element of a store goes through the store buffer: all but one on an SO page (R204, R288). -/
def buffered (kind : Nat) : Bool := kind ≠ 1

/-- Whether a store is performed as its element enters the buffer: a plain or narrow one (R215, R290). -/
def Op.atEntry (o : Op) (kind : Nat) : Bool := kind = 2 || Scope.narrow o.scope

/-- Whether element j of an operation can take its next step now, locally or at a remote bank unit. -/
def State.canPerform (s : State) (id : Nat) (o : Op) (remote : Bool) (j : Nat) (e : Elem) : Bool :=
  !e.through && !e.sent && !o.faulted && (Op.remote o e == remote) && !s.blocked id o j e &&
  match s.locOf o e with
  | .error _ => true
  | .ok (true, _, _) => true
  | .ok (false, key, kind) =>
    if o.kind = .store && buffered kind then s.bufferRoom o.core (key / 64) else s.stackTakes id key

/-! ### Atomics (R265) -/

/-- The new value of an element of `n` bits, or nothing where no write is made. -/
def atomicValue (op : AtomOp) (n old c d : Nat) : Option Nat :=
  let si (x : Nat) : Int := if x < 2 ^ (n - 1) then x else (x : Int) - 2 ^ n
  match op with
  | .add => some ((old + c) % 2 ^ n)
  | .min => some (if si old ≤ si c then old else c)
  | .max => some (if si old ≤ si c then c else old)
  | .minu => some (min old c)
  | .maxu => some (max old c)
  | .and => some ((BitVec.ofNat 64 old &&& BitVec.ofNat 64 c).toNat)
  | .or => some ((BitVec.ofNat 64 old ||| BitVec.ofNat 64 c).toNat)
  | .xor => some ((BitVec.ofNat 64 old ^^^ BitVec.ofNat 64 c).toNat)
  | .xchg => some c
  | .cas => if old = d then some c else none
  | .incw => some (if c ≤ old then 0 else old + 1)
  | .fadd => some (fAdd fp32 .rne (fp32.decode old) (fp32.decode c)).1

/-! ### Effects on the issuing group -/

/-- Note the first fault that the part finds in an access after issue (R218, R232, R343). -/
def State.noteFault (s : State) (id : Nat) (o : Op) (e : Elem) (cause detail : Nat) : State :=
  let s := { s with ops := s.ops.insert id { o with faulted := true } }
  if o.abandoned then { s with ops := s.ops.erase id }
  else s.modGroup o.group (fun g =>
    if g.asyncFault.isSome then g
    else { g with asyncFault := some { cause := cause, detail := detail, lane := e.lane, addr := e.addr, pc := o.pc } })

/-- SOURCE of an error record by space (R344). -/
def errSource (o : Op) (e : Elem) : Nat :=
  match o.space with
  | .g => 2
  | _ => if Op.remote o e then 3 else 1

/-- The value of register word w of an element as its SIZE states (R209). -/
def loadWord (size : Size) (got : List Byte) (w : Nat) : Word :=
  match size with
  | .u8 | .u16 => BitVec.ofNat 32 (leNat got)
  | .i8 => (BitVec.ofNat 8 (leNat got)).signExtend 32
  | .i16 => (BitVec.ofNat 16 (leNat got)).signExtend 32
  | _ => BitVec.ofNat 32 (leNat ((got.drop (4 * w)).take 4))

/-- Deliver data marked uncorrectable: the lane dies and its registers are 0; a scalar destination raises the system fault
for scalar state (R219, R268). -/
def State.deliverBad (s : State) (o : Op) (e : Elem) : State :=
  match s.group? o.group with
  | none => s
  | some g =>
    if o.vec then
      if !g.live e.lane then s
      else
        let s := s.groupError o.group { g with pc := o.pc } e.addr 0 (errSource o e) e.lane true
        s.setGroup o.group ((List.range (Size.regs o.size)).foldl (fun g i => g.wv (o.reg + i) e.lane 0) (g.kill e.lane))
    else
      let s := s.groupError o.group { g with pc := o.pc } e.addr 0 (errSource o e) 127 false
      s.setGroup o.group { g with scalarErr := some { cause := 0x0A, pc := o.pc, addr := e.addr } }

/-- Deliver one register word of an element (R213, R214): a dead lane is never written (R156). -/
def State.deliverWord (s : State) (o : Op) (e : Elem) (w : Nat) : State :=
  s.modGroup o.group (fun g =>
    let x := loadWord o.size e.got w
    if o.vec then (if g.live e.lane then g.wv (o.reg + e.off + w) e.lane x else g) else g.ws (o.reg + e.off + w) x)

/-- One word of an element's data arrives. -/
def State.deliver (s : State) (id : Nat) (o : Op) (j w : Nat) (e : Elem) : State :=
  let e' := { e with todo := if e.bad then [] else e.todo.filter (· ≠ w) }
  let s := if o.abandoned then s else if e.bad then s.deliverBad o e else s.deliverWord o e w
  (s.setElem id o j e').finishOp id

/-! ### Performing one element -/

/-- A remote bank unit's checks (R205, R226): the member team of the bearer's ticket holds every byte. -/
def State.bankRefuses (s : State) (o : Op) (e : Elem) : Option (Nat × Nat) :=
  if !Op.remote o e then none
  else match s.memberOn o.group (sCore e.addr.toNat) with
    | none => some (9, 1)
    | some t => if (s.teamAt t).holds (sOff e.addr.toNat) e.n then none else some (8, 0)

/-- A read of memory meets data marked uncorrectable that the core's store buffer does not cover, or a place where none answers
(R204, R219, R394). -/
def State.markedAt (s : State) (core key n : Nat) : Bool :=
  (List.range n).any (fun i => s.physBad.contains (key + i) && (s.bufByte core (key + i)).isNone) || s.stackLost key

/-- Read a G load's element at its home, or in the store buffer; an endpoint and another package are asked (R257, R364). -/
def State.readElem (s : State) (id : Nat) (o : Op) (j : Nat) (e : Elem) (key : Nat) (p : Pte) : State :=
  if destOf key = .endpoint then
    (s.setElem id o j { e with sent := true }).send (s.endpointMsg false key id (leBytes 1 e.n))
  else if destOf key = .remote then
    (s.setElem id o j { e with sent := true }).linkAsk (.elem id j ((List.range e.n).map (fun i => s.bufByte o.core (key + i))))
      { kind := .remoteRead, dest := key, data := leBytes 1 e.n }
  else
    let got := (List.range e.n).map (fun i => s.coreByte o.core p.owner (key + i))
    (s.setElem id o j { e with performed := true, got := got, bad := s.markedAt o.core key e.n }).finishOp id

/-- Perform a load's element. -/
def State.performLoad (s : State) (id : Nat) (o : Op) (j : Nat) (e : Elem) : State :=
  match o.space with
  | .g =>
    match s.elemReach o e with
    | .error (c, d) => s.noteFault id o e c d
    | .ok (key, p) => (s.noteLeaf o.core o.ctx e.addr.toNat p).atStack id key (fun s => s.readElem id o j e key p)
  | _ =>
    match s.bankRefuses o e with
    | some (c, d) => s.noteFault id o e c d
    | none =>
      let key := spadKey (sCore e.addr.toNat) (sOff e.addr.toNat)
      (s.setElem id o j { e with performed := true, got := s.getSpad key e.n, bad := s.spadMarked key e.n }).finishOp id

/-- A G store's element enters the store buffer, or on an SO page goes to its home (R204, R215, R288); another package acknowledges it. One
to a UN page of the endpoint window is performed as it enters, by R215, or when its request is sent, by R364: either (log 61). -/
def State.writeElem (s : State) (id : Nat) (o : Op) (j : Nat) (e : Elem) (key : Nat) (p : Pte) : State :=
  if s.stackLost key then
    ((s.opError o.core o.group o.pc e.addr 2 127 false).setElem id o j { e with performed := true }).finishOp id
  else if buffered p.kind then
    let (early, s) := if destOf key = .endpoint then s.freeBool else (true, s)
    ((s.bufferStore o.core id o.group o.ctx e.addr.toNat p.isUN p.owner key e.data).setElem id o j
      { e with entered := some key, performed := early && o.atEntry p.kind }).finishOp id
  else if destOf key = .remote then
    ((s.writeback o.core (key / 64)).setElem id o j { e with sent := true }).linkAsk (.elem id j []) { kind := .remoteWrite, dest := key, data := e.data }
  else s.atStack id key (fun s =>
    (((s.writeback o.core (key / 64)).homeWrite o.ctx p.owner key e.data).setElem id o j { e with performed := true }).finishOp id)

/-- Perform a store's element. -/
def State.performStore (s : State) (id : Nat) (o : Op) (j : Nat) (e : Elem) : State :=
  match o.space with
  | .g =>
    match s.elemReach o e with
    | .error (c, d) => s.noteFault id o e c d
    | .ok (key, p) => (s.noteLeaf o.core o.ctx e.addr.toNat p).writeElem id o j e key p
  | _ =>
    match s.bankRefuses o e with
    | some (c, d) => s.noteFault id o e c d
    | none =>
      let key := spadKey (sCore e.addr.toNat) (sOff e.addr.toNat)
      ((s.storeSpad key e.data).setElem id o j { e with performed := true }).finishOp id

/-- The unit's answer to an atomic's element. Where no value returns, a mark still makes its error record, and in the S form the
system fault for scalar state (R268). -/
def State.atomReply (s : State) (id : Nat) (o : Op) (j : Nat) (e : Elem) (ret : Bool) (old : List Byte) (bad : Bool) : State :=
  let s :=
    if bad && !ret then
      let s := s.opError o.core o.group o.pc e.addr (errSource o e) e.lane false
      if o.vec || o.abandoned then s
      else s.modGroup o.group (fun g => { g with scalarErr := some { cause := 0x0A, pc := o.pc, addr := e.addr } })
    else s
  (s.setElem id o j { e with performed := true, got := old, bad := bad, todo := if ret then e.todo else [] }).finishOp id

/-- An atomic's element at its G home (R266 to R268). -/
def State.atomHome (s : State) (id : Nat) (o : Op) (j : Nat) (e : Elem) (op : AtomOp) (ret : Bool) (key : Nat) (p : Pte) : State :=
  let s := s.writeback o.core (key / 64)
  let old := s.getPhys p.owner key e.n
  if destOf key = .remote then
    (s.setElem id o j { e with sent := true }).linkAsk (.elem id j [])
      { kind := .remoteAtomic, dest := key, data := leBytes 1 (AtomOp.bits op) ++ leBytes 1 e.n ++ e.data ++ e.cmp }
  else if destOf key ≠ .memory then (s.send { kind := .remoteAtomic, dest := key, data := e.data }).atomReply id o j e ret old false
  else if (List.range e.n).any (fun i => s.physBad.contains (key + i)) || s.stackLost key then s.atomReply id o j e ret old true
  else match atomicValue op (8 * e.n) (leNat old) (leNat e.data) (leNat e.cmp) with
    | none => s.atomReply id o j e ret old false
    | some v => (s.setPhys p.owner key (leBytes e.n v)).atomReply id o j e ret old false

/-- Perform an atomic's element indivisibly at its unit (R266 to R268). -/
def State.performAtomic (s : State) (id : Nat) (o : Op) (j : Nat) (e : Elem) (op : AtomOp) (ret : Bool) : State :=
  match o.space with
  | .g =>
    match s.elemReach o e with
    | .error (c, d) => s.noteFault id o e c d
    | .ok (key, p) => s.atStack id key (fun s => s.atomHome id o j e op ret key p)
  | _ =>
    let key := spadKey (sCore e.addr.toNat) (sOff e.addr.toNat)
    let old := s.getSpad key e.n
    if (s.bankRefuses o e).isSome || s.spadMarked key e.n then s.atomReply id o j e ret old true
    else match atomicValue op (8 * e.n) (leNat old) (leNat e.data) (leNat e.cmp) with
      | none => s.atomReply id o j e ret old false
      | some v => (s.storeSpad key (leBytes e.n v)).atomReply id o j e ret old false

/-- The memory system has accepted a request: it waits at its stack (R218, R235). -/
def State.accepted (s : State) (id : Nat) (o : Op) (e : Elem) : Bool :=
  match s.locOf o e with
  | .ok (false, key, _) => (s.heldAt key).contains (id, key)
  | _ => false

/-- Perform one element of an operation. A store of a discarded group that has not been accepted may be dropped (R218). -/
def State.performElem (s : State) (id : Nat) (o : Op) (j : Nat) (e : Elem) : State :=
  match o.kind with
  | .load => s.performLoad id o j e
  | .atomic op ret => s.performAtomic id o j e op ret
  | .store =>
    if o.abandoned && !s.accepted id o e then
      let (keep, s) := s.freeBool
      if keep then s.performStore id o j e else (s.setElem id o j { e with performed := true }).finishOp id
    else s.performStore id o j e

/-! ### Steps of an operation -/

/-- Elements that can be performed, by their places. -/
def State.readyElems (s : State) (id : Nat) (o : Op) (remote : Bool) : List (Nat × Elem) :=
  ((List.range o.elems.length).zip o.elems).filter (fun x => s.canPerform id o remote x.1 x.2)

/-- Register words that can arrive: place, word, element. -/
def readyWords (o : Op) : List (Nat × Nat × Elem) :=
  ((List.range o.elems.length).zip o.elems).flatMap (fun x =>
    if x.2.performed then x.2.todo.map (fun w => (x.1, w, x.2)) else [])

/-- One step of an operation: an element is performed or a word arrives, whichever (R213, R214). -/
def State.opStep (s : State) (id : Nat) (o : Op) (remote deliver : Bool) : State :=
  let perf := (s.readyElems id o remote).map (fun x => (x.1, none, x.2))
  let words := if deliver then (readyWords o).map (fun x => (x.1, some x.2.1, x.2.2)) else []
  match s.choose (perf ++ words) with
  | none => s
  | some ((j, none, e), s) => s.performElem id o j e
  | some ((j, some w, e), s) => s.deliver id o j w e

/-- Steps of memory operations that the state admits. -/
def State.memEvents (s : State) : List Instr :=
  s.ops.flatMap (fun e =>
    (match e.2.kind with
      | .load => [.loadComplete e.1]
      | .store => [.storeComplete e.1]
      | .atomic _ _ => [.atomicPerform e.1]) ++
    (if e.2.elems.any (fun x => Op.remote e.2 x && !x.performed) then [.remoteSAccess e.1] else [])) ++
  s.cores.flatMap (fun c => (c.2.storeBuf.filter (fun l => s.stackTakes l.id (l.line * 64))).map (fun l =>
    .storeBufferWriteback c.1 l.line)) ++
  s.groups.filterMap (fun g => if g.2.asyncFault.isSome then some (.asyncFault g.1) else none)

/-- One step of a load: data are read, or a word reaches its register; with the last one the counter goes down (R213, R214).
A load of a discarded group does nothing more (R218). -/
def execLoadComplete (op : Nat) (s : State) : Host.Outcome State Fault Refusal :=
  match s.ops.find? op with
  | none => .next s
  | some o =>
    if o.kind ≠ .load then .next s
    else if o.abandoned then .next { s with ops := s.ops.erase op }
    else .next (s.opStep op o false true)

/-- One step of a store: an element is performed at its scope; with the last one the counter goes down (R213, R215). -/
def execStoreComplete (op : Nat) (s : State) : Host.Outcome State Fault Refusal :=
  match s.ops.find? op with
  | none => .next s
  | some o => if o.kind = .store then .next (s.opStep op o false false) else .next s

/-- A store-buffer entry reaches its home (R204). -/
def execStoreBufferWriteback (core line : Nat) (s : State) : Host.Outcome State Fault Refusal :=
  match (s.core core).storeBuf.find? (fun l => l.line = line) with
  | none => .next s
  | some l => .next (s.atStack l.id (line * 64) (fun s => s.writeback core line))

/-- A remote S access reaches the owning bank unit (R226). -/
def execRemoteSAccess (op : Nat) (s : State) : Host.Outcome State Fault Refusal :=
  match s.ops.find? op with
  | none => .next s
  | some o => .next (s.opStep op o true false)

/-- One lane of an atomic is performed, or a reply arrives (R266, R267). -/
def execAtomicPerform (op : Nat) (s : State) : Host.Outcome State Fault Refusal :=
  match s.ops.find? op with
  | none => .next s
  | some o =>
    match o.kind with
    | .atomic _ _ => .next (s.opStep op o false true)
    | _ => .next s

end Sys2Proof.Machine
end

