-- ==== Sys2Proof/Machine/Atomic.lean ====
section
/-! DEFINITION. ATOM (R263 to R268). -/

namespace Sys2Proof.Machine

/-- A 64-bit per-lane source: a v-register pair, an s-register pair, a constant or LIT (R263). -/
def State.laneSrc64 (s : State) (k : Nat) (g : Group) (x : Ext) (o : Operand) (lane : Nat) : DWord :=
  match o with
  | .v n => pair (g.rv n.toNat lane) (g.rv (n.toNat + 1) lane)
  | o => s.uni64 k g x o

/-- The bytes of ATOM's operand for a lane (R263, R265). -/
def State.atomData (s : State) (k : Nat) (g : Group) (f : AtomF) (L : Nat) : List Byte :=
  let x : Ext := ⟨0, f.l⟩
  if f.w64 then leBytes 8 (s.laneSrc64 k g x f.c L).toNat
  else leBytes 4 (s.laneSrc k g (if f.op = .fadd then .flt fp32 else .int) x f.c L).toNat

/-- The bytes of CAS's compare value for a lane, read from D (R263). -/
def Group.atomCmp (g : Group) (f : AtomF) (L : Nat) : List Byte :=
  let n := if f.w64 then 8 else 4
  if f.op ≠ .cas then [] else if f.scalar then g.sBytes (regNo f.d) n else g.vBytes (regNo f.d) L n

/-- The element address of a lane (R266). -/
def State.atomAddr (s : State) (k : Nat) (g : Group) (f : AtomF) (L : Nat) : Int :=
  let x : Ext := ⟨0, f.l⟩
  let idx := if f.scalar then s.uni32 k g x f.b else s.laneSrc k g .int x f.b L
  formAddr f.space (s.accBase k g f.space x f.a) (idx.toInt * (if f.w64 then 8 else 4))

/-- The translation of every G element before Commit() (R266): P and W, and memory behind it (R364). -/
def State.atomTranslate (s : State) (k : Nat) (g : Group) (sp : Space) (els : List (Nat × Int)) : Option FaultInfo :=
  if sp ≠ .g then none
  else els.findSome? (fun e =>
    let f (c d : Nat) : Option FaultInfo :=
      some { cause := c, detail := d, lane := e.1, addr := BitVec.ofInt 64 e.2, pc := g.pc }
    match s.translate g.core (s.ctxOf k) e.2.toNat .atomic with
    | .error (c, d) => f c d
    | .ok (key, _) => if destOf key = .memory ∨ destOf key = .remote then none else f 8 0)

/-- The leaves that an atomic's translations found go with its elements (R266). -/
def State.atomLeaf (s : State) (k : Nat) (g : Group) (sp : Space) (a : Int) : Option DWord :=
  if sp ≠ .g then none
  else match s.translate g.core (s.ctxOf k) a.toNat .atomic with
    | .ok (_, p) => some p.raw
    | .error _ => none

/-- R266. -/
def execAtom (f : AtomF) (s : State) : Host.Outcome State Fault Refusal :=
  s.run (.atom f) (fun k g =>
    let i : Instr := .atom f
    let n := if f.w64 then 8 else 4
    let regs := if f.scalar then [] else
      vReg? f.b ++ (vReg? f.c).flatMap (fun r => if f.w64 then [r, r + 1] else [r]) ++
      (if f.op = .cas then (vReg? f.d).flatMap (fun r => if f.w64 then [r, r + 1] else [r]) else [])
    let dying := g.dying regs
    let dest := if f.ret && !f.scalar then (List.range (n / 4)).map (fun j => regNo f.d + j) else []
    let els : List (Nat × Int) :=
      if f.scalar then [(127, s.atomAddr k g f 0)]
      else (g.lanes.filter (fun L => !dying.contains L)).map (fun L => (L, s.atomAddr k g f L))
    match s.accessFaultWith k g true f.space n n els with
    | some x => s.systemFault k g x
    | none =>
      if s.outstanding k then s.wait k g
      else match s.accessHold k g f.space (f.ord = .rel || f.ord = .ar) f.scope els with
        | some g' => s.wait k g'
        | none =>
          match s.atomTranslate k g f.space els with
          | some x => s.systemFault k g x
          | none =>
            if s.portFull f.space then s.wait k g else
            let (s, g) := s.lanesDie k g regs dying dest
            if els.isEmpty then s.commitDone k g i
            else
              let o : Op :=
                { group := k, ctx := s.ctxOf k, core := g.core, kind := .atomic f.op f.ret, space := f.space,
                  scope := f.scope, size := if f.w64 then .dw else .w, vec := !f.scalar, reg := regNo f.d,
                  counter := f.n.toNat, pc := g.pc,
                  elems := els.flatMap (fun e =>
                    (pieces n n e.1 (s.opAddr k f.space e.2) f.ret false (s.atomData k g f e.1) (g.atomCmp f e.1)).map (fun x =>
                      { x with leaf := s.atomLeaf k g f.space e.2 })) }
              s.launchOp k { g with pairPending := true } i o
                (s.accessAcq k f.space (f.ord = .acq || f.ord = .ar) els)
                (s.dataHalt k g 0 (s.watched k f.space n true true els)) (if f.scalar then 1 else s.nonEmptyBeats g))

end Sys2Proof.Machine
end

