-- ==== Sys2Proof/Machine/EventBarrier.lean ====
section
/-! DEFINITION. Event barriers: EVW, writes at event targets, and the release of waiters (R280 to R282). -/

namespace Sys2Proof.Machine

/-- The status word of R280. -/
def EventBar.word (b : EventBar) : Word := BitVec.ofNat 32 ((if b.ovf then 2 ^ 16 else 0) + b.count)

/-- The event barrier is bound to the group's context (R281). -/
def State.eventBound (s : State) (k e : Nat) : Bool := (s.event e).ctx = some (s.ctxOf k)

/-- The protection fault of an event barrier that is not bound to the context (R281, R341). -/
def bindingFault (g : Group) : FaultInfo := { cause := 8, detail := 3, pc := g.pc }

/-- R281: waiters are served in the order in which they began to wait. -/
def execEvw (e : BitVec 8) (a : Operand) (l : Lit) (s : State) : Host.Outcome State Fault Refusal :=
  s.run (.evw e a l) (fun k g =>
    let i : Instr := .evw e a l
    let n := (s.uni32 k g ⟨0, l⟩ a).toNat
    let b := s.event e.toNat
    if !s.eventBound k e.toNat then s.systemFault k g (bindingFault g)
    else if 65535 < n then s.systemFault k g { cause := 8, pc := g.pc }
    else if n = 0 then s.commitDone k g i
    else if b.waiters.isEmpty ∧ n ≤ b.count then
      (s.setEvent e.toNat { b with count := b.count - n }).commitDone k g i
    else
      ((s.setEvent e.toNat { b with waiters := b.waiters ++ [(k, n)] }).setGroup k
        { g with hold := .evw e.toNat n (g.after i) }).tick 1)

/-- R281. -/
def execEvwTry (d : Operand) (e : BitVec 8) (a : Operand) (l : Lit) (s : State) : Host.Outcome State Fault Refusal :=
  s.run (.evwTry d e a l) (fun k g =>
    let i : Instr := .evwTry d e a l
    let n := (s.uni32 k g ⟨0, l⟩ a).toNat
    let b := s.event e.toNat
    if !s.eventBound k e.toNat then s.systemFault k g (bindingFault g)
    else if 65535 < n then s.systemFault k g { cause := 8, pc := g.pc }
    else if n = 0 then s.commitDone k (g.ws (regNo d) 1) i
    else if b.waiters.isEmpty ∧ n ≤ b.count then
      (s.setEvent e.toNat { b with count := b.count - n }).commitDone k (g.ws (regNo d) 1) i
    else s.commitDone k (g.ws (regNo d) 0) i)

/-- R281. -/
def execEvwStat (d : Operand) (e : BitVec 8) (l : Lit) (s : State) : Host.Outcome State Fault Refusal :=
  s.run (.evwStat d e l) (fun k g =>
    if !s.eventBound k e.toNat then s.systemFault k g (bindingFault g)
    else s.done k (g.ws (regNo d) (s.event e.toNat).word) (.evwStat d e l) 1)

/-- R281. -/
def execEvwClr (d : Operand) (e : BitVec 8) (l : Lit) (s : State) : Host.Outcome State Fault Refusal :=
  s.run (.evwClr d e l) (fun k g =>
    let b := s.event e.toNat
    if !s.eventBound k e.toNat then s.systemFault k g (bindingFault g)
    else (s.setEvent e.toNat { b with ovf := false }).commitDone k (g.ws (regNo d) b.word) (.evwClr d e l))

/-- A write at the target of an event barrier (R280). -/
def execEventWrite (e : BitVec 8) (src : EventSource) (s : State) : Host.Outcome State Fault Refusal :=
  .next (s.postEvent e.toNat src)

/-- The first waiter of an event barrier goes on once COUNT reaches its k; a yielded record is queued for resumption (R281,
R282, R311). Where its context has lost the binding, a waiter in EVW meets the protection fault, before Commit(), and COUNT stands
(R283); a yielded record is queued for resumption, and COUNT stands (DEDUCED, log 34). -/
def execEvwWaiterRelease (e : BitVec 8) (s : State) : Host.Outcome State Fault Refusal :=
  let b := s.event e.toNat
  match b.waiters with
  | [] => .next s
  | (k, n) :: rest =>
    if !s.eventBound k e.toNat then
      let s := s.setEvent e.toNat { b with waiters := rest }
      match s.group? k with
      | some g =>
        match g.place, g.hold with
        | .resident, .evw _ _ _ => .next (s.systemFault k { g with hold := .waiting } (bindingFault g))
        | .yielded, _ =>
          let (m, s) := s.newId
          .next (s.setGroup k { g with place := .queued, resumeOrder := m })
        | _, _ => .next s
      | none => .next s
    else if b.count < n then .next s
    else
      let s := s.setEvent e.toNat { b with count := b.count - n, waiters := rest }
      match s.group? k with
      | none => .next s
      | some g =>
        match g.place, g.hold with
        | .resident, .evw _ _ next => .next (s.setGroup k { g with hold := .ready, pc := next, pairPending := true })
        | .yielded, _ =>
          let (m, s) := s.newId
          .next (s.setGroup k { g with place := .queued, resumeOrder := m })
        | _, _ => .next s

/-- Event-barrier steps that the state admits. -/
def State.eventEvents (s : State) : List Instr :=
  s.events.filterMap (fun e =>
    match e.2.waiters with
    | (k, n) :: _ => if n ≤ e.2.count ∨ !s.eventBound k e.1 then some (.evwWaiterRelease (BitVec.ofNat 8 e.1)) else none
    | [] => none)

end Sys2Proof.Machine
end

