-- ==== Sys2Proof/Machine/Tasks.lean ====
section
/-! DEFINITION. REGION, YIELD, SPAWN and LAUNCH: opcodes 0x1A, 0x1B, 0x7D and 0x7E (R304, R310, R311, R319, R320). -/

namespace Sys2Proof.Machine

/-- A REGION names an entry of the table whose registers the group has (R304). -/
def State.regionOk (s : State) (k : Nat) (g : Group) (n : Nat) : Bool :=
  decide (n < (s.kernel k).live.length) &&
  (let l := (s.kernel k).live.getD n {}
   l.vs.all (fun r => decide (r < g.vregs)) && l.ss.all (fun r => decide (r < g.sregs)))

/-- The continuation point that REGION records (R304). -/
def State.newCont (s : State) (g : Group) (n : Nat) : Cont :=
  { pc := g.pc, em := g.em, a := g.a, live := some n, mark := s.nextId }

/-- What a YIELD waits for holds already at its REGION: the state once the group has taken it (R311). -/
def State.yieldMet (s : State) (k : Nat) : WaitOn → Option State
  | .none => some s
  | .bar w i p =>
    let b := s.bar k w i
    if b.phase ≠ p then some (s.setBar k w i (b.observe k)).flushDeferred else none
  | .event e n =>
    let b := s.event e
    if n = 0 then some s
    else if b.waiters.isEmpty ∧ n ≤ b.count then some (s.setEvent e { b with count := b.count - n })
    else none

/-- A group yields: its record waits and its slot is free; one that waits on an event barrier stands in its order (R281, R311). -/
def State.park (s : State) (k : Nat) (w : WaitOn) : State :=
  match s.group? k with
  | none => s
  | some g =>
    let s := s.discard k g 4 w .yielded
    match w with
    | .event e n =>
      if (s.group? k).any (fun x => x.place = .yielded) then
        s.setEvent e { s.event e with waiters := (s.event e).waiters ++ [(k, n)] }
      else s
    | _ => s

/-- R304: the drain, then the continuation point; a REGION after a YIELD parks the group, unless what it waits for holds (R311). Scalar
state with an uncorrectable error that strikes after Commit() is found behind the pair, at the next boundary (R27, R154, R343). -/
def execRegion (n : BitVec 8) (l : Lit) (s : State) : Host.Outcome State Fault Refusal :=
  s.run (.region n l) (fun k g =>
    let i : Instr := .region n l
    if !s.regionOk k g n.toNat then s.systemFault k g { cause := 2, pc := g.pc }
    else if s.outstanding k then s.wait k g
    else
      let err := g.pairPending && g.readsError i
      let s := if err then s.groupError k g 0 0 6 127 false else s
      let g' := { g with
        cont := s.newCont g n.toNat, pairPending := false, pairRegion := none, yielding := .none,
        scalarErr := if err then some { cause := 0x0A, pc := g.pc } else g.scalarErr }
      match s.yieldMet k g.yielding with
      | some u => u.done k g' i 1
      | none => (s.done k g' i 1).park k g.yielding)

/-- R310, R311: the checks of BAR.WAIT, then the park at the REGION that follows. -/
def execYieldBar (bar : BarRef) (a : Operand) (l : Lit) (s : State) : Host.Outcome State Fault Refusal :=
  s.run (.yieldBar bar a l) (fun k g =>
    let p := (s.uni32 k g ⟨0, l⟩ a).getLsbD 0
    s.commitDone k { g with yielding := .bar bar.gang bar.idx.toNat p } (.yieldBar bar a l))

/-- R310, R311: the checks of EVW, then the park at the REGION that follows. -/
def execYieldEv (e : BitVec 8) (a : Operand) (l : Lit) (s : State) : Host.Outcome State Fault Refusal :=
  s.run (.yieldEv e a l) (fun k g =>
    let n := (s.uni32 k g ⟨0, l⟩ a).toNat
    if !s.eventBound k e.toNat then s.systemFault k g (bindingFault g)
    else if 65535 < n then s.systemFault k g { cause := 8, pc := g.pc }
    else s.commitDone k { g with yielding := .event e.toNat n } (.yieldEv e a l))

/-! ### SPAWN and LAUNCH -/

/-- The space of a launch record (R319). -/
def recSpace (lspace : Bool) : Space := if lspace then .l else .g

/-- Read `n` bytes as a load of the group would, or the fault of that load (R219, R320, R173, R254). -/
def State.readAs (s : State) (k : Nat) (g : Group) (sp : Space) (a : Int) (n : Nat) : Except FaultInfo (List Byte) :=
  let bad : FaultInfo := { cause := 0x0A, pc := g.pc, addr := s.faultAddr k sp a }
  match s.accessFault k g sp n 1 [(127, a)] with
  | some f => .error f
  | none =>
    match sp with
    | .g =>
      match s.translate g.core (s.ctxOf k) a.toNat .load with
      | .error (c, d) => .error { cause := c, detail := d, pc := g.pc, addr := BitVec.ofInt 64 a }
      | .ok (key, p) =>
        if s.markedAt g.core key n then .error bad
        else .ok ((List.range n).map (fun i => s.coreByte g.core p.owner (key + i)))
    | .l => let key := s.lKey k a.toNat; if s.spadMarked key n then .error bad else .ok (s.getSpad key n)
    | .s =>
      let key := spadKey (sCore a.toNat) (sOff a.toNat)
      if s.spadMarked key n then .error bad else .ok (s.getSpad key n)

/-- Where bytes that an instruction reads itself lie, or nothing where the load faults: scratchpad or not, key, page kind. -/
def State.readLoc (s : State) (k : Nat) (g : Group) (sp : Space) (a : Int) (n : Nat) : Option (Bool × Nat × Nat) :=
  if (s.accessFault k g sp n 1 [(127, a)]).isSome then none
  else match sp with
    | .g => match s.translate g.core (s.ctxOf k) a.toNat .load with
      | .ok (key, p) => some (false, key, p.kind)
      | .error _ => none
    | .l => some (true, s.lKey k a.toNat, 0)
    | .s => some (true, spadKey (sCore a.toNat) (sOff a.toNat), 0)

/-- An earlier store or atomic of the group has still to write some of these bytes (R216, R294). -/
def State.writesBefore (s : State) (k : Nat) (spad : Bool) (key n : Nat) : Bool :=
  s.ops.any (fun x => x.2.group = k && x.2.kind ≠ .load && x.2.elems.any (fun e => !e.through && match s.locOf x.2 e with
    | .ok (b, key', kind) => b == spad && kind ≠ 2 && decide (key < key' + e.n ∧ key' < key + n)
    | .error _ => false))

/-- What a read that an instruction makes itself waits for, as a load of the group would: earlier writes of the group to the bytes, unless
their page is UN (R216), requests that wait at the stack (R235), and on an SO page as a release at SYSTEM scope (R288, R300). -/
def State.readHold (s : State) (k : Nat) (g : Group) (sp : Space) (a : Int) (n : Nat) : Option Group :=
  match s.readLoc k g sp a n with
  | none => none
  | some (spad, key, kind) =>
    if kind ≠ 2 && s.writesBefore k spad key n then some g
    else if !spad && (s.stackHeld key || !(s.heldAt key).isEmpty) then some g
    else if kind = 1 then s.releaseWait k g .system
    else none

/-- The requests that such a read makes of an endpoint or of another package (R257, R364). -/
def State.readSent (s : State) (k : Nat) (g : Group) (sp : Space) (a : Int) (n : Nat) : State :=
  match s.readLoc k g sp a n with
  | some (false, key, _) =>
    if destOf key = .endpoint then s.send (s.endpointMsg false key 0 (leBytes 1 n))
    else if destOf key = .remote then s.linkSend { kind := .remoteRead, dest := key, tag := n }
    else s
  | _ => s

/-- Take the fault of a load that an instruction makes itself; data marked uncorrectable make an error record (R219, R344). -/
def State.loadFault (s : State) (k : Nat) (g : Group) (sp : Space) (f : FaultInfo) : State :=
  let s := if f.cause = 0x0A then s.groupError k g f.addr 0 (if sp = .g then 2 else 1) 127 false else s
  s.systemFault k g f

/-- The bytes that an instruction names, read once: an instruction that has read them and waits has them still (R254, R320). -/
def State.readOnce (s : State) (k : Nat) (g : Group) (sp : Space) (a : Int) (n : Nat) : Except FaultInfo (List Byte) :=
  match (if g.hold = .waiting then g.recRead else none) with
  | some bs => .ok bs
  | none => s.readAs k g sp a n

/-- The group has read its bytes and waits in the instruction. -/
def Group.hasRead (g : Group) : Bool := g.hold = .waiting && g.recRead.isSome

/-- The steps of R320 before Commit(), with what follows them: misalignment, the record's read and form, the group's own
check, and the waits for earlier split-phase operations and as a release at PACKAGE scope. -/
def State.launchWith (s : State) (k : Nat) (g : Group) (lspace : Bool) (a : Operand) (l : Lit)
    (check : Option FaultInfo) (go : Group → LaunchRec → State) : State :=
  let base := s.accBase k g (recSpace lspace) ⟨0, l⟩ a
  if base % 64 ≠ 0 then s.systemFault k g { cause := 6, pc := g.pc, addr := s.faultAddr k (recSpace lspace) base }
  else match (if g.hasRead then none else s.readHold k g (recSpace lspace) base 64) with
  | some g' => s.wait k g'
  | none =>
    match s.readOnce k g (recSpace lspace) base 64 with
    | .error f => s.loadFault k g (recSpace lspace) f
    | .ok bs =>
      let s := if g.hasRead then s else s.readSent k g (recSpace lspace) base 64
      let r := parseLaunch bs
      if r.malformed || r.dep then s.systemFault k g { cause := 8, detail := 2, pc := g.pc }
      else match check with
        | some f => s.systemFault k g f
        | none =>
          let g := { g with recRead := some bs }
          if s.outstanding k then s.wait k g
          else match s.releaseWait k g .package with
            | some g' => s.wait k g'
            | none => go g r

/-- The work queue that a SPAWN names must be bound to the context (R320). -/
def State.wqFault (s : State) (k : Nat) (g : Group) (b : Nat) : Option FaultInfo :=
  if 255 < b ∨ (s.workQueues.getD b {}).ctx ≠ some (s.ctxOf k) then some { cause := 8, detail := 3, pc := g.pc } else none

/-- A work queue without room (R321): records, and grids of the queue that have not been taken up. -/
def State.wqFull (s : State) (b : Nat) : Bool :=
  let w := s.workQueues.getD b {}
  decide (w.size ≤ w.recs.length + (s.grids.filter (fun e => e.2.source = .workQueue b ∧ e.2.kernel = none ∧ e.2.code = none)).length)

/-- Append a record to a work queue (R320). -/
def State.wqAppend (s : State) (b grid : Nat) (r : LaunchRec) : State :=
  let w := s.workQueues.getD b {}
  { s with workQueues := s.workQueues.insert b { w with recs := w.recs ++ [(grid, r)] } }

/-- R319, R320. -/
def execSpawn (lspace : Bool) (a b : Operand) (l : Lit) (s : State) : Host.Outcome State Fault Refusal :=
  s.run (.spawn lspace a b l) (fun k g =>
    let q := (s.uni32 k g ⟨0, l⟩ b).toNat
    s.launchWith k g lspace a l (s.wqFault k g q) (fun g r =>
      if s.wqFull q then s.wait k g
      else (s.wqAppend q (gridOf k) r).commitDone k g (.spawn lspace a b l)))

/-- R319, R320. -/
def execSpawnTry (lspace : Bool) (d a b : Operand) (l : Lit) (s : State) : Host.Outcome State Fault Refusal :=
  s.run (.spawnTry lspace d a b l) (fun k g =>
    let q := (s.uni32 k g ⟨0, l⟩ b).toNat
    s.launchWith k g lspace a l (s.wqFault k g q) (fun g r =>
      if s.wqFull q then s.commitDone k (g.ws (regNo d) 0) (.spawnTry lspace d a b l)
      else (s.wqAppend q (gridOf k) r).commitDone k (g.ws (regNo d) 1) (.spawnTry lspace d a b l)))

/-- R319, R320: the grid's priority is at most the launcher's effective one. -/
def execLaunch (lspace : Bool) (d a : Operand) (l : Lit) (s : State) : Host.Outcome State Fault Refusal :=
  s.run (.launch lspace d a l) (fun k g =>
    s.launchWith k g lspace a l none (fun g r =>
      if 65536 ≤ s.grids.length then s.wait k g
      else (s.newGrid (s.ctxOf k) (min r.prio (s.gang k).eprio) r .launch).commitDone k
        (g.ws (regNo d) s.nextGrid) (.launch lspace d a l)))

end Sys2Proof.Machine
end

