-- ==== Sys2Proof/Machine/Tensor.lean ====
section
/-! DEFINITION. The tensor table: entries and handles (R163 to R168), TDEF, TFREE and TQRY (R173 to R175). -/

namespace Sys2Proof.Machine

/-- A tensor-table entry, read from its bytes (R164). -/
structure TEntry where
  base : Nat
  codeBase : Nat
  scaleBase : Nat
  lines : Nat
  kdim : Nat
  lstride : Nat
  cstride : Nat
  sstride : Nat
  fmt : Nat
  space : Nat
  gen : Nat
  valid : Bool
  deriving DecidableEq, Repr

/-- R164. -/
def parseEntry (bs : List Byte) : TEntry :=
  { base := natAt bs 0 8, codeBase := natAt bs 8 8, scaleBase := natAt bs 16 8, lines := natAt bs 24 4, kdim := natAt bs 28 4,
    lstride := natAt bs 32 4, cstride := natAt bs 36 4, sstride := natAt bs 40 4, fmt := bitsAt (natAt bs 44 4) 0 4,
    space := bitsAt (natAt bs 44 4) 4 2, gen := bitsAt (natAt bs 60 4) 0 8, valid := bitAt (natAt bs 60 4) 8 }

/-- Where an entry of a context's table lies in HBM (R163). -/
def State.entryPlace (s : State) (c idx : Nat) : Nat := (s.ctx c).tensorTable + 64 * idx

/-- The 64 bytes of an entry of a context's table, as the context reads them. -/
def State.entryBytes (s : State) (c idx : Nat) : List Byte := s.getPhys (s.ctx c).owner (s.entryPlace c idx) 64

def State.entry (s : State) (c idx : Nat) : TEntry := parseEntry (s.entryBytes c idx)

/-- Write an entry. -/
def State.setEntry (s : State) (c idx : Nat) (bs : List Byte) : State := s.setPhys (s.ctx c).owner (s.entryPlace c idx) bs

/-- A group's update of an entry; one in a lost stack is dropped and logged as a store is (R394). -/
def State.updateEntry (s : State) (k : Nat) (g : Group) (c idx : Nat) (bs : List Byte) : State :=
  if s.stackLost (s.entryPlace c idx) then s.groupError k g (BitVec.ofNat 64 (s.entryPlace c idx)) 0 2 127 false
  else s.setEntry c idx bs

/-- Requests to the stack of an entry wait (R235). -/
def State.entryHeld (s : State) (c idx : Nat) : Bool :=
  s.stackHeld (s.entryPlace c idx) || !(s.heldAt (s.entryPlace c idx)).isEmpty

/-- An entry that a load could not read well: bytes marked uncorrectable, or its stack lost (R219, R394). -/
def State.entryBad (s : State) (c idx : Nat) : Bool :=
  (List.range 64).any (fun i => s.physBad.contains (s.entryPlace c idx + i)) || s.stackLost (s.entryPlace c idx)

/-- Index and generation of a handle (R163). -/
def handleIdx (h : Word) : Nat := bitsAt h.toNat 0 12
def handleGen (h : Word) : Nat := bitsAt h.toNat 12 8

/-- A handle is current (R163). -/
def State.current (s : State) (c : Nat) (h : Word) : Bool :=
  let e := s.entry c (handleIdx h)
  decide (h.toNat < 2 ^ 20) && e.valid && decide (e.gen = handleGen h)

/-- Bytes of an element; 0 for QG4 (R165). -/
def TEntry.size (e : TEntry) : Nat :=
  match e.fmt with
  | 0 | 8 => 4
  | 1 | 2 => 2
  | 7 => 0
  | _ => 1

/-- Whether an address is one of an entry's space (R166). -/
def spaceHas (space a : Nat) : Bool :=
  match space with
  | 0 => decide (a ≤ 0x5FFFF)
  | 1 => decide (a < 2 ^ 57)
  | _ => sForm a

/-- A malformed image (R166): bytes 60 to 63 must be 0 as well. -/
def malformedImage (bs : List Byte) : Bool :=
  let e := parseEntry bs
  let qg := decide (e.fmt = 7)
  decide (8 < e.fmt) || decide (e.space = 3) || decide (bitsAt (natAt bs 44 4) 6 26 ≠ 0) || decide (natAt bs 48 12 ≠ 0) ||
  decide (natAt bs 60 4 ≠ 0) || decide (e.lines = 0 ∨ 65536 < e.lines) || decide (e.kdim = 0 ∨ 16777216 < e.kdim) ||
  !spaceHas e.space e.base || decide (e.base % 4 ≠ 0 ∨ e.lstride % 4 ≠ 0) ||
  (if qg then
    !spaceHas e.space e.codeBase || !spaceHas e.space e.scaleBase || decide (e.base % 32 ≠ 0 ∨ e.lstride % 32 ≠ 0) ||
    decide (e.scaleBase % 4 ≠ 0 ∨ e.sstride % 4 ≠ 0)
   else decide (e.codeBase ≠ 0 ∨ e.cstride ≠ 0 ∨ e.scaleBase ≠ 0 ∨ e.sstride ≠ 0))

/-- A change of an entry's generation invalidates the operand-cache entries tagged with it (R162). -/
def dropEntries (p : CacheEntry → Bool) (l : List CacheEntry) : List CacheEntry :=
  (l.filter (fun e => !p e || !e.pins.isEmpty)).map (fun e => if p e then { e with dropped := true } else e)

/-- Invalidate the operand-cache entries of a tag in every core (R162, R173). -/
def State.dropTag (s : State) (p : CacheEntry → Bool) : State :=
  { s with cores := s.cores.map (fun c => (c.1, { c.2 with opCache := dropEntries p c.2.opCache })) }

/-! ### The core's table cache (R163, R167) -/

/-- Entries of a context's table become the last used of a core's cache of 256; those that were not there are read (R163). -/
def State.useEntries (s : State) (core c : Nat) (hs : List Word) : State :=
  let x := s.core core
  s.setCore core { x with tensorTags := hs.foldl (fun l h =>
    ((c, handleIdx h) :: l.filter (fun t => t ≠ (c, handleIdx h))).take 256) x.tensorTags }

/-- An entry is in a core's table cache. -/
def State.hasEntry (s : State) (core c : Nat) (h : Word) : Bool := (s.core core).tensorTags.contains (c, handleIdx h)

/-- An instruction that names handles waits at issue until their entries are in the core's table cache (R167). A cached entry's bytes
are the table's, since an update reaches every core's cache in its own step (R168). A miss reads its entry as a G load of the context
would (R204): behind the requests that wait at its stack (R235), and one that finds data marked uncorrectable raises the fault for scalar
state (R219, log 7). -/
def State.withEntries (s : State) (k : Nat) (g : Group) (hs : List Word) (f : State → State) : State :=
  let c := s.ctxOf k
  let s' := s.useEntries g.core c hs
  let missing := (hs.filter (fun h => !s.hasEntry g.core c h)).map handleIdx
  if missing.isEmpty then f s'
  else if missing.any (s.entryHeld c) then s.wait k g
  else match missing.find? (s.entryBad c) with
    | some i => s.loadFault k g .g { cause := 0x0A, pc := g.pc, addr := BitVec.ofNat 64 (s.entryPlace c i) }
    | none => s'.wait k g

/-- An update of an entry invalidates it in every core's table cache (R168, R173, R174). -/
def State.dropTable (s : State) (c idx : Nat) : State :=
  { s with cores := s.cores.map (fun x => (x.1, { x.2 with tensorTags := x.2.tensorTags.filter (fun t => t ≠ (c, idx)) })) }

/-- R173. -/
def execTdef (gspace : Bool) (d a b : Operand) (x : Ext) (s : State) : Host.Outcome State Fault Refusal :=
  s.run (.tdef gspace d a b x) (fun k g =>
    let sp : Space := if gspace then .g else .l
    let off := s.accBase k g sp x a
    let idx := (s.uni32 k g x b).toNat
    if off % 64 ≠ 0 then s.systemFault k g { cause := 6, pc := g.pc, addr := s.faultAddr k sp off }
    else match s.readHold k g sp off 64 with
    | some g' => s.wait k g'
    | none =>
      match s.readAs k g sp off 64 with
      | .error f => s.loadFault k g sp f
      | .ok img =>
        let s := s.readSent k g sp off 64
        if 4096 ≤ idx then s.systemFault k g { cause := 8, pc := g.pc }
        else if malformedImage img then s.systemFault k g { cause := 8, detail := 2, pc := g.pc }
        else
          let c := s.ctxOf k
          if s.entryHeld c idx then s.wait k g else
          let old := s.entry c idx
          let gen := if old.valid then (old.gen + 1) % 256 else old.gen
          let s := (s.updateEntry k g c idx (img.take 60 ++ leBytes 4 (256 + gen))).dropTable c idx
          let s := if old.valid then s.dropTag (fun e => e.ctx = c ∧ e.idx = idx ∧ e.gen = old.gen) else s
          s.commitDone k (g.ws (regNo d) (BitVec.ofNat 32 (gen * 4096 + idx))) (.tdef gspace d a b x))

/-- The stale-handle user trap: INFO is bits [19:0] of the handle (R167, R337). -/
def State.staleTrap (s : State) (k : Nat) (g : Group) (h : Word) : State := (s.userTrap k g 0x40 (h.toNat % 2 ^ 20)).tick 8

/-- R174. -/
def execTfree (a : Operand) (x : Ext) (s : State) : Host.Outcome State Fault Refusal :=
  s.run (.tfree a x) (fun k g =>
    let c := s.ctxOf k
    let h := s.uni32 k g x a
    s.withEntries k g [h] (fun s =>
      if !s.current c h then s.staleTrap k g h
      else if s.entryHeld c (handleIdx h) then s.wait k g
      else
        let idx := handleIdx h
        let bs := s.entryBytes c idx
        let s := (s.updateEntry k g c idx (bs.take 60 ++ leBytes 4 ((handleGen h + 1) % 256))).dropTable c idx
        (s.dropTag (fun e => e.ctx = c ∧ e.idx = idx ∧ e.gen = handleGen h)).commitDone k g (.tfree a x)))

/-- What TQRY reads (R175). -/
def State.tqryValue (s : State) (k : Nat) (f : TqryForm) (h : Word) : Word :=
  let c := s.ctxOf k
  match f with
  | .word w => BitVec.ofNat 32 (natAt (s.entryBytes c (handleIdx h)) (4 * w.toNat) 4)
  | .cur => if s.current c h then 1 else 0

/-- R175. -/
def execTqry (f : TqryForm) (d a : Operand) (l : Lit) (s : State) : Host.Outcome State Fault Refusal :=
  s.run (.tqry f d a l) (fun k g =>
    let h := s.uni32 k g ⟨0, l⟩ a
    s.withEntries k g [h] (fun s => s.done k (g.ws (regNo d) (s.tqryValue k f h)) (.tqry f d a l) 1))

end Sys2Proof.Machine
end

