-- ==== Sys2Proof/Machine/MatrixArith.lean ====
section
/-! DEFINITION. Exact matrix arithmetic: images and segment scales (R190 to R194), products and sums of squares (R195 to
R197), the order of sums (R198 to R201), and the signature (R185). -/

namespace Sys2Proof.Machine

/-- One line of an operand in one segment, as it enters the arrays. An empty `q` is 64 images 0. -/
structure LineSeg where
  q : List Int := []
  /-- Block code of a QG4 line, else 1. -/
  code : Nat := 1
  /-- The aligned exponent X of a floating line, else 0. -/
  exp : Int := 0
  poison : Bool := false
  loss : Bool := false
  /-- A word that feeds the line was marked uncorrectable (R187). -/
  bad : Bool := false
  deriving DecidableEq, Repr

/-- The floating format of an operand format: format, field F, significand width p (R190, R191). -/
def fltOperand (fmt : Nat) : Option (Fmt × Nat × Nat) :=
  match fmt with
  | 1 => some (bf16, 18, 8)
  | 2 => some (fp16, 18, 11)
  | 3 => some (e4m3, 9, 4)
  | 4 => some (e5m2, 9, 3)
  | _ => none

/-- A finite element as sign, M and e of R191: its magnitude is M × 2^(e − (p − 1)). -/
def significand (f : Fmt) (p : Nat) (x : Nat) : Option (Bool × Nat × Int) :=
  match f.decode x with
  | .fin s m e => some (s, m, e + (p : Int) - 1)
  | _ => none

/-- floor(M × 2^k), and whether a nonzero bit was dropped (R191, R192). -/
def shiftTrunc (m : Nat) (k : Int) : Nat × Bool :=
  if 0 ≤ k then (m * 2 ^ k.natAbs, false) else (m / 2 ^ k.natAbs, m % 2 ^ k.natAbs ≠ 0)

/-- The segment exponent Es: the largest e among elements with M ≠ 0, else 0 (R191). -/
def segExp (xs : List (Bool × Nat × Int)) : Int :=
  ((xs.filter (fun x => x.2.1 ≠ 0)).foldl (fun (m : Option Int) x => some (match m with
    | none => x.2.2
    | some e => max e x.2.2)) none).getD 0

/-- A floating line aligned to its segment exponent (R191); poisoned by a NaN or infinity (R194). -/
def alignLine (f : Fmt) (F p : Nat) (raw : List Nat) : LineSeg :=
  let xs := raw.map (significand f p)
  if xs.any Option.isNone then { poison := true }
  else
    let ys := xs.filterMap id
    let es := segExp ys
    let qs := ys.map (fun x => (x.1, shiftTrunc x.2.1 ((F : Int) - 1 - p - (es - x.2.2))))
    { q := qs.map (fun x => if x.1 then -(x.2.1 : Int) else x.2.1), exp := es - ((F : Int) - 2), loss := qs.any (fun x => x.2.2) }

/-- The images of a line from its elements' bits and its block code (R190). -/
def lineSeg (fmt : Nat) (raw : List Nat) (code : Nat) : LineSeg :=
  match fltOperand fmt with
  | some (f, F, p) => alignLine f F p raw
  | none =>
    match fmt with
    | 5 => { q := raw.map (fun x => (BitVec.ofNat 8 x).toInt) }
    | 6 => { q := raw.map (fun x => (BitVec.ofNat 6 x).toInt) }
    | 7 => if code = 0 then { code := 0 } else { q := raw.map qgImage, code := code }
    | _ => {}

/-- Classes of R176: 6, 9 or 18 bits; 0 for a format that MMA does not admit. -/
def mmaClass (fmt : Nat) : Nat :=
  match fmt with
  | 6 | 7 => 6
  | 3 | 4 | 5 => 9
  | 1 | 2 => 18
  | _ => 0

/-- The INT32 mode of R176: both operands I8 or I6. -/
def int32Mode (fa fb : Nat) : Bool := (fa = 5 || fa = 6) && (fb = 5 || fb = 6)

/-- High and low parts of an 18-bit significand (R193). -/
def lowPart (q : Int) : Int := (BitVec.ofInt 9 q).toInt
def highPart (q : Int) : Int := (q - lowPart q) / 512

/-- Part p of an image of a class; part 1 of an operand of one part is 0 (R161, R193). -/
def partOf (cls p : Nat) (q : Int) : Int :=
  if cls = 18 then (if p = 0 then highPart q else lowPart q) else if p = 0 then q else 0

/-- RA or CB of a line: the sum of squares of a part (R161, R195); 0 for a poisoned line (R194). -/
def sumSq (cls p : Nat) (l : LineSeg) : Nat := (l.q.map (fun q => (partOf cls p q * partOf cls p q).natAbs)).foldl (· + ·) 0

/-! ### Cells and passes (R195 to R197) -/

/-- Scell: the sum of (xA + xB)² over a segment's k; images beyond a list's end are 0 (R195). -/
def cellSum : List Int → List Int → Nat
  | x :: xs, y :: ys => ((x + y) * (x + y)).natAbs + cellSum xs ys
  | x :: xs, [] => (x * x).natAbs + cellSum xs []
  | [], y :: ys => (y * y).natAbs + cellSum [] ys
  | [], [] => 0

/-- The parts of an operand class, and what a part's image counts for in P (R193, R197). -/
def partsOf (cls : Nat) : List (Nat × Int) := if cls = 18 then [(0, 512), (1, 1)] else [(0, 1)]

/-- The passes of a segment, in their order: part of A, part of B, and weight (R176, R197). -/
def passesOf (ca cb : Nat) : List (Nat × Nat × Int) :=
  (partsOf ca).flatMap (fun a => (partsOf cb).map (fun b => (a.1, b.1, a.2 * b.2)))

/-- A line as one pass sees it: a part's images, and their sum of squares at the edge. -/
structure PassLine where
  x : List Int := []
  sq : Nat := 0
  deriving DecidableEq, Repr

def LineSeg.pass (cls p : Nat) (l : LineSeg) : PassLine := { x := l.q.map (partOf cls p), sq := sumSq cls p l }

/-- A cell at its drain: the accumulator of 26 bits, with the bits that an error has flipped in it. -/
def cellAt (a b : PassLine) (flip : BitVec 26) : BitVec 26 := BitVec.ofNat 26 (cellSum a.x b.x) ^^^ flip

/-- The headroom or the parity check fails (R196). -/
def cellBad (a b : PassLine) (scell : BitVec 26) : Bool :=
  scell.getLsbD 25 || decide (((scell.toNat : Int) - a.sq - b.sq) % 2 ≠ 0)

/-- The product of a pass (R197). -/
def passProduct (a b : PassLine) (scell : BitVec 26) : Int := ((scell.toNat : Int) - a.sq - b.sq) / 2

/-- An element of a segment: the exact P of its passes, the cell after the last pass, and whether a check failed. `flips` are the bits
flipped in each pass. -/
def segCell : List (PassLine × PassLine × Int) → List (BitVec 26) → Int × BitVec 26 × Bool
  | [], _ => (0, 0, false)
  | [x], fs =>
    let c := cellAt x.1 x.2.1 (fs.headD 0)
    (x.2.2 * passProduct x.1 x.2.1 c, c, cellBad x.1 x.2.1 c)
  | x :: xs, fs =>
    let c := cellAt x.1 x.2.1 (fs.headD 0)
    let r := segCell xs (fs.drop 1)
    (x.2.2 * passProduct x.1 x.2.1 c + r.1, r.2.1, cellBad x.1 x.2.1 c || r.2.2)

/-- The array whose cells compute a row: row ÷ 16, or while that one is disabled one of the others in turn (R157, R392, log 41). -/
def arrayOf (en : BitVec 4) (row : Nat) : Nat :=
  let on := (List.range 4).filter (fun j => en.getLsbD j)
  if en.getLsbD (row / 16) then row / 16 else on.getD (row % 16 % on.length) (row / 16)

/-- The number of the cell that computes element (i, j): array, row and column. -/
def cellNo (en : BitVec 4) (i j : Nat) : Nat := 1024 * arrayOf en i + 64 * (i % 16) + j

/-! ### The signature (R185) -/

/-- One bit of the reflected CRC-32C. -/
def crcBit (c : Nat) : Nat := if c % 2 = 1 then Nat.xor (c / 2) 0x82F63B78 else c / 2

/-- One byte of the CRC. -/
def crcByte (c : Nat) (b : Byte) : Nat :=
  crcBit (crcBit (crcBit (crcBit (crcBit (crcBit (crcBit (crcBit (Nat.xor c b.toNat))))))))

/-- The CRC continued over P as 8 bytes, little-endian two's complement (R178). -/
def crcP (c : Nat) (p : Int) : Nat := (leBytes 8 (BitVec.ofInt 64 p).toNat).foldl crcByte c

/-! ### One segment into one element (R198 to R201) -/

/-- An element at a drain: the tile word, the superblock partial, the status bits it sets. -/
structure Cell where
  t : Word
  q : Word := 0x80000000
  status : Nat := 0
  deriving DecidableEq, Repr

def stALOSS : Nat := 1
def stNANIN : Nat := 2
def stAOVF : Nat := 4
def stSOF : Nat := 8
def stUCE : Nat := 16

/-- Join status words. -/
def orNat (a b : Nat) : Nat := Nat.lor a b

/-- A rounded FP32 sum: the word, and AOVF where it rounded to infinity (R199, R200). -/
def addF32 (a b : Word) : Word × Nat :=
  let r := fAdd fp32 .rne (fp32.decode a.toNat) (fp32.decode b.toNat)
  (BitVec.ofNat 32 r.1, if r.2 &&& flOF = flOF then stAOVF else 0)

def nanWord : Word := 0x7FC00000

/-- The segment value v (R198). -/
def segValue (p : Int) (ca cb : Nat) (e : Int) : Word × Nat :=
  let r := roundFP fp32 .rne (scaled (decide (p < 0)) (p.natAbs * ca * cb) e)
  (BitVec.ofNat 32 r.1, if r.2 &&& flOF = flOF then stAOVF else 0)

/-- The flush factor F of the QG4 operands' scale words; nothing where one is NaN or infinite (R198, R200). -/
def flushFactor (scales : List Word) : Option Real' :=
  scales.foldl (fun acc S =>
    match acc, fp32.decode S.toNat with
    | some f, .fin s m e =>
      let x := scaled s m e
      some ⟨f.neg != s, f.num * x.num, f.den * x.den * 7905⟩
    | _, _ => none) (some ⟨false, 1, 1⟩)

/-- w = RoundFP(Q × F) (R198). -/
def flushValue (q : Word) (f : Option Real') : Word × Nat :=
  match f with
  | none => (nanWord, stNANIN)
  | some f =>
    match fp32.decode q.toNat with
    | .nan _ => (nanWord, 0)
    | .inf s => if f.num = 0 then (nanWord, stAOVF) else (BitVec.ofNat 32 (fp32.encInf (s != f.neg)), 0)
    | .fin s m e =>
      let r := roundFP fp32 .rne (mulReal (scaled s m e) f)
      (BitVec.ofNat 32 r.1, if r.2 &&& flOF = flOF then stAOVF else 0)

/-- The FP32 drain of a segment (R199): of one with an uncorrectable error the value is the canonical NaN (R187). `opens` and `closes` tell where a superblock partial begins and is flushed. -/
def drainF32 (c : Cell) (a b : LineSeg) (p : Int) (bad qg opens closes : Bool) (f : Option Real') : Cell :=
  let t := if (fp32.decode c.t.toNat).isNan then nanWord else c.t
  let v : Word × Nat :=
    if a.poison || b.poison then (nanWord, orNat stNANIN (if bad then stUCE else 0))
    else if bad then (nanWord, stUCE)
    else segValue p a.code b.code (a.exp + b.exp)
  if !qg then
    let r := addF32 t v.1
    { c with t := r.1, status := orNat c.status (orNat v.2 r.2) }
  else
    let q := addF32 (if opens then 0x80000000 else c.q) v.1
    if closes then
      let w := flushValue q.1 f
      let r := addF32 t w.1
      { c with t := r.1, q := q.1, status := orNat c.status (orNat v.2 (orNat q.2 (orNat w.2 r.2))) }
    else { c with t := t, q := q.1, status := orNat c.status (orNat v.2 q.2) }

/-- The INT32 drain of a segment (R201). -/
def drainI32 (c : Cell) (p : Int) : Cell :=
  let t := c.t.toInt + p
  { c with t := BitVec.ofInt 32 (satS t 32), status := if satS t 32 = t then c.status else orNat c.status stAOVF }

/-- One segment into one element; an uncorrectable error in it gives the error value of the mode (R187, R196). -/
def drain (int : Bool) (c : Cell) (a b : LineSeg) (p : Int) (bad qg opens closes : Bool) (f : Option Real') : Cell :=
  if !int then drainF32 c a b p bad qg opens closes f
  else if bad then { c with t := 0x80000000, status := orNat c.status stUCE }
  else drainI32 c p

end Sys2Proof.Machine
end

