-- ==== Sys2Proof/Machine/Matrix.lean ====
section
/-! DEFINITION. Issuing matrix instructions: MMA, MZERO, MLOAD, MSTORE, MCORR, MSTAT, MSIG and SWFENCE, opcodes 0x53 to 0x5A
(R169 to R186). -/

namespace Sys2Proof.Machine

/-- Bytes of one line's segment of 64 elements (R162, R165). -/
def TEntry.segBytes (e : TEntry) : Nat := if e.fmt = 7 then 32 else 64 * e.size

/-- Elements of segment s below KDIM. -/
def TEntry.segElems (e : TEntry) (s : Nat) : Nat := min 64 (e.kdim - 64 * s)

/-- Bytes of a line's segment that are fetched: whole blocks of QG4 (R165, R178). -/
def TEntry.segFetched (e : TEntry) (s : Nat) : Nat :=
  if e.segElems s = 0 then 0 else if e.fmt = 7 then 32 else e.segElems s * e.size

/-- The address of a line's segment, of its block code, of its superblock scale (R165). -/
def TEntry.segAddr (e : TEntry) (l s : Nat) : Nat := e.base + l * e.lstride + s * e.segBytes
def TEntry.codeAddr (e : TEntry) (l s : Nat) : Nat := e.codeBase + l * e.cstride + s
def TEntry.scaleAddr (e : TEntry) (l s : Nat) : Nat := e.scaleBase + l * e.sstride + 4 * (s / 256)

/-- The byte ranges an MMA reads of an operand: address and length (R178). -/
def TEntry.footprint (e : TEntry) (k0 n : Nat) : List (Nat × Nat) :=
  (List.range (min 64 e.lines)).flatMap (fun l =>
    ((List.range n).map (· + k0)).flatMap (fun s =>
      if e.segElems s = 0 then []
      else (e.segAddr l s, e.segFetched s) :: (if e.fmt = 7 then [(e.codeAddr l s, 1), (e.scaleAddr l s, 4)] else [])))

/-- The fault of the first range outside the team's allocation, with its first byte outside as ADDR: operand A before B, line by line
(R29, R206; which byte it names is the model's choice, log 31). -/
def State.footprintFault (s : State) (k : Nat) (g : Group) (ranges : List (Nat × Nat)) : Option FaultInfo :=
  let n := (s.team k).scratch
  (ranges.find? (fun r => decide (n < r.1 + r.2))).map (fun r =>
    { cause := 8, detail := 1, addr := s.faultAddr k .l (max r.1 n : Nat), pc := g.pc })

/-- Segments of an MMA's window (R177, R178). -/
def windowSegs (w : Word) (ea eb : TEntry) : Nat :=
  let n := bitsAt w.toNat 0 16
  if n ≠ 0 then n else (max ea.kdim eb.kdim + 63) / 64 - bitsAt w.toNat 16 16

/-- An entry fit for MMA (R176). -/
def TEntry.mmaFit (e : TEntry) : Bool := e.space = 0 && mmaClass e.fmt ≠ 0

/-- An entry fit for MLOAD and MSTORE (R181, R182). -/
def TEntry.tileFit (e : TEntry) : Bool := e.space = 0 && (e.fmt = 0 || e.fmt = 8 || e.fmt = 1 || e.fmt = 2)

/-- The byte ranges of a tile window: elements (l, k) of the tensor, line by line (R181, R182). -/
def TEntry.tileFootprint (e : TEntry) (w : Word) : List (Nat × Nat) :=
  let l0 := bitsAt w.toNat 16 16
  let k0 := bitsAt w.toNat 0 16
  let n := min 64 (e.kdim - k0)
  (List.range 64).filterMap (fun i =>
    if l0 + i < e.lines ∧ 0 < n then some (e.base + (l0 + i) * e.lstride + k0 * e.size, n * e.size) else none)

/-- Enter the engine queue (R158). -/
def State.enqueue (s : State) (k : Nat) (g : Group) (i : Instr) (tile : Nat) (kind : EngineKind) (counter : Option Nat)
    (pair : Bool) : State :=
  let (id, s) := s.newId
  let c := s.core g.core
  let o : EngineOp := { id := id, group := k, tile := tile, kind := kind, counter := counter, pc := g.pc }
  let g := match counter with
    | some n => g.incA n
    | none => g
  (s.setCore g.core { c with engine := c.engine ++ [o] }).done k { g with pairPending := pair || g.pairPending } i 1

/-- The protection fault of an entry unfit for its use (R166). -/
def unfitFault (g : Group) : FaultInfo := { cause := 8, detail := 2, pc := g.pc }

/-- R176 to R178. -/
def execMma (z : Bool) (a b c : Operand) (n : BitVec 4) (t : BitVec 3) (l : Lit) (s : State) :
    Host.Outcome State Fault Refusal :=
  s.run (.mma z a b c n t l) (fun k g =>
    let i : Instr := .mma z a b c n t l
    let x := s.ctxOf k
    let ha := s.uni32 k g ⟨0, l⟩ a
    let hb := s.uni32 k g ⟨0, l⟩ b
    let w := s.uni32 k g ⟨0, l⟩ c
    let ba := s.entryBytes x (handleIdx ha)
    let bb := s.entryBytes x (handleIdx hb)
    let ea := parseEntry ba
    let eb := parseEntry bb
    let k0 := bitsAt w.toNat 16 16
    let m := windowSegs w ea eb
    if (List.range 96).any (fun L => g.live L && !g.active L) then (s.userTrap k g 0x42 0).tick 8
    else s.withEntries k g [ha, hb] (fun s =>
      if !s.current x ha then s.staleTrap k g ha
      else if !s.current x hb then s.staleTrap k g hb
      else if !(ea.mmaFit && eb.mmaFit) then s.systemFault k g (unfitFault g)
      else match s.footprintFault k g (ea.footprint k0 m ++ eb.footprint k0 m) with
        | some f => s.systemFault k g f
        | none => s.enqueue k g i t.toNat (.mma z ba bb ha hb w) (some n.toNat) true))

/-- R180. -/
def execMzero (t : BitVec 3) (l : Lit) (s : State) : Host.Outcome State Fault Refusal :=
  s.run (.mzero t l) (fun k g => s.enqueue k g (.mzero t l) t.toNat .mzero none false)

/-- The checks that MLOAD and MSTORE share, then the queue. -/
def State.tileMove (s : State) (k : Nat) (g : Group) (i : Instr) (a c : Operand) (n : BitVec 4) (t : BitVec 3) (l : Lit)
    (mk : List Byte → Word → EngineKind) : State :=
  let x := s.ctxOf k
  let h := s.uni32 k g ⟨0, l⟩ a
  let w := s.uni32 k g ⟨0, l⟩ c
  let bs := s.entryBytes x (handleIdx h)
  let e := parseEntry bs
  s.withEntries k g [h] (fun s =>
    if !s.current x h then s.staleTrap k g h
    else if !e.tileFit then s.systemFault k g (unfitFault g)
    else match s.footprintFault k g (e.tileFootprint w) with
      | some f => s.systemFault k g f
      | none => s.enqueue k g i t.toNat (mk bs w) (some n.toNat) false)

/-- R181. -/
def execMload (a c : Operand) (n : BitVec 4) (t : BitVec 3) (l : Lit) (s : State) : Host.Outcome State Fault Refusal :=
  s.run (.mload a c n t l) (fun k g => s.tileMove k g (.mload a c n t l) a c n t l (fun e w => .mload e w))

/-- R182. -/
def execMstore (rm : RM) (a c : Operand) (n : BitVec 4) (t : BitVec 3) (l : Lit) (s : State) :
    Host.Outcome State Fault Refusal :=
  s.run (.mstore rm a c n t l) (fun k g => s.tileMove k g (.mstore rm a c n t l) a c n t l (fun e w => .mstore rm e w))

/-- An engine instruction of the team naming the tile has not completed (R172). -/
def State.tileBusy (s : State) (k : Nat) (t : Nat) : Bool :=
  (s.core (s.team k).core).engine.any (fun o => decide (teamOf o.group = teamOf k) && decide (o.tile = t) &&
    match o.kind with
    | .swfence _ => false
    | _ => true)

/-- A tile of a group's team. -/
def State.tile (s : State) (k t : Nat) : Tile := (s.team k).tiles.getD t {}
def State.setTile (s : State) (k t : Nat) (x : Tile) : State :=
  s.setTeam (teamOf k) { s.team k with tiles := (s.team k).tiles.setD t x {} }

/-- R183. -/
def execMcorr (part1 cb : Bool) (d a : Operand) (t : BitVec 3) (l : Lit) (s : State) : Host.Outcome State Fault Refusal :=
  s.run (.mcorr part1 cb d a t l) (fun k g =>
    if s.tileBusy k t.toNat then s.wait k g
    else
      let x := s.tile k t.toNat
      let i := (s.uni32 k g ⟨0, l⟩ a).toNat % 64
      let p := if part1 then 1 else 0
      s.done k (g.ws (regNo d) ((if cb then x.cb else x.ra).getD (2 * i + p) 0)) (.mcorr part1 cb d a t l) 1)

/-- R184. -/
def execMstat (clr : Bool) (d : Operand) (t : BitVec 3) (l : Lit) (s : State) : Host.Outcome State Fault Refusal :=
  s.run (.mstat clr d t l) (fun k g =>
    if s.tileBusy k t.toNat then s.wait k g
    else
      let x := s.tile k t.toNat
      let s := if clr then s.setTile k t.toNat { x with status := 0 } else s
      s.done k (g.ws (regNo d) x.status) (.mstat clr d t l) 1)

/-- R185. -/
def execMsig (d : Operand) (t : BitVec 3) (l : Lit) (s : State) : Host.Outcome State Fault Refusal :=
  s.run (.msig d t l) (fun k g =>
    if s.tileBusy k t.toNat then s.wait k g
    else s.done k (g.ws (regNo d) (s.tile k t.toNat).sig) (.msig d t l) 1)

/-- The indices an SWFENCE names; nothing for all (R186). -/
def State.swfenceIdx (s : State) (k : Nat) (g : Group) (x : Ext) : SwfenceForm → Option (List Nat)
  | .h a => some [handleIdx (s.uni32 k g x a)]
  | .h2 a b => some [handleIdx (s.uni32 k g x a), handleIdx (s.uni32 k g x b)]
  | .all => none

/-- R186. -/
def execSwfence (f : SwfenceForm) (x : Ext) (s : State) : Host.Outcome State Fault Refusal :=
  s.run (.swfence f x) (fun k g => s.enqueue k g (.swfence f x) 0 (.swfence (s.swfenceIdx k g x f)) none false)

end Sys2Proof.Machine
end

