-- ==== Sys2Proof/Machine/Traps.lean ====
section
/-! DEFINITION. TRAP, BRK, SYSREQ and EXIT: opcodes 0x1C to 0x1F (R336 to R339, R346 to R348). -/

namespace Sys2Proof.Machine

/-- R339: the user trap with CAUSE n. -/
def execTrap (n : BitVec 6) (l : Lit) (s : State) : Host.Outcome State Fault Refusal :=
  s.run (.trap n l) (fun k g => (s.userTrap k g n.toNat 0).tick 8)

/-- R348: a debug halt while the context is being debugged, with the PC at the next word; else the user trap 0x43. -/
def execBrk (n : BitVec 8) (l : Lit) (s : State) : Host.Outcome State Fault Refusal :=
  s.run (.brk n l) (fun k g =>
    if s.armed k then
      s.done k { g with haltPending := some { cause := 0x20, detail := n.toNat, pc := g.pc } } (.brk n l) 1
    else (s.userTrap k g 0x43 n.toNat).tick 8)

/-- R347: waits as FENCE.ALL.SYSTEM and for room in the request queue, then the group is pinned until firmware answers. -/
def execSysreq (n : BitVec 8) (d a : Operand) (l : Lit) (s : State) : Host.Outcome State Fault Refusal :=
  s.run (.sysreq n d a l) (fun k g =>
    match s.releaseWait k g .system true with
    | some g' => s.wait k g'
    | none =>
      if 64 ≤ s.sysreqQueue.length then s.wait k g
      else
        let i : Instr := .sysreq n d a l
        let v := s.uni64 k g ⟨0, l⟩ a
        let s := s.done k { g with pairPending := true } i 1
        { s with sysreqQueue := s.sysreqQueue ++ [k] }.modGroup k (fun g' =>
          { g' with hold := .sysreq n.toNat v (regNo d) (g.after i) }))

/-! ### The end of a group (R346) -/

/-- What a termination drops at once (R342): records, gangs that were never placed, and SPAWN records in work queues. -/
def State.dropWaiting (s : State) (n : Nat) : State :=
  let idle := s.groups.filter (fun e =>
    gridOf e.1 = n && (e.2.place = .queued || e.2.place = .yielded || e.2.place = .parked))
  let s := idle.foldl (fun s e => s.endGroup e.1 e.2) s
  { s with
    gangs := s.gangs.map (fun e => if e.1 / 65536 = n ∧ e.2.place = .waiting then (e.1, { e.2 with place := .retired }) else e)
    workQueues := s.workQueues.map (fun e => (e.1, { e.2 with recs := e.2.recs.filter (fun r => r.1 ≠ n) })) }

/-- A fault record names a group. -/
def State.recordOfGroup (s : State) (k : Nat) (r : List Byte) : Bool :=
  let team := gangIdx k * s.gangSize k + memberOf k
  natAt r 12 4 == gridOf k && bitsAt (natAt r 4 4) 12 20 == team && bitsAt (natAt r 8 4) 17 4 == groupIdx k

/-- Completion code of a record: its CAUSE and DETAIL (R342). -/
def recordCode (r : List Byte) : Nat := bitsAt (natAt r 0 4) 24 8 * 256 + bitsAt (natAt r 0 4) 16 8

/-- The code of a termination by firmware: where one of the grid's groups is halted, its halt record's, else the one given (R342). -/
def State.haltCode (s : State) (n code : Nat) : Nat :=
  match List.find? (fun (e : Nat × Group) => gridOf e.1 = n && e.2.hold = .halted) s.groups with
  | none => code
  | some e => ((s.faultQueue.find? (s.recordOfGroup e.1)).map recordCode).getD code

/-- Begin the termination of a grid with a code (R342); the first code stands. -/
def State.beginTermination (s : State) (n code : Nat) : State :=
  match s.grids.find? n with
  | none => s
  | some gr =>
    if gr.terminating then s
    else (s.setGrid n { gr with terminating := true, code := some (gr.code.getD code) }).dropWaiting n

/-- The effect of EXIT once the group's operations have completed (R346). -/
def State.exitGroup (s : State) (k : Nat) (g : Group) : State :=
  ((((s.markIssue g).leaveBars k).setGroup k { g.ended with leftAt := s.nextId }).settle (gangOf k)).tick 1

/-- R346. -/
def execExit (l : Lit) (s : State) : Host.Outcome State Fault Refusal :=
  s.run (.exit l) (fun k g => if s.outstanding k then s.wait k g else s.exitGroup k g)

/-- R346, R342. -/
def execExitAbort (a : Operand) (l : Lit) (s : State) : Host.Outcome State Fault Refusal :=
  s.run (.exitAbort a l) (fun k g =>
    if s.outstanding k then s.wait k g
    else (s.beginTermination (gridOf k) ((s.uni32 k g ⟨0, l⟩ a).toNat % 65536)).exitGroup k g)

end Sys2Proof.Machine
end

