-- ==== Sys2Proof/Machine/Engine.lean ====
section
/-! DEFINITION. The matrix engine at work: operand fetch and the operand cache (R162), MMA, MLOAD, MSTORE and MZERO into the
tiles (R178 to R182), errors (R187), and the caliper's samples (R391). -/

namespace Sys2Proof.Machine

/-! ### Operand fetch (R162, R171, R188) -/

/-- A scratchpad byte as the running operation reads it: old or new by its word. -/
def State.operandByte (s : State) (o : EngineOp) (key : Nat) : Byte :=
  if Config.readsOld s.fresh (key / 4) then o.snap.getD key memDefault else s.spadByte key

/-- The operand of a handle in one segment, as fetched. -/
structure Fetched where
  bytes : List Byte := []
  codes : List Nat := []
  scales : List Word := []
  /-- Lines with an uncorrectable word, and the scratchpad keys of those words. -/
  badLines : List Nat := []
  badWords : List Nat := []
  /-- Keys of the operand-cache entries dropped for an error of their own (R187). -/
  badEntries : List Nat := []
  deriving Repr

/-- What identifies an operand stream: context, handle, entry, segment. -/
structure Stream where
  ctx : Nat
  h : Word
  e : TEntry
  seg : Nat
  deriving Repr

/-- The tag of entry u of a stream. -/
def Stream.hit (x : Stream) (u : Nat) (c : CacheEntry) : Bool :=
  !c.dropped && decide (c.ctx = x.ctx ∧ c.idx = handleIdx x.h ∧ c.gen = handleGen x.h ∧ c.seg = x.seg ∧ c.u = u)

/-- The L address of a stream byte, if it belongs to an element fetched. -/
def Stream.addr (x : Stream) (p : Nat) : Option Nat :=
  let n := x.e.segBytes
  let l := p / n
  if l < x.e.lines ∧ p % n < x.e.segFetched x.seg then some (x.e.segAddr l x.seg + p % n) else none

/-- Lines whose code and scale are fetched. -/
def Stream.lines (x : Stream) : List Nat :=
  if x.e.fmt = 7 ∧ x.e.segElems x.seg ≠ 0 then List.range (min 64 x.e.lines) else []

/-- Put an entry at the front; past 64 the least recently used one that is not pinned goes. -/
def cachePut (l : List CacheEntry) (c : CacheEntry) : List CacheEntry :=
  if l.length < 64 then c :: l
  else
    match l.reverse.find? (fun x => x.pins.isEmpty) with
    | none => l
    | some old => c :: l.erase old

/-- Add an entry's bytes to what is fetched of a segment. -/
def Fetched.add (f : Fetched) (e : CacheEntry) : Fetched :=
  { f with bytes := f.bytes ++ e.bytes, codes := if e.u = 0 then e.codes else f.codes,
           scales := if e.u = 0 then e.scales else f.scales,
           badLines := f.badLines ++ e.badWords.map (·.1), badWords := f.badWords ++ e.badWords.map (·.2) }

/-- Entry u of a stream as the scratchpad gives it: lines fed by an uncorrectable word are noted (R187). -/
def State.readEntry (s : State) (o : EngineOp) (x : Stream) (u : Nat) : CacheEntry :=
  let key (a : Nat) : Nat := s.lKey o.group a
  let bad (l a n : Nat) : List (Nat × Nat) := if s.spadMarked (key a) n then [(l, key a / 4 * 4)] else []
  let side := if u = 0 then x.lines else []
  { ctx := x.ctx, idx := handleIdx x.h, gen := handleGen x.h, seg := x.seg, u := u,
    bytes := (List.range 1024).map (fun i => match x.addr (1024 * u + i) with
      | some a => s.operandByte o (key a)
      | none => 0),
    codes := side.map (fun l => (s.operandByte o (key (x.e.codeAddr l x.seg))).toNat),
    scales := side.map (fun l =>
      BitVec.ofNat 32 (leNat ((List.range 4).map (fun i => s.operandByte o (key (x.e.scaleAddr l x.seg + i)))))),
    badWords :=
      (List.range 1024).flatMap (fun i => match x.addr (1024 * u + i) with
        | some a => bad ((1024 * u + i) / x.e.segBytes) a 1
        | none => []) ++
      side.flatMap (fun l => bad l (x.e.codeAddr l x.seg) 1 ++ bad l (x.e.scaleAddr l x.seg) 4) }

/-- Fetch entry u of a stream: from the cache, or from the scratchpad into the cache. An entry with an error of its own is dropped
and fetched again; its error record names the first byte that it fetches (R162, R187; DESIGN CHOICE, log 31). -/
def State.fetchEntry (s : State) (core : Nat) (o : EngineOp) (x : Stream) (u : Nat) (f : Fetched) : Fetched × State :=
  let c := s.core core
  let hit := c.opCache.find? (x.hit u)
  match hit.filter (fun e => !e.bad) with
  | some e => (f.add e, s.setCore core { c with opCache := e :: c.opCache.erase e })
  | none =>
    let cache := dropEntries (fun e => x.hit u e) c.opCache
    let first := (List.range 1024).filterMap (fun i => x.addr (1024 * u + i))
    let f := if hit.isSome then { f with badEntries := s.lKey o.group (first.headD 0) :: f.badEntries } else f
    let e := s.readEntry o x u
    if first.isEmpty then (f.add e, s) else (f.add e, s.setCore core { c with opCache := cachePut cache e })

/-- Fetch a whole segment of an operand. -/
def State.fetchSeg (s : State) (core : Nat) (o : EngineOp) (x : Stream) : Fetched × State :=
  (List.range (x.e.segBytes / 16)).foldl (fun r u => r.2.fetchEntry core o x u r.1) ({}, s)

/-- The bits of element k (0 to 63) of a line of a segment, from the line's stream bytes (R76, R165). -/
def elemBits (fmt : Nat) (bs : List Byte) (k : Nat) : Nat :=
  match fmt with
  | 7 => let p := 8 * (k % 8) + k / 8; bitsAt (bs.getD (p / 2) 0).toNat (4 * (p % 2)) 4
  | 1 | 2 => natAt bs (2 * k) 2
  | _ => (bs.getD k 0).toNat

/-- The 64 lines of an operand in a segment, aligned (R190). -/
def Stream.lineSegs (x : Stream) (f : Fetched) : List LineSeg :=
  (List.range 64).map (fun l =>
    let n := if l < x.e.lines then x.e.segElems x.seg else 0
    let bs := (f.bytes.drop (l * x.e.segBytes)).take x.e.segBytes
    if n = 0 then { code := if x.e.fmt = 7 then 0 else 1 }
    else
      { lineSeg x.e.fmt ((List.range n).map (elemBits x.e.fmt bs)) (f.codes.getD l 0) with bad := f.badLines.contains l })

/-! ### MMA (R178) -/

/-- Sums of squares of 64 lines as the snapshot holds them (R161): 0 for a poisoned line (R194), free values below 2^23 for another
with an uncorrectable word (log 31). -/
def sumsOf (fresh cls : Nat) (ls : List LineSeg) : SMap Word :=
  ((List.range 64).zip ls).foldl (fun (m : SMap Word) x =>
    let v (p : Nat) : Word :=
      if x.2.bad && !x.2.poison && (p = 0 || cls = 18) then ((Config.freeBits (fresh + 2 * x.1 + p)).setWidth 23).setWidth 32
      else BitVec.ofNat 32 (sumSq cls p x.2)
    (m.setD (2 * x.1) (v 0) 0).setD (2 * x.1 + 1) (v 1) 0) []

/-- One error record for each uncorrectable word or entry consumed, by its scratchpad key (R187, R344). -/
def State.engineErrors (s : State) (core : Nat) (o : EngineOp) (source : Nat) (keys : List Nat) : State :=
  keys.eraseDups.foldl (fun s w => s.errorRec core 0 0 (gridOf o.group) o.pc (sKeyAddr w) 0 source 127 false) s

/-- The record of a cell whose check failed: array, row and column (R196, R344). -/
def State.cellErrors (s : State) (core : Nat) (o : EngineOp) (cells : List Nat) : State :=
  cells.foldl (fun s c => s.errorRec core 0 0 (gridOf o.group) o.pc 0 c 7 127 false) s

/-- Bits flipped in a cell in each of a segment's passes: an error of a pass that the mode has not falls in one of those it has. -/
def CoreSt.flips (c : CoreSt) (cell passes : Nat) : List (BitVec 26) :=
  if c.upset.isEmpty then []
  else (List.range passes).map (fun p =>
    (List.range 4).foldl (fun m q => if q % passes = p then m ^^^ c.upset.getD (4 * cell + q) 0 else m) 0)

/-- The cells of a segment, row by row: element, cell, P with the errors, the accumulator, whether a check failed (R195 to R197). -/
def segCells (c : CoreSt) (ca cb : Nat) (la lb : List LineSeg) : List (Nat × Int × BitVec 26 × Bool) :=
  let ps := passesOf ca cb
  let row (l : LineSeg) : List (Nat × PassLine) := (partsOf ca).map (fun p => (p.1, l.pass ca p.1))
  let as := la.map row
  let bs := lb.map (fun l => (partsOf cb).map (fun p => (p.1, l.pass cb p.1)))
  let part (l : List (Nat × PassLine)) (p : Nat) : PassLine := ((l.find? (fun x => x.1 = p)).map (·.2)).getD {}
  ((List.range 64).zip as).flatMap (fun a => ((List.range 64).zip bs).map (fun b =>
    let cell := cellNo c.arrayEn a.1 b.1
    (cell, segCell (ps.map (fun p => (part a.2 p.1, part b.2 p.2.1, p.2.2))) (c.flips cell ps.length))))

/-- The tile's words as an MMA reads them for a segment, with the superblock partials so far: the error value of the mode for an
uncorrectable word (R187). -/
def tileCells (t : Tile) (q : List Word) (int : Bool) : List Cell :=
  ((List.range 4096).zip (if q.isEmpty then List.replicate 4096 0x80000000 else q)).map (fun x =>
    if t.bad.contains x.1 then { t := if int then 0x80000000 else nanWord, q := x.2, status := stUCE }
    else { t := t.words.getD x.1 0, q := x.2 })

/-- The words of the cells in canonical form. -/
def cellWords (cs : List Cell) : SMap Word :=
  ((List.range 4096).zip cs).filterMap (fun x => if x.2.t = 0 then none else some (x.1, x.2.t))

/-- Records of the uncorrectable words of a tile (R344). -/
def State.tileErrors (s : State) (core : Nat) (o : EngineOp) (words : List Nat) : State :=
  words.foldl (fun s ij => s.errorRec core 0 0 (gridOf o.group) o.pc 0 (o.tile * 4096 + ij) 4 127 false) s

/-- The caliper samples a drained segment (R391): its operand-cache entries are pinned, eight at most on a core. -/
def State.sampleSeg (s : State) (core : Nat) (o : EngineOp) (xa xb : Stream) (seg : Nat) (sig exact : Word) : State :=
  let c := s.core core
  let all := decide (0 < c.calAll) || decide (bitsAt s.calCfg.toNat 0 5 = 0)
  let (f, s) := s.freeBool
  let s := if 0 < c.calAll then s.setCore core { c with calAll := c.calAll - 1 } else s
  if !bitAt s.calCfg.toNat 31 || !(all || f) then s
  else
    let c := s.core core
    let used := (c.opCache.filter (fun e => !e.pins.isEmpty)).length
    if 8 ≤ used then s.setCore core { c with calSkip := c.calSkip + 1 }
    else
      let (id, s) := s.newId
      let c := s.core core
      let tagged (e : CacheEntry) : Bool := (xa.hit e.u e && e.seg = seg) || (xb.hit e.u e && e.seg = seg)
      let fresh := ((c.opCache.filter (fun e => tagged e && e.pins.isEmpty)).take (8 - used))
      let c := { c with opCache := c.opCache.map (fun e =>
        if tagged e && (!e.pins.isEmpty || fresh.contains e) then { e with pins := id :: e.pins } else e) }
      let smp : Sample := { core := core, group := o.group, tile := o.tile, pc := o.pc, sig := sig, exact := exact, start := s.cycle }
      { s.setCore core c with samples := s.samples.insert id smp }

/-- One segment of an MMA into the 4,096 elements of its tile, seen by the caliper as it drains (R178, R195 to R201, R391). A failed
cell leaves the signature free, as an uncorrectable word does (log 31). -/
def State.mmaSeg (s : State) (core : Nat) (o : EngineOp) (xa xb : Stream) (k0 n : Nat) : State × MmaRun :=
  let seg := k0 + o.run.drained
  let xa := { xa with seg := seg }
  let xb := { xb with seg := seg }
  let (fa, s) := s.fetchSeg core o xa
  let (fb, s) := s.fetchSeg core o xb
  let la := xa.lineSegs fa
  let lb := xb.lineSegs fb
  let qa := xa.e.fmt = 7
  let qb := xb.e.fmt = 7
  let int := int32Mode xa.e.fmt xb.e.fmt
  let opens := seg = k0 || seg % 256 = 0
  let closes := seg % 256 = 255 || seg + 1 = k0 + n
  let sa := if fa.scales.isEmpty then (if opens then [] else o.run.sa) else fa.scales
  let sb := if fb.scales.isEmpty then (if opens then [] else o.run.sb) else fb.scales
  let ca := mmaClass xa.e.fmt
  let cb := mmaClass xb.e.fmt
  let c := { s.core core with arrayEn := o.run.arrays }
  let ps := segCells c ca cb la lb
  let exact := if c.upset.isEmpty then ps else segCells { c with upset := [] } ca cb la lb
  let pairs := ((List.range 64).zip la).flatMap (fun a => ((List.range 64).zip lb).map (fun b => (a, b)))
  let t := s.tile o.group o.tile
  let cells := (((tileCells t o.run.q int).zip pairs).zip ps).map (fun x =>
    let a := x.1.2.1
    let b := x.1.2.2
    let scales := (if qa then [sa.getD a.1 0] else []) ++ (if qb then [sb.getD b.1 0] else [])
    drain int x.1.1 a.2 b.2 x.2.2.1 (a.2.bad || b.2.bad || x.2.2.2.2) (qa || qb) opens closes (flushFactor scales))
  let failed := (ps.filter (fun p => p.2.2.2)).map (·.1)
  let crc (l : List (Nat × Int × BitVec 26 × Bool)) (c : Nat) : Nat := l.foldl (fun c p => crcP c p.2.1) c
  let one (l : List (Nat × Int × BitVec 26 × Bool)) : Word := BitVec.ofNat 32 (Nat.xor (crc l 0xFFFFFFFF) 0xFFFFFFFF)
  let ra := sumsOf s.fresh ca la
  let rb := sumsOf (s.fresh + 128) cb lb
  let status := orNat (cells.foldl (fun m c => orNat m c.status) (if (la ++ lb).any (·.loss) then stALOSS else 0))
    (if (fa.badEntries ++ fb.badEntries).isEmpty then 0 else stUCE)
  let s := s.setCore core { s.core core with
    cells := ps.foldl (fun (m : SMap (BitVec 26)) p => m.setD p.1 p.2.2.1 0) c.cells, upset := [], edgeRa := ra, edgeCb := rb }
  let s := (s.engineErrors core o 1 (fa.badWords ++ fb.badWords)).engineErrors core o 5 (fa.badEntries ++ fb.badEntries)
  let s := ((s.cellErrors core o failed).tileErrors core o t.bad).setTile o.group o.tile { t with
    words := cellWords cells, bad := [], status := t.status ||| BitVec.ofNat 32 status, ra := ra, cb := rb }
  (s.sampleSeg core o xa xb seg (one ps) (one exact),
   { o.run with drained := o.run.drained + 1, crc := crc ps o.run.crc, bad := o.run.bad || (la ++ lb).any (·.bad) || !failed.isEmpty,
                q := if qa || qb then cells.map (·.q) else [], sa := sa, sb := sb })

/-- The next drain of an MMA, and whether it was its last: then the tile has its signature (R178). -/
def State.mmaRun (s : State) (core : Nat) (o : EngineOp) (z : Bool) (a b : List Byte) (ha hb w : Word) :
    State × MmaRun × Bool :=
  let ea := parseEntry a
  let eb := parseEntry b
  let n := windowSegs w ea eb
  let x := s.ctxOf o.group
  let s := if z && o.run.drained = 0 then s.setTile o.group o.tile { s.tile o.group o.tile with words := [], bad := [] } else s
  let o := if o.run.drained = 0 then { o with run := { o.run with arrays := (s.core core).arrayEn } } else o
  let (s, r) := if n = 0 then (s, o.run) else s.mmaSeg core o ⟨x, ha, ea, 0⟩ ⟨x, hb, eb, 0⟩ (bitsAt w.toNat 16 16) n
  if r.drained < n then (s, r, false)
  else
    let (free, s) := s.free64
    let sig : Word := if r.bad then free.setWidth 32 else BitVec.ofNat 32 (Nat.xor r.crc 0xFFFFFFFF)
    (s.setTile o.group o.tile { s.tile o.group o.tile with sig := sig }, r, true)

/-! ### MLOAD and MSTORE (R181, R182) -/

/-- The elements of a tile window that lie in the tensor: their place 64 i + j and L address. -/
def TEntry.tileElems (e : TEntry) (w : Word) : List (Nat × Nat) :=
  let l0 := bitsAt w.toNat 16 16
  let k0 := bitsAt w.toNat 0 16
  (List.range 4096).filterMap (fun ij =>
    let l := l0 + ij / 64
    let k := k0 + ij % 64
    if l < e.lines ∧ k < e.kdim then some (ij, e.base + l * e.lstride + k * e.size) else none)

/-- The floating format of a two-byte tile element. -/
def tileFmt (fmt : Nat) : Option Fmt :=
  match fmt with
  | 1 => some bf16
  | 2 => some fp16
  | _ => none

/-- The effect of an MLOAD. -/
def State.mloadRun (s : State) (core : Nat) (o : EngineOp) (eb : List Byte) (w : Word) : State :=
  let e := parseEntry eb
  let key (a : Nat) : Nat := s.lKey o.group a
  let els := e.tileElems w
  let word (a : Nat) : Word :=
    if s.spadMarked (key a) e.size then (if e.fmt = 8 then 0x80000000 else nanWord)
    else
      let x := leNat ((List.range e.size).map (fun i => s.operandByte o (key (a + i))))
      match tileFmt e.fmt with
      | some f => BitVec.ofNat 32 (fCvt fp32 .rne (f.decode x)).1
      | none => BitVec.ofNat 32 x
  let words := els.filterMap (fun x => if word x.2 = 0 then none else some (x.1, word x.2))
  let bad := (els.filter (fun x => s.spadMarked (key x.2) e.size)).map (fun x => key x.2 / 4 * 4)
  let t := s.tile o.group o.tile
  (s.engineErrors core o 1 bad).setTile o.group o.tile
    { t with words := words, bad := [], status := if bad.isEmpty then t.status else t.status ||| BitVec.ofNat 32 stUCE }

/-- What an MSTORE writes for a tile word: the element's bits, and whether the rounding overflowed. -/
def storeElem (fmt : Nat) (rm : RM) (x : Word) : Nat × Bool :=
  match tileFmt fmt with
  | some f =>
    let r := fCvt f rm (fp32.decode x.toNat)
    (r.1, r.2 &&& flOF = flOF)
  | none => (x.toNat, false)

/-- The error value of a tile word for a format (R182, R187). -/
def storeBad (fmt : Nat) : Nat :=
  match tileFmt fmt with
  | some f => f.nan
  | none => if fmt = 8 then 0x80000000 else 0x7FC00000

/-- The writes of an MSTORE: scratchpad key and bytes. -/
def State.mstoreWrites (s : State) (o : EngineOp) (rm : RM) (e : TEntry) (w : Word) : List (Nat × List Byte) :=
  let t := s.tile o.group o.tile
  (e.tileElems w).map (fun x =>
    (s.lKey o.group x.2,
     leBytes e.size (if t.bad.contains x.1 then storeBad e.fmt else (storeElem e.fmt rm (t.words.getD x.1 0)).1)))

/-- Perform the writes of an MSTORE that come early, or the others (R188). -/
def State.mstoreWrite (s : State) (o : EngineOp) (rm : RM) (eb : List Byte) (w : Word) (early : Bool) : State :=
  (s.mstoreWrites o rm (parseEntry eb) w).foldl (fun s x =>
    if Config.readsOld o.seed (x.1 / 4) == early then s.storeSpad x.1 x.2 else s) s

/-- The end of an MSTORE: its last writes, SOF and UCE. -/
def State.mstoreRun (s : State) (core : Nat) (o : EngineOp) (rm : RM) (eb : List Byte) (w : Word) : State :=
  let e := parseEntry eb
  let t := s.tile o.group o.tile
  let els := e.tileElems w
  let bad := (els.filter (fun x => t.bad.contains x.1)).map (·.1)
  let sof := els.any (fun x => !t.bad.contains x.1 && (storeElem e.fmt rm (t.words.getD x.1 0)).2)
  let st := orNat (if sof then stSOF else 0) (if bad.isEmpty then 0 else stUCE)
  ((s.mstoreWrite o rm eb w false).tileErrors core o bad).setTile o.group o.tile
    { t with status := t.status ||| BitVec.ofNat 32 st, bad := t.bad.filter (fun x => !bad.contains x),
             words := bad.foldl (fun (m : SMap Word) ij => m.insert ij (if e.fmt = 8 then 0x80000000 else nanWord)) t.words }

/-! ### Errors beyond correction (R187, R196) -/

/-- A word of some team's accumulator memory. -/
def State.strikeTile (s : State) (which n : Nat) : State :=
  match s.teams[which % s.teams.length]? with
  | none => s
  | some t =>
    let x := t.2.tiles.getD (n % 8) {}
    let ij := n / 8 % 4096
    s.setTeam t.1 { t.2 with tiles := t.2.tiles.insert (n % 8) { x with bad := ij :: x.bad.filter (· ≠ ij) } }

/-- An entry of some core's operand cache. -/
def State.strikeCache (s : State) (which n : Nat) : State :=
  let core := which % 448
  let c := s.core core
  match c.opCache[n % c.opCache.length]? with
  | none => s
  | some e => s.setCore core { c with opCache := c.opCache.map (fun x => if x = e then { x with bad := true } else x) }

/-- Bits of some cell of a core, in a pass. -/
def State.strikeCell (s : State) (which n : Nat) : State :=
  let core := which % 448
  let c := s.core core
  let i := n % 16384
  s.setCore core { c with upset := c.upset.setD i (c.upset.getD i 0 ^^^ BitVec.ofNat 26 (n / 16384)) 0 }

/-! ### Events -/

/-- Accesses of its group that issued before an engine operation are still to be performed (R293). -/
def State.accessesBefore (s : State) (o : EngineOp) : Bool := s.ops.any (fun x => x.2.group = o.group && decide (x.1 < o.id))

/-- The engine takes the next instruction of its queue, once the earlier accesses of its group have been performed; a replay of the
caliper on it stops (R158, R172, R293). -/
def execEngineOpStart (core : Nat) (s : State) : Host.Outcome State Fault Refusal :=
  let c := s.core core
  match c.engine with
  | [] => .next s
  | o :: rest =>
    if o.started || s.accessesBefore o then .next s
    else
      let t := s.team o.group
      let lo := spadKey t.core t.base
      let o := { o with started := true, seed := s.fresh,
                        snap := s.spad.filter (fun e => decide (lo ≤ e.1 ∧ e.1 < lo + t.scratch)) }
      let s := { s.setCore core { c with engine := o :: rest } with fresh := s.fresh + 1 }
      match o.kind with
      | .mstore rm e w => .next (s.mstoreWrite o rm e w true)
      | _ => .next s

/-- The effect of a started engine instruction: of an MMA its next segment. Whether the effect is then whole, and how far an MMA is. -/
def State.engineRun (s : State) (core : Nat) (o : EngineOp) : State × MmaRun × Bool :=
  match o.kind with
  | .mma z a b ha hb w => s.mmaRun core o z a b ha hb w
  | .mzero => (s.setTile o.group o.tile {}, o.run, true)
  | .mload e w => (s.mloadRun core o e w, o.run, true)
  | .mstore rm e w => (s.mstoreRun core o rm e w, o.run, true)
  | .swfence idx =>
    let c := s.core core
    let x := s.ctxOf o.group
    let named (n : Nat) : Bool := match idx with
      | some l => l.contains n
      | none => true
    (s.setCore core { c with opCache := dropEntries (fun e => decide (e.ctx = x) && named e.idx) c.opCache }, o.run, true)

/-- The engine's instruction does the next of its work: an MMA drains a segment. Once the whole effect is there it leaves the engine, and
its counter goes down (R171, R178). -/
def execEngineOpComplete (core : Nat) (s : State) : Host.Outcome State Fault Refusal :=
  match (s.core core).engine with
  | [] => .next s
  | o :: rest =>
    if !o.started then .next s
    else
      let (s, run, whole) := s.engineRun core o
      let s := { s with fresh := s.fresh + 257 }
      let c := s.core core
      if !whole then .next (s.setCore core { c with engine := { o with run := run } :: rest })
      else
        let s := s.setCore core { c with engine := rest }
        let s := match o.counter with
          | some n => if o.abandoned then s else s.countDown o.group n o.id
          | none => s
        .next (s.settle (gangOf o.group))

/-- Engine steps that the state admits. -/
def State.engineEvents (s : State) : List Instr :=
  s.cores.filterMap (fun c => match c.2.engine with
    | [] => none
    | o :: _ =>
      if o.started then some (.engineOpComplete c.1) else if s.accessesBefore o then none else some (.engineOpStart c.1))

end Sys2Proof.Machine
end

