-- ==== Sys2Proof/Machine/Copy.lean ====
section
/-! DEFINITION. The copy engine: CPY, CPYT, QFENCE and CSTAT, opcodes 0x70 to 0x73, and the copies at work (R238 to R248). -/

namespace Sys2Proof.Machine

/-! ### What a copy moves -/

/-- `len` bytes to an address, by aligned words of the destination. -/
def rowMoves (dst len : Nat) (at_ : Nat → MoveByte) (dests : Nat → List DWord) : List Move :=
  if len = 0 then []
  else (List.range ((dst + len - 1) / 4 - dst / 4 + 1)).map (fun i =>
    let lo := max dst (4 * (dst / 4 + i))
    let hi := min (dst + len) (4 * (dst / 4 + i) + 4)
    { bytes := (List.range (hi - lo)).map (fun j => at_ (lo - dst + j)), left := dests lo })

/-- A byte that is copied. -/
def copied (a : DWord) : MoveByte := { src := some a }

/-- The space of a tensor entry (R164). -/
def entrySpace (n : Nat) : Space :=
  match n with
  | 0 => .l
  | 1 => .g
  | _ => .s

/-- A byte of a source row: byte j of those that lie in the source, or zero bits (R245). -/
def rowByte (addr : Nat → DWord) (base avail j : Nat) : MoveByte := if j < avail then copied (addr (base + j)) else {}

/-- A nibble of a QG4 destination byte (R245): copied, image 0, or beyond the destination's KDIM, where it stays as it is (R165): its
mask, value and kept bits. -/
def nibble (k kd ks : Nat) : Nat × Nat × Nat := if kd ≤ k then (0, 0, 15) else if k < ks then (15, 0, 0) else (0, 8, 0)

/-- The moves of a CPYT (R245). `ks` is how many elements of the source row lie after K0. -/
def cpytLine (src : Nat → DWord) (dests : Nat → List DWord) (es ed : TEntry) (k0 line l : Nat) : List Move :=
  let ks := if line < es.lines then es.kdim - k0 else 0
  if ed.fmt ≠ 7 then
    rowMoves (ed.base + l * ed.lstride) (ed.kdim * ed.size)
      (rowByte src (es.base + line * es.lstride + k0 * es.size) (ks * es.size)) dests
  else
    let blocks := (ed.kdim + 63) / 64
    (List.range blocks).flatMap (fun t =>
      (List.range 8).flatMap (fun w =>
        let elems := ((List.range 8).filter (fun n => decide (64 * t + 8 * n + w < ed.kdim))).length
        let from_ := es.base + line * es.lstride + 32 * (k0 / 64 + t) + 4 * w
        rowMoves (ed.base + l * ed.lstride + 32 * t + 4 * w) ((elems + 1) / 2) (fun j =>
          let lo := nibble (64 * t + 16 * j + w) ed.kdim ks
          let hi := nibble (64 * t + 16 * j + 8 + w) ed.kdim ks
          { src := if 64 * t < ks then some (src (from_ + j)) else none,
            mask := BitVec.ofNat 8 (16 * hi.1 + lo.1), val := BitVec.ofNat 8 (16 * hi.2.1 + lo.2.1),
            keep := BitVec.ofNat 8 (16 * hi.2.2 + lo.2.2) }) dests)) ++
    rowMoves (ed.codeBase + l * ed.cstride) blocks
      (rowByte src (es.codeBase + line * es.cstride + k0 / 64) ((ks + 63) / 64)) dests ++
    (List.range ((ed.kdim + 16383) / 16384)).flatMap (fun t =>
      let sb := (k0 + 16384 * t) / 16384
      rowMoves (ed.scaleBase + l * ed.sstride + 4 * t) 4
        (rowByte src (es.scaleBase + line * es.sstride + 4 * sb) (if line < es.lines ∧ 16384 * sb < es.kdim then 4 else 0)) dests)

/-! ### Checks of both footprints (R210, R244) -/

/-- One of the steps 2 to 4 of R210 on one byte. -/
def State.byteFault (s : State) (k : Nat) (g : Group) (sp : Space) (a : Int) (step : Nat) : Option (Nat × Nat) :=
  match sp, step with
  | .g, 0 => if 2 ^ 57 ≤ a then some (8, 0) else none
  | .s, 0 => if sForm a then none else some (8, 0)
  | .s, 1 => if (s.memberOn k (sCore a.toNat)).isNone then some (9, 0) else none
  | .s, 2 => if sCore a.toNat = g.core && !(s.team k).holds (sOff a.toNat) 1 then some (8, 0) else none
  | .l, 2 => if s.lBounds k a 1 then none else some (8, 1)
  | _, _ => none

/-- The first fault of two footprints, each a space and byte addresses. -/
def State.copyFault (s : State) (k : Nat) (g : Group) (d c : Space × List Int) : Option FaultInfo :=
  (List.range 3).findSome? (fun step =>
    let one (x : Space × List Int) : Option FaultInfo := x.2.findSome? (fun a =>
      (s.byteFault k g x.1 a step).map (fun e =>
        { cause := e.1, detail := e.2, addr := s.faultAddr k x.1 a, pc := g.pc }))
    match one d with
    | some f => some f
    | none => one c)

/-- Byte addresses of ranges. -/
def byteAddrs (sp : Space) (rows : List (Int × Nat)) : List Int :=
  rows.flatMap (fun r => (List.range r.2).map (fun (j : Nat) => formAddr sp r.1 j))

/-! ### Issue -/

/-- Copies of a team that have not completed, on some of its queues. -/
def State.teamCopies (s : State) (t : Nat) (q : Nat → Bool) : List Nat :=
  (s.copies.filter (fun e => decide (e.2.team = t) && q e.2.queue)).map (·.1)

/-- Copies that a QFENCE puts before a new copy on queue q (R247). -/
def State.joined (s : State) (t q : Nat) : List Nat :=
  ((s.teamAt t).joins.filter (fun j => bitAt j.1 q)).flatMap (fun j => j.2.filter (fun i => (s.copies.find? i).isSome))

/-- Some G address of a list lies on an SO page. -/
def State.onSO (s : State) (k : Nat) (l : List (Space × List Int)) : Bool := l.any (fun x => x.2.any (fun a => s.kindOf k x.1 a = 1))

/-- An engine access to SO pages waits as a release at SYSTEM scope (R288, R291, R300). -/
def State.soHold (s : State) (k : Nat) (g : Group) (so : Bool) : Option Group := if so then s.releaseWait k g .system else none

/-- Wait for the group's operations, as a release where an SO page is touched, and for a pool entry, then commit the copy (R238, R240,
R244). One that touches SO pages holds later issue as an acquire (R300). -/
def State.issueCopy (s : State) (k : Nat) (g : Group) (i : Instr) (f : CopyF) (dst src : Space) (so : Bool) (moves : List Move) :
    State :=
  if s.outstanding k then s.wait k g
  else match s.soHold k g so with
  | some g' => s.wait k g'
  | none =>
  if 1024 ≤ (s.copies.filter (fun e => e.2.core = g.core)).length then s.wait k g
  else
    let (id, s) := s.newId
    let c : Copy :=
      { core := g.core, ctx := s.ctxOf k, team := teamOf k, group := k, queue := f.queue.toNat, dst := dst, src := src,
        scope := f.scope, counter := if f.nc then none else some f.n.toNat, pc := g.pc,
        after := s.joined (teamOf k) f.queue.toNat, moves := moves }
    let g := if f.nc then g else g.incA f.n.toNat
    { s with copies := s.copies.insert id c }.commitDone k { g with waitOps := if so then id :: g.waitOps else g.waitOps } i

/-- The base of a CPY operand (R243). -/
def State.copyBase (s : State) (k : Nat) (g : Group) (sp : Space) (l : Lit) (o : Operand) : Int := s.accBase k g sp ⟨0, l⟩ o

/-- ROWLEN, ROWS, DSTRIDE, SSTRIDE of a CPY; a linear copy is one row (R244). -/
def State.copyShape (s : State) (k : Nat) (g : Group) (twoD : Bool) (l : Lit) (c : Operand) : Nat × Nat × Int × Int :=
  if twoD then
    let n := regNo c
    ((g.rs n).toNat, (g.rs (n + 1)).toNat, (g.rs (n + 2)).toInt, (g.rs (n + 3)).toInt)
  else ((s.uni32 k g ⟨0, l⟩ c).toNat, 1, 0, 0)

/-- The fault of a linear copy that is too long (R244): so long a footprint leaves the team's allocation, and where that is one of L space
the record names its first byte outside (R206, R405, log 32). -/
def State.lengthFault (s : State) (k : Nat) (g : Group) (dsp ssp : Space) (d c : Int) : FaultInfo :=
  let out (a : Int) : FaultInfo := { cause := 8, detail := 1, addr := s.faultAddr k .l (max a (s.team k).scratch), pc := g.pc }
  if dsp = .l then out d else if ssp = .l then out c else { cause := 8, pc := g.pc }

/-- R244. -/
def execCpy (dsp ssp : Space) (twoD : Bool) (f : CopyF) (s : State) : Host.Outcome State Fault Refusal :=
  s.run (.cpy dsp ssp twoD f) (fun k g =>
    let d := s.copyBase k g dsp f.l f.a
    let c := s.copyBase k g ssp f.l f.b
    let (len, rows, ds, ss) := s.copyShape k g twoD f.l f.c
    if len % 4 ≠ 0 || ds % 4 ≠ 0 || ss % 4 ≠ 0 || d % 4 ≠ 0 || c % 4 ≠ 0 then
      s.systemFault k g { cause := 6, pc := g.pc, addr := s.faultAddr k dsp d }
    else if twoD && decide (65536 < len ∨ 65536 < rows) then s.systemFault k g { cause := 8, pc := g.pc }
    else if !twoD && decide (16777216 < len) then s.systemFault k g (s.lengthFault k g dsp ssp d c)
    else
      let drows := (List.range rows).map (fun (r : Nat) => (formAddr dsp d (r * ds), len))
      let srows := (List.range rows).map (fun (r : Nat) => (formAddr ssp c (r * ss), len))
      let to_ := (dsp, byteAddrs dsp drows)
      let from_ := (ssp, byteAddrs ssp srows)
      match s.copyFault k g to_ from_ with
      | some e => s.systemFault k g e
      | none =>
        s.issueCopy k g (.cpy dsp ssp twoD f) f dsp ssp (s.onSO k [to_, from_]) ((drows.zip srows).flatMap (fun r =>
          rowMoves (s.faultAddr k dsp r.1.1).toNat len (fun j => copied (s.faultAddr k ssp r.2.1 + BitVec.ofNat 64 j))
            (fun a => [BitVec.ofNat 64 a]))))

/-- The protection rules of CPYT (R245). -/
def cpytUnfit (es ed : TEntry) (k0 : Nat) : Bool :=
  ed.space ≠ 0 || es.fmt ≠ ed.fmt ||
  (es.fmt = 7 && (k0 % 64 ≠ 0 || (k0 % 16384 ≠ 0 && decide (16384 < k0 % 16384 + ed.kdim))))

/-- The misaligned access of a CPYT: bases and strides that are no multiples of 4, as in R244. R166 lets no entry have such, so that no
window of an entry that TDEF made is misaligned (log 56). -/
def TEntry.misaligned (e : TEntry) : Bool :=
  decide (e.base % 4 ≠ 0 ∨ e.lstride % 4 ≠ 0) || (e.fmt = 7 && decide (e.scaleBase % 4 ≠ 0 ∨ e.sstride % 4 ≠ 0))

/-- The source addresses a list of moves reads. -/
def readAddrs (ms : List Move) : List Int :=
  ms.flatMap (fun m => m.bytes.filterMap (fun b => if b.mask = 0 then none else b.src.map (fun a => (a.toNat : Int))))

/-- R245, R246. -/
def execCpyt (gmc : Option Operand) (f : CopyF) (s : State) : Host.Outcome State Fault Refusal :=
  s.run (.cpyt gmc f) (fun k g =>
    let x := s.ctxOf k
    let hd := s.uni32 k g ⟨0, f.l⟩ f.a
    let hs := s.uni32 k g ⟨0, f.l⟩ f.b
    let w := s.uni64 k g ⟨0, f.l⟩ f.c
    let k0 := (loWord w).toNat
    let l0 := (hiWord w).toNat
    let ed := s.entry x (handleIdx hd)
    let es := s.entry x (handleIdx hs)
    let mask := (gmc.map (fun d => (g.rs (regNo d)).toNat)).getD 1
    s.withEntries k g [hs, hd] (fun s =>
      if !s.current x hs then s.staleTrap k g hs
      else if !s.current x hd then s.staleTrap k g hd
      else if cpytUnfit es ed k0 then s.systemFault k g (unfitFault g)
      else if gmc.isSome && decide (mask = 0 ∨ 2 ^ s.gangSize k ≤ mask) then s.systemFault k g { cause := 8, pc := g.pc }
      else if ed.misaligned || es.misaligned then
        s.systemFault k g { cause := 6, pc := g.pc, addr := s.faultAddr k .l ed.base }
      else
        let sp := entrySpace es.space
        -- moves by plain addresses of the spaces: the footprints are taken from them
        let plain := (List.range ed.lines).flatMap (fun l =>
          cpytLine (fun a => BitVec.ofNat 64 a) (fun a => [BitVec.ofNat 64 a]) es ed k0 (l0 + l) l)
        let dbytes := plain.flatMap (fun m => m.left.flatMap (fun a =>
          (List.range m.bytes.length).map (fun (j : Nat) => ((a.toNat + j : Nat) : Int))))
        let from_ := (sp, readAddrs plain)
        match s.copyFault k g (.l, dbytes) from_ with
        | some e => s.systemFault k g e
        | none =>
          let teams := match gmc with
            | none => [teamOf k]
            | some _ => ((List.range (s.gangSize k)).filter (bitAt mask)).map (fun m => gangOf k * 16 + m)
          let place (m : Move) : Move :=
            { m with
              bytes := m.bytes.map (fun b => { b with src := b.src.map (fun a => s.faultAddr k sp a.toNat) }),
              left := m.left.flatMap (fun a => teams.map (fun t => s.faultAddr (t * 16) .l a.toNat)) }
          s.issueCopy k g (.cpyt gmc f) f .l sp (s.onSO k [from_]) (plain.map place)))

/-- R247. -/
def execQfence (q : BitVec 8) (l : Lit) (s : State) : Host.Outcome State Fault Refusal :=
  s.run (.qfence q l) (fun k g =>
    let t := s.team k
    let s := if q = 0 then s
      else s.setTeam (teamOf k) { t with joins :=
        (t.joins.filter (fun j => j.2.any (fun i => (s.copies.find? i).isSome))) ++
          [(q.toNat, s.teamCopies (teamOf k) (bitAt q.toNat))] }
    s.done k g (.qfence q l) 1)

/-- What CSTAT reads (R248). -/
def State.cstatValue (s : State) (k : Nat) (g : Group) : CstatForm → Nat
  | .infl q => (s.teamCopies (teamOf k) (fun n => n = q.toNat)).length
  | .mask => ((List.range 8).map (fun q => if (s.teamCopies (teamOf k) (fun n => n = q)).isEmpty then 0 else 2 ^ q)).foldl (· + ·) 0
  | .pool => 1024 - (s.copies.filter (fun e => e.2.core = g.core)).length

/-- R248. -/
def execCstat (f : CstatForm) (d : Operand) (l : Lit) (s : State) : Host.Outcome State Fault Refusal :=
  s.run (.cstat f d l) (fun k g => s.done k (g.ws (regNo d) (BitVec.ofNat 32 (s.cstatValue k g f))) (.cstat f d l) 1)

/-! ### The engine -/

/-- The bytes of a move that must be read and have not been. -/
def Move.unread (m : Move) : List (Nat × DWord) :=
  ((List.range m.bytes.length).zip m.bytes).filterMap (fun x =>
    match x.2.src with
    | some a => if x.2.mask = 0 ∨ (m.got.find? x.1).isSome then none else some (x.1, a)
    | none => none)

/-- The bytes a move writes. -/
def Move.out (m : Move) : List Byte :=
  ((List.range m.bytes.length).zip m.bytes).map (fun x => (m.got.getD x.1 0 &&& x.2.mask) ||| x.2.val)

/-- The bytes that stand where a move has written over `old`: bits that are no element's stay (R165, R245). -/
def Move.put (m : Move) (old : Nat → Byte) : List Byte :=
  ((List.range m.bytes.length).zip m.bytes).map (fun x => (m.got.getD x.1 0 &&& x.2.mask) ||| x.2.val ||| (old x.1 &&& x.2.keep))

/-- Every write has been performed. -/
def Copy.written (c : Copy) : Bool := c.moves.all (fun m => m.left.isEmpty)

/-- Where an address of a copy lies: scratchpad or not, key, leaf; or the fault of the access, as a bank unit or the
translation finds it. -/
def State.copyLoc (s : State) (c : Copy) (sp : Space) (a : DWord) (n : Nat) (need : Need) :
    Except (Nat × Nat) (Bool × Nat × Option Pte) :=
  match sp with
  | .g =>
    match s.translate c.core c.ctx a.toNat need with
    | .error e => .error e
    | .ok (key, p) => .ok (false, key, some p)
  | _ =>
    if sCore a.toNat ≠ c.core then
      match s.memberOn c.group (sCore a.toNat) with
      | none => .error (9, 1)
      | some t => if (s.teamAt t).holds (sOff a.toNat) n then .ok (true, spadKey (sCore a.toNat) (sOff a.toNat), none) else .error (8, 0)
    else .ok (true, spadKey (sCore a.toNat) (sOff a.toNat), none)

/-- The location of a copied byte, for comparison. -/
def State.copyKey (s : State) (c : Copy) (sp : Space) (a : DWord) (need : Need) : Option (Bool × Nat) :=
  match s.copyLoc c sp a 1 need with
  | .ok (b, key, _) => some (b, key)
  | .error _ => none

/-- Locations that a copy has still to write, and still to read. -/
def State.copyWrites (s : State) (c : Copy) : List (Option (Bool × Nat)) :=
  c.moves.flatMap (fun m => m.left.flatMap (fun a =>
    (List.range m.bytes.length).map (fun j => s.copyKey c c.dst (a + BitVec.ofNat 64 j) .store)))
def State.copyReads (s : State) (c : Copy) : List (Option (Bool × Nat)) :=
  c.moves.flatMap (fun m => m.unread.map (fun x => s.copyKey c c.src x.2 .load))

/-- Earlier copies of the queue (R239). -/
def State.copiesBefore (s : State) (id : Nat) (c : Copy) : List Copy :=
  (s.copies.filter (fun e => decide (e.1 < id ∧ e.2.team = c.team ∧ e.2.queue = c.queue))).map (·.2)

/-- A write of an earlier copy of its queue has still to be acknowledged by another package (R215). -/
def State.farBefore (s : State) (id : Nat) (c : Copy) : Bool :=
  s.copies.any (fun e => decide (e.1 < id ∧ e.2.team = c.team ∧ e.2.queue = c.queue) && s.owes e.1)

/-- The copies that QFENCE puts first have made their writes (R247). -/
def State.fenceOpen (s : State) (c : Copy) : Bool :=
  c.after.all (fun i => match s.copies.find? i with
    | some x => x.written && !s.owes i
    | none => true)

/-- An access of a copy: the bytes of one aligned source word that it needs, by move and place, read as one; or move i written at an
address (R287). -/
inductive CopyUnit where
  | read (bs : List (Nat × Nat × DWord))
  | write (i : Nat) (a : DWord)
  deriving DecidableEq, Repr

/-- The bytes that a copy has still to read: move, place and address. -/
def Copy.unread (c : Copy) : List (Nat × Nat × DWord) :=
  ((List.range c.moves.length).zip c.moves).flatMap (fun m => m.2.unread.map (fun x => (m.1, x.1, x.2)))

/-- They are read by aligned words of the source. -/
def Copy.words (c : Copy) : List (List (Nat × Nat × DWord)) :=
  let l := c.unread
  ((l.map (fun x => x.2.2.toNat / 4)).eraseDups).map (fun w => l.filter (fun x => x.2.2.toNat / 4 = w))

/-- How far a write of a copy acts as a release: as a SYSTEM one on an SO page, not at all on a UN page (R288, R290, R291), at GANG
scope at least toward another member of a GMC (R246), else at the copy's scope. The answer is whether that is beyond the core. -/
def State.copyWide (s : State) (c : Copy) (a : DWord) : Bool :=
  match s.copyLoc c c.dst a 1 .store with
  | .ok (_, _, some p) => p.isSO || (!p.isUN && !Scope.narrow c.scope)
  | _ => !Scope.narrow c.scope || (c.dst = .l && decide (sCore a.toNat ≠ c.core))

/-- Nothing that earlier copies of the queue wrote still lies in the store buffer: a write at a wide scope releases it (R293). Their writes
to UN pages no release covers (R290). -/
def State.copyRelease (s : State) (id : Nat) (c : Copy) (a : DWord) : Bool :=
  !s.copyWide c a ||
  (s.core c.core).unhomed.all (fun l => l.un || (!decide (l.id < id) && l.ops.all (fun i => decide (id ≤ i))))

/-- The accesses that order admits now (R239, R241, R247, R293). -/
def State.copyUnits (s : State) (id : Nat) (c : Copy) : List CopyUnit :=
  if c.paused.isSome || !s.fenceOpen c then []
  else
    let before := s.copiesBefore id c
    let reads := (c.words.filter (fun w => w.all (fun x =>
      before.all (fun b => b.written || !((s.copyWrites b).contains (s.copyKey c c.src x.2.2 .load))) &&
      !c.asked.contains (x.2.2.toNat / 4)))).map CopyUnit.read
    let pending := s.copyReads c
    let writes := if before.all Copy.written && !s.farBefore id c then
        ((List.range c.moves.length).zip c.moves).flatMap (fun m => if m.2.unread.isEmpty then
          (m.2.left.filter (fun a => s.copyRelease id c a && (List.range m.2.bytes.length).all (fun j =>
            !(pending.contains (s.copyKey c c.dst (a + BitVec.ofNat 64 j) .store))))).map (fun a => CopyUnit.write m.1 a)
          else [])
      else []
    reads ++ writes

/-- The lowest address that a unit reads, and how many bytes from there. -/
def unitSpan (bs : List (Nat × Nat × DWord)) : DWord × Nat :=
  let l := bs.map (fun x => x.2.2.toNat)
  let lo := l.foldl min (l.headD 0)
  (BitVec.ofNat 64 lo, l.foldl max 0 + 1 - lo)

/-- The location of a unit. -/
def State.unitLoc (s : State) (c : Copy) : CopyUnit → Except (Nat × Nat) (Bool × Nat × Option Pte)
  | .read bs => s.copyLoc c c.src (unitSpan bs).1 (unitSpan bs).2 .load
  | .write i a => s.copyLoc c c.dst a ((c.moves.getD i { bytes := [], left := [] }).bytes.length) .store

/-- A unit that can be performed: its access translates, its stack takes it, the store buffer has room. -/
def State.unitReady (s : State) (id : Nat) (c : Copy) (u : CopyUnit) : Bool :=
  match s.unitLoc c u, u with
  | .error _, _ => false
  | .ok (true, _, _), _ => true
  | .ok (false, key, _), .read _ => s.stackTakes id key
  | .ok (false, key, p), .write _ _ =>
    s.stackTakes id key && (!(Scope.narrow c.scope || p.any Pte.isUN) || s.bufferRoom c.core (key / 64))

/-- A copy takes source bytes: what `one` gives for each address, a byte and whether it is marked uncorrectable. -/
def Copy.take (c : Copy) (bs : List (Nat × Nat × DWord)) (one : DWord → Byte × Bool) : Copy :=
  bs.foldl (fun (c : Copy) x =>
    let m := c.moves.getD x.1 { bytes := [], left := [] }
    let r := one x.2.2
    let low := match c.badAddr with
      | some y => if x.2.2.toNat < y.toNat then x.2.2 else y
      | none => x.2.2
    { c with moves := c.moves.set x.1 { m with got := m.got.insert x.2.1 r.1, bad := m.bad || r.2 },
             badAddr := if r.2 then some low else c.badAddr }) c

/-- Read the bytes of one source word, each from its place beyond `key`; another package is asked for its own (R257). -/
def State.copyRead (s : State) (id : Nat) (c : Copy) (bs : List (Nat × Nat × DWord)) (key : Nat) (p : Option Pte) : State :=
  let lo := (unitSpan bs).1
  let one (a : DWord) : Byte × Bool :=
    let x := key + (a.toNat - lo.toNat)
    match p with
    | some p => (s.coreByte c.core p.owner x, s.markedAt c.core x 1)
    | none => (s.spadByte x, s.spadBad.contains x)
  let far := p.isSome && destOf key = Dest.remote
  let c' := if far then { c with asked := (lo.toNat / 4) :: c.asked } else c.take bs one
  let s := match p with
    | some p =>
      let n := (unitSpan bs).2
      let s := if far then s.linkAsk (.word id (lo.toNat / 4) ((List.range n).map (fun i => s.bufByte c.core (key + i))))
          { kind := .remoteRead, dest := key, data := leBytes 1 n }
        else s
      s.noteLeaf c.core c.ctx lo.toNat p
    | none => s
  { s with copies := s.copies.insert id c' }

/-- Another package's answer for a source word: `bs` are its bytes from the first that the copy reads (R257). -/
def State.copyAnswer (s : State) (id : Nat) (c : Copy) (word : Nat) (bs : List Byte) (bad : Bool) : State :=
  if !c.asked.contains word then s
  else
    let l := c.unread.filter (fun x => x.2.2.toNat / 4 = word)
    let lo := (unitSpan l).1
    let c := { c with asked := c.asked.erase word }
    { s with copies := s.copies.insert id (c.take l (fun a => (bs.getD (a.toNat - lo.toNat) 0, bad))) }

/-- Write one move: data read with a mark are written with it (R242); a write to a lost stack is dropped and logged (R394). -/
def State.copyWrite (s : State) (id : Nat) (c : Copy) (i : Nat) (a : DWord) (key : Nat) (p : Option Pte) : State :=
  let m := c.moves.getD i { bytes := [], left := [] }
  let keys := (List.range m.bytes.length).map (· + key)
  let s := match p with
    | some p =>
      let s := s.noteLeaf c.core c.ctx a.toNat p
      if s.stackLost key then s.errorRec c.core 0 0 (gridOf c.group) c.pc a 0 2 127 false
      else if m.bad then
        let s := (s.writeback c.core (key / 64)).ownWrite id c.ctx p.owner key m.out
        { s with physBad := keys.filter (fun x => !s.physBad.contains x) ++ s.physBad }
      else if p.kind ≠ 1 && (p.kind = 2 || Scope.narrow c.scope) then s.bufferStore c.core id c.group c.ctx a.toNat p.isUN p.owner key m.out
      else (s.writeback c.core (key / 64)).ownWrite id c.ctx p.owner key m.out
    | none =>
      let s := s.storeSpad key (m.put (fun j => s.spadByte (key + j)))
      if m.bad then { s with spadBad := keys ++ s.spadBad } else s
  let m := { m with left := m.left.filter (· ≠ a) }
  { s with copies := s.copies.insert id { c with moves := c.moves.set i m } }

/-- A copy has left its queue's front: deferred arrivals bound to it count it (R274). -/
def State.copyDone (s : State) (id : Nat) (c : Copy) : State :=
  let t := s.teamAt c.team
  let (n, s) := s.newId
  let step (x : Deferred) (i : Nat) : Deferred :=
    let rest := x.copies.filter (· ≠ id)
    { x with copies := rest, order := if x.copies.contains id && rest.isEmpty then some (n + i) else x.order }
  let d := (List.range t.deferred.length).zip t.deferred
  { s.setTeam c.team { t with deferred := d.map (fun x => step x.2 x.1) } with nextId := s.nextId + t.deferred.length }

/-- Complete a copy in its queue's order: the pool entry is free, the counter goes down (R238 to R240, R242). -/
def State.copyFinish (s : State) (id : Nat) (c : Copy) : State :=
  let first := (s.copiesBefore id c).isEmpty && c.after.all (fun i => (s.copies.find? i).isNone)
  if !first || !c.written || c.paused.isSome || s.owes id then s
  else
    let s := { s with copies := s.copies.erase id }
    let s := match c.badAddr with
      | some a => s.errorRec c.core 0 0 (gridOf c.group) c.pc a 0 8 127 false
      | none => s
    if c.faulted then s.settle (gangOf c.group)
    else
      let s := match c.counter with
        | some n => s.countDown c.group n id
        | none => s
      ((s.copyDone id c).flushDeferred).settle (gangOf c.group)

/-- One step of a copy: a byte is read or a word written, whichever; with the last write performed the copy completes. -/
def execCopyComplete (id : Nat) (s : State) : Host.Outcome State Fault Refusal :=
  match s.copies.find? id with
  | none => .next s
  | some c =>
    match s.choose ((s.copyUnits id c).filter (s.unitReady id c)) with
    | none => .next (s.copyFinish id c)
    | some (u, s) =>
      match s.unitLoc c u with
      | .error _ => .next s
      | .ok (spad, key, p) =>
        let go (s : State) : State := match u with
          | .read bs => s.copyRead id c bs key p
          | .write i a => s.copyWrite id c i a key p
        .next (if spad then go s else s.atStack id key go)

/-- A copy stops: its remaining bytes are not written, and firmware terminates the grid; with an error record, but for
an address that no mapping may cover (R242, log 57). -/
def State.copyStop (s : State) (id : Nat) (c : Copy) (addr : Option DWord) (code : Nat) : State :=
  let s := match addr with
    | some a => s.errorRec c.core 0 0 (gridOf c.group) c.pc a 0 8 127 false
    | none => s
  { s with copies := s.copies.insert id { c with moves := [], asked := [], paused := none, faulted := true } }.beginTermination
    (gridOf c.group) (s.haltCode (gridOf c.group) code)

/-- The engine meets a fault: a page fault pauses the copy, another stops it (R242). -/
def execCopyPageFault (id : Nat) (s : State) : Host.Outcome State Fault Refusal :=
  match s.copies.find? id with
  | none => .next s
  | some c =>
    let faults := (s.copyUnits id c).filterMap (fun u =>
      match s.unitLoc c u, u with
      | .error e, .read bs => some (e, (unitSpan bs).1, false)
      | .error e, .write _ a => some (e, a, true)
      | .ok _, _ => none)
    match s.choose faults with
    | none => .next s
    | some ((e, a, wr), s) =>
      if e = (7, 0) then .next { s with copies := s.copies.insert id { c with paused := some (a, 0, wr) } }
      else .next (s.copyStop id c (some a) (e.1 * 256 + e.2))

/-- Copy steps that the state admits. -/
def State.copyEvents (s : State) : List Instr :=
  s.copies.flatMap (fun e => [.copyComplete e.1] ++
    (if (s.copyUnits e.1 e.2).any (fun u => match s.unitLoc e.2 u with
      | .error _ => true
      | .ok _ => false) then [.copyPageFault e.1] else []))

end Sys2Proof.Machine
end

