-- ==== Sys2Proof/Machine/Collective.lean ====
section
/-! DEFINITION. The collective engine: COLL, COLLWT, opcodes 0x74 and 0x75, and the steps of a collective (R250 to R256). -/

namespace Sys2Proof.Machine

/-- A collective descriptor (R250). -/
structure CollDesc where
  src : Word
  dst : Word
  members : Nat
  rank : Nat
  nmem : Nat
  op : Nat
  kind : Nat
  retry : Nat
  count : Nat
  root : Nat
  timeout : Nat
  tag : Nat
  /-- Every reserved field is 0. -/
  clean : Bool
  deriving DecidableEq, Repr

/-- R250. -/
def parseColl (bs : List Byte) : CollDesc :=
  let w := natAt bs 20 4
  { src := BitVec.ofNat 32 (natAt bs 0 4), dst := BitVec.ofNat 32 (natAt bs 4 4), members := natAt bs 8 8,
    rank := natAt bs 16 2, nmem := natAt bs 18 2, op := bitsAt w 16 4, kind := bitsAt w 20 4, retry := bitsAt w 24 4,
    count := natAt bs 24 4, root := natAt bs 28 4, timeout := natAt bs 32 4, tag := natAt bs 36 4,
    clean := decide (bitsAt w 28 4 = 0 ∧ bitsAt w 0 16 = 0) && decide (leNat (bs.drop 40) = 0) }

/-- Member word r: package and core (R250). -/
def memberWord (ms : List Byte) (r : Nat) : Nat := natAt ms (4 * r) 4
def memberPkg (ms : List Byte) (r : Nat) : Nat := bitsAt (memberWord ms r) 9 9
def memberCore (ms : List Byte) (r : Nat) : Nat := bitsAt (memberWord ms r) 0 9

/-- The fields that members must agree on besides the list (R256). -/
def CollDesc.agrees (a b : CollDesc) : Bool := a.kind = b.kind && a.op = b.op && a.count = b.count && a.root = b.root && a.nmem = b.nmem

/-- OP fits KIND and the format (R251, R253). -/
def CollDesc.opFits (d : CollDesc) (fmt : Nat) : Bool :=
  if d.kind = 1 ∨ d.kind = 3 then d.op = 0
  else match d.op with
    | 0 | 3 | 4 => fmt = 0
    | 1 => fmt = 1
    | 2 | 5 | 6 => fmt = 8
    | _ => false

/-- Elements that a member reads and writes (R252). -/
def CollDesc.srcElems (d : CollDesc) : Nat :=
  if d.kind = 2 then d.nmem * d.count else if d.kind = 3 ∧ d.rank ≠ d.root then 0 else d.count
def CollDesc.dstElems (d : CollDesc) : Nat := if d.kind = 1 then d.nmem * d.count else d.count

/-- The member list keeps its rules (R250, R251). -/
def membersOk (ms : List Byte) (d : CollDesc) (core : Nat) : Bool :=
  let ws := (List.range d.nmem).map (memberWord ms)
  ws.all (fun w => decide (w < 2 ^ 18 ∧ w % 512 < 448)) && decide (ws.eraseDups.length = d.nmem) &&
  decide (memberWord ms d.rank = Config.packageNumber % 512 * 512 + core)

/-- A malformed descriptor (R251). -/
def CollDesc.malformed (d : CollDesc) (es ed : TEntry) (ms : List Byte) (core : Nat) : Bool :=
  !d.clean || decide (d.members % 4 ≠ 0 ∨ 2 ^ 57 ≤ d.members) || decide (d.nmem = 0 ∨ 4096 < d.nmem) ||
  decide (d.nmem ≤ d.rank) || decide (3 < d.kind) || decide (d.count = 0 ∨ 2 ^ 26 < d.count) ||
  (if d.kind = 3 then decide (d.nmem ≤ d.root) else decide (d.root ≠ 0)) ||
  es.space ≠ 1 || ed.space ≠ 1 || es.fmt = 7 || es.fmt ≠ ed.fmt || !d.opFits es.fmt ||
  decide (es.lines * es.kdim < d.srcElems) || decide (ed.lines * ed.kdim < d.dstElems) ||
  decide (268435456 < d.srcElems * es.size) || !membersOk ms d core

/-- Read `n` words of G space as loads of the group: the words, or the fault of the first that cannot be read. -/
def State.readWords (s : State) (k : Nat) (g : Group) (a : Nat) : Nat → Except FaultInfo (List Byte)
  | 0 => .ok []
  | n + 1 =>
    match s.readAs k g .g (a : Int) 4 with
    | .error f => .error f
    | .ok w =>
      match State.readWords s k g (a + 4) n with
      | .error f => .error f
      | .ok ws => .ok (w ++ ws)

/-- A slot of a team. -/
def Team.coll (t : Team) (i : Nat) : CollSlot := t.colls.getD i {}

/-- One member list begins the other: lists of members that agree, or disagree on NMEM alone (R250, R256). -/
def sameList (a b : List Byte) : Bool := a.isPrefixOf b || b.isPrefixOf a

/-- Parts of collectives of one TAG and list (R250). -/
def Coll.akin (a b : Coll) : Bool := (parseColl a.desc).tag = (parseColl b.desc).tag && sameList a.members b.members

/-- Parts of one collective. -/
def Coll.matches (a b : Coll) : Bool := a.akin b && a.round = b.round

/-- The G address of a source or destination byte. -/
def elemAddr (e : TEntry) (n : Nat) : Nat := e.base + n / e.kdim * e.lstride + n % e.kdim * e.size

/-- The collective that a new part joins: the first of those kept of its TAG and list that has no part of its rank (R250). -/
def State.collRound (s : State) (c : Coll) : Nat :=
  let l := (s.colls.filter (fun e => c.akin e.2)).map (·.2)
  let lo := l.foldl (fun m x => min m x.round) ((l.head?.map (·.round)).getD 0)
  ((List.range (l.length + 1)).map (lo + ·)).find? (fun r => !l.any (fun x => x.round = r && x.rank = c.rank)) |>.getD lo

/-- The G addresses of the elements of a collective at a member. -/
def collAddrs (e : TEntry) (n : Nat) : Space × List Int := (.g, (List.range n).map (fun i => (elemAddr e i : Int)))

/-- What the reads of the descriptor and then of the member words wait for; those that another package or an endpoint answers send their
requests (R254, R257). -/
def State.collHold (s : State) (k : Nat) (g : Group) (sp : Space) (base : Int) : Option Group :=
  if g.hasRead then none
  else match s.readHold k g sp base 64 with
    | some g' => some g'
    | none =>
      match s.readAs k g sp base 64 with
      | .error _ => none
      | .ok bs =>
        let d := parseColl bs
        if d.members % 4 ≠ 0 then none
        else (List.range d.nmem).findSome? (fun i => s.readHold k g .g ((d.members + 4 * i : Nat) : Int) 4)
def State.collSent (s : State) (k : Nat) (g : Group) (sp : Space) (base : Int) (bs : List Byte) : State :=
  if g.hasRead then s
  else
    let d := parseColl bs
    (List.range (if d.members % 4 = 0 then d.nmem else 0)).foldl
      (fun s i => s.readSent k g .g ((d.members + 4 * i : Nat) : Int) 4) (s.readSent k g sp base 64)

/-- The descriptor and the member list, read once (R250, R254). -/
def State.readColl (s : State) (k : Nat) (g : Group) (sp : Space) (base : Int) : Except (Space × FaultInfo) (List Byte × List Byte) :=
  match (if g.hold = .waiting then g.recRead else none) with
  | some bs => .ok (bs.take 64, bs.drop 64)
  | none =>
    match s.readAs k g sp base 64 with
    | .error f => .error (sp, f)
    | .ok bs =>
      let d := parseColl bs
      match (if d.members % 4 = 0 then s.readWords k g d.members d.nmem else .ok []) with
      | .error f => .error (.g, f)
      | .ok ms => .ok (bs, ms)

/-- R254. One whose elements lie on SO pages waits as a release at SYSTEM scope, and holds later issue (R291, R300). -/
def execColl (lspace : Bool) (a : Operand) (slot : BitVec 3) (l : Lit) (s : State) : Host.Outcome State Fault Refusal :=
  s.run (.coll lspace a slot l) (fun k g =>
    let i : Instr := .coll lspace a slot l
    let sp : Space := if lspace then .l else .g
    let base := s.accBase k g sp ⟨0, l⟩ a
    if base % 64 ≠ 0 then s.systemFault k g { cause := 6, pc := g.pc, addr := s.faultAddr k sp base }
    else match s.collHold k g sp base with
    | some g' => s.wait k g'
    | none =>
      match s.readColl k g sp base with
      | .error (sp, f) => s.loadFault k g sp f
      | .ok (bs, ms) =>
        let s := s.collSent k g sp base bs
        let d := parseColl bs
        let g := { g with recRead := some (bs ++ ms) }
        let x := s.ctxOf k
        let src := s.entryBytes x (handleIdx d.src)
        let dst := s.entryBytes x (handleIdx d.dst)
        s.withEntries k g [d.src, d.dst] (fun s =>
          if !s.current x d.src then s.staleTrap k g d.src
          else if !s.current x d.dst then s.staleTrap k g d.dst
          else if d.malformed (parseEntry src) (parseEntry dst) ms g.core then s.systemFault k g { cause := 8, detail := 2, pc := g.pc }
          else
            let so := s.onSO k [collAddrs (parseEntry src) d.srcElems, collAddrs (parseEntry dst) d.dstElems]
            if s.outstanding k then s.wait k g
            else match s.soHold k g so with
            | some g' => s.wait k g'
            | none =>
              if ((s.team k).coll slot.toNat).pending.isSome then s.wait k g
              else
                let (id, s) := s.newId
                let t := s.team k
                let s := s.setTeam (teamOf k) { t with colls := t.colls.insert slot.toNat { status := 0xFF, pending := some id } }
                let c : Coll :=
                  { ctx := x, core := g.core, team := teamOf k, slot := slot.toNat, rank := d.rank, desc := bs, members := ms,
                    src := src, dst := dst, pc := g.pc, start := s.cycle }
                { s with colls := s.colls.insert id { c with round := s.collRound c } }.commitDone k
                  { g with waitOps := if so then id :: g.waitOps else g.waitOps } i))

/-- R256: waits until the slot is not pending. -/
def execCollwt (d : Operand) (slot : BitVec 3) (l : Lit) (s : State) : Host.Outcome State Fault Refusal :=
  s.run (.collwt d slot l) (fun k g =>
    let c := (s.team k).coll slot.toNat
    if c.pending.isSome then s.wait k g else s.done k (g.ws (regNo d) c.status) (.collwt d slot l) 1)

/-- R256. -/
def execCollwtTry (d : Operand) (slot : BitVec 3) (l : Lit) (s : State) : Host.Outcome State Fault Refusal :=
  s.run (.collwtTry d slot l) (fun k g =>
    s.done k (g.ws (regNo d) ((s.team k).coll slot.toNat).status) (.collwtTry d slot l) 1)

/-! ### Reductions (R253) -/

/-- A node: left, then right. -/
def collNode (op : Nat) (a b : Nat) : Nat :=
  match op with
  | 0 | 1 => (fAdd fp32 .rne (fp32.decode a) (fp32.decode b)).1
  | 2 => (a + b) % 2 ^ 32
  | 3 => (fMinMax fp32 true false a b).1
  | 4 => (fMinMax fp32 false false a b).1
  | 5 => if (BitVec.ofNat 32 a).toInt < (BitVec.ofNat 32 b).toInt then b else a
  | _ => if (BitVec.ofNat 32 b).toInt < (BitVec.ofNat 32 a).toInt then b else a

/-- The identity of an operation. -/
def collIdentity (op : Nat) : Nat :=
  match op with
  | 0 | 1 => 0x80000000
  | 2 => 0
  | 3 => 0xFF800000
  | 4 => 0x7F800000
  | 5 => 0x80000000
  | _ => 0x7FFFFFFF

/-- One level of the tree. -/
def pairUp (op : Nat) : List Nat → List Nat
  | a :: b :: r => collNode op a b :: pairUp op r
  | l => l

/-- The tree over P leaves, P a power of two, level by level. -/
def collTree (op : Nat) : Nat → List Nat → Nat
  | 0, l => l.headD 0
  | n + 1, l => match l with
    | [x] => x
    | l => collTree op n (pairUp op l)

/-- Leaves of the tree: the smallest power of two at or above M. -/
def leafCount (m : Nat) : Nat := if m ≤ 1 then 1 else 2 ^ (Nat.log2 (m - 1) + 1)

/-- Reduce of R253 over the members' bits: the root is rounded to BF16 for BSUM, and a NaN is canonical. -/
def collReduce (op : Nat) (xs : List Nat) : Nat :=
  let leaves := (xs.map (fun x => if op = 1 then (fCvt fp32 .rne (bf16.decode x)).1 else x)) ++
    List.replicate (leafCount xs.length - xs.length) (collIdentity op)
  let r := collTree op (Nat.log2 leaves.length + 1) leaves
  let r := if op ≠ 2 ∧ op ≤ 4 ∧ (fp32.decode r).isNan then fp32.nan else r
  if op = 1 then (fCvt bf16 .rne (fp32.decode r)).1 else r

/-! ### Steps (R255) -/

/-- The collective of a team's slot. -/
def State.collOf (s : State) (team slot : Nat) : Option (Nat × Coll) :=
  ((s.teamAt team).coll slot).pending.bind (fun id => (s.colls.find? id).map (fun c => (id, c)))

/-- Bytes of a part's source, and whether all have been read. -/
def Coll.srcLen (c : Coll) : Nat := (parseColl c.desc).srcElems * (parseEntry c.src).size
def Coll.allRead (c : Coll) : Bool := (List.range c.srcLen).all (fun j => (c.data.find? j).isSome)

/-- Read source words of a part that have not been read: those `pick` names by their first byte, each whole (R287), as far as their pages
translate and their stacks take them: without a translation they stay unread, and the collective stands (log 33). A word marked
uncorrectable makes an error record, and its bytes are taken as they are stored (R344, log 33). -/
def State.collRead (s : State) (id : Nat) (c : Coll) (pick : Nat → Bool) : State × Coll :=
  let e := parseEntry c.src
  (List.range c.srcLen).foldl (fun x j =>
    let a := elemAddr e (j / e.size) + j % e.size
    if (x.2.data.find? j).isSome || !pick (a / 4) then x
    else match x.1.translate c.core c.ctx a .load with
      | .error _ => x
      | .ok (key, p) =>
        if !x.1.stackServes id key then x
        else
          let c' := { x.2 with data := x.2.data.insert j (x.1.coreByte c.core p.owner key) }
          if x.1.markedAt c.core key 1 && !x.2.badWords.contains (a / 4) then
            (x.1.errorRec c.core 0 0 (c.team / 1048576) c.pc (BitVec.ofNat 64 a) 0 2 127 false, { c' with badWords := (a / 4) :: c'.badWords })
          else (x.1, c')) (s, c)

/-- The ranks whose sources a member needs (R252). -/
def CollDesc.needs (d : CollDesc) : List Nat := if d.kind = 3 then [d.root] else List.range d.nmem

/-- The source bytes of a rank at a member. -/
def Coll.have? (c : Coll) (r : Nat) : Option (List Byte) :=
  if r = c.rank then (if c.allRead then some ((List.range c.srcLen).map (fun j => c.data.getD j 0)) else none) else c.got.find? r

/-- Every source that the member needs has arrived. -/
def Coll.ready (c : Coll) : Bool := (parseColl c.desc).needs.all (fun r => (c.have? r).isSome)

/-- The bytes of destination element e (R252). -/
def Coll.result (c : Coll) (e : Nat) : List Byte :=
  let d := parseColl c.desc
  let z := (parseEntry c.src).size
  let at_ (r n : Nat) : Nat := natAt ((c.have? r).getD []) (n * z) z
  match d.kind with
  | 0 => leBytes z (collReduce d.op ((List.range d.nmem).map (fun q => at_ q e)))
  | 1 => leBytes z (at_ (e / d.count) (e % d.count))
  | 2 => leBytes z (collReduce d.op ((List.range d.nmem).map (fun q => at_ q (d.rank * d.count + e))))
  | _ => leBytes z (at_ d.root e)

/-- Write destination elements that have not been written: those `pick` names, as far as their pages translate (log 33); one
to a lost stack is dropped and logged (R394). -/
def State.collWrite (s : State) (id : Nat) (c : Coll) (pick : Nat → Bool) : State × Coll :=
  let e := parseEntry c.dst
  (List.range (parseColl c.desc).dstElems).foldl (fun x n =>
    if x.2.wrote.contains n || !pick n then x
    else match x.1.translate c.core c.ctx (elemAddr e n) .store with
      | .error _ => x
      | .ok (key, p) =>
        if !x.1.stackServes id key then x
        else if x.1.stackLost key then
          (x.1.errorRec c.core 0 0 (c.team / 1048576) c.pc (BitVec.ofNat 64 (elemAddr e n)) 0 2 127 false, { x.2 with wrote := n :: x.2.wrote })
        else ((x.1.writeback c.core (key / 64)).ownWrite id c.ctx p.owner key (c.result n), { x.2 with wrote := n :: x.2.wrote })) (s, c)

/-- Ranks of this package. -/
def Coll.here (c : Coll) : List Nat :=
  (List.range (parseColl c.desc).nmem).filter (fun r => memberPkg c.members r = Config.packageNumber % 512)

/-- Members of other packages that need a member's source. -/
def Coll.away (c : Coll) : List Nat :=
  let d := parseColl c.desc
  if d.kind = 3 ∧ d.rank ≠ d.root then []
  else (List.range d.nmem).filter (fun r => memberPkg c.members r ≠ Config.packageNumber % 512)

/-- A part may be let go: it has ended, and the members of other packages have acknowledged its source, or the collective has failed: the
retention buffer is kept till then (R255). -/
def Coll.spent (c : Coll) : Bool := c.retired && (c.failed.isSome || c.away.all c.acked.contains)

/-- A collective is kept until every member of the package has joined it and ended: its data serve the others, and those that join late
learn how it ended (R252, R255). -/
def State.collPurge (s : State) : State :=
  { s with colls := s.colls.filter (fun e =>
      !e.2.here.all (fun r => s.colls.any (fun x => e.2.matches x.2 && x.2.rank = r && x.2.spent))) }

/-- A member's part ends with a status (R256). -/
def State.collEnd (s : State) (id : Nat) (c : Coll) (code failrank : Nat) : State :=
  let t := s.teamAt c.team
  let w : Word := BitVec.ofNat 32 (failrank * 4096 + min 15 c.retries * 256 + code)
  let s := s.setTeam c.team { t with colls := t.colls.insert c.slot { status := w, pending := none } }
  { s with colls := s.colls.insert id { c with retired := true, failed := if code = 0 then c.failed else some (code, failrank) } }

/-- The collective fails at every member that has joined and not ended (R255). -/
def State.collFail (s : State) (c : Coll) (code failrank : Nat) : State :=
  let s : State := { s with colls := s.colls.map (fun (e : Nat × Coll) => if c.matches e.2 then (e.1, { e.2 with failed := some (code, failrank) }) else e) }
  let hit := s.colls.filter (fun e => c.matches e.2 && !e.2.retired)
  (hit.foldl (fun (s : State) e => s.collEnd e.1 e.2 code failrank) s).collPurge

/-- How a collective has failed that a member joins (R255). -/
def State.collFailed (s : State) (c : Coll) : Option (Nat × Nat) :=
  s.colls.findSome? (fun (e : Nat × Coll) => if c.matches e.2 then e.2.failed else none)

/-- A member with which a part disagrees (R256). -/
def State.collClash (s : State) (c : Coll) : Option Nat :=
  s.colls.findSome? (fun (e : Nat × Coll) =>
    if c.matches e.2 && !(parseColl c.desc).agrees (parseColl e.2.desc) then some e.2.rank else none)

/-- A part that cannot go on ends: its members disagree, or a step failed for good before it joined; one that joins a collective failed
by timeout waits for its own (R255, R256). -/
def State.collStuck (s : State) (id : Nat) (c : Coll) : Option State :=
  match s.collFailed c with
  | some (2, _) => some s
  | some (code, r) => some ((s.collEnd id c code r).collPurge)
  | none => (s.collClash c).map (fun r => s.collFail c 3 r)

/-- A member's source goes to a member of another package over the links, tagged with the part and the rank (R255, R257). -/
def State.collShipTo (s : State) (id : Nat) (c : Coll) (r : Nat) : State :=
  s.linkSend { kind := .collStep, dest := memberWord c.members r, tag := id * 4096 + r,
               data := (List.range c.srcLen).map (fun j => c.data.getD j 0) }

/-- Read more of a part's source; with its last byte it goes to the members of other packages that need it. -/
def State.collAdvance (s : State) (id : Nat) (c : Coll) (pick : Nat → Bool) : State :=
  let (s, c') := s.collRead id c pick
  let s : State := { s with colls := s.colls.insert id c' }
  if !c.allRead && c'.allRead then c'.away.foldl (fun s r => s.collShipTo id c' r) s else s

/-- The bytes that flits have brought of a rank's source, once all have. -/
def Coll.arrived (c : Coll) (r : Nat) : Option (List Byte) :=
  let n := { parseColl c.desc with rank := r }.srcElems * (parseEntry c.src).size
  match c.arriving.find? r with
  | none => none
  | some m => if (List.range n).all (fun j => (m.find? j).isSome) then some ((List.range n).map (fun j => m.getD j 0)) else none

/-- Rank r's bytes reach the member `id`: from the part of a member of this package, or by the flits of another one's, which is
acknowledged (R255, R257). -/
def State.collTransfer (s : State) (id : Nat) (c : Coll) (r : Nat) : State :=
  let needed := (parseColl c.desc).needs.contains r
  if (c.got.find? r).isSome then s
  else if memberPkg c.members r = Config.packageNumber % 512 then
    match List.find? (fun (e : Nat × Coll) => c.matches e.2 && e.2.rank = r) s.colls with
    | none => s
    | some (yid, y) =>
      if !needed then s
      else
        let s := s.collAdvance yid y (fun _ => true)
        match (s.colls.find? yid).bind (fun y => y.have? r) with
        | none => s
        | some bs => { s with colls := s.colls.insert id { c with got := c.got.insert r bs } }
  else if c.differs.contains r then s.collFail c 3 r
  else match c.arrived r with
    | none => s
    | some bs =>
      if !needed then s
      else { s with colls := s.colls.insert id { c with got := c.got.insert r bs, arriving := c.arriving.erase r } }.linkSend
        { kind := .collAck, dest := memberWord c.members r, tag := id * 4096 + r }

/-- A step has failed: it is sent again by `again`, up to RETRY times for its rank, and then the collective fails (R255). -/
def State.retryStep (s : State) (id : Nat) (c : Coll) (r : Nat) (again : State → State) : State :=
  let n := c.tries.getD r 0
  if n < (parseColl c.desc).retry then
    again { s with colls := s.colls.insert id { c with tries := c.tries.insert r (n + 1), retries := c.retries + 1 } }
  else s.collFail c 1 r

/-- A step to rank r in flight on a lost port fails, and is sent again whole from the retention buffer (R255, R258). -/
def State.stepFailed (s : State) (id r : Nat) : State :=
  match s.colls.find? id with
  | none => s
  | some c => s.retryStep id c r (fun s => s.collShipTo id c r)

/-- One step: a member reads source bytes or writes destination elements of its own, or receives another member's source
(R255). Which bytes and elements is free. -/
def execCollStep (team slot fromRank : Nat) (s : State) : Host.Outcome State Fault Refusal :=
  match s.collOf team slot with
  | none => .next s
  | some (id, c) =>
    match s.collStuck id c with
    | some s' => .next s'
    | none =>
      let pick (j : Nat) : Bool := Config.readsOld s.fresh j
      if fromRank ≠ c.rank then .next (s.collTransfer id c fromRank)
      else if !c.allRead then
        .next ({ s with fresh := s.fresh + 1 }.collAdvance id c pick)
      else if c.ready then
        let (s, c) := s.collWrite id c pick
        .next { s with colls := s.colls.insert id c, fresh := s.fresh + 1 }
      else .next s

/-- A step failed: it is sent again, up to RETRY times, and then the collective fails (R255). -/
def execCollStepFail (team slot fromRank : Nat) (s : State) : Host.Outcome State Fault Refusal :=
  match s.collOf team slot with
  | none => .next s
  | some (id, c) =>
    let d := parseColl c.desc
    if !d.needs.contains fromRank || (c.have? fromRank).isSome && fromRank ≠ c.rank then .next s
    else .next (s.retryStep id c fromRank (fun s => s))

/-- A member that has not issued its COLL in time fails the collective (R255). -/
def execCollTimeout (team slot rank : Nat) (s : State) : Host.Outcome State Fault Refusal :=
  match s.collOf team slot with
  | none => .next s
  | some (id, c) =>
    let d := parseColl c.desc
    let parts := s.colls.filter (fun e => c.matches e.2)
    let joined := parts.any (fun e => e.2.rank = rank || (e.2.got.find? rank).isSome || (e.2.arriving.find? rank).isSome || e.2.differs.contains rank)
    let first := parts.foldl (fun m e => min m e.2.start) c.start
    if d.timeout = 0 ∨ d.nmem ≤ rank then .next s
    else match s.collFailed c with
      | some (2, r) => .next (if s.cycle < c.start + d.timeout * s.freq then s else (s.collEnd id c 2 r).collPurge)
      | _ => .next (if joined ∨ s.cycle < first + d.timeout * s.freq then s else s.collFail c 2 rank)

/-- The member's last writes are performed at SYSTEM scope and its slot's status is done (R255, R256). -/
def execCollComplete (team slot : Nat) (s : State) : Host.Outcome State Fault Refusal :=
  match s.collOf team slot with
  | none => .next s
  | some (id, c) =>
    match s.collStuck id c with
    | some s' => .next s'
    | none =>
      if !c.ready then .next s
      else
        let (s, c) := s.collWrite id c (fun _ => true)
        let s := { s with colls := s.colls.insert id c }
        if (List.range (parseColl c.desc).dstElems).all c.wrote.contains && !s.owes id then .next ((s.collEnd id c 0 0).collPurge) else .next s

/-- Collective steps that the state admits: failures and timeouts among them. -/
def State.collEvents (s : State) : List Instr :=
  (s.colls.filter (fun e => !e.2.retired)).flatMap (fun e =>
    let c := e.2
    (parseColl c.desc).needs.map (fun r => .collStep c.team c.slot r) ++ [.collStep c.team c.slot c.rank, .collComplete c.team c.slot] ++
    (List.range (parseColl c.desc).nmem).map (fun r => .collTimeout c.team c.slot r))

end Sys2Proof.Machine
end

