-- ==== Sys2Proof/Machine/Measure.lean ====
section
/-! DEFINITION. Measurement registers and loss reports (R388, R394). -/

namespace Sys2Proof.Machine

/-- A list as exactly `n` bytes. -/
def fit (n : Nat) (bs : List Byte) : List Byte := (List.range n).map (fun i => bs.getD i 0)

/-- SHA-256 as bytes. -/
def shaBytes (m : List Byte) : List Byte :=
  let h := Config.sha256 m
  leBytes 8 h.1.toNat ++ leBytes 8 h.2.1.toNat ++ leBytes 8 h.2.2.1.toNat ++ leBytes 8 h.2.2.2.toNat

/-- A measurement register. -/
def State.mr (s : State) (n : Nat) : List Byte := s.mrs.getD n (List.replicate 32 0)

/-- Extend a measurement register with an item. -/
def State.extend (s : State) (n : Nat) (item : List Byte) : State :=
  { s with mrs := s.mrs.insert n (shaBytes (s.mr n ++ shaBytes item)) }

/-- Extend a register with an item whose bytes no rule gives (log 16). -/
def State.extendOpen (s : State) (n : Nat) : State :=
  { s.extend n (Config.deviceBytes s.fresh) with fresh := s.fresh + 1 }

/-- What is reported as lost (R394). -/
inductive Loss where
  | array | datapath | core | cluster | port | page | stack | dieTemp
  deriving DecidableEq, Repr

/-- The number of a kind of loss in a report. -/
def Loss.code : Loss → Nat
  | .array => 0 | .datapath => 1 | .core => 2 | .cluster => 3 | .port => 4 | .page => 5 | .stack => 6 | .dieTemp => 7

/-- Report a loss to the management interface. -/
def State.lose (s : State) (k : Loss) (n : Nat) : State := { s with reports := s.reports ++ [(k.code, n)] }

end Sys2Proof.Machine
end

