-- ==== Sys2Proof/Machine/Scheduler.lean ====
section
/-! DEFINITION. Placing gangs: datapaths and cores that can hold a team (R20, R327, R328), the order of waiting gangs (R326,
R327), the chuck (R329), and a gang's first placement (R317, R380). -/

namespace Sys2Proof.Machine

/-! ### Datapaths (R20, R32, R328) -/

/-- A datapath that takes groups: it has good lanes and is in service. -/
def State.inService (s : State) (core dp : Nat) : Bool :=
  decide (core < 448 ∧ dp < 4) && decide (s.laneWord core dp ≠ 0) && !(s.core core).oos.contains dp

/-- What R328 compares of a datapath: resident groups, those of the team in question, vector registers in use. -/
structure DpLoad where
  dp : Nat
  beats : Nat
  groups : Nat := 0
  mine : Nat := 0
  regs : Nat := 0
  deriving DecidableEq, Repr

/-- The in-service datapaths of a core, when it is empty. -/
def State.emptyLoads (s : State) (core : Nat) : List DpLoad :=
  ((List.range 4).filter (s.inService core)).map (fun d =>
    { dp := d, beats := beatsOf (goodLanes (s.laneWord core d)).length })

/-- The in-service datapaths of a core as they now stand. -/
def State.dpLoads (s : State) (core team : Nat) : List DpLoad :=
  (s.emptyLoads core).map (fun l =>
    let gs := s.groups.filter (fun e => e.2.place = .resident && e.2.core = core && e.2.dp = l.dp)
    { l with
      groups := gs.length, mine := (gs.filter (fun e => decide (teamOf e.1 = team))).length,
      regs := (gs.map (fun e => e.2.vregs)).foldl (· + ·) 0 })

/-- A datapath that qualifies for a group. -/
def DpLoad.admits (l : DpLoad) (vregs : Nat) : Bool := decide (l.groups < 8 ∧ l.mine < 4 ∧ l.regs + vregs ≤ 512)

/-- R328: fewest resident groups, then the smaller B, then the lower number. -/
def DpLoad.better (a b : DpLoad) : Bool :=
  decide (a.groups < b.groups) ||
  (a.groups == b.groups && (decide (a.beats < b.beats) || (a.beats == b.beats && decide (a.dp < b.dp))))

/-- The datapath that takes a group. -/
def pickDp (vregs : Nat) : List DpLoad → Option DpLoad
  | [] => none
  | l :: ls =>
    match pickDp vregs ls with
    | none => if l.admits vregs then some l else none
    | some m => if l.admits vregs && l.better m then some l else some m

/-- A group has gone to a datapath. -/
def DpLoad.with (l : DpLoad) (dp vregs : Nat) : DpLoad :=
  if l.dp = dp then { l with groups := l.groups + 1, mine := l.mine + 1, regs := l.regs + vregs } else l

/-- The datapaths of a team's groups in ascending g, or nothing where one of them finds none (R328). -/
def assignDps : List Nat → List DpLoad → Option (List Nat)
  | [], _ => some []
  | v :: vs, ls =>
    match pickDp v ls with
    | none => none
    | some l => (assignDps vs (ls.map (fun x => x.with l.dp v))).map (fun ds => l.dp :: ds)

/-! ### Cores and rectangles (R13, R22, R327) -/

/-- A gang whose teams hold resources of cores. -/
def GangPlace.holds : GangPlace → Bool
  | .placed | .swapping _ | .returning => true
  | _ => false

/-- The teams that hold resources of a core. -/
def State.coreTeams (s : State) (core : Nat) : List Team :=
  (s.teams.filter (fun e => decide (e.2.core = core) && GangPlace.holds (s.gangs.getD (e.1 / 16) {}).place)).map (·.2)

/-- Where a slice of a core's scratchpad can begin: multiples of 256. -/
def State.freeBases (s : State) (core size : Nat) : List Nat :=
  ((List.range 1536).map (· * 256)).filter (fun b =>
    decide (b + size ≤ 393216) && (s.coreTeams core).all (fun t =>
      decide (t.scratch = 0 ∨ size = 0 ∨ b + size ≤ t.base ∨ t.base + t.scratch ≤ b)))

/-- Vector registers of the groups of member team t of gang x: at a first placement its roles' counts, later those of the
groups that have not ended. -/
def State.teamVregs (s : State) (x t : Nat) : List Nat :=
  if (s.gangs.getD x {}).place = .waiting then
    let k := s.kernel (x * 256)
    k.roles.map (fun r => (k.slots.getD r {}).vregs)
  else (s.groups.filter (fun e => decide (teamOf e.1 = t) && decide (e.2.place ≠ .gone))).map (fun e => e.2.vregs)

/-- A team fits on a core (R327), which must have a datapath in service (R15, R32). -/
def State.teamFits (s : State) (x m core : Nat) : Bool :=
  let k := s.kernel (x * 256)
  !(s.emptyLoads core).isEmpty && !(s.freeBases core k.scratch).isEmpty &&
  decide (((s.coreTeams core).map (·.acc)).foldl (· + ·) 0 + k.acc ≤ 8) &&
  (assignDps (s.teamVregs x (x * 16 + m)) (s.dpLoads core (x * 16 + m))).isSome

/-- The candidate rectangles: die and origin within it, in the order of R327. -/
def rectangles (w h : Nat) : List (Nat × Nat) :=
  (List.range 4).flatMap (fun d =>
    ((List.range 112).filter (fun o => decide (o % 8 + w ≤ 8 ∧ o / 8 + h ≤ 14))).map (fun o => (d, o)))

/-- The core of member m of a rectangle (R22). -/
def cellCore (w : Nat) (r : Nat × Nat) (m : Nat) : Nat := r.1 * 112 + r.2 + m / w * 8 + m % w

/-- The cores of a gang on a rectangle. -/
def State.rectCores (s : State) (x : Nat) (r : Nat × Nat) : List Nat :=
  let k := s.kernel (x * 256)
  (List.range (k.w * k.h)).map (cellCore k.w r)

/-- Members of a gang that do not fit on their cores of a rectangle. -/
def State.misfits (s : State) (x : Nat) (r : Nat × Nat) : Nat :=
  let cs := s.rectCores x r
  (((List.range cs.length).zip cs).filter (fun c => !s.teamFits x c.1 c.2)).length

/-- The first rectangle on which a gang fits, off the cores that are held for another. -/
def State.findRect (s : State) (x : Nat) (held : List Nat) : Option (Nat × Nat) :=
  let k := s.kernel (x * 256)
  (rectangles k.w k.h).find? (fun r => (s.rectCores x r).all (fun c => !held.contains c) && s.misfits x r == 0)

/-- The rectangle with the fewest misfits; the first of them (R329). -/
def State.reserveRect (s : State) (x : Nat) : Option (Nat × Nat) :=
  let k := s.kernel (x * 256)
  (rectangles k.w k.h).foldl (fun (best : Option (Nat × Nat)) r =>
    match best with
    | none => some r
    | some b => if s.misfits x r < s.misfits x b then some r else best) none

/-! ### Order (R326, R327) -/

/-- Cycles of an ageing interval (R326): units of 100 µs at the present clock (log 3). -/
def State.ageCycles (s : State) : Nat := bitsAt s.schedcfg.toNat 8 16 * 100 * s.freq

/-- The effective priority of a gang while it waits. -/
def State.ageing (s : State) (x : Nat) : Nat :=
  min 7 ((s.grid (x * 256)).prio + (s.cycle - (s.gangs.getD x {}).dispatched) / max 1 s.ageCycles)

/-- A gang waits for placement: its grid has been taken up and is not being terminated. -/
def State.waits (s : State) (x : Nat) : Bool :=
  let g := s.gangs.getD x {}
  (g.place = .waiting || g.place = .swapped) &&
  match s.grids.find? (x / 65536) with
  | some gr => gr.kernel.isSome && !gr.terminating && gr.code.isNone
  | none => false

/-- Gang x comes before gang y in the order of R327: effective priority, dispatch time, gang number within its grid. Gangs of two grids
that are alike in all three go by grid number (DESIGN CHOICE, log 40). -/
def State.before (s : State) (x y : Nat) : Bool :=
  let (p, q) := (s.ageing x, s.ageing y)
  let (t, u) := ((s.gangs.getD x {}).dispatched, (s.gangs.getD y {}).dispatched)
  decide (q < p) || (p == q && (decide (t < u) || (t == u && (decide (x % 65536 < y % 65536) ||
    (x % 65536 == y % 65536 && decide (x < y))))))

/-- Put a gang into an ordered list. -/
def State.insertGang (s : State) (x : Nat) : List Nat → List Nat
  | [] => [x]
  | y :: ys => if s.before x y then x :: y :: ys else y :: s.insertGang x ys

/-- The waiting gangs in the order of R327. -/
def State.waitOrder (s : State) : List Nat := ((s.gangs.filter (fun e => s.waits e.1)).map (·.1)).foldr s.insertGang []

/-! ### Placement -/

/-- A group as it begins (R317). -/
def Kernel.newGroup (k : Kernel) (lr : LaunchRec) (g core dp now : Nat) : Group :=
  let role := k.roles.getD g 0
  let slot := k.slots.getD role {}
  let pc := k.code + BitVec.ofNat 64 (8 * slot.entry)
  let words := ([loWord lr.argp, hiWord lr.argp] ++ lr.inline).take slot.sregs
  let s := ((List.range words.length).zip words).foldl (fun m x => SMap.setD m x.1 x.2 0) []
  Group.wt { pc := pc, s := s, vregs := slot.vregs, sregs := slot.sregs, role := role, core := core, dp := dp,
             cont := { pc := pc }, lastIssue := now } 125 (BitVec.allOnes 96)

/-- The scheduler's next ticket: the counter's value, or the next that no gang holds; and the counter after it (R380). -/
def takeTicket (held : List Word) : Nat → Word → Word × Word
  | 0, t => (t, if t + 1 = 0 then 1 else t + 1)
  | fuel + 1, t =>
    let t' := if t + 1 = 0 then 1 else t + 1
    if held.contains t then takeTicket held fuel t' else (t, t')

/-- A gang that holds its ticket (R22). -/
def GangPlace.ticketed : GangPlace → Bool
  | .waiting | .retired => false
  | _ => true

/-- Put a member team on a core; at a first placement its groups begin there. -/
def State.placeTeam (s : State) (x m core : Nat) : State :=
  let k := s.kernel (x * 256)
  let t := x * 16 + m
  match s.choose (s.freeBases core k.scratch) with
  | none => s
  | some (base, s) =>
    if (s.gangs.getD x {}).place = .waiting then
      let dps := (assignDps (s.teamVregs x t) (s.dpLoads core t)).getD []
      let lr := (s.grid (x * 256)).lr
      let s := s.setTeam t { core := core, base := base, scratch := k.scratch, acc := k.acc, ngroups := k.ngroups,
                             residentSince := s.cycle }
      ((List.range dps.length).zip dps).foldl (fun s d => s.setGroup (t * 16 + d.1) (k.newGroup lr d.1 core d.2 s.cycle)) s
    else
      let s := s.setTeam t { s.teamAt t with core := core, base := base, residentSince := s.cycle }
      { s with groups := s.groups.map (fun e => if teamOf e.1 = t then (e.1, { e.2 with core := core, leftAt := 0 }) else e) }

/-- Place a gang on a rectangle: with a ticket at its first placement; a swapped one takes its cores, and its images follow
(R22, R332, R380). -/
def State.placeGang (s : State) (x : Nat) (r : Nat × Nat) : State :=
  let g := s.gangs.getD x {}
  let first := decide (g.place = .waiting)
  let e := s.ageing x
  let s := ((List.range (s.rectCores x r).length).zip (s.rectCores x r)).foldl (fun s c => s.placeTeam x c.1 c.2) s
  let held := (s.gangs.filter (fun e => GangPlace.ticketed e.2.place)).map (fun e => e.2.ticket)
  let tk := takeTicket held (held.length + 1) s.nextTicket
  let s := if first then { s with nextTicket := tk.2 } else s
  s.setGang x { g with
    ticket := if first then tk.1 else g.ticket, place := if first then .placed else .returning,
    die := r.1, origin := r.2, eprio := e }

/-! ### The chuck and a step (R327, R329) -/

/-- The cores that the chuck reserves. -/
def State.reserved (s : State) : List Nat :=
  match s.chuck with
  | some c => s.rectCores c.gang (c.die, c.origin)
  | none => []

/-- The gang holds the chuck. -/
def State.holdsChuck (s : State) (x : Nat) : Bool := (s.chuck.map (·.gang)) == some x

/-- A gang takes the chuck, and chooses its rectangle (R329). -/
def State.takeChuck (s : State) (x : Nat) : State :=
  { s with chuck := (s.reserveRect x).map (fun r => { gang := x, die := r.1, origin := r.2, since := s.cycle }) }

/-- Visit one waiting gang; the flag says that the step has met one that fits nowhere. The first such gang holds the chuck: one that has
it keeps its rectangle, and later gangs stay off it (R329). -/
def State.visit (v : State × Bool) (x : Nat) : State × Bool :=
  let s := v.1
  match s.findRect x (if v.2 then s.reserved else []) with
  | some r => (if s.holdsChuck x then { s.placeGang x r with chuck := none } else s.placeGang x r, v.2)
  | none => (if v.2 || s.holdsChuck x then s else s.takeChuck x, true)

/-- Ask for the discard of every resident group of a gang, and begin its swap (R332). A gang whose images are still being read back
keeps them, and frees its cores again (R32, R333). -/
def State.beginSwap (s : State) (x cause : Nat) : State :=
  let g := s.gangs.getD x {}
  if g.place = .returning then s.setGang x { g with place := .swapped }
  else if g.place ≠ .placed then s
  else
    let s := s.setGang x { g with place := .swapping cause }
    { s with groups := s.groups.map (fun e =>
        if gangOf e.1 = x ∧ e.2.place = .resident ∧ e.2.stopCause = none then (e.1, { e.2 with stopCause := some cause }) else e) }

/-- The chuck's holder pre-empts gangs on its rectangle: those of lower effective priority, and all of them after four ageing
intervals (R329, R333). -/
def State.preempt (s : State) : State :=
  match s.chuck with
  | none => s
  | some c =>
    let old := decide (4 * s.ageCycles ≤ s.cycle - c.since)
    let on := (s.teams.filter (fun e => s.reserved.contains e.2.core)).map (fun e => e.1 / 16)
    let out := on.eraseDups.filter (fun x =>
      let g := s.gangs.getD x {}
      g.place = .placed && (old || decide (g.eprio < s.ageing c.gang)))
    out.foldl (fun s x => s.beginSwap x 1) s

/-- One step of the placement scheduler; the chuck of a gang that no longer waits passes on (R327, R329, R334, R357). -/
def execSchedulerStep (s : State) : Host.Outcome State Fault Refusal :=
  if s.placementStop then .next { s with placementStop := false }
  else
    let s : State := match s.chuck with
      | some c => if s.waits c.gang then s else { s with chuck := none }
      | none => s
    .next (s.waitOrder.foldl State.visit (s, false)).1.preempt

/-! ### The chuck's registers (R329) and an illegal state of the scheduler (R357) -/

/-- CHUCK0, CHUCK1 and CHUCK2 as they stand. -/
def State.chuckWords (s : State) : Word × Word × Word :=
  match s.chuck with
  | none => (0, 0, 0)
  | some c =>
    let k := s.kernel (c.gang * 256)
    (BitVec.ofNat 32 (c.gang / 65536),
     BitVec.ofNat 32 (2 ^ 31 + s.ageing c.gang * 2 ^ 28 + c.gang % 65536 * 2 ^ 12 + c.origin * 2 ^ 5 + (k.w - 1) * 8 + (k.h - 1) * 2),
     BitVec.ofNat 32 c.die)

/-- What reads of CHUCK1 and CHUCK2 return: the latched words (R329). -/
def State.readLatch (s : State) : List Byte := leBytes 4 s.chuckLatch.1.toNat ++ leBytes 4 s.chuckLatch.2.toNat

/-- Firmware reads CHUCK0, which latches the other two words, and then those (R329). -/
def execChuck0Read (s : State) : Host.Outcome State Fault Refusal :=
  let w := s.chuckWords
  let s : State := { s with chuckLatch := w.2 }
  .next (s.send { kind := .report, data := leBytes 4 w.1.toNat ++ s.readLatch })

/-- The chuck rebuilt from the gang table: held by the first waiting gang that fits nowhere (R329, R357). -/
def State.rebuildChuck (s : State) : State :=
  let s := { s with chuck := none }
  match s.waitOrder.find? (fun x => (s.findRect x []).isNone) with
  | none => s
  | some x => s.takeChuck x

/-- R357: placement stops for one step, and the chuck is rebuilt. -/
def execPackageSchedulerIllegal (s : State) : Host.Outcome State Fault Refusal :=
  .next { s.rebuildChuck with placementStop := true }

/-- Scheduler steps that the state admits. -/
def State.schedEvents (s : State) : List Instr :=
  if s.gangs.any (fun e => s.waits e.1) || s.chuck.isSome || s.placementStop then [.schedulerStep] else []

end Sys2Proof.Machine
end

