-- ==== Sys2Proof/Machine/Swap.lean ====
section
/-! DEFINITION. Swapping and pre-emption, the team image, resumption of records, and forward progress (R312, R331 to R333). -/

namespace Sys2Proof.Machine

/-! ### Swapping a gang out (R332) -/

/-- The members of a gang that exist, with their teams. -/
def State.members (s : State) (x : Nat) : List (Nat × Team) := s.teams.filter (fun e => decide (e.1 / 16 = x))

/-- An element of an S or L access that has not been performed. -/
def Op.openElems (o : Op) : List Elem := if o.space = .g then [] else o.elems.filter (fun e => !e.performed)

/-- S traffic of a gang or toward its allocations is still in flight (R237, R332). -/
def State.sTraffic (s : State) (x : Nat) : Bool :=
  s.ops.any (fun o => (Op.openElems o.2).any (fun e =>
    decide (gangOf o.2.group = x) || (s.members x).any (fun t =>
      t.2.core = sCore e.addr.toNat && decide (t.2.base < sOff e.addr.toNat + e.n ∧ sOff e.addr.toNat < t.2.base + t.2.scratch))))

/-- A group with `p` that has left its core has entries behind it in that core's store buffer: all that stood there then, its own and
those of others whose writes it may have seen at CORE scope (R297). -/
def State.behind (s : State) (p : Nat → Bool) : Bool :=
  s.cores.any (fun c => c.2.unhomed.any (fun l => l.groups.any p)) ||
  s.groups.any (fun e => p e.1 && (s.core e.2.core).unhomed.any (fun l => decide (l.id < e.2.leftAt)))

/-- Stores and atomics of groups with `p` that are still to be performed. -/
def State.storesLeft (s : State) (p : Nat → Bool) : Bool := s.ops.any (fun o => p o.2.group && decide (o.2.kind ≠ .load))

/-- What the swap waits for has come about: discards, engine operations, copies with the arrivals they defer, S traffic (R259,
R274, R332); and the groups' own stores and what they left behind in store buffers, which come before all they do later (R297, R301). -/
def State.swapReady (s : State) (x : Nat) : Bool :=
  s.groups.all (fun e => decide (gangOf e.1 ≠ x) || decide (e.2.place ≠ .resident)) &&
  s.cores.all (fun c => c.2.engine.all (fun o => decide (gangOf o.group ≠ x))) &&
  s.copies.all (fun c => decide (c.2.team / 16 ≠ x)) &&
  (s.members x).all (fun t => t.2.deferred.all (fun d => !s.deferredReady d)) &&
  !s.sTraffic x && !s.storesLeft (fun k => gangOf k = x) && !s.behind (fun k => gangOf k = x)

/-- A key of a core's scratchpad lies in a team's allocation. -/
def Team.owns (t : Team) (key : Nat) : Bool :=
  decide (spadKey t.core t.base ≤ key ∧ key < spadKey t.core t.base + t.scratch)

/-- The members' allocations go into the gang's image. -/
def State.saveImage (s : State) (x : Nat) (g : Gang) : Gang :=
  let one (t : Nat × Team) (m : List (Nat × Byte)) : SMap Byte :=
    m.map (fun e => (t.1 % 16 * 524288 + (e.1 - spadKey t.2.core t.2.base), e.2))
  { g with
    image := (s.members x).flatMap (fun t => one t (s.spad.filter (fun e => t.2.owns e.1)))
    imageBad := (s.members x).flatMap (fun t =>
      (s.spadBad.filter t.2.owns).map (fun x => t.1 % 16 * 524288 + (x - spadKey t.2.core t.2.base))) }

/-- The images are written and the cores freed. -/
def execGangSwapOut (gang : Nat) (s : State) : Host.Outcome State Fault Refusal :=
  let g := s.gangs.getD gang {}
  match g.place with
  | .swapping _ =>
    if s.swapReady gang then
      let cores := (s.members gang).map (fun t => t.2.core)
      let s := s.setGang gang { s.saveImage gang g with place := .swapped }
      .next (cores.foldl (fun s c => s.setCore c { s.core c with fpMark := s.waitClock }) s)
    else .next s
  | _ => .next s

/-- A member's allocation as its image holds it. -/
def State.readImage (s : State) (g : Gang) (t : Nat × Team) : State :=
  let lo := spadKey t.2.core t.2.base
  let own (k : Nat) : Bool := decide (k / 524288 = t.1 % 16)
  { s with
    spad := (g.image.filter (fun e => own e.1)).foldl (fun m e => SMap.insert m (lo + e.1 % 524288) e.2)
      (s.spad.filter (fun e => !t.2.owns e.1))
    spadBad := s.spadBad.filter (fun x => !t.2.owns x) ++ (g.imageBad.filter own).map (fun x => lo + x % 524288) }

/-- A returning gang's images have been read back: its records can resume (R332). -/
def execGangSwapIn (gang die origin : Nat) (s : State) : Host.Outcome State Fault Refusal :=
  let g := s.gangs.getD gang {}
  if g.place = .returning ∧ g.die = die ∧ g.origin = origin then
    let s := (s.members gang).foldl (fun s t => s.readImage g t) s
    .next (s.setGang gang { g with place := .placed, image := [], imageBad := [] })
  else .next s

/-- Firmware pre-empts a gang by the same means (R333). -/
def execFirmwarePreEmption (gang : Nat) (s : State) : Host.Outcome State Fault Refusal := .next (s.beginSwap gang 1)

/-! ### Resumption (R312, R334) -/

/-- A single group without scratchpad, tiles and gang may resume on any core of the package. -/
def State.floats (s : State) (k : Nat) : Bool :=
  let d := s.kernel k
  decide (d.ngroups = 1 ∧ d.scratch = 0 ∧ d.acc = 0 ∧ d.w = 1 ∧ d.h = 1)

/-- A queued record that only waits for a datapath: its gang is placed, its core not in a cluster drain. -/
def State.resumable (s : State) (k : Nat) (g : Group) : Bool :=
  g.place = .queued && (s.gang k).place = .placed && !(s.grid k).terminating && !(s.core (s.team k).core).drained

/-- The record may resume on a core. -/
def State.mayResumeOn (s : State) (k core : Nat) : Bool := (s.floats k && !(s.core core).drained) || (s.team k).core == core

/-- Records that were queued before, and may use the core, keep their place. -/
def State.ahead (s : State) (k core : Nat) (g : Group) : Bool :=
  s.groups.any (fun e => e.1 ≠ k && s.resumable e.1 e.2 && decide (e.2.resumeOrder < g.resumeOrder) && s.mayResumeOn e.1 core)

/-- The datapaths on which a record can resume now: any with room for a group that floats, else the one that R328 takes on
the team's core. -/
def State.resumePlaces (s : State) (k : Nat) (g : Group) : List (Nat × Nat) :=
  if !s.resumable k g || s.storesLeft (fun j => j = k) then []
  else
    let home := (s.team k).core
    let own := if s.ahead k home g then []
      else ((pickDp g.vregs (s.dpLoads home (teamOf k))).map (fun l => (home, l.dp))).toList
    if !s.floats k then own
    else if s.behind (fun j => j = k) then own
    else (List.range 448).flatMap (fun c =>
      if (s.core c).drained || s.ahead k c g then []
      else ((s.dpLoads c (teamOf k)).filter (fun l => l.admits g.vregs)).map (fun l => (c, l.dp)))

/-- A queued record resumes: the state of R26 and R308, at its REGION or role entry. -/
def execRecordResume (group : Nat) (s : State) : Host.Outcome State Fault Refusal :=
  match s.group? group with
  | none => .next s
  | some g =>
    match s.choose (s.resumePlaces group g) with
    | none => .next s
    | some ((core, dp), s) =>
      let s := s.setTeam (teamOf group) { s.team group with core := core }
      .next (s.setGroup group { g.restore with core := core, dp := dp, lastIssue := s.cycle })

/-! ### Forward progress (R331) -/

/-- A group that keeps its team from qualifying: held by a commit-class effect, in SYSREQ, or halted. -/
def State.pinned (s : State) (k : Nat) (g : Group) : Bool :=
  g.place = .resident && ((g.pairPending && s.outstanding k) || g.hold = .halted || match g.hold with
    | .sysreq _ _ _ _ => true
    | _ => false)

/-- Teams of a core that qualify, with the time since which each is resident. -/
def State.qualifying (s : State) (core : Nat) : List (Nat × Nat) :=
  (s.teams.filter (fun t => t.2.core = core && (s.gangs.getD (t.1 / 16) {}).place = .placed &&
    s.groups.all (fun e => decide (teamOf e.1 ≠ t.1) || !s.pinned e.1 e.2))).map (fun t => (t.1, t.2.residentSince))

/-- The core's count has reached 2^FPEXP while some gang waits. -/
def State.fpExpired (s : State) (core : Nat) : Bool :=
  s.gangWaits && decide (2 ^ bitsAt s.schedcfg.toNat 0 5 ≤ s.waitClock - (s.core core).fpMark)

/-- The gang of the team that has been resident longest is swapped out; which of equal ones is free. -/
def execForwardProgressExpiry (core : Nat) (s : State) : Host.Outcome State Fault Refusal :=
  if !s.fpExpired core then .next s
  else
    let q := s.qualifying core
    let oldest := q.filter (fun t => q.all (fun u => decide (t.2 ≤ u.2)))
    match s.choose oldest with
    | none => .next s
    | some (t, s) =>
      .next ((s.setCore core { s.core core with fpMark := s.waitClock }).beginSwap (t.1 / 16) 2)

/-- Steps of swaps and resumptions that the state admits. -/
def State.swapEvents (s : State) : List Instr :=
  s.gangs.filterMap (fun e => match e.2.place with
    | .swapping _ => if s.swapReady e.1 then some (.gangSwapOut e.1) else none
    | .returning => some (.gangSwapIn e.1 e.2.die e.2.origin)
    | _ => none) ++
  s.groups.filterMap (fun e => if (s.resumePlaces e.1 e.2).isEmpty then none else some (.recordResume e.1)) ++
  ((s.teams.map (fun t => t.2.core)).eraseDups.filter (fun c => s.fpExpired c && !(s.qualifying c).isEmpty)).map .forwardProgressExpiry

end Sys2Proof.Machine
end

