-- ==== Sys2Proof/Machine/Grids.lean ====
section
/-! DEFINITION. The grid scheduler: taking grids up, work queues, completion and termination (R305, R313 to R318, R321, R342). -/

namespace Sys2Proof.Machine

/-! ### Descriptors (R305, R313, R314) -/

/-- Read `n` bytes in a context as the grid scheduler does, or the fault that the read meets. -/
def State.readCtx (s : State) (c va n : Nat) : Except (Nat × Nat) (List Byte × State) :=
  match s.translate rootTlb c va .load with
  | .error e => .error e
  | .ok (key, p) =>
    if s.stackLost key || (List.range n).any (fun i => s.physBad.contains (key + i)) then .error (0x0A, 0)
    else .ok (s.getPhys p.owner key n, s.noteLeaf rootTlb c va p)

/-- Every byte of a list from one place on, up to another, is 0. -/
def zeros (bs : List Byte) (lo n : Nat) : Bool := decide (natAt bs lo n = 0)

/-- A kernel descriptor without its tables: CODE, TRAPOFF, LIVETAB, TEAMDESC, NLIVE; nothing where it is malformed. An address at or above
2^57 is no field out of range: LIVETAB and TEAMDESC fail as they are read, CODE at the first fetch (DEDUCED, log 38). -/
def parseKernel (bs : List Byte) : Option (Kernel × Nat × Nat × Nat) :=
  let code := natAt bs 0 8
  let live := natAt bs 8 8
  let team := natAt bs 16 8
  let n := natAt bs 28 2
  if !zeros bs 30 34 || decide (code % 64 ≠ 0) || decide (live % 64 ≠ 0) || decide (team % 64 ≠ 0) || decide (n = 0) ||
    decide (256 < n) then none
  else some ({ code := BitVec.ofNat 64 code, trapoff := natAt bs 24 4 }, live, team, n)

/-- A role slot of a team descriptor. -/
def parseSlot (bs : List Byte) (r : Nat) : RoleSlot :=
  let w := natAt bs (16 + 4 * r) 4
  { entry := bitsAt w 16 16, sregs := bitsAt w 8 8, vregs := 8 * bitsAt w 0 8 }

/-- A role slot is in its ranges: used by some group, or without register counts. -/
def RoleSlot.ok (x : RoleSlot) (used : Bool) : Bool :=
  if used then decide (8 ≤ x.sregs ∧ x.sregs ≤ 128 ∧ 32 ≤ x.vregs ∧ x.vregs ≤ 256) else decide (x.sregs = 0 ∧ x.vregs = 0)

/-- The team descriptor added to a kernel, or nothing where it is malformed. -/
def parseTeam (k : Kernel) (bs : List Byte) : Option Kernel :=
  let w := natAt bs 4 4
  let n := bitsAt w 0 5
  let rw_ := natAt bs 0 4
  let roles := (List.range n).map (fun g => bitsAt rw_ (2 * g) 2)
  let slots := (List.range 4).map (parseSlot bs)
  let k := { k with roles := roles, slots := slots, scratch := natAt bs 8 4, acc := bitsAt w 20 4, w := bitsAt w 12 4,
                    h := bitsAt w 16 4, ngroups := n }
  let ok := zeros bs 12 4 && zeros bs 32 32 && bitsAt w 5 7 == 0 && bitsAt w 24 8 == 0 && decide (1 ≤ n ∧ n ≤ 16) &&
    decide (rw_ < 4 ^ n) && decide (1 ≤ k.w ∧ k.w ≤ 4 ∧ 1 ≤ k.h ∧ k.h ≤ 4) && decide (k.acc ≤ 8) &&
    decide (k.scratch % 256 = 0 ∧ k.scratch ≤ 393216) &&
    (List.range 4).all (fun r => (slots.getD r {}).ok (roles.contains r))
  if ok then some k else none

/-- A live-set entry, or nothing where it is malformed. -/
def parseLive (bs : List Byte) : Option LiveSet :=
  let nv := natAt bs 0 1
  let ns := natAt bs 1 1
  let at_ (base n : Nat) : List Nat := (List.range n).map (fun i => natAt bs (base + i) 1)
  let vs := at_ 16 nv
  let ss := at_ 32 ns
  let ok := decide (nv ≤ 16 ∧ ns ≤ 16) && zeros bs 2 14 && zeros bs 48 16 && zeros bs (16 + nv) (16 - nv) &&
    zeros bs (32 + ns) (16 - ns) && decide (vs.eraseDups.length = nv ∧ ss.eraseDups.length = ns) &&
    ss.all (fun r => decide (r ≤ 127))
  if ok then some { vs := vs, ss := ss } else none

/-! ### Taking a grid up (R315) -/

/-- Some rectangle of one die has cores that hold a team each when empty. -/
def State.placeable (s : State) (k : Kernel) : Bool :=
  let vregs := k.roles.map (fun r => (k.slots.getD r {}).vregs)
  (rectangles k.w k.h).any (fun r => (List.range (k.w * k.h)).all (fun m =>
    (assignDps vregs (s.emptyLoads (cellCore k.w r m))).isSome))

/-- Code of a malformed descriptor. -/
def codeMalformed : Nat := 0x0802

/-- The live-set table's entries from `i` on. -/
def State.readLive (s : State) (c table : Nat) : Nat → Nat → Except Nat (List LiveSet × State)
  | 0, _ => .ok ([], s)
  | n + 1, i =>
    match s.readCtx c (table + 64 * i) 64 with
    | .error (a, b) => .error (a * 256 + b)
    | .ok (bs, s) =>
      match s.readLive c table n (i + 1) with
      | .error e => .error e
      | .ok (ls, s) =>
        match parseLive bs with
        | none => .error codeMalformed
        | some l => .ok (l :: ls, s)

/-- A grid's descriptors, or the code with which it fails. -/
def State.readKernel (s : State) (gr : Grid) : Except Nat (Kernel × State) :=
  if gr.lr.malformed then .error codeMalformed
  else match s.readCtx gr.ctx gr.lr.kdesc.toNat 64 with
    | .error (a, b) => .error (a * 256 + b)
    | .ok (kd, s) =>
      match parseKernel kd with
      | none => .error codeMalformed
      | some (k, live, team, n) =>
        match s.readCtx gr.ctx team 64 with
        | .error (a, b) => .error (a * 256 + b)
        | .ok (td, s) =>
          match s.readLive gr.ctx live n 0 with
          | .error e => .error e
          | .ok (ls, s) =>
            match parseTeam { k with live := ls } td with
            | none => .error codeMalformed
            | some k => if s.placeable k then .ok (k, s) else .error codeMalformed

/-- The grid scheduler takes a grid up: its gangs wait for placement, or it fails. -/
def execGridTakeUp (grid : Nat) (s : State) : Host.Outcome State Fault Refusal :=
  match s.grids.find? grid with
  | none => .next s
  | some gr =>
    if gr.kernel.isSome || gr.code.isSome then .next s
    else match s.readKernel gr with
      | .error code => .next (s.setGrid grid { gr with code := some code })
      | .ok (k, s) =>
        let s := s.setGrid grid { gr with kernel := some k }
        .next ((List.range gr.lr.ngangs).foldl (fun s i => s.setGang (grid * 65536 + i) { dispatched := gr.dispatched }) s)

/-! ### Work queues (R321) -/

/-- The grid scheduler takes the oldest record of a work queue as a grid at its PRIO. -/
def execWorkQueueTake (wq : Nat) (s : State) : Host.Outcome State Fault Refusal :=
  match s.workQueues.find? wq with
  | none => .next s
  | some w =>
    match w.ctx, w.recs with
    | some c, (_, r) :: rest =>
      .next ({ s with workQueues := s.workQueues.insert wq { w with recs := rest } }.newGrid c r.prio r (.workQueue wq))
    | _, _ => .next s

/-! ### Completion (R318, R259, R301) -/

/-- Every group of every team has ended, and the grid's copies, collectives, engine operations and accesses are done, its doorbells in the
tailstocks among them (R301). A grid that failed has none. -/
def State.gridDone (s : State) (n : Nat) (gr : Grid) : Bool :=
  (gr.kernel.isSome || gr.code.isSome) &&
  s.gangs.all (fun e => decide (e.1 / 65536 ≠ n) || decide (e.2.place = .retired)) &&
  s.copies.all (fun e => decide (gridOf e.2.group ≠ n)) &&
  s.colls.all (fun e => decide (e.2.team / 1048576 ≠ n) || e.2.retired) &&
  s.tails.all (fun e => e.2.all (fun t => decide (gridOf t.group ≠ n))) &&
  !s.storesLeft (fun k => gridOf k = n) && !s.behind (fun k => gridOf k = n)

/-- The completion word. -/
def Grid.word (gr : Grid) : Nat :=
  match gr.code with
  | none => 1
  | some c => 2 + c % 65536 * 65536

/-- Write the completion word as a store of the grid's context would be, or leave a fault record. -/
def State.writeDone (s : State) (n : Nat) (gr : Grid) : State :=
  if gr.lr.doneaddr = 0 then s
  else match s.translate rootTlb gr.ctx gr.lr.doneaddr.toNat .store with
    | .error (c, d) => s.pushFault 0 (faultBytes s (n * 16777216) {} { cause := c, detail := d, addr := gr.lr.doneaddr })
    | .ok (key, p) =>
      let s := s.noteLeaf rootTlb gr.ctx gr.lr.doneaddr.toNat p
      if s.stackLost key then s.errorRec 0 0 0 n 0 gr.lr.doneaddr 0 2 127 false
      else s.homeWrite gr.ctx p.owner key (leBytes 8 gr.word)

/-- Drop what the package holds of a grid. -/
def State.dropGrid (s : State) (n : Nat) : State :=
  { s with
    grids := s.grids.erase n
    gangs := s.gangs.filter (fun e => decide (e.1 / 65536 ≠ n))
    teams := s.teams.filter (fun e => decide (e.1 / 1048576 ≠ n))
    groups := s.groups.filter (fun e => decide (gridOf e.1 ≠ n))
    icache := s.icache.filter (fun e => decide (e.1 / 2 ^ 57 ≠ n)) }

/-- A grid completes: its word, its event, its number is free again. -/
def execGridCompletion (grid : Nat) (s : State) : Host.Outcome State Fault Refusal :=
  match s.grids.find? grid with
  | none => .next s
  | some gr =>
    if s.gridDone grid gr then
      let s := s.writeDone grid gr
      let s := if gr.lr.evt then s.postEvent gr.lr.evidx (.context gr.ctx) else s
      .next (s.dropGrid grid)
    else .next s

/-- Firmware terminates a grid with a code (R342). -/
def execTermination (grid : Nat) (code : BitVec 16) (s : State) : Host.Outcome State Fault Refusal :=
  .next (s.beginTermination grid (s.haltCode grid code.toNat))

/-- Grid-scheduler steps that the state admits. -/
def State.gridEvents (s : State) : List Instr :=
  s.grids.flatMap (fun e =>
    (if e.2.kernel.isNone && e.2.code.isNone then [.gridTakeUp e.1] else []) ++
    (if s.gridDone e.1 e.2 then [.gridCompletion e.1] else [])) ++
  s.workQueues.filterMap (fun e => if e.2.recs.isEmpty then none else some (.workQueueTake e.1))

end Sys2Proof.Machine
end

