-- ==== Sys2Proof/Machine/Slots.lean ====
section
/-! DEFINITION. User queues and the 32 hardware slots: kicks, scans and the firmware's slot rules (R322 to R325, R334). -/

namespace Sys2Proof.Machine

/-- A kick of doorbell index i (R322, R324). -/
def execKick (i : BitVec 12) (s : State) : Host.Outcome State Fault Refusal := .next (s.kickIdx i.toNat)

/-- A scan reads its packet (R323). -/
def execQueueReread (slot : Nat) (s : State) : Host.Outcome State Fault Refusal := .next (s.scanStep slot)

/-- A DEP packet's wait ends (R323). -/
def execDepPacketRelease (slot : Nat) (s : State) : Host.Outcome State Fault Refusal := .next (s.depRelease slot)

/-! ### The slot rules (R325) -/

/-- 100 µs of cycles at the present clock (log 3). -/
def State.idleCycles (s : State) : Nat := 100 * s.freq

/-- The cycles for which a slot's queue has been idle; nothing while it is scanned or free. -/
def State.idleTime (s : State) (h : HwSlot) : Option Nat :=
  if h.queue.isSome && !h.scanning then some (s.cycle - h.idleSince) else none

/-- The slots of a context's quota, in ascending order. -/
def State.quotaSlots (s : State) (c : Nat) : List (Nat × HwSlot) :=
  ((List.range 32).filter (s.ctx c).quota.contains).map (fun i => (i, s.slots.getD i {}))

/-- The slot with the greatest idle time; the first of equal ones. -/
def State.idlest (s : State) (l : List (Nat × HwSlot)) : Option (Nat × HwSlot) :=
  l.foldl (fun (best : Option (Nat × HwSlot)) x =>
    match best with
    | none => some x
    | some b => if (s.idleTime b.2).getD 0 < (s.idleTime x.2).getD 0 then some x else some b) none

/-- The slot that the three rules give a kicked queue. -/
def State.slotFor (s : State) (u : UserQueue) : Option (Nat × HwSlot) :=
  let q := s.quotaSlots u.ctx
  match q.find? (fun x => x.2.queue.isNone) with
  | some x => some x
  | none =>
    let idle := q.filter (fun x => match s.idleTime x.2 with
      | some t => decide (s.idleCycles ≤ t)
      | none => false)
    match s.idlest idle with
    | some x => some x
    | none =>
      let prio (x : Nat × HwSlot) : Nat := ((s.slotQueue x.2).map (·.prio)).getD 0
      let low := q.filter (fun x => (s.idleTime x.2).isSome && decide (prio x < u.prio))
      s.idlest (low.filter (fun x => low.all (fun y => decide (prio x ≤ prio y))))

/-- A queue is on some slot. -/
def State.mapped (s : State) (queue : Nat) : Bool := s.slots.any (fun e => e.2.queue = some queue)

/-- A queue waits to be mapped: its index has its pending bit set, or firmware has still to scan it (R324). -/
def State.pendingQueue (s : State) (queue : Nat) (u : UserQueue) : Bool :=
  !s.mapped queue && (s.pendingIdx.contains u.dbidx || s.fwScan.contains queue)

/-- Save a slot's queue to its control block (R322). -/
def State.unmapSlot (s : State) (h : HwSlot) : State :=
  match h.queue with
  | none => s
  | some q => { s with userQueues := s.userQueues.modify q (fun u => { u with read := h.read, xphase := h.xphase, stale := h.stale }) }

/-- Map a pending queue into the slot that the rules give: its index's pending bit is cleared and a scan starts; firmware goes
on to the other queues of the index (R324, R325). -/
def State.mapQueue (s : State) (queue : Nat) : State :=
  match s.userQueues.find? queue with
  | none => s
  | some u =>
    if !s.pendingQueue queue u then s
    else match s.slotFor u with
      | none => s
      | some (i, h) =>
        let s := s.unmapSlot h
        let others := (s.userQueues.filter (fun e => e.2.dbidx = u.dbidx && !s.mapped e.1 && e.1 ≠ queue)).map (·.1)
        let more := if s.pendingIdx.contains u.dbidx then others.filter (fun q => !s.fwScan.contains q) else []
        let h : HwSlot := { queue := some queue, read := u.read, xphase := u.xphase, stale := u.stale, idleSince := s.cycle }
        { s with
          slots := s.slots.insert i (h.start false), pendingIdx := s.pendingIdx.filter (· ≠ u.dbidx),
          fwScan := s.fwScan.filter (· ≠ queue) ++ more }

/-- Put a queue into a list ordered by doorbell index, then number. -/
def insertIdx (x : Nat × Nat) : List (Nat × Nat) → List (Nat × Nat)
  | [] => [x]
  | y :: ys => if x.1 < y.1 ∨ (x.1 = y.1 ∧ x.2 < y.2) then x :: y :: ys else y :: insertIdx x ys

/-- The pending queues, by ascending index. -/
def State.pendingOrder (s : State) : List Nat :=
  (((s.userQueues.filter (fun e => s.pendingQueue e.1 e.2)).map (fun e => (e.2.dbidx, e.1))).foldr insertIdx []).map (·.2)

/-- Firmware maps a kicked queue (R325). -/
def execQueueMap (queue : Nat) (s : State) : Host.Outcome State Fault Refusal := .next (s.mapQueue queue)

/-- A mapped queue reaches 100 µs of idleness: firmware serves the pending indices in ascending order (R325). -/
def execQueueIdleExpiry (slot : Nat) (s : State) : Host.Outcome State Fault Refusal :=
  match s.idleTime (s.slots.getD slot {}) with
  | some t => if s.idleCycles ≤ t then .next (s.pendingOrder.foldl State.mapQueue s) else .next s
  | none => .next s

/-- Steps of the slots that the state admits. -/
def State.slotEvents (s : State) : List Instr :=
  s.slots.filterMap (fun e =>
    if e.2.depWait.isSome then (if (e.2.queue.map s.queueBusy).getD true then none else some (.depPacketRelease e.1))
    else if e.2.scanning then some (.queueReread e.1) else none) ++
  (s.pendingOrder.find? (fun q => ((s.userQueues.find? q).bind s.slotFor).isSome)).toList.map .queueMap

end Sys2Proof.Machine
end

