-- ==== Sys2Proof/Machine/Firmware.lean ====
section
/-! DEFINITION. Firmware and the debug agent: fault records, page faults, invalidation, SYSREQ services, debugging, and the
cluster drain (R231, R232, R340, R342, R347, R349 to R357). -/

namespace Sys2Proof.Machine

/-! ### Fault records (R340, R341) -/

/-- The record that a core holds as its oldest is the oldest of all that wait. -/
def State.oldestWait (s : State) (n : Nat) : Bool := s.cores.all (fun c => c.2.faultWait.all (fun r => decide (n ≤ r.1)))

/-- Records that wait in their cores enter the fault queue in their order when there is room. -/
def execFaultRecordEnqueue (core : Nat) (s : State) : Host.Outcome State Fault Refusal :=
  match (s.core core).faultWait with
  | [] => .next s
  | r :: rest =>
    if s.faultQueue.length < 1024 && s.oldestWait r.1 then
      .next ({ s with faultQueue := s.faultQueue ++ [r.2] }.setCore core { s.core core with faultWait := rest })
    else .next s

/-- Firmware or the debug agent takes a group's record from the fault queue. -/
def State.takeRecord (s : State) (k : Nat) : Option (List Byte) × State :=
  match s.faultQueue.find? (s.recordOfGroup k) with
  | none => (none, s)
  | some r => (some r, { s with faultQueue := s.faultQueue.erase r })

/-! ### Page tables (R229, R231) -/

/-- The address of the entry of a level for a virtual address. Firmware makes the tables above it that are missing, each of zeros at
the next place it keeps for tables (log 35); under a larger leaf there is none. -/
def State.tableFor (s : State) (table va : Nat) (level : Nat) : Nat → Option (Nat × State)
  | 0 => none
  | n + 1 =>
    let entries := if n = 0 then 32 else 512
    let a := table + 8 * (va / 2 ^ levelShift n % entries)
    if n = level then some (a, s)
    else
      let p : Pte := ⟨BitVec.ofNat 64 (leNat ((List.range 8).map (fun i => s.rawByte (a + i))))⟩
      if p.valid then (if p.leaf then none else s.tableFor p.addr va level n)
      else
        let t := s.tableNext
        let s := { s with tableNext := t + 4096 }.setPhys 0 t (List.replicate 4096 0)
        (s.setPhys 0 a (leBytes 8 (t + 1))).tableFor t va level n

/-- Firmware writes a page-table entry, or nothing where a larger leaf stands above it. -/
def State.writePte (s : State) (c va level : Nat) (pte : DWord) : Option State :=
  (s.tableFor (s.ctx c).root va level 5).map (fun x => x.2.setPhys 0 x.1 (leBytes 8 pte.toNat))

/-- The page kinds that a window of the system tier admits (R363): firmware maps a leaf of TIER 0b10 in one of the windows only, with
such a kind. -/
def Pte.windowOk (p : Pte) : Bool :=
  if p.tier ≠ 2 then true
  else match destOf (physKey 2 p.addr) with
    | .memory => true
    | .endpoint => p.isSO || p.isUN
    | .kick _ | .event _ => p.isSO
    | _ => false

/-- A parked group resumes: its record is queued (R340). -/
def State.unpark (s : State) (k : Nat) : State :=
  let (n, s) := s.newId
  s.modGroup k (fun g => { g with place := .queued, resumeOrder := n })

/-- The store-buffer entries of lines that hold bytes of stores to some pages, contexts' by number, with their cores. -/
def State.bufUnder (s : State) (hit : Nat × Nat → Bool) : List (Nat × BufLine) :=
  s.cores.flatMap (fun c =>
    let lines := (c.2.storeBuf.filter (fun l => l.pages.any hit)).map (·.line)
    (c.2.storeBuf.filter (fun l => lines.contains l.line)).map (fun l => (c.1, l)))

/-- Such entries reach their homes; and whether a stack in self-refresh holds one of them back (R235), or another package has still to take
or to acknowledge one (R215). -/
def State.flushPages (s : State) (hit : Nat × Nat → Bool) : State := (s.bufUnder hit).foldl (fun s e => s.writeback e.1 e.2.line) s
def State.flushWaits (s : State) (hit : Nat × Nat → Bool) : Bool :=
  (s.bufUnder hit).any (fun e => !s.stackServes e.2.id (e.2.line * 64) || destOf (e.2.line * 64) = .remote) ||
  s.cores.any (fun c => c.2.away.any (fun l => l.pages.any hit))

/-! ### SYSREQ (R347) -/

/-- The result of a service, and what it does. -/
def State.service (s : State) (k : Nat) (n : Nat) (a : DWord) : DWord × State :=
  let c := s.ctxOf k
  match n with
  | 0 => (a, s)
  | 1 => (BitVec.ofNat 64 (s.time / 1000000), s)
  | 2 => (0, s.setCtx c { s.ctx c with log := (s.ctx c).log ++ [(a, gridOf k, k)] })
  | 3 =>
    let e := a.toNat % 256
    if (s.event e).ctx = some c then (0, s.postEvent e .systemCore) else (BitVec.allOnes 64, s)
  | 4 => ((s.ctx c).dbbase, s)
  | _ => (BitVec.allOnes 64, s)

/-- Firmware performs a service and the group goes on to its REGION. -/
def execSysreqServiceComplete (group : Nat) (s : State) : Host.Outcome State Fault Refusal :=
  if !s.sysreqQueue.contains group then .next s
  else match s.group? group with
    | none => .next s
    | some g =>
      match g.hold with
      | .sysreq n a d next =>
        let (r, s) := s.service group n a
        .next ({ s with sysreqQueue := s.sysreqQueue.erase group }.setGroup group
          { g.wp d r with hold := .ready, pc := next })
      | _ => .next s

/-! ### Debugging (R349 to R354) -/

/-- The debug agent releases a halted group; its record has been taken (R349, R353). -/
def execDebugRelease (group : Nat) (single : Bool) (s : State) : Host.Outcome State Fault Refusal :=
  match s.group? group with
  | none => .next s
  | some g =>
    if g.hold = .halted then
      .next ((s.takeRecord group).2.setGroup group { g with hold := .ready, singleStep := single, lastIssue := s.cycle })
    else .next s

/-- Firmware stops a group of a debugged context at its next region point (R343). -/
def execFirmwareStop (group : Nat) (s : State) : Host.Outcome State Fault Refusal :=
  if s.armed group then .next (s.modGroup group (fun g => if g.place = .resident then { g with fwStop := true } else g))
  else .next s

/-- Bits of a breakpoint register that are not reserved (R350). -/
def bpaMask : DWord := 0x01FFFFFFFFFFFFFD

/-- Writes to a halted group; breakpoints are firmware's to write at any time (R349, R350, R352). -/
def execDebugRegisterWrite (group : Nat) (t : DebugTarget) (value : DWord) (s : State) : Host.Outcome State Fault Refusal :=
  match s.group? group with
  | none => .next s
  | some g =>
    let halted := g.hold = .halted
    match t with
    | .vreg n lane =>
      if halted ∧ n.toNat < g.vregs ∧ lane < 96 ∧ g.live lane then .next (s.setGroup group (g.wv n.toNat lane (loWord value)))
      else .next s
    | .sreg n =>
      if halted ∧ (n.toNat < g.sregs ∨ 125 ≤ n.toNat) then .next (s.setGroup group (g.ws n.toNat (loWord value))) else .next s
    | .pc => if halted then .next (s.setGroup group { g with pc := value, half1 := false, waitFrom := none, waitTest := none, waitMet := none }) else .next s
    | .bpa n => .next (s.setGroup group { g with bpa := g.bpa.setD n.toNat (value &&& bpaMask) 0 })
    | .bpd n => .next (s.setGroup group { g with bpd := g.bpd.setD n.toNat value 0 })
    | .debugged => .next (s.setCtx (s.ctxOf group) { s.ctx (s.ctxOf group) with debugged := decide (value ≠ 0) })

/-! ### Cluster drain (R355 to R357) -/

/-- The cores of a cluster. -/
def clusterCores (k : Nat) : List Nat := (List.range 448).filter (fun c => clusterOf c = k)

/-- Take datapaths of a core out of service (R32). -/
def State.dpsOut (s : State) (core : Nat) (dps : List Nat) : State :=
  let c := s.core core
  s.setCore core { c with oos := c.oos ++ dps.filter (fun d => !c.oos.contains d) }

/-- Pre-empt every gang with a team on a core, or with a group on one of its datapaths (R32, R333). -/
def State.clearCore (s : State) (core : Nat) (dps : List Nat) : State :=
  let teams := s.teams.filter (fun t => t.2.core = core &&
    (decide (dps.length = 4) || s.groups.any (fun e => teamOf e.1 = t.1 && e.2.place ≠ .gone && dps.contains e.2.dp)))
  ((teams.map (fun t => t.1 / 16)).eraseDups).foldl (fun s x => s.beginSwap x 1) s

/-! ### Scheduler machines (R355) -/

/-- The groups resident on a datapath, by slot. -/
def State.slotGroups (s : State) (core dp : Nat) : List Group :=
  (s.groups.filter (fun e => e.2.place = .resident && e.2.core = core && e.2.dp = dp)).map (·.2)

/-- The place of a resident group's state among FREE, READY, STALLED, WAITING, PINNED, HALTED (log 55). -/
def Group.slotBit (g : Group) : Nat :=
  if g.hold = .halted then 5
  else if g.pairPending then 4
  else match g.hold with
    | .ready => 1
    | .waiting => 2
    | .sysreq _ _ _ _ => 4
    | _ => 3

/-- The slot that a datapath's starvation pointer names: that of the group whose last issue is oldest (R330). -/
def State.starvedSlot (s : State) (core dp : Nat) : Nat :=
  let gs := s.slotGroups core dp
  ((List.range gs.length).find? (fun i => gs.all (fun g => decide ((gs.getD i {}).lastIssue ≤ g.lastIssue)))).getD 0

/-- The one bit that a machine of a core has set: 0 to 31 the slots of the datapaths, 32 to 35 the rotations, 36 to 39 the starvation
pointers. -/
def State.machineBit (s : State) (core m : Nat) : Nat :=
  if m < 32 then (((s.slotGroups core (m / 8))[m % 8]?).map Group.slotBit).getD 0
  else if m < 36 then (s.core core).dpRole.getD (m - 32) 3
  else s.starvedSlot core (m - 36)

/-- The bits set in a machine's state, with those that an error has flipped. -/
def State.machineBits (s : State) (core m : Nat) : List Nat :=
  let flips := ((s.core core).machFlip.filter (fun f => f.1 = m)).map (·.2)
  (List.range 8).filter (fun b => (b == s.machineBit core m) != flips.contains b)

/-- A machine with no bit set, or more than one, is in an illegal state (R355). -/
def State.illegalMachine (s : State) (core : Nat) : Bool :=
  ((s.core core).machFlip.map (·.1)).any (fun m => decide ((s.machineBits core m).length ≠ 1))

/-- An error flips a bit of some machine of a core. -/
def State.strikeMachine (s : State) (which n : Nat) : State :=
  let core := which % 448
  let m := n % 40
  let b := n / 40 % (if m < 32 then 6 else if m < 36 then 4 else 8)
  let c := s.core core
  if c.machFlip.contains (m, b) then s else s.setCore core { c with machFlip := c.machFlip ++ [(m, b)] }

/-- An illegal state is found: the cluster stops issuing, and its resident groups are to be discarded with CAUSE 7; a second
drain within a second takes the cluster's datapaths out of service, which is measured and reported (R356, R357, R388, R394). -/
def execIllegalStateCheck (core : Nat) (s : State) : Host.Outcome State Fault Refusal :=
  if 448 ≤ core then .next s
  else
    let k := clusterOf core
    let cores := clusterCores k
    let again := match s.lastDrain.find? k with
      | some t => decide (s.cycle - t ≤ 1000000 * s.freq)
      | none => false
    let s := cores.foldl (fun s c => s.setCore c { s.core c with drained := true, dpRole := [], machFlip := [] }) s
    let s : State := { s with groups := s.groups.map (fun (e : Nat × Group) =>
      if e.2.place = .resident ∧ cores.contains e.2.core then (e.1, { e.2 with stopCause := some 7 }) else e) }
    let s := s.errorRec core 0 0 0 0 0 0 10 127 false
    let s := s.pushFault core (faultBytes s 0 { core := core } { cause := 0x0C })
    let s := { s with lastDrain := s.lastDrain.insert k s.cycle }
    .next (if again then ((cores.foldl (fun s c => (s.dpsOut c [0, 1, 2, 3]).clearCore c [0, 1, 2, 3]) s).extendOpen 7).lose .cluster k else s)

/-- A drained cluster may issue again: 4,000 cycles have passed and every group that was resident has been discarded (R356). -/
def State.drainOver (s : State) (k : Nat) : Bool :=
  (clusterCores k).any (fun c => (s.core c).drained) && decide (s.lastDrain.getD k 0 + 4000 ≤ s.cycle) &&
  s.groups.all (fun e => decide (e.2.place ≠ .resident ∨ e.2.stopCause ≠ some 7) || !(clusterCores k).contains e.2.core)

/-- The group table of a core cannot be read: the grids of its teams end with CAUSE 0x0D (R357). -/
def State.tableLost (s : State) (core : Nat) : State :=
  let grids := ((s.teams.filter (fun t => t.2.core = core && GangPlace.holds (s.gangs.getD (t.1 / 16) {}).place)).map
    (fun t => t.1 / 1048576)).eraseDups
  grids.foldl (fun s n =>
    (s.pushFault core (faultBytes s (n * 16777216) { core := core } { cause := 0x0D })).beginTermination n (s.haltCode n 0x0D00)) s

/-- Issue resumes; the records resume by R312. Where a core's group table is lost, which core's is open. -/
def execClusterDrainResume (cluster : Nat) (tableOk : Bool) (s : State) : Host.Outcome State Fault Refusal :=
  if !s.drainOver cluster then .next s
  else
    let s := (clusterCores cluster).foldl (fun s c => s.setCore c { s.core c with drained := false }) s
    if tableOk then .next s
    else match s.choose (clusterCores cluster) with
      | none => .next s
      | some (c, s) => .next (s.tableLost c)

/-- What firmware does about a page fault at an address is its own: it maps some page there, or terminates (R232, log 35). -/
def State.pageChoice (s : State) (va : Nat) : PageService :=
  if Config.freeChoice s.fresh then .mapPage va 0 (Config.freeBits s.fresh) else .terminate

/-- Firmware steps that the state admits: services, the termination of grids for faults that are no page faults (R342), illegal states
of scheduler machines (R355), the end of drains. -/
def State.firmwareEvents (s : State) : List Instr :=
  s.sysreqQueue.map .sysreqServiceComplete ++
  s.cores.filterMap (fun c => if c.2.faultWait.isEmpty ∨ 1024 ≤ s.faultQueue.length then none else some (.faultRecordEnqueue c.1)) ++
  s.groups.filterMap (fun e =>
    if e.2.place = .parked ∧ s.faultQueue.any (s.recordOfGroup e.1) then
      some (.pageFaultService e.1 (if e.2.rcd.map (·.cause) = some 3 then
        s.pageChoice (((s.faultQueue.find? (s.recordOfGroup e.1)).map (fun r => natAt r 24 8)).getD 0) else .terminate)) else none) ++
  s.copies.filterMap (fun e => e.2.paused.map (fun p => .copyResume ⟨e.1, s.pageChoice p.1.toNat⟩)) ++
  (s.cores.filter (fun c => s.illegalMachine c.1)).map (fun c => .illegalStateCheck c.1) ++
  (((s.cores.filter (fun c => c.2.drained)).map (fun c => clusterOf c.1)).eraseDups.filter s.drainOver).map
    (fun k => .clusterDrainResume k true)

end Sys2Proof.Machine
end

