-- ==== Sys2Proof/Machine/Hbm.lean ====
section
/-! DEFINITION. The HBM4E controllers (R233 to R236), the die-to-stack links
(R383, R384, R394). -/

namespace Sys2Proof.Machine

/-! ### Pseudo-channels (R233, R234): a key is stack × 65,536 + number -/

def State.pch (s : State) (n : Nat) : PseudoCh := s.pchs.getD n {}
def State.setPch (s : State) (n : Nat) (p : PseudoCh) : State := { s with pchs := s.pchs.setD n p {} }
def State.stack (s : State) (n : Nat) : StackSt := s.hbmStacks.getD n {}
def State.setStack (s : State) (n : Nat) (x : StackSt) : State := { s with hbmStacks := s.hbmStacks.setD n x {} }

/-- The XOR of a row number's successive 6-bit fields. -/
def rowHash : Nat → Nat → Nat
  | 0, _ => 0
  | fuel + 1, row => Nat.xor (row % 64) (rowHash fuel (row / 64))

/-- The counter entry of an access. -/
def policyEntry (bank row : Nat) : Nat := bank * 64 + rowHash 11 row

/-- The bank's update of the counter of the row accessed before. -/
def PseudoCh.learn (p : PseudoCh) (bank row : Nat) : PseudoCh :=
  match p.prevRow.find? bank with
  | none => p
  | some old =>
    let e := policyEntry bank old
    let c := p.policy.getD e 2
    { p with policy := p.policy.setD e (if old = row then min 3 (c + 1) else c - 1) 2 }

/-- A bank serves a request: the counter of the previous row is updated, and the row stays open or is closed (R233). -/
def PseudoCh.serve (p : PseudoCh) (now bank row : Nat) : PseudoCh :=
  let p := p.learn bank row
  let keep := decide (2 ≤ p.policy.getD (policyEntry bank row) 2)
  { p with
    openRow := if keep then p.openRow.insert bank row else p.openRow.erase bank, prevRow := p.prevRow.insert bank row,
    served := p.served.insert bank now }

/-- Requests that waited are served in their order (R234, R235). -/
def PseudoCh.serveAll (p : PseudoCh) (now : Nat) : PseudoCh :=
  p.queue.foldl (fun p r => p.serve now r.1 r.2.1) { p with queue := [] }

/-- A bank ended serving a request within the 3,300 cycles before the slot. -/
def State.bankServed (s : State) (p : PseudoCh) (bank : Nat) : Bool :=
  match p.served.find? bank with
  | some t => decide (s.cycle ≤ t + 3300)
  | none => false

/-- A bank is active: a request is queued at it, or it ended serving one within 1,000 ns (R234). -/
def State.bankActive (s : State) (p : PseudoCh) (bank : Nat) : Bool := p.queue.any (fun r => r.1 = bank) || s.bankServed p bank

/-- A bank's slot (R234); a stack in self-refresh refreshes itself. -/
def execRefreshSlot (pch : Nat) (s : State) : Host.Outcome State Fault Refusal :=
  let p := s.pch pch
  let bank := p.slot % 16
  let st := s.stack (pch / 65536)
  let next : PseudoCh := { p with slot := p.slot + 1 }
  if p.allBank || st.selfRefresh || st.oos then .next (s.setPch pch next)
  else if !s.bankActive p bank then
    .next (s.setPch pch { next with
      openRow := p.openRow.erase bank, prevRow := p.prevRow.erase bank, refreshing := bank :: p.refreshing })
  else
    let a := p.allowance.getD bank 8
    if 0 < a then .next (s.setPch pch { next with allowance := p.allowance.setD bank (a - 1) 8 })
    else .next (s.setPch pch { next with openRow := [], prevRow := [], allBank := true, allowance := [] })

/-- A refresh ends, and the requests that waited for it are served (R234). -/
def execRefreshEnd (pch : Nat) (s : State) : Host.Outcome State Fault Refusal :=
  let p : PseudoCh := { s.pch pch with refreshing := [], allBank := false }
  .next (s.setPch pch (if (s.stack (pch / 65536)).selfRefresh then p else p.serveAll s.cycle))

/-! ### Critical temperature (R235, R236) -/

/-- The stack enters self-refresh: its requests wait. -/
def execStackCriticalTemp (stack : Nat) (s : State) : Host.Outcome State Fault Refusal :=
  let x := s.stack stack
  if 8 ≤ stack || x.oos || x.selfRefresh then .next s
  else .next (s.setStack stack { x with selfRefresh := true, heldSince := some s.cycle })

/-- The stack leaves self-refresh: its held requests may be performed, and its allowances are 8. Its open rows and the rows of its last
accesses stay as they were (log 43). -/
def execStackResume (stack : Nat) (s : State) : Host.Outcome State Fault Refusal :=
  let x := s.stack stack
  if !x.selfRefresh then .next s
  else
    let s := s.setStack stack { x with selfRefresh := false, heldSince := none }
    .next { s with pchs := s.pchs.map (fun e => if e.1 / 65536 = stack then
      (e.1, ({ e.2 with allowance := [] } : PseudoCh).serveAll s.cycle) else e) }

/-- The episode has lasted 2 ms since it began or since its last report (at the present clock, log 3). -/
def State.stallDue (s : State) (stack : Nat) : Bool :=
  match (s.stack stack).heldSince with
  | some t => decide (t + 2000 * s.freq < s.cycle)
  | none => false

/-- A held episode longer than 2 ms is reported, once for each 2 ms. -/
def execMemoryStallEvent (stack : Nat) (s : State) : Host.Outcome State Fault Refusal :=
  if s.stallDue stack then
    let x := s.stack stack
    .next ((s.setStack stack { x with heldSince := x.heldSince.map (· + 2000 * s.freq) }).send { kind := .report, dest := stack })
  else .next s

/-! ### Die-to-stack links (R383, R384, R394) -/

/-- A stack is lost: it holds nothing any more, its loads are marked, its stores dropped (R394). -/
def State.stackOut (s : State) (stack : Nat) : State :=
  let x := s.stack stack
  if 8 ≤ stack || x.oos then s
  else (s.setStack stack { x with oos := true, selfRefresh := false, heldSince := none }).lose .stack stack

def execStackOutOfService (stack : Nat) (s : State) : Host.Outcome State Fault Refusal := .next (s.stackOut stack)

/-- A key slot of a stack's link. -/
def StackSt.key (x : StackSt) (b : Bool) : KeySlot := if b then x.key1 else x.key0
def StackSt.setKey (x : StackSt) (b : Bool) (k : KeySlot) : StackSt := if b then { x with key1 := k } else { x with key0 := k }

/-- A fresh key goes into the idle slot, and new requests carry that slot (R384). -/
def StackSt.switch (x : StackSt) : StackSt := { x.setKey (!x.slot) { live := true } with slot := !x.slot }

/-- A request that carries a slot is outstanding: at a controller, or held in self-refresh (R384). -/
def State.slotUsed (s : State) (stack : Nat) (b : Bool) : Bool :=
  s.pchs.any (fun p => p.1 / 65536 = stack && p.2.queue.any (fun r => r.2.2 == b)) ||
  (s.stack stack).held.any (fun r => s.alive r.1 && (s.stack stack).heldSlots.contains (r.1, r.2, b))

/-- A flit group fails its tag: it is replayed up to 8 times, then the link retrains once with fresh keys in both slots, or the stack is
lost (R383, R394). Whether the group is the one that failed before is free. -/
def State.tagFail (s : State) (stack : Nat) (retrainOk : Bool) : State :=
  let x := s.stack stack
  let (same, s) := s.freeBool
  let n := if same then x.replays else 0
  if n < 8 then s.setStack stack { x with replays := n + 1 }
  else if retrainOk && !x.retrained then
    s.setStack stack { x with replays := 0, retrained := true, key0 := { live := true }, key1 := { live := true } }
  else s.stackOut stack

def execStackLinkTagFail (stack : Nat) (retrainOk : Bool) (s : State) : Host.Outcome State Fault Refusal :=
  if 8 ≤ stack || (s.stack stack).oos then .next s else .next (s.tagFail stack retrainOk)

def execKeySwitch (stack : Nat) (s : State) : Host.Outcome State Fault Refusal :=
  let x := s.stack stack
  if 8 ≤ stack || x.oos || (x.key (!x.slot)).live then .next s else .next (s.setStack stack x.switch)

/-- The old slot is retired, its key overwritten, when no request that carries it is outstanding. -/
def execKeySlotRetire (stack : Nat) (s : State) : Host.Outcome State Fault Refusal :=
  let x := s.stack stack
  if !(x.key (!x.slot)).live || s.slotUsed stack (!x.slot) then .next s else .next (s.setStack stack (x.setKey (!x.slot) {}))

/-- One flit group each way under a slot, all good (R383). -/
def StackSt.count (x : StackSt) (b : Bool) : StackSt :=
  let k := x.key b
  { x.setKey b { k with down := k.down + 1, up := k.up + 1 } with replays := 0, retrained := false }

/-- A request reaches the controller: its bank serves it, or it is queued while the bank is refreshing or the stack in self-refresh
(R234, R235). -/
def State.atController (s : State) (pch bank row : Nat) (slot : Bool) : State :=
  let p := s.pch pch
  if p.allBank || p.refreshing.contains bank || (s.stack (pch / 65536)).selfRefresh then
    s.setPch pch { p with queue := p.queue ++ [(bank, row, slot)] }
  else s.setPch pch (p.serve s.cycle bank row)

/-- A request goes to its stack under a key slot: one that is empty or retired fails its tag (R384); one that has enciphered 2^31 flit groups
makes the sender switch first, or wait while the other slot is in use (R383). -/
def execHbmAccess (pch bank : Nat) (f : StackFlit) (s : State) : Host.Outcome State Fault Refusal :=
  let n := pch / 65536
  let x := s.stack n
  if 16 ≤ bank || x.oos then .next s
  else if !(x.key f.slot).live then let (ok, s) := s.freeBool; .next (s.tagFail n ok)
  else if (x.key f.slot).down < 2147483648 then .next ((s.setStack n (x.count f.slot)).atController pch bank f.row f.slot)
  else if (x.key (!f.slot)).live then .next s
  else .next ((s.setStack n ((x.switch).count (!f.slot))).atController pch bank f.row (!f.slot))

/-- Steps of the memory controllers that the state admits. -/
def State.hbmEvents (s : State) : List Instr :=
  s.pchs.flatMap (fun e => if e.2.allBank || !e.2.refreshing.isEmpty then [.refreshEnd e.1, .refreshSlot e.1] else [.refreshSlot e.1]) ++
  (s.hbmStacks.filter (fun e => s.stallDue e.1)).map (fun e => .memoryStallEvent e.1)

end Sys2Proof.Machine
end

