-- ==== Sys2Proof/Machine/Caliper.lean ====
section
/-! DEFINITION. The caliper's replays and verdicts, arrays and datapaths taken out of service, and the clock (R32, R391 to
R393). -/

namespace Sys2Proof.Machine

/-! ### Losses of arrays and datapaths (R32, R392, R394) -/

/-- An array of a core is disabled: MR7 is extended and the loss reported. One that is disabled already is no change (R388). -/
def State.arrayOff (s : State) (core j : Nat) : State :=
  let c := s.core core
  if !c.arrayEn.getLsbD j then s
  else ((s.setCore core { c with arrayEn := c.arrayEn &&& ~~~(BitVec.ofNat 4 (2 ^ j)) }).extendOpen 7).lose .array (core * 4 + j)

/-- Datapaths of a core are taken out of service, and the gangs with a team there are pre-empted; nothing changes where all are out
already (R388). -/
def State.datapathsOff (s : State) (core : Nat) (dps : List Nat) (why : Loss) : State :=
  if dps.all (fun d => (s.core core).oos.contains d) then s
  else (((s.dpsOut core dps).clearCore core dps).extendOpen 7).lose why (if why = .datapath then core * 4 + dps.headD 0 else core)

/-- The caliper disables an array of a core; its second one costs the core its datapaths (R392). -/
def State.caliperArray (s : State) (core j : Nat) : State :=
  let s := s.arrayOff core j
  let c := s.core core
  let s := s.setCore core { c with calArrays := c.calArrays ++ [j] }
  if c.calArrays.isEmpty then s else s.datapathsOff core [0, 1, 2, 3] .core

/-! ### Samples (R391) -/

/-- End a sample: its pins are released, and entries kept only for it go. -/
def State.endSample (s : State) (id : Nat) (x : Sample) : State :=
  let c := s.core x.core
  let cache := c.opCache.map (fun e => { e with pins := e.pins.filter (· ≠ id) })
  { s.setCore x.core { c with opCache := cache.filter (fun e => !e.dropped || !e.pins.isEmpty) } with samples := s.samples.erase id }

/-- The lowest core of the cluster whose engine queue is empty, other than the sampled core and those that replayed before. -/
def State.replayCore (s : State) (x : Sample) : Option Nat :=
  (clusterCores (clusterOf x.core)).find? (fun c =>
    decide (c ≠ x.core) && !(x.replays.map (·.1)).contains c && (s.core c).engine.isEmpty)

/-- A sample still needs a replay: the first, or a second after a mismatch. -/
def Sample.open_ (x : Sample) : Bool := decide (x.replays.length < 2)

/-- A register that counts and saturates. -/
def satInc (w : Word) : Word := if w = BitVec.allOnes 32 then w else w + 1

/-- A sample is older than 1 ms (at the present clock, log 3). -/
def State.sampleOld (s : State) (x : Sample) : Bool := x.open_ && decide (x.start + 1000 * s.freq ≤ s.cycle)

/-- A sample is skipped and counted. -/
def State.skipSample (s : State) (id : Nat) (x : Sample) : State :=
  let s := s.endSample id x
  let k := s.core x.core
  s.setCore x.core { k with calSkip := k.calSkip + 1 }

/-- A replay is complete: a first one that agrees ends the sample. One that ends more than 1 ms after the drain comes too late. -/
def execCaliperReplay (id : Nat) (crc : Word) (s : State) : Host.Outcome State Fault Refusal :=
  match s.samples.find? id with
  | none => .next s
  | some x =>
    if !x.open_ then .next s
    else if s.sampleOld x then .next (s.skipSample id x)
    else match s.replayCore x with
      | none => .next s
      | some c =>
        let first := x.replays.isEmpty
        let k := s.core x.core
        let s := if first then s.setCore x.core { k with calSamp := satInc k.calSamp } else s
        if first && crc == x.sig then .next (s.endSample id x)
        else .next { s with samples := s.samples.insert id { x with replays := x.replays ++ [(c, crc)] } }

/-- The sampled tile's UCE bit is set, unless the team has retired (R392). -/
def State.markSample (s : State) (x : Sample) : State :=
  if (s.gangs.find? (gangOf x.group)).isNone || (s.gang x.group).place = .retired then s
  else
    let t := s.tile x.group x.tile
    s.setTile x.group x.tile { t with status := t.status ||| BitVec.ofNat 32 stUCE }

/-- The original array is faulty: which of the core's enabled arrays it is, no CRC tells (log 41). -/
def State.arrayFault (s : State) (x : Sample) : State :=
  let on := (List.range 4).filter (fun j => (s.core x.core).arrayEn.getLsbD j)
  match s.choose on with
  | none => s
  | some (j, s) =>
    let s := (s.caliperArray x.core j).errorRec x.core 0 0 (gridOf x.group) x.pc 0 (j * 1024) 7 127 false
    let k := s.core x.core
    (s.setCore x.core { k with calFail := k.calFail + 1 }).markSample x

/-- The verdict after a second replay (R391). -/
def execCaliperVerdict (id : Nat) (s : State) : Host.Outcome State Fault Refusal :=
  match s.samples.find? id with
  | none => .next s
  | some x =>
    match x.replays with
    | [(c, a), (_, b)] =>
      let s := s.endSample id x
      if b = x.sig then
        let k := s.core x.core
        .next (s.setCore x.core { k with calTrans := k.calTrans + 1 })
      else if b = a then .next (s.arrayFault x)
      else
        let s := s.arrayFault x
        .next (s.setCore c { s.core c with calAll := 1024 })
    | _ => .next s

/-- The 1 ms of a sample are over. -/
def execCaliperTimeout (id : Nat) (s : State) : Host.Outcome State Fault Refusal :=
  match s.samples.find? id with
  | none => .next s
  | some x => .next (if s.sampleOld x then s.skipSample id x else s)

/-- Caliper steps that the state admits where no array errs. -/
def State.calEvents (s : State) : List Instr :=
  s.samples.flatMap (fun e =>
    if e.2.open_ then
      (if (s.replayCore e.2).isSome then [.caliperReplay e.1 e.2.exact] else []) ++
      (if s.sampleOld e.2 then [.caliperTimeout e.1] else [])
    else [.caliperVerdict e.1])

/-! ### Power and clock (R393) -/

/-- PLIMIT and FMAX. -/
def State.plimit (s : State) : Nat := bitsAt s.powerCfg.toNat 20 12
def State.fmax (s : State) : Nat := bitsAt s.powerCfg.toNat 8 12

/-- The power averaged over 1 ms: the clock goes down or up by 25 MHz, unless a die holds it at 1,000 MHz. -/
def execPowerLimitStep (watts : Nat) (s : State) : Host.Outcome State Fault Refusal :=
  if !s.critical.isEmpty then .next s
  else if s.plimit < watts then .next { s with freq := if 25 < s.freq then s.freq - 25 else s.freq }
  else if watts * 100 ≤ s.plimit * 95 then .next { s with freq := max s.freq (min (s.freq + 25) s.fmax) }
  else .next s

/-- A die passes its critical temperature. -/
def execDieCriticalTemp (die : Nat) (s : State) : Host.Outcome State Fault Refusal :=
  if 4 ≤ die ∨ s.critical.contains die then .next s
  else .next ({ s with critical := s.critical ++ [die], freq := 1000 }.lose .dieTemp die)

/-- It falls below its resume threshold: the hold ends, and the clock rises again by steps. -/
def execDieTempResume (die : Nat) (s : State) : Host.Outcome State Fault Refusal :=
  .next { s with critical := s.critical.filter (· ≠ die) }

/-- POWERCFG is written, and MR5 extended; a write with a field out of its range is ignored whole (R388, R393). -/
def State.writePower (s : State) (v : Word) : State :=
  let p := bitsAt v.toNat 20 12
  let f := bitsAt v.toNat 8 12
  if 600 ≤ p ∧ p ≤ 2400 ∧ 1000 ≤ f ∧ f ≤ 3300 ∧ f % 25 = 0 then
    let w := v &&& 0xFFFFFF00
    { s with powerCfg := w, freq := min s.freq f }.extend 5 (leBytes 4 w.toNat)
  else s

/-- CALCFG of every core is written, and MR7 extended where it changes (R388); a write with NEXP above 20 is ignored whole (R392,
log 60). -/
def State.writeCaliper (s : State) (v : Word) : State :=
  let w := v &&& 0x8000001F
  if bitsAt v.toNat 0 5 ≤ 20 ∧ w ≠ s.calCfg then { s with calCfg := w }.extendOpen 7 else s

end Sys2Proof.Machine
end

