-- ==== Sys2Proof/Machine/Control.lean ====
section
/-! DEFINITION. Branches and mask instructions, opcodes 0x12 to 0x19 (R90, R100 to R109). A bad target has been refused before one
of them has an effect (R55 step 1). -/

namespace Sys2Proof.Machine

/-- R101. -/
def execBr (b : Operand) (x : Ext) (s : State) : Host.Outcome State Fault Refusal :=
  s.run (.br b x) (fun k g => s.retire k g (s.target k g x b) 1)

/-- R102. -/
def execBrc (c : BrCond) (w64 : Bool) (a b : Operand) (x : Ext) (s : State) : Host.Outcome State Fault Refusal :=
  s.run (.brc c w64 a b x) (fun k g =>
    let v := if w64 then (s.uni64 k g x a).toInt else (s.uni32 k g x a).toInt
    if brHolds c v then s.retire k g (s.target k g x b) 1 else s.done k g (.brc c w64 a b x) 1)

/-- R103. -/
def execBrm (c : BrmCond) (a b : Operand) (x : Ext) (s : State) : Host.Outcome State Fault Refusal :=
  s.run (.brm c a b x) (fun k g =>
    let m := g.em &&& ~~~g.dead
    if brmHolds c (s.tripleSrc k g x a &&& m) m then s.retire k g (s.target k g x b) 1
    else s.done k g (.brm c a b x) 1)

/-- R104: the return address is the word after the CALL; CALL.R reads its target before the link is written. -/
def execCall (d : Operand) (t : CallTarget) (x : Ext) (s : State) : Host.Outcome State Fault Refusal :=
  s.run (.call d t x) (fun k g =>
    let target := match t with
      | .offset b => s.target k g x b
      | .reg a => s.uni64 k g x a
    s.retire k (g.wp (regNo d) (g.after (.call d t x))) target 1)

/-- R105. -/
def execJmp (t : JmpTarget) (l : Lit) (s : State) : Host.Outcome State Fault Refusal :=
  s.run (.jmp t l) (fun k g =>
    s.retire k g (match t with
      | .reg a => g.rp (regNo a)
      | .tpc => g.tpc) 1)

/-- R106. -/
def execLoop (d b : Operand) (x : Ext) (s : State) : Host.Outcome State Fault Refusal :=
  s.run (.loop d b x) (fun k g =>
    let n := g.rs (regNo d) - 1
    let g' := g.ws (regNo d) n
    if n ≠ 0 then s.retire k g' (s.target k g x b) 1 else s.done k g' (.loop d b x) 1)

/-- The new execution mask (R109). -/
def State.emopValue (s : State) (k : Nat) (g : Group) (x : Ext) : EmopOp → BitVec 96
  | .set a => s.tripleSrc k g x a
  | .and a => g.em &&& s.tripleSrc k g x a
  | .andn a => g.em &&& ~~~(s.tripleSrc k g x a)
  | .or a => g.em ||| s.tripleSrc k g x a
  | .els a => s.tripleSrc k g x a &&& ~~~g.em
  | .live => g.em &&& ~~~g.dead

/-- R109: with SAVE, the mask as it stood before goes to the triple at D. -/
def execEmop (op : EmopOp) (save : Option Operand) (x : Ext) (s : State) : Host.Outcome State Fault Refusal :=
  s.run (.emop op save x) (fun k g =>
    let g' := match save with
      | some d => g.wt (regNo d) g.em
      | none => g
    s.done k (g'.wt 125 (s.emopValue k g x op)) (.emop op save x) 1)

/-- Lanes L with a ≤ L < b as a triple (R108). -/
def rangeMask (a b : Nat) : BitVec 96 :=
  if b ≤ a then 0 else BitVec.ofNat 96 ((2 ^ (min b 96 - min a 96) - 1) * 2 ^ min a 96)

/-- Lowest set lane, or 96. -/
def firstLane (m : BitVec 96) : Nat := ctzN 96 m.toNat
/-- Highest set lane, or 96. -/
def lastLane (m : BitVec 96) : Nat := if m = 0 then 96 else Nat.log2 m.toNat

/-- R108. -/
def execMaskop (op : MaskOp) (d : Operand) (x : Ext) (s : State) : Host.Outcome State Fault Refusal :=
  s.run (.maskop op d x) (fun k g =>
    let t := s.tripleSrc k g x
    let r := regNo d
    let g' := match op with
      | .and a b => g.wt r (t a &&& t b)
      | .or a b => g.wt r (t a ||| t b)
      | .xor a b => g.wt r (t a ^^^ t b)
      | .andn a b => g.wt r (t a &&& ~~~(t b))
      | .not a => g.wt r (~~~(t a))
      | .mov a => g.wt r (t a)
      | .live a => g.wt r (t a &&& ~~~g.dead)
      | .popc a => g.ws r (BitVec.ofNat 32 (popcN 96 (t a).toNat))
      | .first a => g.ws r (BitVec.ofNat 32 (firstLane (t a)))
      | .last a => g.ws r (BitVec.ofNat 32 (lastLane (t a)))
      | .range a b => g.wt r (rangeMask (s.uni32 k g x a).toNat (s.uni32 k g x b).toNat)
    s.done k g' (.maskop op d x) 1)

end Sys2Proof.Machine
end

