-- ==== Sys2Proof/Machine/Convert.lean ====
section
/-! DEFINITION. The conversion instructions, opcodes 0x40 to 0x47 (R77 to R86). -/

namespace Sys2Proof.Machine

/-- R79. -/
def execCvt (form : CvtForm) (f : VOps) (s : State) : Host.Outcome State Fault Refusal := s.runLane (.cvt form) f (.cvt form f)
/-- R80. -/
def execCvt8 (form : Cvt8Form) (f : VOps) (s : State) : Host.Outcome State Fault Refusal :=
  s.runLane (.cvt8 form) f (.cvt8 form f)
/-- R81. -/
def execPack (form : PackForm) (f : VOps) (s : State) : Host.Outcome State Fault Refusal :=
  s.runLane (.pack form) f (.pack form f)
/-- R82. -/
def execUnpack (form : UnpackForm) (f : VOps) (s : State) : Host.Outcome State Fault Refusal :=
  s.runLane (.unpack form) f (.unpack form f)
/-- R84. -/
def execQgdec (b : Bool) (rm : RM) (f : VOps) (s : State) : Host.Outcome State Fault Refusal :=
  s.runLane (.qgdec b rm) f (.qgdec b rm f)
/-- R85. -/
def execQgenc (b : Bool) (f : VOps) (s : State) : Host.Outcome State Fault Refusal := s.runLane (.qgenc b) f (.qgenc b f)
/-- R86. -/
def execQgscl (f : VOps) (s : State) : Host.Outcome State Fault Refusal := s.runLane .qgscl f (.qgscl f)
/-- R83. -/
def execCvtsat (form : CvtsatForm) (f : VOps) (s : State) : Host.Outcome State Fault Refusal :=
  s.runLane (.cvtsat form) f (.cvtsat form f)

end Sys2Proof.Machine
end

