-- ==== Sys2Proof/Machine/CrossLane.lean ====
section
/-! DEFINITION. Cross-lane instructions, opcodes 0x48 to 0x4F (R141 to R156). -/

namespace Sys2Proof.Machine

/-- Lanes whose element of a v-register field dies when it is read as a source lane (R154). -/
def Group.badSources (g : Group) (a : Operand) (lanes : List Nat) : List Nat :=
  if g.vBad.isEmpty then [] else
  match a with
  | .v n => lanes.filter (fun L => L < 96 && g.live L && g.vBad.contains (n.toNat * 96 + L))
  | _ => []

/-- Source lane of SHFL as an integer (R144). -/
def shflSource (m : ShflMode) (L n : Nat) : Int :=
  match m with
  | .idx => n
  | .up => (L : Int) - n
  | .down => (L : Int) + n
  | .xor => (L ^^^ n : Nat)
  | .rot => ((L + n) % 96 : Nat)

/-- The source lane of lane L (R144): n is B(L)[6:0]. -/
def State.shflFrom (s : State) (k : Nat) (g : Group) (m : ShflMode) (b : Operand) (x : Ext) (L : Nat) : Int :=
  shflSource m L ((s.laneSrc k g .int x b L).toNat % 128)

/-- R144. A lane that dies by its own element of B still names its source lane, which is read and may die too (log 24). -/
def execShfl (m : ShflMode) (d a b : Operand) (x : Ext) (s : State) : Host.Outcome State Fault Refusal :=
  s.run (.shfl m d a b x) (fun k g =>
    let src := s.shflFrom k g m b x
    -- own elements of A are read only where the source is out of range
    let read := g.lanes.map (fun L => if 0 ≤ src L ∧ src L ≤ 95 then (src L).toNat else L)
    let ownB := g.dying (vReg? b)
    let dying := (g.badSources a read ++ ownB).eraseDups
    let (s', g') := s.killLanes k g (g.deaths (vReg? a) (g.badSources a read).eraseDups ++
      g.deaths (vReg? b) (ownB.filter (fun L => !(g.badSources a read).contains L)))
    let g'' := g.lanes.foldl (fun acc L =>
      if dying.contains L then acc.wv (regNo d) L 0
      else if src L < 0 ∨ 95 < src L then acc.wv (regNo d) L (s.laneSrc k g .int x a L)
      else if !g'.live (src L).toNat then (acc.wv (regNo d) L 0).orFlags L flNV
      else acc.wv (regNo d) L (s.laneSrc k g .int x a (src L).toNat)) g'
    s'.done k g'' (.shfl m d a b x) (if g.lanes.isEmpty then 1 else s.beats g))

/-- The source lane of BCAST, and the lanes that reading it kills: FIRST and LAST pass a lane that dies (R145, R154, log 24). -/
def bcastSource (g : Group) (src : BcastSrc) (a : Operand) (n : Nat) : Nat × List Nat :=
  let walk (l : List Nat) : Nat × List Nat :=
    let bad := g.badSources a l
    ((l.find? (fun L => !bad.contains L)).getD 96, l.takeWhile bad.contains)
  match src with
  | .lane _ => (n, if g.lanes.isEmpty then [] else g.badSources a [n])
  | .first => walk g.lanes
  | .last => walk g.lanes.reverse

/-- R145, vector forms. -/
def execBcast (src : BcastSrc) (d a : Operand) (x : Ext) (s : State) : Host.Outcome State Fault Refusal :=
  s.run (.bcast src d a x) (fun k g =>
    let n : Nat := match src with
      | .lane b => (s.uni32 k g x b).toNat % 128
      | _ => 0
    let (sl, dying) := bcastSource g src a n
    let (s', g') := s.die k g (vReg? a) dying
    let g'' := g.lanes.foldl (fun acc L =>
      if dying.contains L then acc.wv (regNo d) L 0
      else if 95 < sl ∨ !g'.live sl then (acc.wv (regNo d) L 0).orFlags L flNV
      else acc.wv (regNo d) L (s.laneSrc k g .int x a sl)) g'
    s'.done k g'' (.bcast src d a x) (if g.lanes.isEmpty then 1 else s.beats g))

/-- R145, BCAST.S: group-level, under any mask. -/
def execBcastS (d a b : Operand) (x : Ext) (s : State) : Host.Outcome State Fault Refusal :=
  s.run (.bcastS d a b x) (fun k g =>
    let sl := (s.uni32 k g x b).toNat % 128
    let dying := g.badSources a [sl]
    let (s', g') := s.die k g (vReg? a) dying
    let v := if 95 < sl ∨ !g'.live sl then 0 else s.laneSrc k g .int x a sl
    s'.done k (g'.ws (regNo d) v) (.bcastS d a b x) 1)

/-- Identity of an operation (R146). -/
def ScanOp.identity : ScanOp → Word
  | .add => 0
  | .min u => if u then 0xFFFFFFFF else 0x7FFFFFFF
  | .max u => if u then 0 else 0x80000000
  | .and => 0xFFFFFFFF
  | .or => 0
  | .xor => 0
  | .fadd _ => 0x80000000

/-- One combination, with the flags of a floating addition (R146, R149). -/
def ScanOp.combine (op : ScanOp) (x y : Word) : Word × Flags :=
  match op with
  | .add => (x + y, 0)
  | .min u => (minMaxForm u false x y, 0)
  | .max u => (minMaxForm u true x y, 0)
  | .and => (x &&& y, 0)
  | .or => (x ||| y, 0)
  | .xor => (x ^^^ y, 0)
  | .fadd rm =>
    let r := fAdd fp32 rm (fp32.decode x.toNat) (fp32.decode y.toNat)
    (BitVec.ofNat 32 r.1, r.2)

/-- One level of the tree of R147: neighbours are added. -/
def treeLevel (rm : RM) : List Word → List Word × Flags
  | x :: y :: rest =>
    let r := ScanOp.combine (.fadd rm) x y
    let t := treeLevel rm rest
    (r.1 :: t.1, r.2 ||| t.2)
  | xs => (xs, 0)

/-- RED.FADD.F32 over the 128 leaves (R147): the sum and every flag raised in the tree. -/
def treeSum (rm : RM) : Nat → List Word → Flags → Word × Flags
  | 0, xs, f => (xs.headD 0x80000000, f)
  | n + 1, xs, f => let t := treeLevel rm xs; treeSum rm n t.1 (f ||| t.2)

/-- Floating minimum, maximum or largest magnitude over the participants (R146, R147). -/
def redMinMax (op : RedOp) (xs : List Word) : Word × Flags :=
  let mag (x : Word) : Nat := match op with
    | .amax => x.toNat % 2 ^ 31
    | _ => x.toNat
  let fl := xs.foldl (fun f x => f ||| nvOf (fp32.decode x.toNat)) 0
  let vals := (xs.filter (fun x => !(fp32.decode x.toNat).isNan)).map mag
  let isMax : Bool := match op with
    | .fmin => false
    | _ => true
  match vals with
  | [] =>
    let empty : Nat := match op with
      | .fmin => 0x7F800000
      | .fmax => 0xFF800000
      | _ => 0
    (BitVec.ofNat 32 (if xs.isEmpty then empty else f32NaN), fl)
  | v :: vs => (BitVec.ofNat 32 (vs.foldl (fun m x => (fMinMax fp32 isMax false m x).1) v), fl)

/-- The result of a reduction of the participants' elements, and the flags of R148. -/
def State.redValue (s : State) (k : Nat) (g : Group) (op : RedOp) (x : Ext) (a : Operand) : Word × Flags :=
  let kd : SrcKind := if RedOp.isF op then .flt fp32 else .int
  let el (L : Nat) : Word := s.laneSrc k g kd x a L
  match op with
  | .scan (.fadd rm) =>
    let sig := g.lanes.foldl (fun f L => f ||| nvOf (fp32.decode (el L).toNat)) 0
    let r := treeSum rm 7 ((List.range 128).map (fun L => if L < 96 && g.part L then el L else 0x80000000)) 0
    (r.1, r.2 ||| sig)
  | .scan sc => (g.lanes.foldl (fun acc L => (ScanOp.combine sc acc (el L)).1) (ScanOp.identity sc), 0)
  | _ => redMinMax op (g.lanes.map el)

/-- R146 to R148. -/
def execRed (op : RedOp) (vec : Bool) (d a : Operand) (x : Ext) (s : State) : Host.Outcome State Fault Refusal :=
  s.run (.red op vec d a x) (fun k g0 =>
    let dying := g0.dying (vReg? a)
    let (s', g) := s.die k g0 (vReg? a) dying
    let r := s'.redValue k g op x a
    let g' := g.orFlagsAll g.lanes r.2
    let g'' := if vec then
        dying.foldl (fun acc L => acc.wv (regNo d) L 0) (g.lanes.foldl (fun acc L => acc.wv (regNo d) L r.1) g')
      else g'.ws (regNo d) r.1
    s'.done k g'' (.red op vec d a x) (if g.lanes.isEmpty then 1 else s.beats g))

/-- R149: prefix combinations in ascending lane order. -/
def execScan (op : ScanOp) (excl : Bool) (d a : Operand) (x : Ext) (s : State) : Host.Outcome State Fault Refusal :=
  s.run (.scan op excl d a x) (fun k g0 =>
    let dying := g0.dying (vReg? a)
    let (s', g) := s.die k g0 (vReg? a) dying
    let kd : SrcKind := if ScanOp.isF op then .flt fp32 else .int
    let r := g.lanes.foldl (fun (ag : Word × Group) L =>
      let c := ScanOp.combine op ag.1 (s'.laneSrc k g kd x a L)
      (c.1, (ag.2.wv (regNo d) L (if excl then ag.1 else c.1)).orFlags L c.2)) (ScanOp.identity op, g)
    let g' := dying.foldl (fun acc L => acc.wv (regNo d) L 0) r.2
    s'.done k g' (.scan op excl d a x) (if g.lanes.isEmpty then 1 else s.beats g))

/-- R150. -/
def execVote (op : VoteOp) (d a : Operand) (x : Ext) (s : State) : Host.Outcome State Fault Refusal :=
  s.run (.vote op d a x) (fun k g0 =>
    let dying := g0.dying (vReg? a)
    let (s', g) := s.die k g0 (vReg? a) dying
    let el (L : Nat) : Word := s'.laneSrc k g .int x a L
    let yes := g.lanes.filter (fun L => el L ≠ 0)
    let w (b : Bool) : Word := if b then 1 else 0
    let g' := match op with
      | .any => g.ws (regNo d) (w (!yes.isEmpty))
      | .all => g.ws (regNo d) (w (yes.length = g.lanes.length))
      | .ballot => g.wt (regNo d) (g.ballot (fun L => el L ≠ 0))
      | .popc => g.ws (regNo d) (BitVec.ofNat 32 yes.length)
      | .uni => g.ws (regNo d) (w (g.lanes.all (fun L => el L = el (g.lanes.headD 0))))
    s'.done k g' (.vote op d a x) (s.nonEmptyBeats g))

/-- Lanes whose elements EXP reads under a selection triple: the first of the participating lanes, as many as are selected. -/
def Group.expReads (g : Group) (t : BitVec 96) : List Nat := g.lanes.take (g.lanes.filter t.getLsbD).length

/-- The lanes that die in COMPACT.EXP: each death moves the lanes behind it up, whose elements are read in their turn (R151, R154). -/
def expDying (a : Operand) (t : BitVec 96) : Nat → Group → List Nat
  | 0, _ => []
  | n + 1, g =>
    let bad := g.badSources a (g.expReads t)
    if bad.isEmpty then [] else bad ++ expDying a t n (bad.foldl Group.kill g)

/-- R151: pack or unpack under a selection triple. -/
def execCompact (exp : Bool) (d a c : Operand) (x : Ext) (s : State) : Host.Outcome State Fault Refusal :=
  s.run (.compact exp d a c x) (fun k g0 =>
    let t := g0.rt (regNo c)
    let dying := if exp then expDying a t 96 g0 else g0.badSources a (g0.lanes.filter t.getLsbD)
    let (s', g) := s.die k g0 (vReg? a) dying
    let Q := g.lanes
    let P := Q.filter t.getLsbD
    let el (L : Nat) : Word := s'.laneSrc k g .int x a L
    let g' := if exp then
        (P.zip Q).foldl (fun acc pq => acc.wv (regNo d) pq.1 (el pq.2)) g
      else
        (Q.zipIdx).foldl (fun acc qj =>
          acc.wv (regNo d) qj.1 (match P[qj.2]? with
            | some L => el L
            | none => 0)) g
    let g'' := dying.foldl (fun acc L => acc.wv (regNo d) L 0) g'
    s'.done k g'' (.compact exp d a c x) (if Q.isEmpty then 1 else s.beats g))

/-- Beat(L) and Phys(L) of R58 on the group's datapath. -/
def State.beatOf (s : State) (g : Group) (L : Nat) : Nat := L / s.goodOf g
def State.physOf (s : State) (g : Group) (L : Nat) : Nat := (goodLanes (s.laneWord g.core g.dp)).getD (L % s.goodOf g) 0

/-- The logical lane of a beat on a physical lane, or 96 (R152). -/
def State.laneAt (s : State) (g : Group) (beat phys : Nat) : Nat :=
  ((List.range 96).find? (fun L => s.beatOf g L = beat && s.physOf g L = phys)).getD 96

/-- R152. -/
def execLmap (f : LmapForm) (d : Operand) (x : Ext) (s : State) : Host.Outcome State Fault Refusal :=
  s.run (.lmap f d x) (fun k g =>
    match f with
    | .beat =>
      s.done k (g.lanes.foldl (fun acc L => acc.wv (regNo d) L (BitVec.ofNat 32 (s.beatOf g L))) g) (.lmap f d x)
        (s.nonEmptyBeats g)
    | .phys =>
      s.done k (g.lanes.foldl (fun acc L => acc.wv (regNo d) L (BitVec.ofNat 32 (s.physOf g L))) g) (.lmap f d x)
        (s.nonEmptyBeats g)
    | .lane a b =>
      s.done k (g.ws (regNo d) (BitVec.ofNat 32 (s.laneAt g (s.uni32 k g x a).toNat (s.uni32 k g x b).toNat)))
        (.lmap f d x) 1)

/-- R153. -/
def execLnstat (op : LnstatOp) (d : Operand) (l : Lit) (s : State) : Host.Outcome State Fault Refusal :=
  s.run (.lnstat op d l) (fun k g =>
    let g' := match op with
      | .live => g.wt (regNo d) (~~~g.dead)
      | .nlive => g.ws (regNo d) (BitVec.ofNat 32 (popcN 96 (~~~g.dead).toNat))
      | .nbeats => g.ws (regNo d) (BitVec.ofNat 32 (s.nonEmptyBeats g))
      | .good => g.ws (regNo d) (BitVec.ofNat 32 (s.goodOf g))
      | .peak => g.ws (regNo d) (BitVec.ofNat 32 (if s.beats g = 0 then 0 else 96 / s.beats g))
    s.done k g' (.lnstat op d l) 1)

end Sys2Proof.Machine
end

