-- ==== Sys2Proof/Machine/Doorbell.lean ====
section
/-! DEFINITION. DBELL, opcode 0x7F, and the tailstocks (R371 to R373, R378). -/

namespace Sys2Proof.Machine

/-- The compute die of a core (R6). -/
def dieOf (core : Nat) : Nat := core / 112

/-- The covered writes of a doorbell (R372): with `team`, stores and atomics of the team's other groups too, those of discarded groups
among them (R218). -/
def State.covered (s : State) (k : Nat) (g : Group) (team : Bool) : Rel :=
  { ops := if team then
      (s.ops.filter (fun e => decide (teamOf e.2.group = teamOf k) && decide (e.2.kind ≠ .load))).map (·.1)
      else [],
    entries := (s.core g.core).unhomed.map (·.id), wide := true, all := true }

/-- R371, R372. -/
def execDbell (w64 team : Bool) (a b : Operand) (x : Ext) (s : State) : Host.Outcome State Fault Refusal :=
  s.run (.dbell w64 team a b x) (fun k g =>
    let addr := s.uni64 k g x a
    let n := if w64 then 8 else 4
    let v := if w64 then (s.uni64 k g x b).toNat else (s.uni32 k g x b).toNat
    let bad (cause detail : Nat) : FaultInfo := { cause := cause, detail := detail, addr := addr, pc := g.pc }
    if 2 ^ 57 ≤ addr.toNat then s.systemFault k g (bad 8 0)
    else if addr.toNat % n ≠ 0 then s.systemFault k g (bad 6 0)
    else if s.outstanding k then s.wait k g
    else match s.translate g.core (s.ctxOf k) addr.toNat .store with
      | .error (c, d) => s.systemFault k g (bad c d)
      | .ok (key, p) =>
        if p.tier ≠ 2 ∨ destOf key ≠ .endpoint then s.systemFault k g (bad 8 0)
        else
          let die := dieOf g.core
          let t := s.tails.getD die []
          if 256 ≤ t.length then s.wait k g
          else
            let e : Tail := { group := k, core := g.core, target := key, data := leBytes n v, cover := s.covered k g team, order := s.nextId }
            ({ s with nextId := s.nextId + 1, tails := s.tails.insert die (t ++ [e]) }.noteLeaf g.core (s.ctxOf k) addr.toNat p).commitDone k g (.dbell w64 team a b x))

/-- No earlier entry of the group is held in any tailstock (R373). -/
def State.tailFirst (s : State) (t : Tail) : Bool :=
  s.tails.all (fun e => e.2.all (fun x => decide (x.group ≠ t.group ∨ t.order ≤ x.order)))

/-- Entries of a tailstock that can be sent: the covered writes are performed, and no earlier entry of the group is held
(R372, R373). -/
def State.tailReady (s : State) (die : Nat) : List Tail :=
  (s.tails.getD die []).filter (fun t => s.tailFirst t && s.relDone t.core t.cover)

/-- The tailstock of a die sends one doorbell as a posted write, through a bridge window to the peer's address (R362); one for a port that is
down is discarded and logged (R372, R378). -/
def execTailstockSend (die : Nat) (s : State) : Host.Outcome State Fault Refusal :=
  match s.choose (s.tailReady die) with
  | none => .next s
  | some (t, s) =>
    let s := { s with tails := s.tails.setD die ((s.tails.getD die []).erase t) [] }
    if !s.portUp (s.portOf t.target) then
      .next (s.logIo { addr := t.target % 4503599627370496, reason := .portDown })
    else
      let m := s.endpointMsg true t.target 0 t.data
      .next (s.send (if m.kind = .bridgeWrite then m else { kind := .doorbell, dest := t.target, data := t.data }))

/-- A port goes down (R378). -/
def execPortDown (port : Nat) (s : State) : Host.Outcome State Fault Refusal :=
  if port < 16 ∧ !s.portDown.contains port then .next { s with portDown := s.portDown ++ [port] } else .next s

/-- Tailstock steps that the state admits. -/
def State.tailEvents (s : State) : List Instr :=
  s.tails.filterMap (fun e => if (s.tailReady e.1).isEmpty then none else some (.tailstockSend e.1))

end Sys2Proof.Machine
end

