-- ==== Sys2Proof/Machine/Fence.lean ====
section
/-! DEFINITION. FENCE (R299, R300). -/

namespace Sys2Proof.Machine

/-- A load or an atomic that returns a value is outstanding for a group (R300, FENCE.ACQ). -/
def State.readsPending (s : State) (k : Nat) : Bool :=
  s.ops.any (fun e => e.2.group = k && !e.2.abandoned && Op.writesRegs e.2)

/-- R299, R300: ACQ waits for the earlier reads, REL makes later stores wait, AR does both, ALL waits for everything. -/
def execFence (kind : FenceKind) (scope : Scope) (l : Lit) (s : State) : Host.Outcome State Fault Refusal :=
  s.run (.fence kind scope l) (fun k g =>
    let i : Instr := .fence kind scope l
    match kind with
    | .acq => if s.readsPending k then s.wait k g else s.done k g i 1
    | .rel => s.done k { g with fenceRel := some (s.mkRel k g scope) } i 1
    | .ar => if s.readsPending k then s.wait k g else s.done k { g with fenceRel := some (s.mkRel k g scope) } i 1
    | .all =>
      match s.releaseWait k g scope true with
      | some g' => s.wait k g'
      | none => s.done k g i 1)

end Sys2Proof.Machine
end

