-- ==== Sys2Proof/Machine/Issue.lean ====
section
/-! DEFINITION. An instruction boundary: pending events in their order (R343), fetch and decode (R35 to R37, R55 steps 1 to 4),
and what follows an issue (R351, R353). -/

namespace Sys2Proof.Machine

/-- The group stands at an instruction boundary where events may be taken: not between a commit-class instruction and its
REGION, and not in SYSREQ (R25, R347). -/
def Group.atBoundary (g : Group) : Bool :=
  g.place = .resident && !g.pairPending && match g.hold with
    | .sysreq _ _ _ _ => false
    | _ => true

/-- The group is about to issue its next word, or tries it again. -/
def Group.issues (g : Group) : Bool := g.hold = .ready || g.hold = .waiting

/-- The instruction breakpoint that matches the next word; the literal of an L word matches none (R350, R354, R358). -/
def State.bpNow (s : State) (k : Nat) (g : Group) : Option Nat :=
  if s.armed k && !g.half1 && g.hold = .ready && !s.isLiteral k g.pc then g.bpHit g.pc false else none

/-- The first pending event at a boundary, taken (R343, items 1 to 7). -/
def State.boundary (s : State) (k : Nat) (g : Group) : Option State :=
  if !g.atBoundary then none
  else if g.hold = .halted then
    -- a halted group is pinned: only a cluster drain and a termination end it (R349, R358)
    if g.stopCause = some 7 then some (s.discard k g 7 .none .queued)
    else if (s.grid k).terminating then some (s.endGroup k g)
    else none
  else match g.scalarErr with
    | some f => some (s.systemFault k g f)
    | none =>
      match g.asyncFault with
      | some f => some (s.systemFault k g f)
      | none =>
        if g.stopCause = some 7 then some (s.discard k g 7 .none .queued)
        else if (s.grid k).terminating then some (s.endGroup k g)
        else match (if g.issues then g.haltPending else none) with
          | some f => some (s.haltGroup k g (if f.cause = 0x23 then { f with pc := g.pc } else f))
          | none =>
            if g.fwStop then some (s.haltGroup k { g with fwStop := false } { cause := 0x24, pc := g.pc })
            else match g.stopCause with
              | some c => some (s.discard k g c .none .queued)
              | none => (s.bpNow k g).map (fun n => s.haltGroup k g { cause := 0x21, detail := n, pc := g.pc })

/-- Causes of R55 steps 2 to 4. -/
def DecodeError.cause : DecodeError → Nat
  | .illegalSweep => 4
  | .illegalInstruction => 1
  | .illegalPairing => 3

/-- The word at an address as the group fetches it, or the fault of the fetch (R231, R341). -/
def State.fetchAt (s : State) (k : Nat) (g : Group) (a : DWord) : Except FaultInfo DWord :=
  match s.fetchWord k a with
  | .ok w => .ok w
  | .error (c, d) => .error { cause := c, detail := d, addr := a, pc := g.pc }

/-- Whether a word takes the word after it: L and W words (R35). -/
def takesTwo (w : DWord) : Bool := (w.extractLsb' 62 2).toNat = 2 || (w.extractLsb' 62 2).toNat = 3

/-- An L word in the last slot of a fetch block: its literal would lie in the next block (R35). -/
def lateL (w : DWord) (pc : DWord) : Bool := (w.extractLsb' 62 2).toNat = 2 && pc.toNat % 64 = 56

/-- The bad target of a taken branch whose word breaks step 3 of R55: step 1 comes first (R36, R55). -/
def State.badLoose (s : State) (k : Nat) (g : Group) (w : DWord) (lit : Lit) : Option DWord :=
  (looseBranch w lit).bind (s.badBranch k g)

/-- An illegal word raises its fault, or, a branch, that of its target (R55 steps 1 and 3). -/
def State.illegalAt (s : State) (k : Nat) (g : Group) (w : DWord) (lit : Lit) (slot : Bool) : FaultInfo :=
  match s.badLoose k g w lit with
  | some t => { cause := 5, pc := g.pc, addr := t }
  | none => { cause := 1, pc := g.pc, slot := slot }

/-- The words at the PC of a group: the second is 0 where the first takes none. An L word in the last slot has no literal, and a W prefix
that is illegal by itself needs no word after it (R35, R49). -/
def State.fetchTwo (s : State) (k : Nat) (g : Group) : Except FaultInfo (DWord × DWord) :=
  match s.fetchAt k g g.pc with
  | .error f => .error f
  | .ok w =>
    if lateL w g.pc then .error (s.illegalAt k g w none false)
    else if illegalPrefix w then .error { cause := 4, pc := g.pc }
    else if takesTwo w then
      match s.fetchAt k g (g.pc + 8) with
      | .error f => .error f
      | .ok v => .ok (w, v)
    else .ok (w, 0)

/-- The instruction at the PC of a group, or the fault of R55 steps 1 to 4. A role entry or `.trap` entry that names a literal is a
misaligned target at issue (log 52). -/
def State.decodeAt (s : State) (k : Nat) (g : Group) : Except FaultInfo Instr :=
  if s.badTarget k g.pc then .error { cause := 5, addr := g.pc, pc := g.pc }
  else match s.fetchTwo k g with
    | .error f => .error f
    | .ok (w, v) =>
      match decode w v with
      | .ok i => .ok i
      | .error .illegalInstruction => .error (s.illegalAt k g w (if takesTwo w then some v else none) (illegalHalf w))
      | .error e => .error { cause := DecodeError.cause e, pc := g.pc }

/-- A fetched word may stay in the core's instruction cache, and its translation in the TLBs (R37, log 9). -/
def State.noteWord (s : State) (k : Nat) (a : DWord) : State :=
  match s.translate (s.coreOf k) (s.ctxOf k) a.toNat .fetch, s.fetchWord k a with
  | .ok (_, p), .ok w =>
    let key := gridOf k * 2 ^ 57 + a.toNat
    let s := s.noteLeaf (s.coreOf k) (s.ctxOf k) a.toNat p
    if (s.icache.find? key).isSome then s else { s with icache := s.icache.insert key w }
  | _, _ => s

/-- The words of an issue are noted: the first, and a literal or swept word behind it. -/
def State.noteFetch (s : State) (k : Nat) (a : DWord) (i : Instr) : State :=
  let s := s.noteWord k a
  if Instr.size i = 8 then s else s.noteWord k (a + 8)

/-- A core fetches ahead: the word that memory now holds at an address of a grid's code enters the instruction cache (R37). -/
def State.fetchAhead (s : State) (k : Nat) (a : DWord) : State :=
  match s.translate (s.coreOf k) (s.ctxOf k) a.toNat .fetch with
  | .ok (key, p) =>
    { s with icache := s.icache.insert (gridOf k * 2 ^ 57 + a.toNat) (BitVec.ofNat 64 (leNat (s.getPhys p.owner key 8))) }
  | .error _ => s

/-- What follows an issue: a single step ends at the next boundary (R353), and a breakpoint on the REGION of a commit-class pair
halts after the pair with PC at the REGION (R351); a data breakpoint that the commit-class word has met halts first, and the other on
release (R343, R352). `g` is the group before. -/
def State.afterIssue (s : State) (k : Nat) (g : Group) (i : Instr) : State :=
  match s.group? k with
  | none => s
  | some g' =>
    if g'.place ≠ .resident || g'.hold = .waiting || g'.hold = .halted then s
    else
      let hit := match i with
        | .region _ _ => if g.pairPending && s.armed k then g.bpHit g.pc false else none
        | _ => none
      match hit with
      | some n =>
        s.setGroup k { g' with
          pc := g.pc, haltPending := some (g'.haltPending.getD { cause := 0x21, detail := n, pc := g.pc }) }
      | none =>
        if g'.singleStep && s.armed k && !g'.pairPending && g'.haltPending.isNone then
          s.setGroup k { g' with haltPending := some { cause := 0x23 } }
        else s

/-- A commit-class instruction has made, or awaits, its Commit(): its REGION is kept (R27, R59). -/
def State.keepRegion (s : State) (k : Nat) (r : Option Instr) : State :=
  s.modGroup k (fun g =>
    let committed : Bool := match g.hold with
      | .ready => g.pairPending
      | .push _ _ _ _ | .pop _ _ _ | .evw _ _ _ | .sysreq _ _ _ _ => true
      | _ => false
    if g.place = .resident && committed then { g with pairRegion := r } else g)

/-- An instruction of the group is executed by `ex`, and what follows an issue follows. -/
def State.issueWord (s : State) (k : Nat) (g : Group) (i : Instr) (ex : Instr → State → Host.Outcome State Fault Refusal) :
    Host.Outcome State Fault Refusal :=
  match ex i { s with cur := k } with
  | .next s' => .next (s'.afterIssue k g i)
  | .fault f => .fault f
  | .refused r => .refused r

/-- The REGION of a commit-class instruction that has made its Commit() issues with it (R27). -/
def State.issuePair (s : State) (k : Nat) (ex : Instr → State → Host.Outcome State Fault Refusal) :
    Host.Outcome State Fault Refusal :=
  match s.group? k with
  | none => .next s
  | some g =>
    match g.pairRegion with
    | some r => if g.place = .resident && g.hold = .ready && g.pairPending then s.issueWord k g r ex else .next s
    | none => .next s

/-- A decoded word of the group issues: a commit-class word with its REGION, as one (R27, R59). -/
def State.issueInstr (s : State) (k : Nat) (g : Group) (i : Instr) (ex : Instr → State → Host.Outcome State Fault Refusal) :
    Host.Outcome State Fault Refusal :=
  match (s.noteFetch k g.pc i).issueWord k g i ex with
  | .next s' => if Instr.isCommit i then (s'.keepRegion k (s.regionAfter k g i)).issuePair k ex else .next s'
  | .fault f => .fault f
  | .refused r => .refused r

/-- The word of a group issues: a pending event is taken, a faulting fetch raises its fault, else the instruction is executed by
`ex`. Between a commit-class instruction and its REGION nothing else is taken: the REGION read before Commit() follows. -/
def State.issueGroup (s : State) (k : Nat) (ex : Instr → State → Host.Outcome State Fault Refusal) :
    Host.Outcome State Fault Refusal :=
  match s.group? k with
  | none => .next s
  | some g =>
    match s.boundary k g with
    | some s' => .next s'
    | none =>
      if g.place ≠ .resident || !g.issues then .next s
      else match g.pairRegion with
        | some r => s.issueWord k g r ex
        | none =>
          match s.decodeAt k g with
          | .error f => .next (s.systemFault k g f)
          | .ok i => s.issueInstr k g i ex

/-- A fault found after issue is taken at the group's next boundary (R218, R343). -/
def execAsyncFault (group : Nat) (s : State) : Host.Outcome State Fault Refusal :=
  match s.group? group with
  | none => .next s
  | some g => if g.asyncFault.isSome then .next ((s.boundary group g).getD s) else .next s

/-- A discard that has been asked for is made at a region point (R25, R343). -/
def execGroupDiscard (group : Nat) (s : State) : Host.Outcome State Fault Refusal :=
  match s.group? group with
  | none => .next s
  | some g => if g.stopCause.isSome then .next ((s.boundary group g).getD s) else .next s

end Sys2Proof.Machine
end

