-- ==== Sys2Proof/Machine/Scrub.lean ====
section
/-! DEFINITION. The sanding pass, its receipts and retired pages (R385 to R387). -/

namespace Sys2Proof.Machine

/-- Bytes of a page by size code. -/
def pageBytes (sizeCode : Nat) : Nat :=
  match sizeCode with
  | 0 => 65536
  | 1 => 2097152
  | _ => 1073741824

/-- The unit that scrubs a page: the stack of an HBM page, the die of a second-tier page, the root die (R12, R386). -/
def scrubUnit (key : Nat) : Nat :=
  if key / 4503599627370496 = 0 then (stackOf key).getD 0
  else if key / 4503599627370496 = 1 then 8 + Config.lpddrDie key % 4 else 15

/-- A unit scrubs the pages that it holds, of memory (R386). -/
def unitFits (unit key : Nat) : Bool :=
  decide (key / 4503599627370496 ≤ 2) && (destOf key == .memory) && unit == scrubUnit key

/-- Zeros under the new owner's key: every byte of the page reads 0 to that owner. -/
def State.zeroPage (s : State) (key n : Nat) (owner : BitVec 8) : State :=
  let out (k : Nat) : Bool := decide (k < key ∨ key + n ≤ k)
  { s with
    phys := s.phys.filter (fun e => out e.1)
    lrWords := s.lrWords.filter (fun e => out e.2.1)
    physBad := s.physBad.filter out
    lineKey := (List.range (n / 64)).foldl (fun m i => SMap.setD m (key / 64 + i) owner 0) s.lineKey }

/-- The first 16 bytes of a receipt. -/
def receiptHead (unit sizeCode : Nat) (enc : Bool) (owner : BitVec 8) (seq pa : Nat) : List Byte :=
  leBytes 2 (unit * 4096 + sizeCode * 1024 + (if enc then 512 else 0) + owner.toNat) ++ leBytes 2 0 ++ leBytes 4 seq ++ leBytes 8 pa

/-- A receipt's tag: the first 16 bytes of the HMAC under the package receipt key, which each boot generates anew. -/
def receiptTag (boot : Nat) (head : List Byte) : List Byte :=
  let h := Config.hmac boot head
  leBytes 8 h.1.toNat ++ leBytes 8 h.2.1.toNat

/-- Firmware writes bytes of a context's report, where its tables map them. -/
def State.reportWrite (s : State) (c va : Nat) (bs : List Byte) : State :=
  match s.walk c va with
  | .ok p => s.setPhys p.owner (physKey p.tier (p.addr + va % 65536)) bs
  | .error _ => s

/-- Firmware appends a receipt to a context's allocation report (R386). -/
def State.appendReceipt (s : State) (c : Nat) (r : List Byte) : State :=
  let x := s.ctx c
  if x.cap = 0 then s
  else
    let s := s.reportWrite c (x.report + 32 + 32 * (x.reportCount % x.cap)) r
    let s := s.reportWrite c x.report (leBytes 8 (x.reportCount + 1))
    s.setCtx c { s.ctx c with reportCount := x.reportCount + 1 }

/-- A unit's list holds a page that meets a range (R387). -/
def State.isRetired (s : State) (unit key n : Nat) : Bool :=
  (s.retired.getD unit []).any (fun r => decide (r.1 < key + n ∧ key < r.1 + r.2))

/-- A page goes onto its unit's list, which holds 4,096 (R387, log 45). -/
def State.retirePage (s : State) (unit key n : Nat) : State :=
  let l := s.retired.getD unit []
  if l.length < 4096 then { s with retired := s.retired.insert unit (l ++ [(key, n)]) } else s

/-- One scrub, and its receipt: none where the page is retired; a page whose read-back fails is retired. -/
def State.scrub (s : State) (unit key sizeCode : Nat) (owner : BitVec 8) (ok : Bool) : Option (List Byte) × State :=
  if s.isRetired unit key (pageBytes sizeCode) then (none, s)
  else
    let s := s.zeroPage key (pageBytes sizeCode) owner
    if !ok then (none, (s.retirePage unit key (pageBytes sizeCode)).lose .page key)
    else
      let seq := s.sandSeq.getD unit 0
      let head := receiptHead unit sizeCode (unit ≠ 15) owner seq (key % 4503599627370496)
      (some (head ++ receiptTag s.boots head), { s with sandSeq := s.sandSeq.insert unit (seq + 1) })

/-- One scrub, whose receipt goes to a context's report. -/
def State.sand (s : State) (c unit key sizeCode : Nat) (owner : BitVec 8) (ok : Bool) : State :=
  match s.scrub unit key sizeCode owner ok with
  | (some r, s) => s.appendReceipt c r
  | (none, s) => s

/-! ### Who uses a page (R382, R385, R398) -/

/-- The entries of a table that hold a byte that is not 0. -/
def State.tableEntries (s : State) (table n : Nat) : List Nat :=
  ((s.phys.filter (fun e => decide (table ≤ e.1 ∧ e.1 < table + 8 * n))).map (fun e => (e.1 - table) / 8)).eraseDups

/-- The leaves below a table of some level: level and entry. -/
def State.leavesFrom (s : State) (table : Nat) : Nat → List (Nat × Pte)
  | 0 => []
  | level + 1 =>
    (s.tableEntries table (if level = 0 then 32 else 512)).flatMap (fun i =>
      let p : Pte := ⟨BitVec.ofNat 64 (leNat ((List.range 8).map (fun j => s.rawByte (table + 8 * i + j))))⟩
      if !p.valid || p.malformed level then []
      else if p.leaf then [(level, p)]
      else s.leavesFrom p.addr level)

/-- Every leaf of every context. -/
def State.allLeaves (s : State) : List (Nat × Pte) := s.ctxs.flatMap (fun c => s.leavesFrom c.2.root 5)

/-- A leaf of some level maps a byte of a range of memory. -/
def Pte.touches (p : Pte) (level key n : Nat) : Bool :=
  let a := physKey p.tier p.addr
  decide (a < key + n ∧ key < a + 2 ^ levelShift level)

/-- The owners under which contexts map a byte of a range of memory. -/
def State.mappedBy (s : State) (key n : Nat) : List (BitVec 8) :=
  (s.allLeaves.filter (fun l => l.2.touches l.1 key n)).map (·.2.owner)

/-- Some page is mapped under an owner (R382). -/
def State.ownerMapped (s : State) (k : BitVec 8) : Bool := s.allLeaves.any (fun l => l.2.owner = k)

/-- A page is in use: a context maps it, a TLB or a grant holds such a leaf, a store buffer holds bytes of it, or an atomic is in flight
under a leaf of it (R385, R398). -/
def State.pageInUse (s : State) (key n : Nat) : Bool :=
  !(s.mappedBy key n).isEmpty ||
  s.tlbs.any (fun e => Pte.touches ⟨e.2⟩ 0 key n) ||
  s.channels.any (fun c => c.2.grants.any (fun g => Pte.touches ⟨g.leaf⟩ g.level key n)) ||
  s.cores.any (fun c => c.2.storeBuf.any (fun l => decide (l.line * 64 < key + n ∧ key < l.line * 64 + 64))) ||
  s.ops.any (fun o => o.2.elems.any (fun e => !e.performed && e.leaf.any (fun p => Pte.touches ⟨p⟩ 0 key n)))

/-- A range of memory lies on a stack out of service, where firmware maps no page (R394). -/
def State.onLostStack (s : State) (key n : Nat) : Bool :=
  s.hbmStacks.any (fun e => e.2.oos) && (List.range (n / 64)).any (fun i => s.stackLost (key + 64 * i))

/-- A context maps a page of a stack out of service. -/
def State.mapsLost (s : State) (c : Ctx) : Bool :=
  s.hbmStacks.any (fun e => e.2.oos) &&
  (s.leavesFrom c.root 5).any (fun l => s.onLostStack (physKey l.2.tier l.2.addr) (2 ^ levelShift l.1))

/-- The grids that firmware ends for a lost stack, those of the contexts that map it: with what code is open (R394). -/
def State.lossEvents (s : State) : List Instr :=
  (s.grids.filter (fun e => !e.2.terminating && s.mapsLost (s.ctx e.2.ctx))).map
    (fun e => .termination e.1 ((Config.freeBits s.fresh).setWidth 16))

/-- Firmware may give a page to an owner: it is memory, in no use, not retired and on no lost stack (R385, R387, R394). -/
def State.mayGive (s : State) (level key : Nat) : Bool :=
  let n := pageBytes level
  (destOf key == .memory) && !s.pageInUse key n && !s.isRetired (scrubUnit key) key n && !s.onLostStack key n

/-- The sanding pass of a page, whose read-back ends as it may: its receipt, where it is fit to be mapped. -/
def State.scrubPage (s : State) (level key : Nat) (owner : BitVec 8) : Option (List Byte) × State :=
  if !s.mayGive level key then (none, s)
  else let (ok, s) := s.freeBool; s.scrub (scrubUnit key) key level owner ok

/-- Firmware gives a fresh page to a context: whether it is fit to be mapped, with its receipt in the context's report. -/
def State.freshPage (s : State) (c level key : Nat) (owner : BitVec 8) : Bool × State :=
  match s.scrubPage level key owner with
  | (some r, s) => (true, s.appendReceipt c r)
  | (none, s) => (false, s)

/-- R385 to R387, R398. Firmware begins no pass of a page that is in use; a size code or a unit that names no such page does nothing. -/
def execSandingPass (ctx unit key : Nat) (sizeCode : BitVec 2) (owner : BitVec 8) (readBackOk : Bool) (s : State) :
    Host.Outcome State Fault Refusal :=
  let n := sizeCode.toNat
  if n = 3 || !unitFits unit key || key % pageBytes n ≠ 0 || s.pageInUse key (pageBytes n) || s.onLostStack key (pageBytes n) then .next s
  else .next (s.sand ctx unit key n owner readBackOk)

end Sys2Proof.Machine
end

