-- ==== Sys2Proof/Machine/RootComplex.lean ====
section
/-! DEFINITION. The root complex: channels, endpoint requests, translation, grants and page requests, retirement, and the
completions of endpoint reads (R359 to R370, R378). -/

namespace Sys2Proof.Machine

/-- What arrives at a port: nothing, where the port does not run (R359). -/
def State.atPort (s : State) (w : Requester) (o : Host.Outcome State Fault Refusal) : Host.Outcome State Fault Refusal :=
  if s.portUp w.port.toNat then o else .next s

/-! ### Channels (R365) -/

namespace Channel
def valid (c : Channel) : Bool := bitAt c.entry.toNat 63
def retiring (c : Channel) : Bool := bitAt c.entry.toNat 62
def atsEn (c : Channel) : Bool := bitAt c.entry.toNat 61
def priEn (c : Channel) : Bool := bitAt c.entry.toNat 60
def pasid (c : Channel) : Option Nat := if bitAt c.entry.toNat 59 then some (bitsAt c.entry.toNat 39 20) else none
def rid (c : Channel) : Nat := bitsAt c.entry.toNat 23 16
def port (c : Channel) : Nat := bitsAt c.entry.toNat 19 4
def ctx (c : Channel) : Nat := bitsAt c.entry.toNat 7 12
/-- A request matches the entry. -/
def serves (c : Channel) (w : Requester) : Bool :=
  c.valid && c.port == w.port.toNat && c.rid == w.rid.toNat && c.pasid == w.pasid.map BitVec.toNat
/-- Two entries of one function. -/
def sameFunction (c d : Channel) : Bool := c.port == d.port && c.rid == d.rid
end Channel

def State.channel (s : State) (n : Nat) : Channel := s.channels.getD n {}
def State.setChannel (s : State) (n : Nat) (c : Channel) : State := { s with channels := s.channels.insert n c }

/-- The channel of a request. -/
def State.channelOf (s : State) (w : Requester) : Option (Nat × Channel) :=
  List.find? (fun (e : Nat × Channel) => e.2.serves w) s.channels

/-- A posted request is discarded and logged. -/
def State.dropPosted (s : State) (w : Requester) (addr : DWord) (why : IoReason) : State :=
  s.logIo { rid := w.rid.toNat, pasid := (w.pasid.map BitVec.toNat).getD 0, addr := addr.toNat, reason := why }

/-- A rejected request (R366): a posted one is logged, another completes with Unsupported Request. -/
def State.reject (s : State) (w : Requester) (posted : Bool) (addr : DWord) (tag : Nat) (why : IoReason) : State :=
  if posted then s.dropPosted w addr why else s.send { kind := .completionUR, dest := w.rid.toNat, tag := tag }

/-- The 64 KiB page of the event targets in G space (R366). -/
def eventPage : Nat := 0x01FFFFFFFFFF0000

/-- The grant of a channel that covers a translated address with what is needed. -/
def Channel.granted (c : Channel) (need : Need) (pa n : Nat) : Option Grant :=
  c.grants.find? (fun g =>
    let p : Pte := ⟨g.leaf⟩
    p.admits need && decide (p.addr ≤ pa ∧ pa + n ≤ p.addr + 2 ^ levelShift g.level))

/-- Where a request of `n` bytes goes: its key and owner, or why it is rejected (R366). -/
def State.reach (s : State) (c : Channel) (translated : Bool) (addr : DWord) (n : Nat) (need : Need) :
    Except IoReason (Nat × BitVec 8) :=
  let a := addr.toNat
  if translated then
    if !c.atsEn then .error .notGranted
    else match c.granted need a n with
      | some g => let p : Pte := ⟨g.leaf⟩; .ok (physKey p.tier a, p.owner)
      | none => .error .notGranted
  else if a / 65536 = eventPage / 65536 then .error .eventUnused
  else if a / 65536 ≠ (a + n - 1) / 65536 then .error .translation
  else match s.translate rootTlb c.ctx a need with
    | .ok (key, p) => .ok (key, p.owner)
    | .error _ => .error .translation

/-- An untranslated request names an event target (R370). -/
def eventTarget (translated : Bool) (addr : DWord) : Option Nat :=
  let a := addr.toNat
  if !translated ∧ eventPage ≤ a ∧ a < eventPage + 4096 ∧ a % 16 = 0 then some ((a - eventPage) / 16) else none

/-- A completion with data, split at 128-byte boundaries of its address (R360). -/
def State.complete (s : State) (rid tag addr : Nat) : Nat → List Byte → State
  | 0, _ => s
  | n + 1, bs =>
    let m := min bs.length (128 - addr % 128)
    let s := s.send { kind := .completion, dest := rid, tag := tag, data := bs.take m }
    if bs.length ≤ m then s else State.complete s rid tag (addr + m) n (bs.drop m)

/-- Perform a memory request: a write at its home, or a read answered with its bytes, which are the stored ones where they are marked
uncorrectable (log 44); a read of another endpoint is sent on to it (R360), one of another package's memory over a link (R257). -/
def State.endpointAccess (s : State) (r : EpRequest) (c : Channel) (key : Nat) (owner : BitVec 8) : State :=
  if r.write then
    if s.stackLost key then s.errorRec 0 0 0 0 0 r.addr 0 2 127 false
    else s.writeHome { ctx := c.ctx, rid := c.rid, pasid := c.pasid.getD 0 } owner key r.data
  else if destOf key = .endpoint then
    let (id, s) := s.newId
    { s with peerReads := s.peerReads.insert id ⟨r.who.rid.toNat, r.tag, r.addr.toNat, false⟩ }.send
      (s.endpointMsg false key id (leBytes 2 r.len))
  else if destOf key = .remote then
    let (id, s) := s.newId
    { s with peerReads := s.peerReads.insert id ⟨r.who.rid.toNat, r.tag, r.addr.toNat, false⟩ }.linkAsk (.peer id)
      { kind := .remoteRead, dest := key, data := leBytes 2 r.len }
  else
    { s with fresh := s.fresh + 1 }.complete r.who.rid.toNat r.tag r.addr.toNat 33 (s.getPhys owner key r.len)

/-- R366, by the channel of the request. -/
def State.serveRequest (s : State) (r : EpRequest) : Host.Outcome State Fault Refusal :=
  let n := if r.write then r.data.length else r.len
  let no (why : IoReason) : Host.Outcome State Fault Refusal := .next (s.reject r.who r.write r.addr r.tag why)
  match s.channelOf r.who with
  | none => no .noChannel
  | some (ch, c) =>
    if c.flr then no .retired
    else if n = 0 ∨ 4096 < n ∨ (r.write = true ∧ 512 < n) then no .translation
    else match (if r.write then eventTarget r.translated r.addr else none) with
      | some e => .next (s.postEvent e (.channel ch))
      | none =>
        match s.reach c r.translated r.addr n (if r.write then .store else .load) with
        | .error why => no why
        | .ok (key, owner) =>
          let s := if r.translated then s else match s.translate rootTlb c.ctx r.addr.toNat (if r.write then .store else .load) with
            | .ok (_, p) => s.noteLeaf rootTlb c.ctx r.addr.toNat p
            | .error _ => s
          .next (s.endpointAccess r c key owner)

/-- R366. -/
def execEndpointMemoryRequest (r : EpRequest) (s : State) : Host.Outcome State Fault Refusal := s.atPort r.who (s.serveRequest r)

/-- The unit's operation for an endpoint AtomicOp. -/
def EpAtomic.op : EpAtomic → AtomOp
  | .fetchAdd => .add
  | .swap => .xchg
  | .cas => .cas

/-- R360, R266: FetchAdd, Swap and CAS of 4 and 8 bytes at the home atomic unit; `c` is the operand, `d` the compared value.
Others complete with Unsupported Request; so does one on data marked uncorrectable, which makes an error record (R268). -/
def State.serveAtomicop (s : State) (who : Requester) (translated : Bool) (op : EpAtomic) (bytes : Nat) (addr c d : DWord)
    (tag : Nat) : Host.Outcome State Fault Refusal :=
  let ur := s.send { kind := .completionUR, dest := who.rid.toNat, tag := tag }
  match s.channelOf who with
  | none => .next ur
  | some (_, x) =>
    if x.flr || !(bytes = 4 ∨ bytes = 8) || addr.toNat % bytes ≠ 0 then .next ur
    else match s.reach x translated addr bytes .atomic with
      | .error _ => .next ur
      | .ok (key, owner) =>
        let bad := (List.range bytes).any (fun i => s.physBad.contains (key + i))
        if destOf key = .remote then
          let (id, s) := s.newId
          .next ({ s with peerReads := s.peerReads.insert id ⟨who.rid.toNat, tag, addr.toNat, false⟩ }.linkAsk (.peer id)
            { kind := .remoteAtomic, dest := key, data := leBytes 1 (AtomOp.bits (EpAtomic.op op)) ++ leBytes 1 bytes ++ leBytes 8 c.toNat ++ leBytes 8 d.toNat })
        else if destOf key ≠ .memory then .next ur
        else if bad || s.stackLost key then
          .next ((s.errorRec 0 0 0 0 0 addr 0 2 127 false).send { kind := .completionUR, dest := who.rid.toNat, tag := tag })
        else
          let old := s.getPhys owner key bytes
          let w (v : DWord) : Nat := v.toNat % 2 ^ (8 * bytes)
          let s := match atomicValue (EpAtomic.op op) (8 * bytes) (leNat old) (w c) (w d) with
            | none => s
            | some v => s.setPhys owner key (leBytes bytes v)
          .next (s.send { kind := .completion, dest := who.rid.toNat, tag := tag, data := old })

def execEndpointAtomicop (who : Requester) (translated : Bool) (op : EpAtomic) (bytes : Nat) (addr c d : DWord) (tag : Nat)
    (s : State) : Host.Outcome State Fault Refusal := s.atPort who (s.serveAtomicop who translated op bytes addr c d tag)

/-- An I/O-space or configuration request completes with Unsupported Request (R360). -/
def execEndpointUnsupportedRequest (who : Requester) (tag : Nat) (s : State) : Host.Outcome State Fault Refusal :=
  s.atPort who (.next (s.send { kind := .completionUR, dest := who.rid.toNat, tag := tag }))

/-- An INTx message is discarded (R360). -/
def execIntxMessage (_who : Requester) (s : State) : Host.Outcome State Fault Refusal := .next s

/-! ### Translation requests and grants (R367) -/

/-- The leaf that a walk finds, with its level. -/
def State.walkLeaf (s : State) (table va : Nat) : Nat → Option (Nat × Pte)
  | 0 => none
  | level + 1 =>
    let entries := if level = 0 then 32 else 512
    let a := table + 8 * (va / 2 ^ levelShift level % entries)
    let p : Pte := ⟨BitVec.ofNat 64 (leNat ((List.range 8).map (fun i => s.rawByte (a + i))))⟩
    if !p.valid || p.malformed level then none
    else if p.leaf then some (level, p)
    else s.walkLeaf p.addr va level

/-- The reply to a translation request: the page's physical address, its size by level, read and write granted. -/
def translationReply (w : Requester) (tag : Nat) (g : Option (Nat × Pte)) : OutMsg :=
  match g with
  | some (level, p) =>
    { kind := .translation, dest := w.rid.toNat, tag := tag,
      data := leBytes 8 p.addr ++ [BitVec.ofNat 8 level, BitVec.ofNat 8 ((if p.pR then 1 else 0) + (if p.pW then 2 else 0))] }
  | none => { kind := .translation, dest := w.rid.toNat, tag := tag, data := leBytes 10 0 }

/-- Send an ATS Invalidate Request and wait for its completion. -/
def State.sendInvalidate (s : State) (n : Nat) (what : Option (List Grant)) : State :=
  let c := s.channel n
  (s.setChannel n { c with inval := c.inval ++ [what] }).send
    { kind := .invalidate, dest := c.rid, tag := n, data := leBytes 8 ((what.bind List.head?).map (·.va) |>.getD 0) }

/-- Serve a translation request of a channel: a grant is recorded; a full list first gives up its oldest grant. -/
def State.serveTranslation (s : State) (n : Nat) (w : Requester) (addr : DWord) (tag : Nat) : State :=
  let c := s.channel n
  match (if 2 ^ 57 ≤ addr.toNat then none else s.walkLeaf (s.ctx c.ctx).root addr.toNat 5) with
  | none => s.send (translationReply w tag none)
  | some (level, p) =>
    if !p.pR && !p.pW then s.send (translationReply w tag none)
    else
      let g : Grant := ⟨addr.toNat / 2 ^ levelShift level * 2 ^ levelShift level, level, p.raw⟩
      if c.grants.contains g then s.send (translationReply w tag (some (level, p)))
      else if c.grants.length < 65536 then
        (s.setChannel n { c with grants := c.grants ++ [g] }).send (translationReply w tag (some (level, p)))
      else
        let s := s.setChannel n { c with waiting := c.waiting ++ [(addr, tag)] }
        match c.grants.head? with
        | some old => if c.inval.any (fun w => (w.getD [old]).contains old) then s else s.sendInvalidate n (some [old])
        | none => s

/-- R366, R367. -/
def execTranslationRequest (who : Requester) (addr : DWord) (tag : Nat) (s : State) : Host.Outcome State Fault Refusal :=
  s.atPort who (match s.channelOf who with
    | none => .next (s.reject who false addr tag .noChannel)
    | some (n, c) =>
      if !c.atsEn || c.retiring || c.flr then .next (s.reject who false addr tag .notGranted)
      else .next (s.serveTranslation n who addr tag))

/-- A grant covers an address. -/
def Grant.covers (g : Grant) (va : Nat) : Bool := decide (g.va ≤ va ∧ va < g.va + 2 ^ levelShift g.level)

/-- A grant's page meets a range. -/
def Grant.meets (g : Grant) (va n : Nat) : Bool := decide (va < g.va + 2 ^ levelShift g.level ∧ g.va < va + n)

/-- ATS Invalidate Requests go to every channel of a context that holds grants in a range (R367). -/
def State.invalidateRange (s : State) (ctx va n : Nat) : State :=
  let hit := s.channels.filter (fun e => e.2.valid && e.2.ctx == ctx && e.2.grants.any (fun g => g.meets va n))
  hit.foldl (fun s e => s.sendInvalidate e.1 (some (e.2.grants.filter (fun g => g.meets va n)))) s

/-- Firmware has changed or removed a leaf: it sends an ATS Invalidate Request to every channel that holds its grant (R367). -/
def execAtsInvalidate (ctx va : Nat) (s : State) : Host.Outcome State Fault Refusal := .next (s.invalidateRange ctx va 1)

/-- Firmware writes a leaf or table entry of a context: the grants of the pages below it are invalidated (R367). -/
def State.changeLeaf (s : State) (c va level : Nat) (pte : DWord) : Option State :=
  let size := 2 ^ levelShift level
  (s.writePte c va level pte).map (fun s => s.invalidateRange c (va / size * size) size)

/-- The requester that a channel's entry names. -/
def Channel.requester (c : Channel) : Requester :=
  { port := BitVec.ofNat 4 c.port, rid := BitVec.ofNat 16 c.rid, pasid := c.pasid.map (BitVec.ofNat 20) }

/-- Serve the translation requests that waited for room. -/
def State.serveWaiting (s : State) (n : Nat) : State :=
  let c := s.channel n
  c.waiting.foldl (fun s w => s.serveTranslation n c.requester w.1 w.2) (s.setChannel n { c with waiting := [] })

/-- Translation requests that were accepted before a retirement and wait for room get their answers before it ends (R369). -/
def State.answerWaiting (s : State) (n : Nat) : State :=
  let c := s.channel n
  c.waiting.foldl (fun s w => s.send (translationReply c.requester w.2 (s.walkLeaf (s.ctx c.ctx).root w.1.toNat 5))) s

/-- Retirement's last step: VALID is cleared, the grant list is free (R369), and RETIRING with VALID (log 44). -/
def Channel.retire (c : Channel) : Channel :=
  { c with entry := c.entry &&& 0x3FFFFFFFFFFFFFFF, grants := [], inval := [], flr := false, waiting := [] }

/-- One invalidation of a channel has completed: its grants go, and a retirement ends (R367, R369). -/
def State.invalidated (s : State) (n : Nat) (what : Option (List Grant)) : State :=
  let c := s.channel n
  match what with
  | none => if c.retiring then (s.answerWaiting n).setChannel n c.retire else s.setChannel n { c with grants := [] }
  | some gs => (s.setChannel n { c with grants := c.grants.filter (fun g => !gs.contains g) }).serveWaiting n

/-- The function's Invalidate Completion arrives. -/
def execInvalidateCompletion (ch : Nat) (s : State) : Host.Outcome State Fault Refusal :=
  let c := s.channel ch
  match c.inval with
  | [] => .next s
  | what :: rest => if c.flr then .next s else .next ((s.setChannel ch { c with inval := rest }).invalidated ch what)

/-- Send a Function Level Reset: the function's requests are rejected until it is complete (R367). -/
def State.sendReset (s : State) (n : Nat) : State :=
  let c := s.channel n
  let s : State := { s with channels := s.channels.map (fun (e : Nat × Channel) =>
    if e.2.sameFunction c then (e.1, { e.2 with flr := true }) else e) }
  s.send { kind := .functionReset, dest := c.rid, tag := n }

/-- A function has not answered within 100 ms (R367). -/
def execInvalidateTimeout (ch : Nat) (s : State) : Host.Outcome State Fault Refusal :=
  let c := s.channel ch
  if c.inval.isEmpty || c.flr then .next s else .next (s.sendReset ch)

/-- The reset is complete 100 ms after it was sent: it stands for the Invalidate Completions that the function owes (R367,
R369). -/
def execFlrComplete (ch : Nat) (s : State) : Host.Outcome State Fault Refusal :=
  let c := s.channel ch
  if !c.flr then .next s
  else
    let all := s.channels.filter (fun e => e.2.sameFunction c && e.2.flr)
    .next (all.foldl (fun s e =>
      let owed := e.2.inval
      owed.foldl (fun s w => s.invalidated e.1 w) (s.setChannel e.1 { s.channel e.1 with flr := false, inval := [] })) s)

/-- Firmware begins to retire a channel: RETIRING, then an invalidation of its whole range, or a reset for a function without
ATSEN (R369). -/
def State.beginRetire (s : State) (n : Nat) : State :=
  let c := s.channel n
  if !c.valid || c.retiring then s
  else
    let s := s.setChannel n { c with entry := c.entry ||| 0x4000000000000000 }
    if c.atsEn then s.sendInvalidate n none
    else
      let c := s.channel n
      (s.setChannel n { c with inval := c.inval ++ [none] }).sendReset n

/-! ### Page requests (R368) -/

/-- A page request is queued to firmware, or discarded and logged. -/
def execPageRequest (who : Requester) (addr : DWord) (write : Bool) (prg : Nat) (last : Bool) (s : State) :
    Host.Outcome State Fault Refusal :=
  s.atPort who (match s.channelOf who with
    | none => .next (s.dropPosted who addr .noChannel)
    | some (n, c) =>
      if !c.priEn || c.retiring || c.flr || decide (4096 ≤ s.pageReqs.length) then .next (s.dropPosted who addr .pageRequest)
      else .next { s with pageReqs := s.pageReqs ++ [⟨who, addr, write, prg, last, n, c.ctx⟩] })

/-- How the tables stand toward a page request: mapped with the access or without it, or not mapped. -/
def State.requestState (s : State) (c : Nat) (q : PageReq) : Option Bool :=
  match s.walk c q.addr.toNat with
  | .ok p => some (p.admits (if q.write then .store else .load))
  | .error _ => none

/-- The first of some pages of HBM that is fit to be given to an owner, with its receipt, and the pages left; one that is in use, retired,
or fails the pass is replaced by the next (R387). -/
def State.pickPage (s : State) (owner : BitVec 8) (taken : List Nat) : List Nat → Option (Nat × List Byte) × List Nat × State
  | [] => (none, [], s)
  | page :: rest =>
    if page % 65536 ≠ 0 ∨ 4503599627370496 ≤ page ∨ taken.contains page then s.pickPage owner taken rest
    else match s.scrubPage 0 page owner with
      | (some r, s) => (some (page, r), rest, s)
      | (none, s) => s.pickPage owner taken rest

/-- Pages for some addresses in turn, each with its receipt; nothing where there are not enough. -/
def State.pickPages (s : State) (owner : BitVec 8) (taken : List Nat) : List Nat → List Nat → Option (List (Nat × Nat × List Byte)) × State
  | [], _ => (some [], s)
  | va :: vas, pages =>
    match s.pickPage owner taken pages with
    | (none, _, s) => (none, s)
    | (some (page, r), rest, s) =>
      match s.pickPages owner (page :: taken) vas rest with
      | (some l, s) => (some ((va, page, r) :: l), s)
      | (none, s) => (none, s)

/-- Allocate a page of HBM for each unmapped 64 KiB page among some addresses: the sanding passes, then the receipts and leaves of 64 KiB for
loads and stores under the context's owner. Whether there were enough: else nothing is mapped (R368). -/
def State.allocAll (s : State) (c : Nat) (vas pages : List Nat) : State × Bool :=
  let owner := (s.ctx c).owner
  let want := ((vas.filter (fun va => !(s.walk c va).isOk)).map (fun va => va / 65536 * 65536)).eraseDups
  match s.pickPages owner [] want pages with
  | (none, s) => (s, false)
  | (some l, s) =>
    (l.foldl (fun s x =>
      let s := s.appendReceipt c x.2.2
      (s.changeLeaf c x.1 0 (BitVec.ofNat 64 (owner.toNat * 2 ^ 52 + x.2.1 + 0x17))).getD s) s, true)

/-- Firmware answers a page request group after its last request, under the binding that accepted it (R369): the first row of R368's table
that its addresses meet. `pages` are the free pages it has at hand. -/
def execPageRequestGroupResponse (who : Requester) (prg : Nat) (pages : List Nat) (s : State) :
    Host.Outcome State Fault Refusal :=
  match s.pageReqs.find? (fun q => q.who = who && q.prg == prg) with
  | none => .next s
  | some q0 =>
    let mine (q : PageReq) : Bool := q.who = who && q.prg == prg && q.ch == q0.ch && q.ctx == q0.ctx
    let group := s.pageReqs.filter mine
    let c := q0.ctx
    if !group.any (·.last) then .next s
    else
      let s := { s with pageReqs := s.pageReqs.filter (fun q => !mine q) }
      let reply (s : State) (k : MsgKind) : Host.Outcome State Fault Refusal :=
        .next (s.send { kind := k, dest := who.rid.toNat, tag := prg })
      let st := group.map (s.requestState c)
      if (s.ctxs.find? c).isNone || st.contains (some false) then reply s .pageInvalid
      else if st.all (· == some true) then reply s .pageSuccess
      else if group.all (fun q => (s.requestState c q).isSome || (s.ctx c).demand q.addr.toNat) then
        let (s, enough) := s.allocAll c (group.map (fun q => q.addr.toNat)) pages
        reply s (if enough then .pageSuccess else .pageFailure)
      else reply s .pageInvalid

/-! ### Completions of endpoint reads (R364) -/

/-- The element of an operation that waits for a completion. -/
def Op.awaiting (o : Op) (lane : Nat) : Option (Nat × Elem) :=
  ((List.range o.elems.length).zip o.elems).find? (fun x => x.2.lane == lane && x.2.sent && !x.2.performed)

/-- What a system core reads goes to firmware. -/
def State.coreAnswer (s : State) (bs : List Byte) : State := { s.send { kind := .report, data := bs } with fresh := s.fresh + 1 }

/-- A peer-to-peer read ends: the reader gets its completion (R360). A system core's gets its data, or all ones, with an entry in the port's
AER log (R364). -/
def State.endPeer (s : State) (id : Nat) (ok : Bool) (data : List Byte) : State :=
  match s.peerReads.find? id with
  | none => s
  | some r =>
    let s := { s with peerReads := s.peerReads.erase id }
    if r.core then
      if ok then s.coreAnswer data
      else { s.coreAnswer (List.replicate 8 0xFF) with aerLog := s.aerLog ++ [(s.portOf r.addr, r.addr)] }
    else if ok then s.complete r.rid r.tag r.addr 33 data else s.send { kind := .completionUR, dest := r.rid, tag := r.tag }

/-- An endpoint read ends: with its data, or with all ones in every word and an entry in the port's AER log. -/
def State.endRead (s : State) (op lane : Nat) (ok : Bool) (data : List Byte) : State :=
  match s.ops.find? op with
  | none => s.endPeer op ok data
  | some o =>
    match o.awaiting lane with
    | none => s
    | some (j, e) =>
      let got := if ok then fit e.n data else List.replicate (max 4 e.n) 0xFF
      let key := match s.locOf o e with
        | .ok (_, k, _) => k
        | .error _ => e.addr.toNat
      let s := if ok then s else { s with aerLog := s.aerLog ++ [(s.portOf key, key)] }
      (s.setElem op o j { e with performed := true, got := got }).finishOp op

def execEndpointCompletion (op lane : Nat) (ok : Bool) (data : List Byte) (s : State) : Host.Outcome State Fault Refusal :=
  .next (s.endRead op lane ok data)

/-- No completion for 50 ms (R364). -/
def execCompletionTimeout (op lane : Nat) (s : State) : Host.Outcome State Fault Refusal :=
  .next (s.endRead op lane false [])

end Sys2Proof.Machine
end

