-- ==== Sys2Proof/Machine/Links.lean ====
section
/-! DEFINITION. The Thojan links: ports lost, flow control, flits received and what they bring, retraining (R257, R258). -/

namespace Sys2Proof.Machine

/-! ### Lost ports (R258) -/

/-- What a lost port held: each collective step fails once, and is sent again whole or fails its collective; the flits of G accesses are sent
again over another port, with the numbers that let the receiver discard one that has come through (R258). -/
def State.reroute (s : State) (ms : List OutMsg) : State :=
  let steps := ((ms.filter (fun m => m.kind = .collStep)).map (·.tag)).eraseDups
  let s := steps.foldl (fun s t => s.stepFailed (t / 4096) (t % 4096)) s
  (ms.filter (fun m => m.kind ≠ .collStep)).foldl (fun s m => s.sendFlits [{ m with link := none }]) s

/-- A Thojan port is taken out of service: MR6 is extended, the loss is reported, and its traffic goes over the other ports (R258, R388,
R394). -/
def State.portOut (s : State) (n : Nat) : State :=
  let p := s.port n
  if 64 ≤ n || p.oos then s
  else
    let s := ((s.setPort n { p with oos := true, retraining := false, tx := [], replay := [] }).extendOpen 6).lose .port n
    s.reroute (p.replay ++ p.tx)

/-- A receiver signals stop while it has room for two flits or fewer; on go the flits that wait are sent. -/
def execThojanFlowControl (port room : Nat) (s : State) : Host.Outcome State Fault Refusal :=
  if 64 ≤ port then .next s else .next ((s.setPort port { s.port port with stopped := decide (room ≤ 2) }).pump port)

/-! ### Accesses of other packages (log 17): the owner is the one that the line is kept under -/

/-- A write reaches this package's memory. -/
def State.flitWrite (s : State) (key : Nat) (bs : List Byte) : State :=
  if destOf key ≠ .memory then s
  else if s.stackLost key then s.errorRec 0 0 0 0 0 0 0 2 127 false
  else s.homeWrite 0 (s.lineKey.getD (key / 64) 0) key (bs.take 64)

/-- Some of these bytes are marked uncorrectable, or no memory of this package holds them. -/
def State.homeBad (s : State) (key n : Nat) : Bool :=
  destOf key ≠ .memory || s.stackLost key || (List.range n).any (fun i => s.physBad.contains (key + i))

/-- The answer to another package's request: the bytes, and whether they are marked uncorrectable. -/
def State.flitAnswer (s : State) (src tag : Nat) (bs : List Byte) (bad : Bool) : State :=
  s.linkSend { kind := .remoteReply, dest := src, tag := tag, data := bs ++ [if bad then 1 else 0] }

/-- An atomic of another package, performed by the home's unit (R266, R268). -/
def State.flitAtomic (s : State) (op : AtomOp) (key n : Nat) (c d : DWord) : State :=
  let owner := s.lineKey.getD (key / 64) 0
  let w (v : DWord) : Nat := v.toNat % 2 ^ (8 * n)
  match atomicValue op (8 * n) (leNat (s.getPhys owner key n)) (w c) (w d) with
  | none => s
  | some v => s.setPhys owner key (leBytes n v)

/-! ### Answers from other packages -/

/-- Bytes that came, under those that the core's store buffer held. -/
def overlay (held : List (Option Byte)) (bs : List Byte) : List Byte :=
  (List.range held.length).map (fun i => (held.getD i none).getD (bs.getD i 0))

/-- The last write of an entry has been acknowledged: its stores are performed (R215). -/
def State.acknowledged (s : State) (id : Nat) : State :=
  match List.find? (fun (c : Nat × CoreSt) => c.2.away.any (fun l => l.id = id)) s.cores with
  | none => s
  | some (k, c) => match c.away.find? (fun l => l.id = id) with
    | none => s
    | some l => (s.setCore k { c with away := c.away.erase l }).entryHome l

/-- Another package has answered a request (R257, R266): it serves the element, the copy or the endpoint that waits for it. -/
def State.askAnswered (s : State) (n : Nat) (bs : List Byte) (bad : Bool) : State :=
  match s.asks.find? n with
  | none => s
  | some a =>
    let s := { s with asks := s.asks.erase n }
    match a with
    | .peer id => s.endPeer id (!bad) bs
    | .word id w held =>
      match s.copies.find? id with
      | none => s
      | some c => s.copyAnswer id c w (overlay held bs) bad
    | .elem id j held =>
      match s.ops.find? id with
      | none => s
      | some o => match o.elems[j]? with
        | none => s
        | some e =>
          if !e.sent || e.performed then s
          else match o.kind with
            | .load => (s.setElem id o j { e with performed := true, got := overlay held bs, bad := bad }).finishOp id
            | .atomic _ ret => s.atomReply id o j e ret (fit e.n bs) bad
            | .store => (s.setElem id o j { e with performed := true }).finishOp id
    | .written id => if s.owes id then s else s.acknowledged id

/-! ### Collective steps (R255, R256) -/

/-- Bytes of another package's rank reach a part, or the news that its fields differ. -/
def State.collArrive (s : State) (part r off : Nat) (agrees : Bool) (bs : List Byte) : State :=
  match s.colls.find? part with
  | none => s
  | some c =>
    if memberPkg c.members r = Config.packageNumber % 512 || decide ((parseColl c.desc).nmem ≤ r) then s
    else if !agrees then { s with colls := s.colls.insert part { c with differs := r :: c.differs } }
    else { s with colls := s.colls.insert part { c with arriving := c.arriving.insert r (mergeBytes (c.arriving.getD r []) off (bs.take 64)) } }

/-- A step has been acknowledged: a part whose source every other package has may be let go. -/
def State.collAcked (s : State) (part r : Nat) : State :=
  match s.colls.find? part with
  | none => s
  | some c => { s with colls := s.colls.insert part { c with acked := r :: c.acked } }.collPurge

/-! ### Flits -/

/-- The far end wants a flit again: it is replayed from the buffer up to 8 times, and then the link retrains once (R258). -/
def State.nacked (s : State) (n seq : Nat) : State :=
  let p := s.port n
  match p.replay.find? (fun m => m.link = some (n, seq)) with
  | none => s
  | some m =>
    let same := decide (seq = p.nackSeq)
    let k := if same then p.nacks else 0
    if k < 8 then (s.setPort n { p with nackSeq := seq, nacks := k + 1, nackRetrained := same && p.nackRetrained }).send m
    else if p.nackRetrained then s.portOut n
    else s.setPort n { p with retraining := true }

/-- What a flit brings. -/
def State.flitLoad (s : State) (f : Flit) : State :=
  match f.load with
  | .idle => s
  | .write key bs tag => (s.flitWrite key bs).flitAnswer f.src tag [] false
  | .read key n tag => s.flitAnswer f.src tag (s.getPhys (s.lineKey.getD (key / 64) 0) key (min n 64)) (s.homeBad key (min n 64))
  | .atomic op key n c d tag =>
    let bs := s.getPhys (s.lineKey.getD (key / 64) 0) key (min n 8)
    if s.homeBad key (min n 8) then s.flitAnswer f.src tag bs true else (s.flitAtomic op key (min n 8) c d).flitAnswer f.src tag bs false
  | .reply tag bs bad => s.askAnswered tag bs bad
  | .step part r off agrees bs => s.collArrive part r off agrees bs
  | .ack part r => s.collAcked part r
  | .nack seq => s.nacked f.port seq

/-- A flit: one that fails its CRC is replayed up to 8 times before the link retrains; a repeated sequence number is discarded, on the link
and from end to end (R258). -/
def execFlitReceive (f : Flit) (s : State) : Host.Outcome State Fault Refusal :=
  let p := s.port f.port
  if 64 ≤ f.port || p.oos || p.retraining then .next s
  else if !f.crcOk then
    if p.replays < 8 then .next (s.setPort f.port { p with replays := p.replays + 1 })
    else if p.retrained then .next (s.portOut f.port)
    else .next (s.setPort f.port { p with retraining := true })
  else if f.seq ≠ p.expected then .next s
  else
    let s := s.setPort f.port { p with expected := p.expected + 1, replays := 0, retrained := false }
    if s.seenFlits.contains (f.src, f.num) then .next s
    else .next ({ s with seenFlits := (f.src, f.num) :: s.seenFlits }.flitLoad f)

/-- The link retrains once, and sends again what the far end has asked for; where retraining fails, the port is lost. -/
def execLinkRetrain (port : Nat) (ok : Bool) (s : State) : Host.Outcome State Fault Refusal :=
  let p := s.port port
  if !p.retraining then .next s
  else if ok then
    let again := p.replay.filter (fun m => p.nacks ≠ 0 && m.link.any (fun x => decide (p.nackSeq ≤ x.2)))
    .next ((again.foldl State.send (s.setPort port { p with
      retraining := false, retrained := true, replays := 0, nacks := 0, nackRetrained := p.nackRetrained || decide (8 ≤ p.nacks) })).pump port)
  else .next (s.portOut port)

end Sys2Proof.Machine
end

