-- ==== Sys2Proof/Machine/Paging.lean ====
section
/-! DEFINITION. How firmware serves page faults of groups and copies, and moves pages to the second tier (R231, R232, R242, R342). -/

namespace Sys2Proof.Machine

/-! ### Pages in the second tier (R232) -/

/-- A moved page covers an address of its context. -/
def PagedOut.covers (p : PagedOut) (c va : Nat) : Bool := decide (p.ctx = c ∧ p.va ≤ va ∧ va < p.va + 2 ^ levelShift p.level)

/-- The page at an address that firmware has moved to the second tier. -/
def State.pagedAt (s : State) (c va : Nat) : Option PagedOut := s.pagedOut.find? (fun p => p.moved && p.covers c va)

/-- A moved page's byte i. -/
def PagedOut.byte (p : PagedOut) (i : Nat) : Byte :=
  let b := p.data.getD i memDefault
  match p.lost with
  | none => b
  | some n => Config.wrongKeyByte (Pte.owner ⟨p.leaf⟩).toNat (256 + n) i b

/-- The data of a moved page, at the page that has been given to it. -/
def State.pageIn (s : State) (p : PagedOut) (key : Nat) (owner : BitVec 8) : State :=
  let s := s.setPhys owner key ((List.range (pageBytes p.level)).map p.byte)
  { s with physBad := p.bad.map (key + ·) ++ s.physBad, pagedOut := s.pagedOut.erase p }

/-- A page's data as it is moved. -/
def State.pageOut (s : State) (p : PagedOut) : PagedOut :=
  let l : Pte := ⟨p.leaf⟩
  let key := physKey l.tier l.addr
  let n := pageBytes p.level
  let stored := (s.phys.filter (fun e => decide (key ≤ e.1 ∧ e.1 < key + n))).map (fun e => (e.1 - key, s.physByte l.owner e.1))
  { p with moved := true, data := stored,
           bad := (s.physBad.filter (fun x => decide (key ≤ x ∧ x < key + n))).map (· - key) }

/-- Leaves of a page that agree but for the place of the page. -/
def sameRights (p q : Pte) : Bool :=
  decide (p.owner = q.owner ∧ p.kind = q.kind) && p.pR == q.pR && p.pW == q.pW && p.pX == q.pX

/-- A 64 KiB page of a context meets a range. -/
def pagesIn (ctx va n : Nat) (x : Nat × Nat) : Bool := decide (x.1 = ctx ∧ va < x.2 * 65536 + 65536 ∧ x.2 * 65536 < va + n)

/-- The translations of a page leave the TLBs; the accesses accepted under them have been performed, so that the store buffers hold
nothing of the page (R231, R398). -/
def State.dropLeaves (s : State) (ctx va n : Nat) : State :=
  let s := s.flushPages (pagesIn ctx va n)
  { s with tlbs := s.tlbs.filter (fun e => !pagesIn ctx va n (e.1 / 2 ^ 41 / 1024, e.1 % 2 ^ 41)) }

/-- An atomic that has passed Commit() under a translation of the pages in a range has still to be performed (R266). -/
def State.atomsUse (s : State) (ctx va n : Nat) : Bool :=
  s.ops.any (fun o => o.2.ctx = ctx && o.2.elems.any (fun e => e.leaf.isSome && !e.performed &&
    pagesIn ctx va n (ctx, e.addr.toNat / 65536)))

/-- A channel of a context holds a grant in a range, or an invalidation of one is on its way. -/
def State.granted (s : State) (ctx va n : Nat) : Bool :=
  s.channels.any (fun e => e.2.valid && e.2.ctx == ctx && (e.2.grants.any (fun g => g.meets va n) || !e.2.inval.isEmpty))

/-- Firmware takes the leaf at an address out of the tables, to move the page to the second tier: one of memory that nothing but
this leaf maps. -/
def State.unmapPage (s : State) (ctx va : Nat) : Option State :=
  match (if 2 ^ 57 ≤ va then none else s.walkLeaf (s.ctx ctx).root va 5) with
  | none => none
  | some (level, p) =>
    let base := va / 2 ^ levelShift level * 2 ^ levelShift level
    let key := physKey p.tier p.addr
    if destOf key ≠ .memory || (s.mappedBy key (pageBytes level)).length ≠ 1 || s.onLostStack key (pageBytes level) then none
    else (s.changeLeaf ctx base level 0).map (fun s =>
      { s with pagedOut := s.pagedOut ++ [{ ctx := ctx, va := base, level := level, leaf := p.raw }] })

/-- The moves of pages of an address whose invalidation is complete: their data go to the second tier. -/
def State.finishMoves (s : State) (ctx va : Nat) : State :=
  { s with pagedOut := s.pagedOut.map (fun p => if p.covers ctx va && !p.moved then s.pageOut p else p) }

/-- The invalidation of a translation completes: accesses accepted under it have been performed, so the store buffers hold
nothing of its page (R231, R398). It completes only after the atomics that use the translation: until then it is tried again, and
nothing else from outside passes it (R266); so with writes that a stack in self-refresh holds (R235) or that another package has to
acknowledge (R215). With `out` firmware first unmaps the page, to keep its data in the second tier, where they go when the invalidation
and those of the endpoints are complete (R232). -/
def execTlbInvalidate (ctx : Nat) (f : Invalidation) (s : State) : Host.Outcome State Fault Refusal :=
  let va := f.va
  let s := if f.out then (s.unmapPage ctx va).getD s else s
  let span := match s.pagedOut.find? (fun p => !p.moved && p.covers ctx va) with
    | some p => (p.va, pageBytes p.level)
    | none => (va / 65536 * 65536, 65536)
  let moving := s.pagedOut.any (fun p => !p.moved && p.covers ctx va)
  if s.atomsUse ctx span.1 span.2 || s.flushWaits (pagesIn ctx span.1 span.2) || (moving && s.granted ctx span.1 span.2) then
    .next { s with agenda := (1, .tlbInvalidate ctx ⟨va, false⟩) :: s.agenda }
  else .next ((s.dropLeaves ctx span.1 span.2).finishMoves ctx va)

/-! ### Page faults (R232, R342) -/

/-- A leaf that firmware may write for a page fault: it covers the address, is of memory, keeps the doorbell window free, carries
the context's owner, and for a page from the second tier its size and rights. -/
def State.leafFits (s : State) (c fault va level : Nat) (p : Pte) (old : Option PagedOut) : Bool :=
  let size := 2 ^ levelShift level
  decide (level ≤ 2 ∧ va / size = fault / size) && p.valid && p.leaf && !p.malformed level &&
  decide (destOf (physKey p.tier p.addr) = .memory) && !(s.ctx c).window (va / size * size) size && decide (p.owner = (s.ctx c).owner) &&
  old.all (fun o => o.level == level && sameRights ⟨o.leaf⟩ p)

/-- Firmware brings a page in at the address of a fault, unless it is there already: one moved to the second tier comes back with its data,
and in a range that the context has declared allocatable on demand a page is allocated; either is a fresh page, which passes the sanding
pass (R232, R385). Whether the page is present now: one that fails its read-back is retired, and another may follow (R387). -/
def State.servePage (s : State) (c fault va level : Nat) (pte : DWord) : Bool × State :=
  let p : Pte := ⟨pte⟩
  let old := s.pagedAt c fault
  let base := va / 2 ^ levelShift level * 2 ^ levelShift level
  let key := physKey p.tier p.addr
  if (s.walk c fault).isOk then (true, s)
  else if !s.leafFits c fault va level p old || (old.isNone && !(s.ctx c).demand fault) || (s.writePte c base level pte).isNone then (false, s)
  else match s.freshPage c level key p.owner with
    | (false, s) => (false, s)
    | (true, s) =>
      let s := match old with
        | some o => s.pageIn o key p.owner
        | none => s
      match s.changeLeaf c base level pte with
      | some s' => (true, s')
      | none => (false, s)

/-- Firmware may terminate the grid for a page fault: no mapping may cover the address, or no page is left to allocate there, which is
open (R232, R387, log 35). -/
def State.mayEnd (s : State) (c fault : Nat) : Bool × State :=
  if (s.walk c fault).isOk || (s.pagedAt c fault).isSome then (false, s)
  else if (s.ctx c).demand fault then s.freeBool
  else (true, s)

/-- Firmware serves a parked group: a page fault by bringing in the page or allocating one, after which the group resumes, or, where no
mapping may cover the address, by terminating the grid; any other fault by terminating the grid (R232, R342). Where one of the grid's
groups is halted, the code is its halt record's. -/
def execPageFaultService (group : Nat) (act : PageService) (s : State) : Host.Outcome State Fault Refusal :=
  match s.group? group, s.faultQueue.find? (s.recordOfGroup group) with
  | some g, some r =>
    let paged := g.rcd.map (·.cause) = some 3
    let c := s.ctxOf group
    if g.place ≠ .parked then .next s
    else match act with
      | .mapPage va level pte =>
        if !paged then .next s
        else match s.servePage c (natAt r 24 8) va level pte with
          | (true, s) => .next ((s.takeRecord group).2.unpark group)
          | (false, s) => .next s
      | .terminate =>
        match (if paged then s.mayEnd c (natAt r 24 8) else (true, s)) with
        | (true, s) => .next ((s.takeRecord group).2.beginTermination (gridOf group) (s.haltCode (gridOf group) (recordCode r)))
        | (false, s) => .next s
  | _, _ => .next s

/-- Firmware serves the page fault of a paused copy as a group's, and the copy goes on; an address that no mapping may cover stops
it (R242). -/
def execCopyResume (f : CopyService) (s : State) : Host.Outcome State Fault Refusal :=
  match s.copies.find? f.id with
  | none => .next s
  | some c =>
    match c.paused with
    | none => .next s
    | some (a, d, _) =>
      match f.act with
      | .mapPage va level pte =>
        match s.servePage c.ctx a.toNat va level pte with
        | (true, s) => .next { s with copies := s.copies.insert f.id { c with paused := none } }
        | (false, s) => .next s
      | .terminate =>
        match s.mayEnd c.ctx a.toNat with
        | (true, s) => .next (s.copyStop f.id c none (0x0700 + d))
        | (false, s) => .next s

end Sys2Proof.Machine
end

