-- ==== Sys2Proof/Machine/Trust.lean ====
section
/-! DEFINITION. Module reset and boot, loss of power, root-die registers, the system cores' accesses, and the management
connector's addresses (R5, R326, R359, R375, R376, R388 to R390, R395). -/

namespace Sys2Proof.Machine

/-! ### Root-die registers (R326, R359, R389) -/

/-- The partition layout record's 64 bytes; FORMAT is 1. -/
def State.partitionBytes (s : State) : List Byte :=
  (List.range 16).flatMap (fun i => leBytes 4 (s.partition.getD i (if i = 0 then 1 else 0)).toNat)

/-- The item of MR3: the record, then PORTCFG and PORTSPD of the four root ports. -/
def State.layoutItem (s : State) : List Byte :=
  s.partitionBytes ++ (List.range 4).flatMap (fun p => leBytes 4 (s.portCfgOf p).toNat ++ leBytes 4 (s.portSpdOf p).toNat)

/-- SCHEDCFG's fields are in their ranges (R326). -/
def schedOk (v : Word) : Bool := decide (1 ≤ bitsAt v.toNat 8 16) && decide (10 ≤ bitsAt v.toNat 0 5 ∧ bitsAt v.toNat 0 5 ≤ 30)

/-- The bits of a word of the partition layout record that are not reserved (R5, R389). -/
def layoutMask (i : Nat) : Word :=
  match i with
  | 1 | 14 | 15 => 0
  | 3 => 0xF
  | 4 => 0xFF
  | _ => 0xFFFFFFFF

/-- MR3 is extended where its item has changed since `old` (R388, R389). -/
def State.layoutChanged (s old : State) : State := if s.layoutItem = old.layoutItem then s else s.extend 3 s.layoutItem

/-- The firmware runs: hart 0 has been released at boot step 3 (R33, R376). -/
def State.firmwareRuns (s : State) : Bool := decide (3 ≤ s.bootStep)

/-- A tailstock holds an entry for a port (R378). -/
def State.tailFor (s : State) (port : Nat) : Bool := s.tails.any (fun e => e.2.any (fun t => s.portOf t.target = port))

/-- Firmware assigns BAR i, once no tailstock holds an entry for the ports concerned: till then it waits (R377, R378). -/
def State.assignBar (s : State) (i : Nat) (d : Decoder) (on : Bool) : Option State :=
  if s.tailFor d.port || (s.bars.find? i).any (fun o => s.tailFor o.port) then none
  else some { s with bars := if on then s.bars.insert i d else s.bars.erase i }

/-- Whether the partition layout record may take a word: FWSLOTS and NCTX are in their ranges, MAPSEL stays as boot has fixed it (R232,
R389). -/
def layoutOk (i : Nat) (v : Word) : Bool :=
  match i with
  | 3 => false
  | 4 => decide (bitsAt v.toNat 0 8 ≤ 32)
  | 5 => decide (1 ≤ v.toNat ∧ v.toNat ≤ 4096)
  | _ => decide (i ≠ 0 ∧ i < 16)

/-- Firmware writes a root-die register; reserved bits read 0. -/
def execRegisterWrite (r : RootReg) (v : Word) (s : State) : Host.Outcome State Fault Refusal :=
  if !s.firmwareRuns then .next s
  else match r with
  | .schedcfg => if schedOk v then .next { s with schedcfg := v &&& 0x00FFFF1F } else .next s
  | .portcfg p =>
    if 4 ≤ p then .next s
    else .next (State.layoutChanged { s with portCfg := s.portCfg.insert p (v &&& 0x0000FF3C) } s)
  | .portspd p =>
    if 4 ≤ p then .next s
    else .next (State.layoutChanged { s with portSpd := s.portSpd.insert p (v &&& 0xF0000000) } s)
  | .errorLogClear => .next { s with errorLog := [] }
  | .ioLogClear => .next { s with ioLog := [] }
  | .aerLogClear port => .next { s with aerLog := s.aerLog.filter (fun e => e.1 ≠ port) }
  | .partitionWord i =>
    if !layoutOk i v then .next s
    else .next (State.layoutChanged { s with partition := s.partition.insert i (v &&& layoutMask i) } s)
  | .hdmDecoder i base size port =>
    .next { s with hdm := if v.getLsbD 0 then s.hdm.insert i ⟨base, size, port, 0⟩ else s.hdm.erase i }
  | .bridgeWindow i base size port peer =>
    .next { s with bridges := if v.getLsbD 0 then s.bridges.insert i ⟨base, size, port, peer⟩ else s.bridges.erase i }
  | .bar i base size port =>
    match s.assignBar i ⟨base, size, port, 0⟩ (v.getLsbD 0) with
    | some s => .next s
    | none => .next { s with agenda := (1, .registerWrite (.bar i base size port) v) :: s.agenda }

/-! ### Boot (R376) -/

/-- The lane-word table's bytes in entry order (R31). -/
def State.laneBytes (s : State) : List Byte :=
  (List.range 1792).flatMap (fun i => leBytes 4 (s.laneWord (i / 4) (i % 4)).toNat)

/-- What outlives a reset: fuses and flash. -/
def State.flash (s : State) : State :=
  { State.reset with
    laneWords := s.laneWords, operatorKey := s.operatorKey, ownerPub := s.ownerPub, nextLeaf := s.nextLeaf,
    retired := s.retired, images := s.images, boots := s.boots + 1, fresh := s.fresh, agenda := s.agenda }

/-- The image of a slot of the flash: as IMAGE_WRITE has left it, else as it left the factory. -/
def State.image (s : State) (b : Bool) : List Byte := (s.images.find? (if b then 1 else 0)).getD (Config.factoryImage b)

/-- Step 4: the firmware writes the partition layout record, with values of its own in their ranges (R389). -/
def State.writeLayout (s : State) : State :=
  let word (i : Nat) : Word :=
    let v := Config.freeBits (s.fresh + i)
    match i with
    | 0 => 1
    | 4 => BitVec.ofNat 32 (v.toNat % 33)
    | 5 => BitVec.ofNat 32 (v.toNat % 4096 + 1)
    | _ => v.setWidth 32 &&& layoutMask i
  { s with partition := (List.range 16).map (fun i => (i, word i)), fresh := s.fresh + 16 }

/-- Step 5: the firmware writes PORTCFG and trains the links; a port that fails is left down and logged. Each function behind one that
runs gets its page-request allocation (R368). What it writes and which ports fail is open (log 46). -/
def State.trainPorts (s : State) : State :=
  let cfg (p : Nat) : Word := (Config.freeBits (s.fresh + p)).setWidth 32 &&& 0x0000FF3C
  let bad := Config.freeBits (s.fresh + 4)
  let s : State := { s with portCfg := (List.range 4).map (fun p => (p, cfg p)), fresh := s.fresh + 5 }
  (List.range 16).foldl (fun s n =>
    if (s.portMode n).isNone then s
    else if bad.getLsbD n then { s with portDown := s.portDown ++ [n] }.logIo { addr := n, reason := .portDown }
    else s.send { kind := .pageAllocation, dest := n, data := leBytes 4 256 }) s

/-- Step 6: the Thojan links are trained; one that fails is left out of service (R258). Which is open (log 46). -/
def State.trainThojan (s : State) : State :=
  let bad := Config.freeBits s.fresh
  (List.range 64).foldl (fun s n => if bad.getLsbD n then s.setPort n { s.port n with oos := true } else s) { s with fresh := s.fresh + 1 }

/-- Boot with the outcomes of the image checks and of memory training: recovery where they fail, else the measurements of each step. -/
def State.boot (s : State) (slotAOk slotBOk trainOk : Bool) : State :=
  let s := s.flash.extendOpen 0
  if !slotAOk && !slotBOk then { s with booted := false, bootStep := 2 }
  else
    let b := !slotAOk
    let s := { s with slotB := b }.extend 1 ((if b then 0x42 else 0x41) :: s.image b)
    if !trainOk then { s with booted := false, bootStep := 4 }
    else
      let s := ((s.writeLayout.extendOpen 4).extend 5 (leBytes 4 s.powerCfg.toNat)).extendOpen 7
      let s := (s.extend 8 s.laneBytes).trainPorts
      let s := ((s.extend 3 s.layoutItem).trainThojan).extendOpen 6
      { s with booted := true, bootStep := 7 }

/-- Module reset and boot; a part without power comes up by it. -/
def execModuleReset (slotAOk slotBOk trainOk : Bool) (s : State) : Host.Outcome State Fault Refusal :=
  .next (s.boot slotAOk slotBOk trainOk)

/-- Loss of power: nothing happens until the next module reset (log 13). -/
def execPowerLoss (s : State) : Host.Outcome State Fault Refusal := .next { s with powered := false }

/-! ### System cores (R23, R375) -/

/-- A system core's write: an event target counts it whatever its binding (R280). -/
def State.coreWrite (s : State) (key : Nat) (bs : List Byte) : State :=
  match destOf key with
  | .event off =>
    if off < 4096 ∧ off % 16 = 0 then s.postEvent (off / 16) .systemCore
    else s.logIo { addr := key % 4503599627370496, reason := .windowUnused }
  | _ => s.homeWrite 0 0 key bs

/-- A system core's read of physical memory: one of the endpoint window sends its request and gets its answer with the completion
(R364, R375). -/
def State.coreRead (s : State) (key len : Nat) : State :=
  if destOf key = .endpoint then
    let (id, s) := s.newId
    { s with peerReads := s.peerReads.insert id ⟨0, 0, key, true⟩ }.send (s.endpointMsg false key id (leBytes 2 len))
  else if destOf key = .remote then
    let (id, s) := s.newId
    { s with peerReads := s.peerReads.insert id ⟨0, 0, key, true⟩ }.linkAsk (.peer id) { kind := .remoteRead, dest := key, data := leBytes 2 len }
  else s.coreAnswer (s.getPhys 0 key len)

/-- The bytes that a read of a root-die register delivers. -/
def State.registerBytes (s : State) : RootReg → List Byte
  | .schedcfg => leBytes 4 s.schedcfg.toNat
  | .portcfg p => leBytes 4 (s.portCfgOf p).toNat
  | .portspd p => leBytes 4 (s.portSpdOf p).toNat
  | .errorLogClear => s.errorLog.flatten
  | .ioLogClear => s.ioLog.flatMap IoEntry.bytes
  | .aerLogClear port => (s.aerLog.filter (fun e => e.1 = port)).flatMap (fun e => leBytes 8 e.2)
  | .partitionWord i => ((s.partitionBytes).drop (4 * i)).take 4
  | .hdmDecoder i _ _ _ => ((s.hdm.find? i).map Decoder.bytes).getD []
  | .bridgeWindow i _ _ _ _ => ((s.bridges.find? i).map Decoder.bytes).getD []
  | .bar i _ _ _ => ((s.bars.find? i).map Decoder.bytes).getD []

/-- The system cores run the firmware: hart 0 from boot step 3, the others when boot is done (R376). -/
def State.hartRuns (s : State) (hart : Nat) : Bool := s.firmwareRuns && decide (hart = 0 ∨ (hart < 16 ∧ s.bootStep = 7))

/-- An access of a system core, at SYSTEM scope, under the firmware's owner key; scratchpad accesses carry ticket 0, which no
bank unit checks (R380). The firmware measures each image that it loads into a system core (R388). A store-conditional answers 0 where the
hart's reservation stands, else 1. -/
def execSystemCoreAccess (a : CoreAccess) (s : State) : Host.Outcome State Fault Refusal :=
  if !s.firmwareRuns then .next s
  else match a with
  | .load key len => .next (s.coreRead key len)
  | .store key data => .next (s.coreWrite key data)
  | .amo op w64 key c d =>
    let n := if w64 then 8 else 4
    let w (v : DWord) : Nat := v.toNat % 2 ^ (8 * n)
    if destOf key ≠ .memory then .next s
    else
      let old := s.getPhys 0 key n
      let s := match atomicValue op (8 * n) (leNat old) (w c) (w d) with
        | none => s
        | some v => s.setPhys 0 key (leBytes n v)
      .next (s.coreAnswer old)
  | .lr hart w64 key =>
    let n := if w64 then 8 else 4
    if destOf key ≠ .memory || !s.hartRuns hart then .next s
    else .next ({ s with lrWords := s.lrWords.insert hart (key, n) }.coreAnswer (s.getPhys 0 key n))
  | .sc hart w64 key value =>
    let n := if w64 then 8 else 4
    if destOf key ≠ .memory || !s.hartRuns hart then .next s
    else
      let held := s.lrWords.find? hart = some (key, n)
      let s := { s with lrWords := s.lrWords.erase hart }
      if held then .next ((s.setPhys 0 key (leBytes n value.toNat)).coreAnswer (leBytes 8 0)) else .next (s.coreAnswer (leBytes 8 1))
  | .spadLoad core off len =>
    if core < 448 ∧ off + len ≤ 393216 then .next (s.coreAnswer (s.getSpad (spadKey core off) len)) else .next s
  | .spadStore core off data =>
    if core < 448 ∧ off + data.length ≤ 393216 then .next (s.storeSpad (spadKey core off) data) else .next s
  | .fence => .next s
  | .loadImage image => .next (s.extend 2 image)
  | .register r => .next (s.coreAnswer (s.registerBytes r))
  | .channel ch => .next (s.coreAnswer (leBytes 8 (s.channel ch).entry.toNat))

/-! ### The management connector (R395) -/

/-- The I3C bus owner assigns the dynamic address. -/
def execI3cDynamicAddressAssignment (addr : BitVec 7) (s : State) : Host.Outcome State Fault Refusal :=
  .next { s with i3cAddr := some addr }

/-- The bus owner assigns the MCTP endpoint ID. -/
def execMctpEndpointIdAssignment (eid : Byte) (s : State) : Host.Outcome State Fault Refusal := .next { s with mctpEid := some eid }

end Sys2Proof.Machine
end

