-- ==== Sys2Proof/Machine/Management.lean ====
section
/-! DEFINITION. The management interface: sessions and commands (R395 to R397, with R382, R388, R390). -/

namespace Sys2Proof.Machine

/-! ### Replies and admission (R395, R396) -/

def stOk : Nat := 0
def stBusy : Nat := 1
def stDenied : Nat := 2
def stMalformed : Nat := 3
def stExhausted : Nat := 4
def stNoSpace : Nat := 5
def stFailed : Nat := 6
def stNotReady : Nat := 7

/-- A message goes out in a session that is open: its direction's counter advances (R396). -/
def Session.out (x : Session) : Session := if x.principal.isSome then { x with sent := x.sent + 1 } else x

/-- Answer a request: STATUS and payload, with its SEQ. -/
def State.reply (s : State) (session : Nat) (seq : BitVec 16) (status : Nat) (data : List Byte := []) : State :=
  { s with sessions := s.sessions.modify session Session.out }.send { kind := .mgmt status, dest := session, tag := seq.toNat, data := data }

/-- A message of an open session arrives: its counter is the next, its tag is right, and the session goes on; else it ends (R396). -/
def State.message (s : State) (session : Nat) (tagOk : Bool) (counter : Nat) : Bool × State :=
  match s.sessions.find? session with
  | none => (true, s)
  | some x =>
    if x.principal.isNone then (true, s)
    else if tagOk && counter == x.counter then
      (true, { s with sessions := s.sessions.insert session { x with counter := counter + 1, last := s.cycle } })
    else (false, { s with sessions := s.sessions.erase session })

/-- The identity key has no signature left (R390). -/
def State.exhausted (s : State) : Bool := decide (1048576 ≤ s.nextLeaf)

/-- The principal of a request's session. -/
def State.principalOf (s : State) (r : MgmtReq) : Option Principal := (s.sessions.find? r.session).bind (·.principal)

/-- A request of the session is outstanding: a CONTEXT_DESTROY that has still to end (R395). -/
def State.busy (s : State) (r : MgmtReq) : Bool := s.ctxs.any (fun c => c.2.destroying.any (fun q => q.session = r.session))

/-- A request in a session: a message that fails ends the session without a response; the principal must be admitted, and no other
request of the session be outstanding; firmware answers from boot step 7, and not in recovery. `go` is what the command does. Once the
identity key is exhausted, only the session-free commands are answered, and EVIDENCE, which is refused (R390, R396, log 59). -/
def State.manage (s0 : State) (r : MgmtReq) (firmware : Bool) (admits : Principal → Bool) (go : State → State) (signs : Bool := false) :
    State :=
  let (good, s) := s0.message r.session r.tagOk r.counter
  if !good || (firmware && !s.booted) || (s.exhausted && !signs) then s
  else if s.busy r then s.reply r.session r.seq stBusy
  else if firmware && decide (s.bootStep < 7) then s.reply r.session r.seq stNotReady
  else match s.principalOf r with
    | none => s.reply r.session r.seq stDenied
    | some p => if admits p then go s else s.reply r.session r.seq stDenied

/-- Principals that a command admits. -/
def onlyOperator : Principal → Bool
  | .operator => true
  | .owner _ => false
def onlyOwner : Principal → Bool
  | .operator => false
  | .owner _ => true
def anyPrincipal : Principal → Bool := fun _ => true

/-- The owner of a context, as a principal. -/
def State.owns (s : State) (c : Nat) : Principal → Bool
  | .operator => false
  | .owner k => match s.ctxs.find? c with
    | some x => x.owner = k
    | none => false

/-- The operator, or the context's owner. -/
def State.governs (s : State) (c : Nat) (p : Principal) : Bool := onlyOperator p || s.owns c p

/-- Done, without payload. -/
def State.ok (s : State) (r : MgmtReq) (data : List Byte := []) : State := s.reply r.session r.seq stOk data

/-! ### Sessions (R396) -/

/-- A message in a session: one whose tag fails, or whose counter is not the next, ends it without a response. -/
def execManagementMessage (session : Nat) (tagOk : Bool) (counter : Nat) (s : State) : Host.Outcome State Fault Refusal :=
  match s.sessions.find? session with
  | none => .next s
  | some x =>
    if tagOk && counter == x.counter then
      .next { s with sessions := s.sessions.insert session { x with counter := counter + 1, last := s.cycle } }
    else .next { s with sessions := s.sessions.erase session }

/-- A session without a message for 60 s ends (at the present clock, log 3). -/
def execSessionIdleTimeout (session : Nat) (s : State) : Host.Outcome State Fault Refusal :=
  match s.sessions.find? session with
  | none => .next s
  | some x => if x.last + 60000000 * s.freq ≤ s.cycle then .next { s with sessions := s.sessions.erase session } else .next s

/-- Evidence over a nonce (R390): the next leaf is persisted before its signature leaves. -/
def State.evidence (s : State) (nonce : List Byte) : List Byte × State :=
  let q := s.nextLeaf
  let body := leBytes 4 1 ++ leBytes 4 (1048575 - q) ++ fit 32 nonce ++ fit 16 (Config.deviceBytes 0) ++
    (List.range 16).flatMap s.mr ++ leBytes 4 s.powerCfg.toNat ++ leBytes 4 s.freq ++ s.laneBytes
  (body ++ fit 1772 (Config.lmsSign q body), { s with nextLeaf := q + 1 })

/-- A response outside every session. -/
def State.replyFree (s : State) (seq : BitVec 16) (status : Nat) (data : List Byte := []) : State :=
  s.send { kind := .mgmt status, tag := seq.toNat, data := data }

/-- The lowest number that is not in use. -/
def freeNumber {α : Type} (m : SMap α) (limit : Nat) : Option Nat := (List.range limit).find? (fun n => (m.find? n).isNone)

/-- Steps 1 and 2 of a session. -/
def execHello (share : List Byte) (nonce : SeqBytes) (s : State) : Host.Outcome State Fault Refusal :=
  let q := nonce.seq
  if share.length ≠ 32 ∨ nonce.bytes.length ≠ 32 then .next (s.replyFree q stMalformed)
  else if s.exhausted then .next (s.replyFree q stExhausted)
  else match freeNumber s.sessions 4 with
    | none => .next (s.replyFree q stNoSpace)
    | some n =>
      let own := fit 32 (Config.deviceBytes s.fresh)
      let (ev, s) := { s with fresh := s.fresh + 1 }.evidence (shaBytes (share ++ own ++ nonce.bytes))
      let t := share ++ nonce.bytes ++ own ++ ev
      let s : State := { s with sessions := s.sessions.insert n { transcript := shaBytes t, last := s.cycle } }
      .next (s.reply n q stOk (own ++ ev))

/-- The public key of a principal. -/
def State.keyOf (s : State) : Principal → Option (List Byte)
  | .operator => s.operatorKey
  | .owner k => s.ownerPub.find? k.toNat

/-- Steps 3 and 4: the signature over the transcript; the keys of the two directions, whose counters begin at 0; a failed check ends the
attempt. -/
def execAuth (session : Nat) (p : Principal) (sig : SeqBytes) (s : State) : Host.Outcome State Fault Refusal :=
  match s.sessions.find? session with
  | none => .next (s.replyFree sig.seq stDenied)
  | some x =>
    if x.principal.isSome then .next (s.replyFree sig.seq stDenied)
    else
      let good := match s.keyOf p with
        | some key => Config.ed25519Ok key x.transcript sig.bytes
        | none => false
      let s := s.reply session sig.seq (if good then stOk else stDenied)
      if good then
        let x : Session :=
          { x with principal := some p, counter := 0, sent := 0, last := s.cycle,
                   keyIn := Config.sessionKey session x.transcript false, keyOut := Config.sessionKey session x.transcript true }
        .next { s with sessions := s.sessions.insert session x }
      else .next { s with sessions := s.sessions.erase session }

/-- The vendor certificate and the LMS public key. The row carries no SEQ: that of the request is open (log 59). -/
def execCert (s : State) : Host.Outcome State Fault Refusal :=
  let (q, s) := s.free64
  .next (s.replyFree (q.setWidth 16) stOk (Config.deviceBytes 1 ++ fit 56 (Config.deviceBytes 2)))

/-- Without an operator key it is accepted without a session, later only from the operator. -/
def execOperatorSet (session : Option MgmtReq) (key : SeqBytes) (s : State) : Host.Outcome State Fault Refusal :=
  let set (s : State) (answer : State → Nat → State) : State :=
    if key.bytes.length ≠ 32 then answer s stMalformed else answer { s with operatorKey := some key.bytes } stOk
  match session with
  | none => .next (if s.operatorKey.isSome then s.replyFree key.seq stDenied else set s (fun s n => s.replyFree key.seq n))
  | some r => .next (s.manage r false (fun p => s.operatorKey.isNone || onlyOperator p) (fun s => set s (fun s n => s.reply r.session r.seq n)))

/-! ### Commands of the root of trust (R397) -/

def execEvidence (r : MgmtReq) (nonce : List Byte) (s : State) : Host.Outcome State Fault Refusal :=
  .next (s.manage r false anyPrincipal (fun s =>
    if nonce.length ≠ 32 then s.reply r.session r.seq stMalformed
    else if s.exhausted then s.reply r.session r.seq stExhausted
    else let (ev, s) := s.evidence nonce; s.ok r ev) true)

def execMeasure (r : MgmtReq) (mr : BitVec 4) (item : List Byte) (s : State) : Host.Outcome State Fault Refusal :=
  .next (s.manage r false onlyOwner (fun s =>
    if mr.toNat < 9 ∨ 4096 < item.length then s.reply r.session r.seq stMalformed else (s.extend mr.toNat item).ok r))

/-- Valid (1) or invalid (0): the tag is computed again (R386). -/
def execReceiptCheck (r : MgmtReq) (receipt : List Byte) (s : State) : Host.Outcome State Fault Refusal :=
  .next (s.manage r false onlyOwner (fun s =>
    if receipt.length ≠ 32 then s.reply r.session r.seq stMalformed
    else s.ok r [if receiptTag s.boots (receipt.take 16) = receipt.drop 16 then 1 else 0]))

def execOwnerRegister (r : MgmtReq) (k : BitVec 8) (key : List Byte) (s : State) : Host.Outcome State Fault Refusal :=
  .next (s.manage r false onlyOperator (fun s =>
    if k = 0 ∨ key.length ≠ 32 then s.reply r.session r.seq stMalformed
    else { s with ownerPub := s.ownerPub.insert k.toNat key }.ok r))

/-- A line written under a key that is gone: every byte becomes what another key makes of it (R381, R382, log 10). -/
def State.loseKey (s : State) (k : BitVec 8) : State :=
  let s : State := { s with pagedOut := s.pagedOut.map (fun p => if Pte.owner ⟨p.leaf⟩ = k then { p with lost := some s.fresh } else p) }
  let lines := (s.lineKey.filter (fun e => e.2 = k && !plainKey (e.1 * 64))).map (·.1)
  let lost (m : SMap Byte) (a : Nat) : SMap Byte :=
    SMap.setD m a (Config.wrongKeyByte k.toNat (256 + s.fresh) a (s.rawByte a)) memDefault
  { s with
    phys := lines.foldl (fun m l => (List.range 64).foldl (fun m i => lost m (l * 64 + i)) m) s.phys
    fresh := s.fresh + 1 }

/-- An action that cannot be done: the reason goes to the reports (R395, log 59). -/
def State.fail (s : State) (r : MgmtReq) (n : Nat) : State :=
  { s with reports := s.reports ++ [(8, n)] }.reply r.session r.seq stFailed

/-- A page is mapped under an owner, or a store buffer still holds bytes of one (R382, R398). -/
def State.ownerUsed (s : State) (k : BitVec 8) : Bool :=
  s.ownerMapped k || s.cores.any (fun c => c.2.unhomed.any (fun l => l.owner = k))

/-- INSTALL k (R382): a fresh key in slot k of every unit, once no page is mapped under owner k. -/
def execOwnerInstall (r : MgmtReq) (k : BitVec 8) (s : State) : Host.Outcome State Fault Refusal :=
  .next (s.manage r false onlyOperator (fun s =>
    if k = 0 then s.reply r.session r.seq stMalformed
    else if s.ownerUsed k then s.fail r k.toNat
    else { s.loseKey k with ownerKeys := s.ownerKeys.insert k.toNat true }.ok r))

/-- ERASE k (R382): the slot is overwritten, and no owner can read its lines any more. -/
def State.eraseKey (s : State) (k : BitVec 8) : State := { s.loseKey k with ownerKeys := s.ownerKeys.erase k.toNat }

/-- ERASE k on request, once every page of owner k has been unmapped (R398). -/
def execOwnerErase (r : MgmtReq) (k : BitVec 8) (s : State) : Host.Outcome State Fault Refusal :=
  .next (s.manage r false onlyOperator (fun s =>
    if k = 0 then s.reply r.session r.seq stMalformed
    else if s.ownerUsed k then s.fail r k.toNat
    else (s.eraseKey k).ok r))

/-- Module reset, answered as it begins; how its checks end is free. -/
def execReset (r : MgmtReq) (s : State) : Host.Outcome State Fault Refusal :=
  .next (s.manage r false onlyOperator (fun s =>
    let (a, s) := s.freeBool
    let (b, s) := s.freeBool
    let (t, s) := s.freeBool
    (s.boot a b t).ok r))

/-- Every other COMMAND value is answered MALFORMED. -/
def execUnknownCommand (r : MgmtReq) (_cmd : BitVec 16) (s : State) : Host.Outcome State Fault Refusal :=
  .next (s.reply r.session r.seq stMalformed)

/-! ### Commands of the firmware (R397) -/

/-- Slots of the hardware that no quota holds; firmware keeps FWSLOTS of them (R325, R389). -/
def State.spareSlots (s : State) : List Nat :=
  let fw := bitsAt (s.partition.getD 4 0).toNat 0 8
  (List.range (32 - fw)).filter (fun i => s.ctxs.all (fun e => !e.2.quota.contains i))

/-- The most contexts that may exist at once (R389). -/
def State.contextLimit (s : State) : Nat := let n := (s.partition.getD 5 0).toNat; if n = 0 then 4096 else min n 4096

/-- A page for an owner, or a replacement for one that has failed its scrub: firmware offers pages of its choice until one passes; the page
and its receipt (R387). -/
def State.replacePage (s : State) (level : Nat) (owner : BitVec 8) : Nat → Option (Nat × List Byte) × State
  | 0 => (none, s)
  | n + 1 =>
    let (x, s) := s.free64
    let key := x.toNat % 9007199254740992 / pageBytes level * pageBytes level
    match s.scrubPage level key owner with
    | (some r, s) => (some (key, r), s)
    | (none, s) => s.replacePage level owner n

/-- A leaf of another page. -/
def Pte.at (p : Pte) (key : Nat) : DWord :=
  BitVec.ofNat 64 (p.raw.toNat - p.addr - p.tier * 256 + key % 4503599627370496 + key / 4503599627370496 * 256)

/-- Firmware places memory of its own for a context, of zeros under an owner's key: an empty table, a tensor table, a record area. -/
def State.place (s : State) (n : Nat) (owner : BitVec 8) : Nat × State :=
  let size := (n + 4095) / 4096 * 4096
  (s.tableNext, { s with tableNext := s.tableNext + size }.zeroPage s.tableNext size owner)

/-- Firmware maps a fresh page of memory at each 64 KiB page of a list: their receipts, or nothing where one is not to be had. -/
def State.mapFresh (s : State) (c : Nat) (owner : BitVec 8) : List Nat → Option (List (List Byte)) × State
  | [] => (some [], s)
  | va :: vas =>
    match s.replacePage 0 owner 4096 with
    | (none, s) => (none, s)
    | (some (key, r), s) => match s.changeLeaf c va 0 (Pte.at ⟨BitVec.ofNat 64 (owner.toNat * 2 ^ 52 + 0x17)⟩ key) with
      | none => (none, s)
      | some s => match s.mapFresh c owner vas with
        | (some l, s) => (some (r :: l), s)
        | (none, s) => (none, s)

/-- The allocation report of a new context, in its own memory: its pages, its head, empty slots, and the receipts of its own pages
(R386). -/
def State.makeReport (s : State) (c report cap : Nat) (owner : BitVec 8) : Bool × State :=
  let first := report / 65536
  let last := (report + 32 + 32 * cap - 1) / 65536
  match s.mapFresh c owner ((List.range (last + 1 - first)).map (fun i => (first + i) * 65536)) with
  | (none, s) => (false, s)
  | (some rs, s) =>
    let s := (s.reportWrite c report (leBytes 8 0 ++ leBytes 8 cap ++ leBytes 16 0)).setCtx c { s.ctx c with report := report, cap := cap }
    (true, rs.foldl (fun s r => s.appendReceipt c r) s)

/-- Creates a context for an owner index, with the sizes of its tables: firmware places its page tables, its tensor table and its record
area, at `dbbase` the doorbell window and at `report` the allocation report, which it maps (R163, R308, R322, R386; log 59). -/
def execContextCreate (r : MgmtReq) (owner : BitVec 8) (quota : Nat) (sizes : TableSizes) (dbbase report cap : Nat) (s : State) :
    Host.Outcome State Fault Refusal :=
  .next (s.manage r true onlyOperator (fun s =>
    if owner = 0 ∨ cap = 0 ∨ 1048576 < cap ∨ dbbase % 268435456 ≠ 0 ∨ 2 ^ 57 ≤ dbbase ∨ report % 64 ≠ 0 ∨
        2 ^ 57 < report + 32 + 32 * cap ∨ (dbbase < report + 32 + 32 * cap ∧ report < dbbase + 268435456) then
      s.reply r.session r.seq stMalformed
    else match freeNumber s.ctxs s.contextLimit with
      | none => s.reply r.session r.seq stNoSpace
      | some n =>
        if s.spareSlots.length < quota then s.reply r.session r.seq stNoSpace
        else
          let slots := s.spareSlots.take quota
          let (root, s1) := s.place (max 4096 sizes.pages) 0
          let (tensors, s1) := s1.place 262144 owner
          let (area, s1) := s1.place sizes.records owner
          let s1 := s1.setCtx n { root := root, owner := owner, dbbase := BitVec.ofNat 64 dbbase, quota := slots,
                                  tensorTable := tensors, recordArea := area, recordBytes := sizes.records }
          match s1.makeReport n report cap owner with
          | (true, s) => s.ok r (leBytes 4 n ++ leBytes 8 report)
          | (false, s) => { s with ctxs := s.ctxs.erase n }.reply r.session r.seq stNoSpace))

/-- Once nothing of a context runs, its pages are unmapped: the invalidation leaves nothing of them in a TLB or store buffer (R231, R398).
Its queues, its pages in the second tier and its tensors' places in the caches are gone. -/
def State.dropContext (s : State) (c : Nat) : State :=
  let s := s.flushPages (fun x => x.1 = c)
  { s with
    ctxs := s.ctxs.erase c
    pagedOut := s.pagedOut.filter (fun p => p.ctx ≠ c)
    tlbs := s.tlbs.filter (fun e => e.1 / 2 ^ 41 / 1024 ≠ c)
    cores := s.cores.map (fun e => (e.1, { e.2 with
      opCache := e.2.opCache.filter (fun x => x.ctx ≠ c), tensorTags := e.2.tensorTags.filter (fun x => x.1 ≠ c) }))
    userQueues := s.userQueues.filter (fun e => e.2.ctx ≠ c)
    slots := s.slots.map (fun e => if (s.slotQueue e.2).map (·.ctx) = some c then (e.1, {}) else e) }

/-- With the last context of an owner goes its key (R382). -/
def State.dropOwner (s : State) (k : BitVec 8) : State :=
  if s.ctxs.any (fun e => e.2.owner = k) then s else s.eraseKey k

/-- Something of a context is still to end: a grid, a channel, an access or a copy, or a write that a stack in self-refresh holds. -/
def State.contextRuns (s : State) (c : Nat) : Bool :=
  s.grids.any (fun e => e.2.ctx = c) || s.channels.any (fun e => e.2.valid && e.2.ctx == c) || s.ops.any (fun e => e.2.ctx = c) ||
  s.copies.any (fun e => e.2.ctx = c) || s.colls.any (fun e => e.2.ctx = c) || s.flushWaits (fun x => x.1 = c)

/-- The work of CONTEXT_DESTROY, and its answer when it is done: it goes on while something of the context is still to end. -/
def State.destroy (s : State) (r : MgmtReq) (ctx : Nat) : State :=
  let (code, s) := s.free64
  let grids := (s.grids.filter (fun e => e.2.ctx = ctx)).map (·.1)
  let chans := (s.channels.filter (fun e => e.2.valid && e.2.ctx == ctx)).map (·.1)
  let s := grids.foldl (fun s n => s.beginTermination n (code.toNat % 65536)) s
  let s := chans.foldl State.beginRetire s
  let s : State := { s with events := s.events.map (fun (e : Nat × EventBar) =>
    if e.2.ctx = some ctx then (e.1, { e.2 with ctx := none, count := 0, ovf := false }) else e) }
  let s : State := { s with workQueues := s.workQueues.filter (fun e => e.2.ctx ≠ some ctx) }
  if s.contextRuns ctx then
    { s.setCtx ctx { s.ctx ctx with destroying := some r } with agenda := s.agenda ++ [(1, .contextDestroy r ctx)] }
  else ((s.dropContext ctx).dropOwner (s.ctx ctx).owner).ok r

/-- Terminates the context's grids, retires its channels, unbinds its event barriers and work queues, and then unmaps its pages. A
request that is being carried out goes on (log 59). The code of the terminations is open. -/
def execContextDestroy (r : MgmtReq) (ctx : Nat) (s : State) : Host.Outcome State Fault Refusal :=
  .next (if (s.ctxs.find? ctx).bind (·.destroying) = some r then s.destroy r ctx
    else s.manage r true (s.governs ctx) (fun s =>
      if (s.ctxs.find? ctx).isNone then s.reply r.session r.seq stMalformed else s.destroy r ctx))

/-- Firmware maps a page for a context. One of memory that contexts of its owner alone use is shared; another is given to it by a
sanding pass, and where the page fails it a replacement (R382, R385, R387); a page in a window of the root die needs none. A page that is
not to be had is answered NOSPACE, a want of replacements FAILED (log 59). -/
def State.mapPage (s : State) (r : MgmtReq) (ctx va level : Nat) (pte : DWord) : State :=
  let p : Pte := ⟨pte⟩
  let key := physKey p.tier p.addr
  let n := pageBytes level
  let write (s : State) (pte : DWord) : State := match s.changeLeaf ctx va level pte with
    | some s' => s'.ok r
    | none => s.reply r.session r.seq stNoSpace
  let users := s.mappedBy key n
  if (s.writePte ctx va level pte).isNone || s.onLostStack key n then s.reply r.session r.seq stNoSpace
  else if destOf key ≠ .memory ∨ (users ≠ [] ∧ users.all (· = p.owner)) then write s pte
  else if users ≠ [] ∨ s.pageInUse key n ∨ s.isRetired (scrubUnit key) key n then s.reply r.session r.seq stNoSpace
  else match s.freshPage ctx level key p.owner with
    | (true, s) => write s pte
    | (false, s) => match s.replacePage level p.owner 4096 with
      | (some (key, rc), s) => write (s.appendReceipt ctx rc) (p.at key)
      | (none, s) => s.fail r key

/-- Firmware writes a leaf of the context, or declares a range allocatable on demand (R232); nothing in the context's doorbell window, and no
kick register, which it maps there alone (R322). -/
def execMap (r : MgmtReq) (ctx : Nat) (m : MapReq) (s : State) : Host.Outcome State Fault Refusal :=
  .next (s.manage r true (s.owns ctx) (fun s =>
    match m with
    | .leaf va level pte =>
      let p : Pte := ⟨pte⟩
      let size := 2 ^ levelShift level
      let kick := decide (0x000FFFFFE0000000 ≤ p.addr ∧ p.addr < 0x000FFFFFF0000000 ∧ p.tier = 2)
      if 2 ^ 57 ≤ va ∨ 2 < level ∨ p.malformed level ∨ !p.leaf ∨ !p.windowOk ∨ p.owner ≠ (s.ctx ctx).owner ∨
          (s.ctx ctx).window (va / size * size) size ∨ kick then
        s.reply r.session r.seq stMalformed
      else s.mapPage r ctx va level pte
    | .onDemand lo hi =>
      if hi ≤ lo ∨ 2 ^ 57 < hi then s.reply r.session r.seq stMalformed
      else (s.setCtx ctx { s.ctx ctx with onDemand := (s.ctx ctx).onDemand ++ [(lo, hi)] }).ok r))

/-- Firmware writes a channel entry, that of a bound channel too; two valid entries never match one request (R365). An entry that is no
longer bound holds no grants. A function that makes page requests may have 256 outstanding (R368). -/
def execChannelBind (r : MgmtReq) (ch : Nat) (entry : DWord) (s : State) : Host.Outcome State Fault Refusal :=
  .next (s.manage r true onlyOperator (fun s =>
    let c : Channel := { s.channel ch with entry := entry, allocation := if bitAt entry.toNat 60 then 256 else 0 }
    if 4096 ≤ ch ∨ bitsAt entry.toNat 0 7 ≠ 0 ∨
        (c.valid ∧ s.channels.any (fun e => decide (e.1 ≠ ch) && e.2.serves c.requester)) then
      s.reply r.session r.seq stMalformed
    else
      let s := s.setChannel ch (if c.valid then c else { entry := entry })
      (if c.valid && c.priEn then s.send { kind := .pageAllocation, dest := c.rid, tag := ch, data := leBytes 4 256 } else s).ok r))

/-- Retires a channel (R369). -/
def execChannelRetire (r : MgmtReq) (ch : Nat) (s : State) : Host.Outcome State Fault Refusal :=
  .next (s.manage r true (s.governs (s.channel ch).ctx) (fun s =>
    if !(s.channel ch).valid then s.reply r.session r.seq stMalformed else (s.beginRetire ch).ok r))

/-- Binds an event barrier to a context: COUNT and OVF are 0 (R280). -/
def execEventBind (r : MgmtReq) (e : BitVec 8) (ctx : Nat) (s : State) : Host.Outcome State Fault Refusal :=
  .next (s.manage r true (s.governs ctx) (fun s =>
    if (s.ctxs.find? ctx).isNone then s.reply r.session r.seq stMalformed
    else (s.setEvent e.toNat { ctx := some ctx, waiters := (s.event e.toNat).waiters }).ok r))

/-- Binds a package work queue with a ring of 64 to 65,536 records (R321). -/
def execWqBind (r : MgmtReq) (wq ctx size : Nat) (s : State) : Host.Outcome State Fault Refusal :=
  .next (s.manage r true (s.owns ctx) (fun s =>
    if 256 ≤ wq ∨ size < 64 ∨ 65536 < size then s.reply r.session r.seq stMalformed
    else { s with workQueues := s.workQueues.insert wq { ctx := some ctx, size := size } }.ok r))

/-- A queue control block (R322); nothing where a field is out of its range. -/
def parseQcb (bs : List Byte) : Option UserQueue :=
  let w := natAt bs 8 4
  let ok := bs.length == 64 && natAt bs 0 8 % 64 == 0 && bitsAt w 0 4 == 0 && bitsAt w 7 1 == 0 && bitsAt w 13 19 == 0 &&
    decide (4 ≤ bitsAt w 8 5 ∧ bitsAt w 8 5 ≤ 16) && decide (natAt bs 12 4 < 2 ^ bitsAt w 8 5) && zeros bs 32 32 &&
    bitsAt (natAt bs 16 4) 0 30 == 0 && decide (natAt bs 24 8 < 4096)
  if ok then
    some { ring := BitVec.ofNat 64 (natAt bs 0 8), log2n := bitsAt w 8 5, prio := bitsAt w 4 3, read := natAt bs 12 4,
           ctx := natAt bs 20 4, dbidx := natAt bs 24 8 }
  else none

/-- The leaf that maps a kick register: SO, system tier, for stores, and for loads, which return 0 (R322, R363; log 35). -/
def kickLeaf (i : Nat) : DWord := BitVec.ofNat 64 (0x000FFFFFE0000000 + 65536 * i + 0x617)

/-- Creates a user queue and maps the page of its doorbell index; returns the index. -/
def execQueueCreate (r : MgmtReq) (ctx : Nat) (qcb : List Byte) (s : State) : Host.Outcome State Fault Refusal :=
  .next (s.manage r true (s.owns ctx) (fun s =>
    match parseQcb qcb with
    | none => s.reply r.session r.seq stMalformed
    | some u =>
      if u.ctx ≠ ctx then s.reply r.session r.seq stMalformed
      else match freeNumber s.userQueues 65536 with
        | none => s.reply r.session r.seq stNoSpace
        | some n =>
          match s.changeLeaf ctx ((s.ctx ctx).dbbase.toNat + 65536 * u.dbidx) 0 (kickLeaf u.dbidx) with
          | some s => { s with userQueues := s.userQueues.insert n u }.ok r (leBytes 4 u.dbidx)
          | none => s.reply r.session r.seq stNoSpace))

/-- POWER_SET: out-of-range values are ignored (R393). -/
def execPowerSet (r : MgmtReq) (v : Word) (s : State) : Host.Outcome State Fault Refusal :=
  .next (s.manage r true onlyOperator (fun s => (s.writePower v).ok r))

/-- CALIPER_SET (R392). -/
def execCaliperSet (r : MgmtReq) (v : Word) (s : State) : Host.Outcome State Fault Refusal :=
  .next (s.manage r true onlyOperator (fun s => (s.writeCaliper v).ok r))

/-- Takes a unit out of service (R32, R258, R392). -/
def State.takeOut (s : State) (u : Unit') : Option State :=
  match u with
  | .datapath core dp => if core < 448 ∧ dp < 4 then some (s.datapathsOff core [dp] .datapath) else none
  | .core c => if c < 448 then some (s.datapathsOff c [0, 1, 2, 3] .core) else none
  | .cluster k =>
    if k < 56 then some ((clusterCores k).foldl (fun s c => s.datapathsOff c [0, 1, 2, 3] .cluster) s) else none
  | .array core j => if core < 448 ∧ j < 4 then some (s.arrayOff core j) else none
  | .port p => if p < 64 then some (s.portOut p) else none

/-- OUT_OF_SERVICE. -/
def execOutOfService (r : MgmtReq) (u : Unit') (s : State) : Host.Outcome State Fault Refusal :=
  .next (s.manage r true onlyOperator (fun s =>
    match s.takeOut u with
    | some s' => s'.ok r
    | none => s.reply r.session r.seq stMalformed))

/-- An entry of a log that names a grid belongs to a context that the principal governs: the grid's, or that of the last one of its number
(log 59). -/
def State.mayRead (s : State) (p : Principal) (grid : Nat) : Bool :=
  match p with
  | .operator => true
  | .owner k => match s.grids.find? grid with
    | some g => (s.ctx g.ctx).owner = k
    | none => s.gridOwners.find? grid = some k

/-- The entries of a log that a principal may read (R341, R344, R364). -/
def State.logBytes (s : State) (p : Principal) (sel : LogSel) : List Byte :=
  match sel with
  | .faults => (s.faultQueue.filter (fun r => s.mayRead p (natAt r 12 4))).flatten
  | .errors => (s.errorLog.filter (fun r => s.mayRead p (natAt r 24 4))).flatten
  | .io =>
    (s.ioLog.filter (fun e => onlyOperator p || s.channels.any (fun c => c.2.rid == e.rid && s.owns c.2.ctx p))).flatMap IoEntry.bytes

/-- LOG_READ. -/
def execLogRead (r : MgmtReq) (sel : LogSel) (s : State) : Host.Outcome State Fault Refusal :=
  .next (s.manage r true anyPrincipal (fun s => s.ok r (s.logBytes ((s.principalOf r).getD .operator) sel)))

/-- REPORT_READ: the reports of lost hardware and the partition layout record. -/
def execReportRead (r : MgmtReq) (s : State) : Host.Outcome State Fault Refusal :=
  .next (s.manage r true onlyOperator (fun s =>
    s.ok r (s.partitionBytes ++ s.reports.flatMap (fun x => leBytes 4 x.1 ++ leBytes 8 x.2))))

/-- IMAGE_WRITE: a piece of at most 4,096 bytes into the slot not booted, of 96 MiB: the first begins a new image, the others follow in
their order (log 59). It is verified at the next boot (R376, R395). -/
def execImageWrite (r : MgmtReq) (image : ImageChunk) (s : State) : Host.Outcome State Fault Refusal :=
  .next (s.manage r true onlyOperator (fun s =>
    let slot := if s.slotB then 0 else 1
    let old := if image.off = 0 then [] else s.images.getD slot []
    if 4096 < image.bytes.length ∨ 100663296 < image.off + image.bytes.length ∨ image.off ≠ old.length then
      s.reply r.session r.seq stMalformed
    else { s with images := s.images.insert slot (old ++ image.bytes) }.ok r))

/-- What can happen inside the package besides issue and the units of a core: the schedulers, firmware, the controllers. -/
def State.packageEvents (s : State) : List Instr :=
  s.schedEvents ++ s.swapEvents ++ s.gridEvents ++ s.slotEvents ++ s.firmwareEvents ++ s.hbmEvents ++ s.lossEvents ++ s.calEvents

end Sys2Proof.Machine
end

