-- ==== Sys2Proof/Machine/Queue.lean ====
section
/-! DEFINITION. Named queues: QOP (R276 to R279). -/

namespace Sys2Proof.Machine

def State.queue (s : State) (k q : Nat) : Queue := (s.team k).queues.getD q {}
def State.setQueue (s : State) (k q : Nat) (x : Queue) : State :=
  s.setTeam (teamOf k) { s.team k with queues := (s.team k).queues.setD q x {} }

/-- The scratchpad key of entry i (R276). -/
def State.entryKey (s : State) (k : Nat) (x : Queue) (i : Nat) : Nat := s.lKey k (x.base + 8 * i)

/-- The S address of the entry at the head, as a fault of its pop gives it (R206, R278). -/
def State.headAddr (s : State) (k q : Nat) : DWord := sKeyAddr (s.entryKey k (s.queue k q) (s.queue k q).head)

/-- Put an entry at the tail (R278). -/
def State.pushEntry (s : State) (k q : Nat) (w0 w1 : Word) : State :=
  let x := s.queue k q
  let hi := (if x.pphase then 2 ^ 31 else 0) + w1.toNat % 2 ^ 31
  let s := s.storeSpad (s.entryKey k x x.tail) (leBytes 4 w0.toNat ++ leBytes 4 hi)
  let tail := (x.tail + 1) % x.size
  s.setQueue k q { x with tail := tail, count := x.count + 1, pphase := if tail = 0 then !x.pphase else x.pphase }

/-- Take the entry at the head: its words, and whether they are marked uncorrectable (R278). -/
def State.popEntry (s : State) (k q : Nat) : (Word × Word × Bool) × State :=
  let x := s.queue k q
  let key := s.entryKey k x x.head
  let bs := s.getSpad key 8
  let head := (x.head + 1) % x.size
  ((BitVec.ofNat 32 (natAt bs 0 4), BitVec.ofNat 32 (natAt bs 4 4),
    s.spadMarked key 8),
   s.setQueue k q { x with head := head, count := x.count - 1, cphase := if head = 0 then !x.cphase else x.cphase })

/-- A pop delivers to a group's pair; words marked uncorrectable raise the fault for scalar state instead (R278). -/
def State.popDeliver (s : State) (k : Nat) (g : Group) (d : Nat) (a : DWord) (w : Word × Word × Bool) : State × Group :=
  if w.2.2 then
    (s.groupError k g a 0 1 127 false, { g with scalarErr := some { cause := 0x0A, pc := g.pc, addr := a } })
  else (s, (g.ws d w.1).ws (d + 1) w.2.1)

/-- Take a group out of the blocked order. -/
def State.unblock (s : State) (k q : Nat) (who : Nat) : State :=
  let x := s.queue k q
  s.setQueue k q { x with blocked := x.blocked.filter (· ≠ who) }

/-- After an entry was pushed: the first group blocked in POP takes it in the same step (R279). -/
def State.servePop (s : State) (k q : Nat) : State :=
  match (s.queue k q).blocked with
  | [] => s
  | who :: _ =>
    match s.group? who with
    | none => s.unblock k q who
    | some g =>
      match g.hold with
      | .pop _ d next =>
        let s := s.unblock k q who
        let a := s.headAddr k q
        let (w, s) := s.popEntry k q
        let (s, g) := s.popDeliver who g d a w
        s.setGroup who { g with hold := .ready, pc := next, pairPending := !w.2.2 }
      | _ => s

/-- After an entry was popped: the first group blocked in PUSH performs its push in the same step (R279). -/
def State.servePush (s : State) (k q : Nat) : State :=
  match (s.queue k q).blocked with
  | [] => s
  | who :: _ =>
    match s.group? who with
    | none => s.unblock k q who
    | some g =>
      match g.hold with
      | .push _ w0 w1 next =>
        let s := (s.unblock k q who).pushEntry k q w0 w1
        s.setGroup who { g with hold := .ready, pc := next, pairPending := true }
      | _ => s

/-- Pushers proceed in order while there is room (R279, QOP.DEF). -/
def State.servePushes (s : State) (k q : Nat) : Nat → State
  | 0 => s
  | n + 1 =>
    let x := s.queue k q
    if x.count < x.size ∧ x.blocked ≠ [] then State.servePushes (s.servePush k q) k q n else s

/-- R278: zeros in every entry are plain writes of the group. -/
def execQopDef (q : BitVec 5) (a b : Operand) (l : Lit) (s : State) : Host.Outcome State Fault Refusal :=
  s.run (.qopDef q a b l) (fun k g =>
    let x : Ext := ⟨0, l⟩
    let base := (s.uni32 k g x a).toNat
    let size := (s.uni32 k g x b).toNat
    if base % 8 ≠ 0 then s.systemFault k g { cause := 6, pc := g.pc, addr := s.faultAddr k .l base }
    else if size = 0 ∨ 256 < size ∨ (s.team k).scratch < base + 8 * size then
      s.systemFault k g { cause := 8, detail := if size = 0 ∨ 256 < size then 0 else 1, pc := g.pc,
                          addr := s.faultAddr k .l base }
    else
      let old := s.queue k q.toNat
      let s := s.setQueue k q.toNat
        { defd := true, base := base, size := size, pphase := true, cphase := true, blocked := old.blocked }
      let s := s.storeSpad (s.lKey k base) (List.replicate (8 * size) 0)
      (s.servePushes k q.toNat old.blocked.length).commitDone k g (.qopDef q a b l))

/-- R278, R279: a full queue blocks the group, before Commit(). -/
def execQopPush (q : BitVec 5) (a b : Operand) (l : Lit) (s : State) : Host.Outcome State Fault Refusal :=
  s.run (.qopPush q a b l) (fun k g =>
    let i : Instr := .qopPush q a b l
    let x := s.queue k q.toNat
    let w0 := s.uni32 k g ⟨0, l⟩ a
    let w1 := s.uni32 k g ⟨0, l⟩ b
    if !x.defd then s.systemFault k g { cause := 8, pc := g.pc }
    else if x.count = x.size then
      ((s.setQueue k q.toNat { x with blocked := x.blocked ++ [k] }).setGroup k
        { g with hold := .push q.toNat w0 w1 (g.after i) }).tick 1
    else ((s.pushEntry k q.toNat w0 w1).servePop k q.toNat).commitDone k g i)

/-- R278, R279: an empty queue blocks the group, before Commit(). -/
def execQopPop (d : Operand) (q : BitVec 5) (l : Lit) (s : State) : Host.Outcome State Fault Refusal :=
  s.run (.qopPop d q l) (fun k g =>
    let i : Instr := .qopPop d q l
    let x := s.queue k q.toNat
    if !x.defd then s.systemFault k g { cause := 8, pc := g.pc }
    else if x.count = 0 then
      ((s.setQueue k q.toNat { x with blocked := x.blocked ++ [k] }).setGroup k
        { g with hold := .pop q.toNat (regNo d) (g.after i) }).tick 1
    else
      let a := s.headAddr k q.toNat
      let (w, s) := s.popEntry k q.toNat
      let s := s.servePush k q.toNat
      if w.2.2 then (s.groupError k g a 0 1 127 false).systemFault k g { cause := 0x0A, pc := g.pc, addr := a }
      else s.commitDone k ((g.ws (regNo d) w.1).ws (regNo d + 1) w.2.1) i)

/-- R278, R279. -/
def execQopTrypush (d : Operand) (q : BitVec 5) (a b : Operand) (l : Lit) (s : State) : Host.Outcome State Fault Refusal :=
  s.run (.qopTrypush d q a b l) (fun k g =>
    let i : Instr := .qopTrypush d q a b l
    let x := s.queue k q.toNat
    if !x.defd then s.systemFault k g { cause := 8, pc := g.pc }
    else if x.count = x.size then s.commitDone k (g.ws (regNo d) 0) i
    else ((s.pushEntry k q.toNat (s.uni32 k g ⟨0, l⟩ a) (s.uni32 k g ⟨0, l⟩ b)).servePop k q.toNat).commitDone k
      (g.ws (regNo d) 1) i)

/-- R278, R279. -/
def execQopTrypop (d : Operand) (q : BitVec 5) (l : Lit) (s : State) : Host.Outcome State Fault Refusal :=
  s.run (.qopTrypop d q l) (fun k g =>
    let i : Instr := .qopTrypop d q l
    let x := s.queue k q.toNat
    if !x.defd then s.systemFault k g { cause := 8, pc := g.pc }
    else if x.count = 0 then s.commitDone k (g.ws (regNo d + 2) 0) i
    else
      let a := s.headAddr k q.toNat
      let (w, s) := s.popEntry k q.toNat
      let s := s.servePush k q.toNat
      if w.2.2 then (s.groupError k g a 0 1 127 false).systemFault k g { cause := 0x0A, pc := g.pc, addr := a }
      else s.commitDone k (((g.ws (regNo d) w.1).ws (regNo d + 1) w.2.1).ws (regNo d + 2) 1) i)

/-- The status word of R279. -/
def Queue.word (x : Queue) : Word :=
  BitVec.ofNat 32 ((if x.pphase then 2 ^ 31 else 0) + (if x.cphase then 2 ^ 30 else 0) + (if x.defd then 2 ^ 29 else 0) +
    x.count * 2 ^ 16 + x.head * 2 ^ 8 + x.tail)

/-- R279. -/
def execQopStat (d : Operand) (q : BitVec 5) (l : Lit) (s : State) : Host.Outcome State Fault Refusal :=
  s.run (.qopStat d q l) (fun k g => s.done k (g.ws (regNo d) (s.queue k q.toNat).word) (.qopStat d q l) 1)

/-- R279. -/
def execQopStatCfg (d : Operand) (q : BitVec 5) (l : Lit) (s : State) : Host.Outcome State Fault Refusal :=
  s.run (.qopStatCfg d q l) (fun k g =>
    let x := s.queue k q.toNat
    s.done k (g.ws (regNo d) (BitVec.ofNat 32 (x.size * 2 ^ 19 + x.base))) (.qopStatCfg d q l) 1)

end Sys2Proof.Machine
end

