-- ==== Sys2Proof/Machine/Scalar.lean ====
section
/-! DEFINITION. The scalar instructions, opcodes 0x00 to 0x0F (R87 to R99). -/

namespace Sys2Proof.Machine

/-- x + y or x − y at width n in a saturation mode (R95). -/
def addSub {n : Nat} (m : SatMode) (sub : Bool) (x y : BitVec n) : BitVec n :=
  match m, sub with
  | .wrap, false => x + y
  | .wrap, true => x - y
  | .sat, false => BitVec.ofInt n (satS (x.toInt + y.toInt) n)
  | .sat, true => BitVec.ofInt n (satS (x.toInt - y.toInt) n)
  | .usat, false => BitVec.ofInt n (satU ((x.toNat : Int) + y.toNat) n)
  | .usat, true => BitVec.ofInt n (satU ((x.toNat : Int) - y.toNat) n)

/-- The half of the product that SMUL delivers (R95). -/
def mulForm {n : Nat} (m : MulMode) (x y : BitVec n) : BitVec n :=
  match m with
  | .lo => x * y
  | .hi => BitVec.ofInt n ((x.toInt * y.toInt) / 2 ^ n)
  | .hiu => BitVec.ofNat n (x.toNat * y.toNat / 2 ^ n)

/-- Quotient or remainder of R73 at width n. -/
def divForm {n : Nat} (u rem : Bool) (x y : BitVec n) : BitVec n :=
  let r := divRem u x y
  if rem then r.2.1 else r.1

/-- Conditions of SCMP (R97). -/
def scond {n : Nat} (c : SCond) (x y : BitVec n) : Bool :=
  match c with
  | .eq => decide (x = y)
  | .ne => decide (x ≠ y)
  | .lt => decide (x.toInt < y.toInt)
  | .le => decide (x.toInt ≤ y.toInt)
  | .gt => decide (y.toInt < x.toInt)
  | .ge => decide (y.toInt ≤ x.toInt)
  | .ltu => decide (x.toNat < y.toNat)
  | .leu => decide (x.toNat ≤ y.toNat)
  | .gtu => decide (y.toNat < x.toNat)
  | .geu => decide (y.toNat ≤ x.toNat)

/-- The result a two-source scalar operation writes: an operation given at every width, at the width of `.W64` (R95). -/
def State.binValue (s : State) (k : Nat) (g : Group) (f : SBin) (op : (n : Nat) → BitVec n → BitVec n → BitVec n) : DWord :=
  if f.w64 then op 64 (s.uni64 k g f.x f.a) (s.uni64 k g f.x f.b)
  else (op 32 (s.uni32 k g f.x f.a) (s.uni32 k g f.x f.b)).setWidth 64

/-- Issue a two-source scalar operation (R89: 1 cycle). -/
def State.scalarBin (s : State) (i : Instr) (f : SBin) (op : (n : Nat) → BitVec n → BitVec n → BitVec n) :
    Host.Outcome State Fault Refusal :=
  s.run i (fun k g => s.done k (g.wd f.w64 f.d (s.binValue k g f op)) i 1)

/-- The result of a scalar shift: the amount is a 32-bit operand in both widths (R96). -/
def State.shiftValue (s : State) (k : Nat) (g : Group) (f : SBin) (op : (n : Nat) → BitVec n → Nat → BitVec n) : DWord :=
  let b := (s.uni32 k g f.x f.b).toNat
  if f.w64 then op 64 (s.uni64 k g f.x f.a) (b % 64) else (op 32 (s.uni32 k g f.x f.a) (b % 32)).setWidth 64

/-- R93. -/
def execNop (l : Lit) (s : State) : Host.Outcome State Fault Refusal :=
  s.run (.nop l) (fun k g => s.done k g (.nop l) 1)

/-- The value SMOV moves (R94). -/
def State.smovValue (s : State) (k : Nat) (g : Group) : SmovForm → DWord
  | .word a x => (s.uni32 k g x a).setWidth 64
  | .w64 a x => s.uni64 k g x a
  | .f32 a x =>
    match a with
    | .int c => (constAs (.flt fp32) ⟨decide (constInt c < 0), (constInt c).natAbs, 1⟩).setWidth 64
    | _ => (s.uni32 k g x a).setWidth 64
  | .special n _ => s.specialReg k g n.toNat

/-- Whether an SMOV writes a pair (R94). -/
def smovWide : SmovForm → Bool
  | .w64 _ _ => true
  | .special n _ => special64 n.toNat
  | _ => false

/-- R94, MOD 0x00 to 0x03. -/
def execSmov (d : Operand) (f : SmovForm) (s : State) : Host.Outcome State Fault Refusal :=
  s.run (.smov d f) (fun k g => s.done k (g.wd (smovWide f) d (s.smovValue k g f)) (.smov d f) 1)

/-- The bits of `$tcause` that are not reserved (R5, R337). -/
def tcauseMask : Word := 0xFFFFF0FF

/-- R94, MOD 0x04: write `$tpc` or `$tcause`. -/
def execSmovToSpecial (num : BitVec 8) (a : Operand) (l : Lit) (s : State) : Host.Outcome State Fault Refusal :=
  s.run (.smovToSpecial num a l) (fun k g =>
    let x : Ext := ⟨0, l⟩
    let g' := if num = 0x0F then { g with tpc := s.uni64 k g x a } else { g with tcause := s.uni32 k g x a &&& tcauseMask }
    s.done k g' (.smovToSpecial num a l) 1)

/-- R95. -/
def execSadd (m : SatMode) (f : SBin) (s : State) : Host.Outcome State Fault Refusal :=
  s.scalarBin (.sadd m f) f (fun _ x y => addSub m false x y)

/-- R95. -/
def execSsub (m : SatMode) (f : SBin) (s : State) : Host.Outcome State Fault Refusal :=
  s.scalarBin (.ssub m f) f (fun _ x y => addSub m true x y)

/-- R95. -/
def execSmul (m : MulMode) (f : SBin) (s : State) : Host.Outcome State Fault Refusal :=
  s.scalarBin (.smul m f) f (fun _ x y => mulForm m x y)

/-- R95, R73. -/
def execSdiv (u rem : Bool) (f : SBin) (s : State) : Host.Outcome State Fault Refusal :=
  s.scalarBin (.sdiv u rem f) f (fun _ x y => divForm u rem x y)

/-- R96. -/
def execSand (inv : Bool) (f : SBin) (s : State) : Host.Outcome State Fault Refusal :=
  s.scalarBin (.sand inv f) f (fun _ x y => x &&& (if inv then ~~~y else y))

/-- R96. -/
def execSor (inv : Bool) (f : SBin) (s : State) : Host.Outcome State Fault Refusal :=
  s.scalarBin (.sor inv f) f (fun _ x y => x ||| (if inv then ~~~y else y))

/-- R96. -/
def execSxor (inv : Bool) (f : SBin) (s : State) : Host.Outcome State Fault Refusal :=
  s.scalarBin (.sxor inv f) f (fun _ x y => x ^^^ (if inv then ~~~y else y))

/-- R96. -/
def execSshl (f : SBin) (s : State) : Host.Outcome State Fault Refusal :=
  s.run (.sshl f) (fun k g => s.done k (g.wd f.w64 f.d (s.shiftValue k g f (fun _ x n => x <<< n))) (.sshl f) 1)

/-- R96. -/
def execSshr (arith : Bool) (f : SBin) (s : State) : Host.Outcome State Fault Refusal :=
  s.run (.sshr arith f) (fun k g =>
    s.done k (g.wd f.w64 f.d (s.shiftValue k g f (fun _ x n => shrForm (!arith) x n))) (.sshr arith f) 1)

/-- R95. -/
def execSmin (u : Bool) (f : SBin) (s : State) : Host.Outcome State Fault Refusal :=
  s.scalarBin (.smin u f) f (fun _ x y => minMaxForm u false x y)

/-- R95. -/
def execSmax (u : Bool) (f : SBin) (s : State) : Host.Outcome State Fault Refusal :=
  s.scalarBin (.smax u f) f (fun _ x y => minMaxForm u true x y)

/-- Whether SCMP's condition holds (R97). -/
def State.scmpHolds (s : State) (k : Nat) (g : Group) (c : SCond) (f : SBin) : Bool :=
  if f.w64 then scond c (s.uni64 k g f.x f.a) (s.uni64 k g f.x f.b) else scond c (s.uni32 k g f.x f.a) (s.uni32 k g f.x f.b)

/-- R97: D is a single register in both widths. -/
def execScmp (c : SCond) (f : SBin) (s : State) : Host.Outcome State Fault Refusal :=
  s.run (.scmp c f) (fun k g => s.done k (g.ws (regNo f.d) (if s.scmpHolds k g c f then 1 else 0)) (.scmp c f) 1)

/-- R98. -/
def execSsel (c : Operand) (f : SBin) (s : State) : Host.Outcome State Fault Refusal :=
  s.run (.ssel c f) (fun k g =>
    let o := if s.uni32 k g f.x c ≠ 0 then f.a else f.b
    let v := if f.w64 then s.uni64 k g f.x o else (s.uni32 k g f.x o).setWidth 64
    s.done k (g.wd f.w64 f.d v) (.ssel c f) 1)

/-- The result of SBIT at width n from the source, the old destination, position and width (R99). -/
def sbitValue {n : Nat} (op : SbitOp) (a d : BitVec n) (b c : Nat) : BitVec n :=
  let p := b % n
  let w := min (c % 128) (n - p)
  match op with
  | .popc => BitVec.ofNat n (popcN n a.toNat)
  | .clz => BitVec.ofNat n (clzN n a.toNat)
  | .ctz => BitVec.ofNat n (ctzN n a.toNat)
  | .brev => BitVec.ofNat n (brevN n a.toNat)
  | .bswap => BitVec.ofNat n (bswapN (n / 8) a.toNat)
  | .bfeU _ _ => bfeU a p w
  | .bfeI _ _ => bfeI a p w
  | .bfi _ _ => bfi d a p w

/-- Position and width operands of SBIT; 0 where the form has none. -/
def State.sbitPW (s : State) (k : Nat) (g : Group) (x : Ext) : SbitOp → Nat × Nat
  | .bfeU b c | .bfeI b c | .bfi b c => ((s.uni32 k g x b).toNat, (s.uni32 k g x c).toNat)
  | _ => (0, 0)

/-- Counts are 32-bit results in both widths (R99). -/
def sbitCounts : SbitOp → Bool
  | .popc | .clz | .ctz => true
  | _ => false

/-- R99. -/
def execSbit (op : SbitOp) (w64 : Bool) (d a : Operand) (x : Ext) (s : State) : Host.Outcome State Fault Refusal :=
  s.run (.sbit op w64 d a x) (fun k g =>
    let (b, c) := s.sbitPW k g x op
    let v : DWord :=
      if w64 then sbitValue op (s.uni64 k g x a) (g.rp (regNo d)) b c
      else (sbitValue op (s.uni32 k g x a) (g.rs (regNo d)) b c).setWidth 64
    s.done k (g.wd (w64 && !sbitCounts op) d v) (.sbit op w64 d a x) 1)

end Sys2Proof.Machine
end

