-- ==== Sys2Proof/Machine/Dispatch.lean ====
section
/-! DEFINITION. The one match that gives each instruction and event its meaning: one arm for each constructor of `Instr`. -/

namespace Sys2Proof.Machine

def exec (i : Instr) (s : State) : Host.Outcome State Fault Refusal :=
  match i with
  | .pWord h0 h1 => Sys2Proof.Machine.execPWord h0 h1 s
  | .sweep w op f => Sys2Proof.Machine.execSweep w op f s
  | .nop l => Sys2Proof.Machine.execNop l s
  | .smov d f => Sys2Proof.Machine.execSmov d f s
  | .smovToSpecial num a l => Sys2Proof.Machine.execSmovToSpecial num a l s
  | .sadd m f => Sys2Proof.Machine.execSadd m f s
  | .ssub m f => Sys2Proof.Machine.execSsub m f s
  | .smul m f => Sys2Proof.Machine.execSmul m f s
  | .sdiv u rem f => Sys2Proof.Machine.execSdiv u rem f s
  | .sand inv f => Sys2Proof.Machine.execSand inv f s
  | .sor inv f => Sys2Proof.Machine.execSor inv f s
  | .sxor inv f => Sys2Proof.Machine.execSxor inv f s
  | .sshl f => Sys2Proof.Machine.execSshl f s
  | .sshr arith f => Sys2Proof.Machine.execSshr arith f s
  | .smin u f => Sys2Proof.Machine.execSmin u f s
  | .smax u f => Sys2Proof.Machine.execSmax u f s
  | .scmp c f => Sys2Proof.Machine.execScmp c f s
  | .ssel c f => Sys2Proof.Machine.execSsel c f s
  | .sbit op w64 d a x => Sys2Proof.Machine.execSbit op w64 d a x s
  | .sld f => Sys2Proof.Machine.execSld f s
  | .sst f => Sys2Proof.Machine.execSst f s
  | .br b x => Sys2Proof.Machine.execBr b x s
  | .brc c w64 a b x => Sys2Proof.Machine.execBrc c w64 a b x s
  | .brm c a b x => Sys2Proof.Machine.execBrm c a b x s
  | .call d t x => Sys2Proof.Machine.execCall d t x s
  | .jmp t l => Sys2Proof.Machine.execJmp t l s
  | .loop d b x => Sys2Proof.Machine.execLoop d b x s
  | .emop op save x => Sys2Proof.Machine.execEmop op save x s
  | .maskop op d x => Sys2Proof.Machine.execMaskop op d x s
  | .region n l => Sys2Proof.Machine.execRegion n l s
  | .yieldBar bar a l => Sys2Proof.Machine.execYieldBar bar a l s
  | .yieldEv e a l => Sys2Proof.Machine.execYieldEv e a l s
  | .trap n l => Sys2Proof.Machine.execTrap n l s
  | .brk n l => Sys2Proof.Machine.execBrk n l s
  | .sysreq n d a l => Sys2Proof.Machine.execSysreq n d a l s
  | .exit l => Sys2Proof.Machine.execExit l s
  | .exitAbort a l => Sys2Proof.Machine.execExitAbort a l s
  | .vadd m f => Sys2Proof.Machine.execVadd m f s
  | .vsub m f => Sys2Proof.Machine.execVsub m f s
  | .vmul pk f => Sys2Proof.Machine.execVmul pk f s
  | .vmulh u f => Sys2Proof.Machine.execVmulh u f s
  | .vmad m f => Sys2Proof.Machine.execVmad m f s
  | .vdiv u rem f => Sys2Proof.Machine.execVdiv u rem f s
  | .vand inv f => Sys2Proof.Machine.execVand inv f s
  | .vor inv f => Sys2Proof.Machine.execVor inv f s
  | .vxor inv f => Sys2Proof.Machine.execVxor inv f s
  | .vshl pk f => Sys2Proof.Machine.execVshl pk f s
  | .vshr u pk f => Sys2Proof.Machine.execVshr u pk f s
  | .vmin u pk f => Sys2Proof.Machine.execVmin u pk f s
  | .vmax u pk f => Sys2Proof.Machine.execVmax u pk f s
  | .vcmp c u d a b x => Sys2Proof.Machine.execVcmp c u d a b x s
  | .vsel d a b c x => Sys2Proof.Machine.execVsel d a b c x s
  | .vmov f => Sys2Proof.Machine.execVmov f s
  | .vfadd fmt rm f => Sys2Proof.Machine.execVfadd fmt rm f s
  | .vfsub fmt rm f => Sys2Proof.Machine.execVfsub fmt rm f s
  | .vfmul fmt rm f => Sys2Proof.Machine.execVfmul fmt rm f s
  | .vfma fmt np nc rm f => Sys2Proof.Machine.execVfma fmt np nc rm f s
  | .vfmin fmt nan f => Sys2Proof.Machine.execVfmin fmt nan f s
  | .vfmax fmt nan f => Sys2Proof.Machine.execVfmax fmt nan f s
  | .vfcmp c d a b x => Sys2Proof.Machine.execVfcmp c d a b x s
  | .vfdiv rm f => Sys2Proof.Machine.execVfdiv rm f s
  | .vfsqrt rm f => Sys2Proof.Machine.execVfsqrt rm f s
  | .vsf fn f => Sys2Proof.Machine.execVsf fn f s
  | .vflag f l => Sys2Proof.Machine.execVflag f l s
  | .vclass src f => Sys2Proof.Machine.execVclass src f s
  | .vbfe m f => Sys2Proof.Machine.execVbfe m f s
  | .vbit op f => Sys2Proof.Machine.execVbit op f s
  | .vdot4 tt sat f => Sys2Proof.Machine.execVdot4 tt sat f s
  | .vrnd fmt rm f => Sys2Proof.Machine.execVrnd fmt rm f s
  | .cvt form f => Sys2Proof.Machine.execCvt form f s
  | .cvt8 form f => Sys2Proof.Machine.execCvt8 form f s
  | .pack form f => Sys2Proof.Machine.execPack form f s
  | .unpack form f => Sys2Proof.Machine.execUnpack form f s
  | .qgdec bf16 rm f => Sys2Proof.Machine.execQgdec bf16 rm f s
  | .qgenc bf16 f => Sys2Proof.Machine.execQgenc bf16 f s
  | .qgscl f => Sys2Proof.Machine.execQgscl f s
  | .cvtsat form f => Sys2Proof.Machine.execCvtsat form f s
  | .shfl m d a b x => Sys2Proof.Machine.execShfl m d a b x s
  | .bcast src d a x => Sys2Proof.Machine.execBcast src d a x s
  | .bcastS d a b x => Sys2Proof.Machine.execBcastS d a b x s
  | .red op vec d a x => Sys2Proof.Machine.execRed op vec d a x s
  | .scan op excl d a x => Sys2Proof.Machine.execScan op excl d a x s
  | .vote op d a x => Sys2Proof.Machine.execVote op d a x s
  | .compact exp d a c x => Sys2Proof.Machine.execCompact exp d a c x s
  | .lmap f d x => Sys2Proof.Machine.execLmap f d x s
  | .lnstat op d l => Sys2Proof.Machine.execLnstat op d l s
  | .tdef g d a b x => Sys2Proof.Machine.execTdef g d a b x s
  | .tfree a x => Sys2Proof.Machine.execTfree a x s
  | .tqry f d a l => Sys2Proof.Machine.execTqry f d a l s
  | .mma z a b c n t l => Sys2Proof.Machine.execMma z a b c n t l s
  | .mzero t l => Sys2Proof.Machine.execMzero t l s
  | .mload a c n t l => Sys2Proof.Machine.execMload a c n t l s
  | .mstore rm a c n t l => Sys2Proof.Machine.execMstore rm a c n t l s
  | .mcorr part1 cb d a t l => Sys2Proof.Machine.execMcorr part1 cb d a t l s
  | .mstat clr d t l => Sys2Proof.Machine.execMstat clr d t l s
  | .msig d t l => Sys2Proof.Machine.execMsig d t l s
  | .swfence f x => Sys2Proof.Machine.execSwfence f x s
  | .ld f => Sys2Proof.Machine.execLd f s
  | .st f => Sys2Proof.Machine.execSt f s
  | .ldv f => Sys2Proof.Machine.execLdv f s
  | .stv f => Sys2Proof.Machine.execStv f s
  | .wait n k l => Sys2Proof.Machine.execWait n k l s
  | .waitAll l => Sys2Proof.Machine.execWaitAll l s
  | .actrRead d n l => Sys2Proof.Machine.execActrRead d n l s
  | .actrMask d l => Sys2Proof.Machine.execActrMask d l s
  | .pref perLane a b scale hint disp l => Sys2Proof.Machine.execPref perLane a b scale hint disp l s
  | .zfill space a b sem scope hint n disp l => Sys2Proof.Machine.execZfill space a b sem scope hint n disp l s
  | .gwin d a b l => Sys2Proof.Machine.execGwin d a b l s
  | .cpy dsp ssp twoD f => Sys2Proof.Machine.execCpy dsp ssp twoD f s
  | .cpyt gmc f => Sys2Proof.Machine.execCpyt gmc f s
  | .qfence k l => Sys2Proof.Machine.execQfence k l s
  | .cstat f d l => Sys2Proof.Machine.execCstat f d l s
  | .coll lspace a slot l => Sys2Proof.Machine.execColl lspace a slot l s
  | .collwt d slot l => Sys2Proof.Machine.execCollwt d slot l s
  | .collwtTry d slot l => Sys2Proof.Machine.execCollwtTry d slot l s
  | .atom f => Sys2Proof.Machine.execAtom f s
  | .fence k scope l => Sys2Proof.Machine.execFence k scope l s
  | .barInit bar a l => Sys2Proof.Machine.execBarInit bar a l s
  | .barArrive d bar l => Sys2Proof.Machine.execBarArrive d bar l s
  | .barArriveNw d bar l => Sys2Proof.Machine.execBarArriveNw d bar l s
  | .barArriveDefer d bar queue l => Sys2Proof.Machine.execBarArriveDefer d bar queue l s
  | .barWait bar a l => Sys2Proof.Machine.execBarWait bar a l s
  | .barStat d bar l => Sys2Proof.Machine.execBarStat d bar l s
  | .barStatExp d bar l => Sys2Proof.Machine.execBarStatExp d bar l s
  | .qopDef q a b l => Sys2Proof.Machine.execQopDef q a b l s
  | .qopPush q a b l => Sys2Proof.Machine.execQopPush q a b l s
  | .qopPop d q l => Sys2Proof.Machine.execQopPop d q l s
  | .qopTrypush d q a b l => Sys2Proof.Machine.execQopTrypush d q a b l s
  | .qopTrypop d q l => Sys2Proof.Machine.execQopTrypop d q l s
  | .qopStat d q l => Sys2Proof.Machine.execQopStat d q l s
  | .qopStatCfg d q l => Sys2Proof.Machine.execQopStatCfg d q l s
  | .evw e a l => Sys2Proof.Machine.execEvw e a l s
  | .evwTry d e a l => Sys2Proof.Machine.execEvwTry d e a l s
  | .evwStat d e l => Sys2Proof.Machine.execEvwStat d e l s
  | .evwClr d e l => Sys2Proof.Machine.execEvwClr d e l s
  | .spawn lspace a b l => Sys2Proof.Machine.execSpawn lspace a b l s
  | .spawnTry lspace d a b l => Sys2Proof.Machine.execSpawnTry lspace d a b l s
  | .launch lspace d a l => Sys2Proof.Machine.execLaunch lspace d a l s
  | .dbell w64 team a b x => Sys2Proof.Machine.execDbell w64 team a b x s
  | .loadComplete op => Sys2Proof.Machine.execLoadComplete op s
  | .storeComplete op => Sys2Proof.Machine.execStoreComplete op s
  | .storeBufferWriteback core line => Sys2Proof.Machine.execStoreBufferWriteback core line s
  | .remoteSAccess op => Sys2Proof.Machine.execRemoteSAccess op s
  | .asyncFault group => Sys2Proof.Machine.execAsyncFault group s
  | .atomicPerform op => Sys2Proof.Machine.execAtomicPerform op s
  | .engineOpStart core => Sys2Proof.Machine.execEngineOpStart core s
  | .engineOpComplete core => Sys2Proof.Machine.execEngineOpComplete core s
  | .copyComplete id => Sys2Proof.Machine.execCopyComplete id s
  | .copyPageFault id => Sys2Proof.Machine.execCopyPageFault id s
  | .copyResume f => Sys2Proof.Machine.execCopyResume f s
  | .deferredArrival team idx => Sys2Proof.Machine.execDeferredArrival team idx s
  | .barrierWaiterRelease group => Sys2Proof.Machine.execBarrierWaiterRelease group s
  | .collStep team slot fromRank => Sys2Proof.Machine.execCollStep team slot fromRank s
  | .collStepFail team slot fromRank => Sys2Proof.Machine.execCollStepFail team slot fromRank s
  | .collTimeout team slot rank => Sys2Proof.Machine.execCollTimeout team slot rank s
  | .collComplete team slot => Sys2Proof.Machine.execCollComplete team slot s
  | .groupDiscard group => Sys2Proof.Machine.execGroupDiscard group s
  | .recordResume group => Sys2Proof.Machine.execRecordResume group s
  | .eventWrite e src => Sys2Proof.Machine.execEventWrite e src s
  | .evwWaiterRelease e => Sys2Proof.Machine.execEvwWaiterRelease e s
  | .schedulerStep => Sys2Proof.Machine.execSchedulerStep s
  | .forwardProgressExpiry core => Sys2Proof.Machine.execForwardProgressExpiry core s
  | .gangSwapOut gang => Sys2Proof.Machine.execGangSwapOut gang s
  | .gangSwapIn gang die origin => Sys2Proof.Machine.execGangSwapIn gang die origin s
  | .gridTakeUp grid => Sys2Proof.Machine.execGridTakeUp grid s
  | .gridCompletion grid => Sys2Proof.Machine.execGridCompletion grid s
  | .termination grid code => Sys2Proof.Machine.execTermination grid code s
  | .workQueueTake wq => Sys2Proof.Machine.execWorkQueueTake wq s
  | .kick index => Sys2Proof.Machine.execKick index s
  | .queueReread slot => Sys2Proof.Machine.execQueueReread slot s
  | .depPacketRelease slot => Sys2Proof.Machine.execDepPacketRelease slot s
  | .queueMap queue => Sys2Proof.Machine.execQueueMap queue s
  | .queueIdleExpiry slot => Sys2Proof.Machine.execQueueIdleExpiry slot s
  | .faultRecordEnqueue core => Sys2Proof.Machine.execFaultRecordEnqueue core s
  | .pageFaultService group act => Sys2Proof.Machine.execPageFaultService group act s
  | .tlbInvalidate ctx f => Sys2Proof.Machine.execTlbInvalidate ctx f s
  | .debugRelease group single => Sys2Proof.Machine.execDebugRelease group single s
  | .firmwareStop group => Sys2Proof.Machine.execFirmwareStop group s
  | .debugRegisterWrite group t value => Sys2Proof.Machine.execDebugRegisterWrite group t value s
  | .illegalStateCheck core => Sys2Proof.Machine.execIllegalStateCheck core s
  | .clusterDrainResume cluster tableOk => Sys2Proof.Machine.execClusterDrainResume cluster tableOk s
  | .packageSchedulerIllegal => Sys2Proof.Machine.execPackageSchedulerIllegal s
  | .refreshSlot pch => Sys2Proof.Machine.execRefreshSlot pch s
  | .refreshEnd pch => Sys2Proof.Machine.execRefreshEnd pch s
  | .hbmAccess pch bank f => Sys2Proof.Machine.execHbmAccess pch bank f s
  | .stackCriticalTemp stack => Sys2Proof.Machine.execStackCriticalTemp stack s
  | .stackResume stack => Sys2Proof.Machine.execStackResume stack s
  | .memoryStallEvent stack => Sys2Proof.Machine.execMemoryStallEvent stack s
  | .thojanFlowControl port room => Sys2Proof.Machine.execThojanFlowControl port room s
  | .flitReceive f => Sys2Proof.Machine.execFlitReceive f s
  | .linkRetrain port ok => Sys2Proof.Machine.execLinkRetrain port ok s
  | .stackLinkTagFail stack retrainOk => Sys2Proof.Machine.execStackLinkTagFail stack retrainOk s
  | .keySwitch stack => Sys2Proof.Machine.execKeySwitch stack s
  | .keySlotRetire stack => Sys2Proof.Machine.execKeySlotRetire stack s
  | .stackOutOfService stack => Sys2Proof.Machine.execStackOutOfService stack s
  | .endpointMemoryRequest r => Sys2Proof.Machine.execEndpointMemoryRequest r s
  | .endpointAtomicop who translated op bytes addr c d tag => Sys2Proof.Machine.execEndpointAtomicop who translated op bytes addr c d tag s
  | .translationRequest who addr tag => Sys2Proof.Machine.execTranslationRequest who addr tag s
  | .pageRequest who addr write prg last => Sys2Proof.Machine.execPageRequest who addr write prg last s
  | .pageRequestGroupResponse who prg pages => Sys2Proof.Machine.execPageRequestGroupResponse who prg pages s
  | .atsInvalidate ctx va => Sys2Proof.Machine.execAtsInvalidate ctx va s
  | .invalidateCompletion ch => Sys2Proof.Machine.execInvalidateCompletion ch s
  | .invalidateTimeout ch => Sys2Proof.Machine.execInvalidateTimeout ch s
  | .flrComplete ch => Sys2Proof.Machine.execFlrComplete ch s
  | .endpointCompletion op lane ok data => Sys2Proof.Machine.execEndpointCompletion op lane ok data s
  | .completionTimeout op lane => Sys2Proof.Machine.execCompletionTimeout op lane s
  | .tailstockSend die => Sys2Proof.Machine.execTailstockSend die s
  | .portDown port => Sys2Proof.Machine.execPortDown port s
  | .sandingPass ctx unit key sizeCode owner readBackOk => Sys2Proof.Machine.execSandingPass ctx unit key sizeCode owner readBackOk s
  | .caliperReplay id crc => Sys2Proof.Machine.execCaliperReplay id crc s
  | .caliperVerdict id => Sys2Proof.Machine.execCaliperVerdict id s
  | .caliperTimeout id => Sys2Proof.Machine.execCaliperTimeout id s
  | .powerLimitStep watts => Sys2Proof.Machine.execPowerLimitStep watts s
  | .dieCriticalTemp die => Sys2Proof.Machine.execDieCriticalTemp die s
  | .dieTempResume die => Sys2Proof.Machine.execDieTempResume die s
  | .chuck0Read => Sys2Proof.Machine.execChuck0Read s
  | .registerWrite r v => Sys2Proof.Machine.execRegisterWrite r v s
  | .moduleReset slotAOk slotBOk trainOk => Sys2Proof.Machine.execModuleReset slotAOk slotBOk trainOk s
  | .managementMessage session tagOk counter => Sys2Proof.Machine.execManagementMessage session tagOk counter s
  | .sessionIdleTimeout session => Sys2Proof.Machine.execSessionIdleTimeout session s
  | .hello share nonce => Sys2Proof.Machine.execHello share nonce s
  | .auth session p sig => Sys2Proof.Machine.execAuth session p sig s
  | .cert => Sys2Proof.Machine.execCert s
  | .operatorSet session key => Sys2Proof.Machine.execOperatorSet session key s
  | .evidence r nonce => Sys2Proof.Machine.execEvidence r nonce s
  | .measure r mr item => Sys2Proof.Machine.execMeasure r mr item s
  | .receiptCheck r receipt => Sys2Proof.Machine.execReceiptCheck r receipt s
  | .ownerRegister r k key => Sys2Proof.Machine.execOwnerRegister r k key s
  | .ownerInstall r k => Sys2Proof.Machine.execOwnerInstall r k s
  | .ownerErase r k => Sys2Proof.Machine.execOwnerErase r k s
  | .contextCreate r owner quota root dbbase report cap => Sys2Proof.Machine.execContextCreate r owner quota root dbbase report cap s
  | .contextDestroy r ctx => Sys2Proof.Machine.execContextDestroy r ctx s
  | .map r ctx m => Sys2Proof.Machine.execMap r ctx m s
  | .channelBind r ch entry => Sys2Proof.Machine.execChannelBind r ch entry s
  | .channelRetire r ch => Sys2Proof.Machine.execChannelRetire r ch s
  | .eventBind r e ctx => Sys2Proof.Machine.execEventBind r e ctx s
  | .wqBind r wq ctx size => Sys2Proof.Machine.execWqBind r wq ctx size s
  | .queueCreate r ctx qcb => Sys2Proof.Machine.execQueueCreate r ctx qcb s
  | .powerSet r v => Sys2Proof.Machine.execPowerSet r v s
  | .caliperSet r v => Sys2Proof.Machine.execCaliperSet r v s
  | .outOfService r u => Sys2Proof.Machine.execOutOfService r u s
  | .logRead r sel => Sys2Proof.Machine.execLogRead r sel s
  | .reportRead r => Sys2Proof.Machine.execReportRead r s
  | .imageWrite r image => Sys2Proof.Machine.execImageWrite r image s
  | .reset r => Sys2Proof.Machine.execReset r s
  | .unknownCommand r cmd => Sys2Proof.Machine.execUnknownCommand r cmd s
  | .systemCoreAccess a => Sys2Proof.Machine.execSystemCoreAccess a s
  | .firmwarePreEmption gang => Sys2Proof.Machine.execFirmwarePreEmption gang s
  | .sysreqServiceComplete group => Sys2Proof.Machine.execSysreqServiceComplete group s
  | .powerLoss => Sys2Proof.Machine.execPowerLoss s
  | .endpointUnsupportedRequest who tag => Sys2Proof.Machine.execEndpointUnsupportedRequest who tag s
  | .intxMessage who => Sys2Proof.Machine.execIntxMessage who s
  | .i3cDynamicAddressAssignment addr => Sys2Proof.Machine.execI3cDynamicAddressAssignment addr s
  | .mctpEndpointIdAssignment eid => Sys2Proof.Machine.execMctpEndpointIdAssignment eid s

end Sys2Proof.Machine
end

