-- ==== Sys2Proof/Machine/Place.lean ====
section
/-! DEFINITION. Putting an instruction where the machine fetches its next one (log 1). -/

namespace Sys2Proof.Machine

/-- A group whose next issue fetches and runs the word at its PC. -/
def State.fetches (s : State) (k : Nat) (g : Group) : Bool :=
  g.place = .resident && g.hold = .ready && !g.pairPending && !g.half1 && (s.boundary k g).isNone && decide (g.pc.toNat % 64 = 0) &&
  match s.walk (s.ctxOf k) g.pc.toNat with
  | .ok p => p.pX && p.tier ≤ 1
  | .error _ => false

/-- The code of the grid that a load of a program places: one group, its code at 2 MiB, one empty live-set. -/
def loadedKernel : Kernel := { code := 0x200000, live := [{}], roles := [0], slots := [⟨0, 128, 256⟩] }

/-- The page tables of a load: the first GiB of G space is the first GiB of HBM, with every permission. -/
def State.loadTables (s : State) : State :=
  let e (s : State) (a v : Nat) : State := s.setPhys 0 a (leBytes 8 v)
  e (e (e s 0x100000 0x101001) 0x101000 0x102001) 0x102000 0x1F

/-- Load a program of one group from outside: context 0, a grid of one gang of one team of one group on core 0. -/
def State.loadGroup (s : State) : Nat × State :=
  let n := s.nextGrid.toNat
  let k := groupKey n 0 0 0
  let s := s.loadTables.setCtx 0 { s.ctx 0 with root := 0x100000 }
  let s := s.setGrid n { ctx := 0, lr := { ngangs := 1 }, kernel := some loadedKernel }
  let s := s.setGang (gangOf k) { ticket := s.nextTicket, place := .placed }
  let s := s.setTeam (teamOf k) {}
  let g := loadedKernel.newGroup {} 0 0 0 s.cycle
  (k, { s with tlbs := s.tlbs.filter (fun e => decide (e.1 / 2 ^ 41 / 1024 ≠ 0)), nextGrid := s.nextGrid + 1, nextTicket := s.nextTicket + 1 }.setGroup k g)

/-- Store the two words at a group's PC, and let it issue next. -/
def State.putWords (s : State) (k : Nat) (w : Nat) : State :=
  match s.group? k with
  | none => s
  | some g =>
    match s.walk (s.ctxOf k) g.pc.toNat with
    | .error _ => s
    | .ok p =>
      let c := s.ctxOf k
      let s := s.setPhys p.owner (physKey p.tier (p.addr + g.pc.toNat % 65536)) (leBytes 16 w)
      let page := g.pc.toNat / 65536
      let s : State := { s with tlbs := s.tlbs.filter (fun e => !(e.1 / 2 ^ 41 / 1024 = c && e.1 % 2 ^ 41 = page)) }
      let key := gridOf k * 2 ^ 57 + g.pc.toNat
      { s with icache := (s.icache.erase key).erase (key + 8), powered := true, agenda := [], turn := .issue k }

/-- Place an instruction's words for the next step: at the PC of a group that fetches, else of a group loaded for it. -/
def State.placeWords (s : State) (w : Nat) : State :=
  match List.find? (fun (e : Nat × Group) => s.fetches e.1 e.2) s.groups with
  | some e => s.putWords e.1 w
  | none => let (k, s) := s.loadGroup; s.putWords k w

end Sys2Proof.Machine
end

