-- ==== Sys2Proof/Machine/Select.lean ====
section
/-! DEFINITION. What can happen next: the word that each datapath may issue (R330), the steps of every unit, and time. -/

namespace Sys2Proof.Machine

/-- Something that can happen next. -/
inductive Choice where
  | idle
  | event (i : Instr)
  | issue (k : Nat)
  /-- A core fetches ahead a word of a group's code (R37). -/
  | fetch (k : Nat)
  /-- A bit error beyond correction strikes some stored state (R14, R118, R219). -/
  | strike
  deriving DecidableEq, Repr

/-- R330 as a rank, lowest first: starved groups by last issue, urgent ones, then the rotation from the role after the last. Several urgent
groups go by last issue too, and groups of equal last issue by group number (DESIGN CHOICE, log 64). -/
def State.issueRank (s : State) (last : Nat) (g : Group) : Nat × Nat × Nat :=
  if 64 ≤ s.cycle - g.lastIssue then (0, g.lastIssue, 0)
  else if g.urgent then (1, g.lastIssue, 0)
  else (2, (roleOrder g.role + 7 - last) % 4, g.lastIssue)

/-- Lexicographic order of ranks. -/
def rankLt (a b : Nat × Nat × Nat) : Bool :=
  decide (a.1 < b.1) || (a.1 = b.1 && (decide (a.2.1 < b.2.1) || (a.2.1 = b.2.1 && decide (a.2.2 < b.2.2))))

/-- A group that has a word to issue or to try again: a drained core issues only what ends a commit-class pair (R356). -/
def State.mayIssue (s : State) (g : Group) : Bool :=
  g.place = .resident && g.issues && (g.pairPending || !(s.core g.core).drained)

/-- A ready group: its next word passes every interlock and wait of its instruction (R330). -/
def State.readyGroup (s : State) (k : Nat) (ex : Instr → State → Host.Outcome State Fault Refusal) : Bool :=
  match s.issueGroup k ex with
  | .next t => (t.group? k).all (fun g => g.hold ≠ .waiting)
  | _ => true

/-- The group of the datapath that R330 takes, among those given. -/
def State.bestOf (s : State) (last : Nat) : List (Nat × Group) → Option (Nat × Group)
  | [] => none
  | x :: xs =>
    match State.bestOf s last xs with
    | none => some x
    | some y => if rankLt (s.issueRank last y.2) (s.issueRank last x.2) then some y else some x

/-- The words that can issue: on each datapath the ready group that R330 takes; a group that is not ready comes to wait in its
instruction; and a group with a pending event takes it. -/
def State.issueChoices (s : State) (ex : Instr → State → Host.Outcome State Fault Refusal) : List Choice :=
  let able := s.groups.filter (fun e => s.mayIssue e.2)
  let ready := able.filter (fun e => s.readyGroup e.1 ex)
  let places := (ready.map (fun e => (e.2.core, e.2.dp))).eraseDups
  let picked := places.filterMap (fun p =>
    s.bestOf ((s.core p.1).dpRole.getD p.2 3) (ready.filter (fun e => e.2.core = p.1 && e.2.dp = p.2)))
  let waiting := able.filter (fun e => !s.readyGroup e.1 ex)
  let events := s.groups.filter (fun e => (s.boundary e.1 e.2).isSome)
  ((picked ++ waiting ++ events).map (·.1)).eraseDups.map Choice.issue

/-- Steps of the units inside the package that the state admits. -/
def State.unitEvents (s : State) : List Instr :=
  s.memEvents ++ s.barEvents ++ s.eventEvents ++ s.engineEvents ++ s.copyEvents ++ s.collEvents ++ s.tailEvents ++
  s.packageEvents

/-- Mark one item of a list that stands for stored state. -/
def markOne (n : Nat) (old : List Nat) (items : Nat) : List Nat := if items = 0 then old else (n % items) :: old.filter (· ≠ n % items)

/-- A bit error that the code of some memory cannot correct: which element it marks is free (R118, R154, R187, R196, R219). The marks of v elements,
s-registers, counters, scratchpad, memory, tiles, operand cache, and flipped bits of a scheduler machine or a cell; one of a group's or
core's, if there is one. -/
def State.strike (s : State) : State :=
  let (what, s) := s.free64
  let (place, s) := s.free64
  let (which, s) := s.free64
  let n := place.toNat
  let group (f : Group → Group) : State :=
    match s.groups[which.toNat % s.groups.length]? with
    | some e => s.setGroup e.1 (f e.2)
    | none => s
  match what.toNat % 9 with
  | 0 => group (fun g => { g with vBad := markOne n g.vBad (g.vregs * 96) })
  | 1 => group (fun g => { g with sBad := markOne n g.sBad 128 })
  | 2 => group (fun g => { g with aBad := markOne n g.aBad 16 })
  | 3 => let w := n % (448 * 131072) * 4
    { s with spadBad := (List.range 4).map (w + ·) ++ s.spadBad.filter (fun x => x / 4 * 4 ≠ w) }
  | 4 => let w := n % (3 * 2 ^ 47) * 32
    if destOf w ≠ .memory then s else { s with physBad := (List.range 32).map (w + ·) ++ s.physBad.filter (fun x => x / 32 * 32 ≠ w) }
  | 5 => s.strikeTile which.toNat n
  | 6 => s.strikeCache which.toNat n
  | 7 => s.strikeMachine which.toNat n
  | _ => s.strikeCell which.toNat n

/-- Everything that can happen next; time may pass with nothing else. -/
def State.choices (s : State) (ex : Instr → State → Host.Outcome State Fault Refusal) : List Choice :=
  Choice.idle :: Choice.strike :: (s.unitEvents.map Choice.event ++ s.issueChoices ex ++ (s.groups.map (fun e => Choice.fetch e.1)))

/-! ### One step, for a given meaning of instructions -/

/-- A word of the instruction set, as against an event. -/
def Instr.isProgram (i : Instr) : Bool := (encode i).isSome

/-- The next thing that happens: the group that `turn` names issues, or one of the choices is taken. -/
def State.turnStep (s : State) (ex : Instr → State → Host.Outcome State Fault Refusal) : Host.Outcome State Fault Refusal :=
  match s.turn with
  | .issue k => State.issueGroup { s with turn := .any } k ex
  | .any =>
    match s.choose (s.choices ex) with
    | none => .next s
    | some (.idle, s) => .next (s.tick 1)
    | some (.event i, s) => ex i s
    | some (.issue k, s) => s.issueGroup k ex
    | some (.fetch k, s) =>
      let (n, s) := s.free64
      .next (s.fetchAhead k ((s.kernel k).code + 8 * n))
    | some (.strike, s) => .next s.strike

/-- Module reset, the one event of a module without power. -/
def Instr.isReset : Instr → Bool
  | .moduleReset _ _ _ => true
  | _ => false

/-- One step: an event from outside whose time has come, else what the package itself does. Without power nothing happens but
module reset (R390); a program word among the outside events is passed over. -/
def State.stepWith (s : State) (ex : Instr → State → Host.Outcome State Fault Refusal) : Host.Outcome State Fault Refusal :=
  if !s.powered then
    match s.agenda with
    | (_, i) :: rest => if Instr.isReset i then ex i { s with agenda := rest } else .fault .poweredOff
    | [] => .fault .poweredOff
  else
    match s.agenda with
    | [] => s.turnStep ex
    | (0, i) :: rest => if Instr.isProgram i then .next { s with agenda := rest } else ex i { s with agenda := rest }
    | (n + 1, i) :: rest => State.turnStep { s with agenda := (n, i) :: rest } ex

end Sys2Proof.Machine
end

