-- ==== Sys2Proof/Machine/Step.lean ====
section
/-! DEFINITION. One step of the package, and placing an instruction for the next step. -/

namespace Sys2Proof.Machine

/-- One step (log 2). -/
def step (s : State) : Host.Outcome State Fault Refusal := s.stepWith exec

/-- The state with an instruction's words where the next step fetches (log 1): bit 0 of `w` is bit 0 of the first word, and the
words are stored little-endian, the first at the lowest address (R35). -/
def State.withFetchWord (s : State) (nbits w : Nat) : State := s.placeWords (w % 2 ^ nbits)

end Sys2Proof.Machine
end

