-- ==== Sys2Proof/Safety.lean ====
section
/-! DEFINITION. The terms of the statements: when an instruction is ready to have its own effect, and what it means that a word
retires, that the next word of its group stands elsewhere, or that an event leaves the rest of the module alone. -/

namespace Sys2Proof.Machine

/-- The outcome is a next state, and that state is as `P` says. -/
def Answers (o : Host.Outcome State Fault Refusal) (P : State → Prop) : Prop := ∃ t, o = .next t ∧ P t

/-- The group `g` is the one that issues `i`: it is in its slot, `i` passes the checks of R55, and nothing that holds a word at
issue whatever its operands holds `i` (R158, R213, R217, R300). -/
def State.Ready (s : State) (g : Group) (i : Instr) : Prop :=
  s.group? s.cur = some g ∧ g.place = .resident ∧ s.stops s.cur g i = none ∧ s.mustWait s.cur g i = false

/-- The word after a word that stands at the PC, 16 bytes on where the word has a literal (R35). -/
def Group.nextPc (g : Group) (l : Lit) : DWord := g.pc + (if l.isSome then 16 else 8)

/-- The group as it stands after its word has issued: at `pc`, ready for its next word, its issue noted (R330). -/
def Group.issued (g : Group) (pc : DWord) (now : Nat) : Group :=
  { g with
    pc := pc, hold := .ready, rel := none, waitFrom := none, waitTest := none, waitMet := none, recRead := none,
    lastIssue := now, urgent := false, bpSkip := [] }

/-- Every byte of memory and of the scratchpads reads in `t` as in `s`, and no mark of an uncorrectable byte has changed. -/
def State.SameMemory (s t : State) : Prop :=
  (∀ a, t.rawByte a = s.rawByte a) ∧ (∀ a, t.spadByte a = s.spadByte a) ∧ t.physBad = s.physBad ∧ t.spadBad = s.spadBad ∧
  t.lineKey = s.lineKey

/-- Between `s` and `t` time has passed, the issuing group has become `h`, its core has noted the issue, and nothing else of the
module has changed. -/
def State.OnlyGroup (s t : State) (h : Group) : Prop :=
  t.group? s.cur = some h ∧ (∀ k, k ≠ s.cur → t.group? k = s.group? k) ∧
  (∀ c, t.core c = { s.core c with dpRole := (t.core c).dpRole, fpMark := (t.core c).fpMark }) ∧
  s.cycle < t.cycle ∧ s.SameMemory t ∧
  t = { s with
    groups := t.groups, cores := t.cores, cycle := t.cycle, time := t.time, waitClock := t.waitClock, fresh := t.fresh,
    urgentLoads := t.urgentLoads }

/-- The word has its whole effect at once: its group becomes `g'` with the PC at `pc`, and nothing else changes. -/
def State.Retires (s : State) (i : Instr) (g' : Group) (pc : DWord) : Prop :=
  Answers (exec i s) (fun t => s.OnlyGroup t (g'.issued pc s.cycle))

/-- As `Retires`, where the word has also made the module's state `u`. -/
def State.RetiresInto (s u : State) (i : Instr) (g' : Group) (pc : DWord) : Prop :=
  Answers (exec i s) (fun t => u.OnlyGroup t (g'.issued pc u.cycle))

/-- A ready word of commit class whose effect on the module outside its group is `u`, and which makes its group `g'`: the group
must issue its REGION next (R27, R59). -/
def State.Commits (s u : State) (i : Instr) (g' : Group) (pc : DWord) : Prop :=
  s.RetiresInto u i { g' with pairPending := true } pc

/-- A word of code that a branch may go to: its address is a multiple of 8 and it is no literal (R36). -/
def State.GoodTarget (s : State) (t : DWord) : Prop := t.toNat % 8 = 0 ∧ s.isLiteral s.cur t = false

/-- A ready two-source scalar word `i` with the operands `f` writes `r n x y` to D, where n is 64 with `.W64` and 32 otherwise and
x and y are its sources (R88, R89, R95); the next word of its group is the one after it. -/
def State.ScalarResult (s : State) (g : Group) (f : SBin) (i : Instr) (r : (n : Nat) → BitVec n → BitVec n → BitVec n) : Prop :=
  s.Ready g i → s.Retires i
    (if f.w64 then g.wp (regNo f.d) (r 64 (s.uni64 s.cur g f.x f.a) (s.uni64 s.cur g f.x f.b))
     else g.ws (regNo f.d) (r 32 (s.uni32 s.cur g f.x f.a) (s.uni32 s.cur g f.x f.b)))
    (g.nextPc f.x.lit)

/-- A ready SCMP writes 1 to D where `r` holds of its sources and 0 otherwise (R97): D is one register in both widths. -/
def State.CompareResult (s : State) (g : Group) (f : SBin) (c : SCond) (r : (n : Nat) → BitVec n → BitVec n → Bool) : Prop :=
  s.Ready g (.scmp c f) → s.Retires (.scmp c f)
    (g.ws (regNo f.d)
      (if f.w64 then (if r 64 (s.uni64 s.cur g f.x f.a) (s.uni64 s.cur g f.x f.b) then 1 else 0)
       else (if r 32 (s.uni32 s.cur g f.x f.a) (s.uni32 s.cur g f.x f.b) then 1 else 0)))
    (g.nextPc f.x.lit)

/-- A ready SBIT on one source writes `r n x` to D (R99). -/
def State.BitResult (s : State) (g : Group) (op : SbitOp) (w64 : Bool) (d a : Operand) (x : Ext)
    (r : (n : Nat) → BitVec n → BitVec n) : Prop :=
  s.Ready g (.sbit op w64 d a x) → s.Retires (.sbit op w64 d a x)
    (if w64 then g.wp (regNo d) (r 64 (s.uni64 s.cur g x a)) else g.ws (regNo d) (r 32 (s.uni32 s.cur g x a)))
    (g.nextPc x.lit)

/-- A ready SBIT on one source writes the count `r n x` to D, one register in both widths (R99). -/
def State.CountResult (s : State) (g : Group) (op : SbitOp) (w64 : Bool) (d a : Operand) (x : Ext)
    (r : (n : Nat) → BitVec n → Nat) : Prop :=
  s.Ready g (.sbit op w64 d a x) → s.Retires (.sbit op w64 d a x)
    (g.ws (regNo d) (BitVec.ofNat 32 (if w64 then r 64 (s.uni64 s.cur g x a) else r 32 (s.uni32 s.cur g x a))))
    (g.nextPc x.lit)

/-! ### Vector results -/

/-- `h` is `g` after every participating lane has written `(out L).val` to its element of v-register `d` and has ORed
`(out L).flags` into its flags: other elements, other registers and other lanes' flags are as before (R58, R117). -/
def Group.LaneWrites (g h : Group) (d : Nat) (out : Nat → LaneOut) : Prop :=
  (∀ L, L < 96 → h.rv d L = if g.part L then (out L).val else g.rv d L) ∧
  (∀ r L, r ≠ d → L < 96 → h.rv r L = g.rv r L) ∧
  (∀ L, h.rf L = if L < 96 ∧ g.part L = true then g.rf L ||| (out L).flags else g.rf L) ∧
  (∀ x, x ∈ h.vBad ↔ x ∈ g.vBad ∧ ¬ ∃ L, L < 96 ∧ g.part L = true ∧ x = d * 96 + L) ∧
  h = { g with v := h.v, vflags := h.vflags, vBad := h.vBad }

/-- A word whose whole effect is such a write. -/
def State.LaneResults (s : State) (i : Instr) (g : Group) (d : Nat) (out : Nat → LaneOut) (l : Lit) : Prop :=
  ∃ h, g.LaneWrites h d out ∧ s.Retires i h (g.nextPc l)

/-- No element that a participating lane reads of the v-registers `regs` holds an uncorrectable error (R118). -/
def Group.SoundIn (g : Group) (regs : List Nat) : Prop :=
  ∀ L, L < 96 → g.part L = true → ∀ r ∈ regs, r * 96 + L ∉ g.vBad

/-- The value at node `i` of level `n` of the tree in which RED.FADD.F32 adds its 128 leaves (R147). -/
def treeNode (rm : RM) (leaf : Nat → Word) : Nat → Nat → Word
  | 0, i => leaf i
  | n + 1, i => (ScanOp.combine (.fadd rm) (treeNode rm leaf n (2 * i)) (treeNode rm leaf n (2 * i + 1))).1

/-! ### Memory accesses -/

/-- An address formed from a base and what is added to it: exact for L offsets, modulo 2^64 for G and S addresses (R210). -/
def addrIn (sp : Space) (base add : Int) : Int := if sp = .l then base + add else (base + add) % 2 ^ 64

/-- The base operand of an access: 32 bits for L, 64 for G and S (R207). -/
def State.baseIn (s : State) (g : Group) (sp : Space) (l : Lit) (a : Operand) : Int :=
  if sp = .l then ((s.uni32 s.cur g ⟨0, l⟩ a).toNat : Int) else ((s.uni64 s.cur g ⟨0, l⟩ a).toNat : Int)

/-- The instruction `i` is the access with the fields `f`: vector or scalar, load or store, with these elements, a lane (127 in a
scalar access) and an address each (R210, R212). -/
def State.IsAccess (s : State) (g : Group) (i : Instr) (f : MemF) (vec load : Bool) (els : List (Nat × Int)) : Prop :=
  let base := s.baseIn g f.space f.l f.a
  let scale : Int := if f.scale then Size.bytes f.size else 1
  let one : List (Nat × Int) := [(127, addrIn f.space base ((s.uni32 s.cur g ⟨0, f.l⟩ f.b).toInt * scale + f.disp.toInt))]
  let each : List (Nat × Int) := g.lanes.map (fun L =>
    (L, addrIn f.space base ((s.laneSrc s.cur g .int ⟨0, f.l⟩ f.b L).toInt * scale + f.disp.toInt)))
  let stride : Int := if f.scale then (s.uni32 s.cur g ⟨0, f.l⟩ f.b).toInt else Size.bytes f.size
  let stream : List (Nat × Int) := g.lanes.map (fun L => (L, addrIn f.space base (f.disp.toInt + (L : Int) * stride)))
  (i = .sld f ∧ vec = false ∧ load = true ∧ els = one) ∨ (i = .sst f ∧ vec = false ∧ load = false ∧ els = one) ∨
  (i = .ld f ∧ vec = true ∧ load = true ∧ els = each) ∨ (i = .st f ∧ vec = true ∧ load = false ∧ els = each) ∨
  (i = .ldv f ∧ vec = true ∧ load = true ∧ els = stream) ∨ (i = .stv f ∧ vec = true ∧ load = false ∧ els = stream)

/-- The operation that such an access puts in flight (R213): its elements of at most 8 bytes (R287), with a store's data from the
registers of D as they stand at issue (R209). -/
def State.flight (s : State) (g : Group) (f : MemF) (vec load : Bool) (els : List (Nat × Int)) : Op :=
  { group := s.cur, ctx := s.ctxOf s.cur, core := g.core, kind := if load then .load else .store, space := f.space,
    scope := f.scope, size := f.size, vec := vec, reg := regNo f.d, counter := f.n.toNat, pc := g.pc,
    elems := els.flatMap (fun e => pieces (Size.bytes f.size) (Size.bytes f.size) e.1 (s.faultAddr s.cur f.space e.2) load
      (s.deviceAt s.cur g f.space load e.2) (if load then [] else if vec then g.vBytes (regNo f.d) e.1 (Size.bytes f.size)
       else g.sBytes (regNo f.d) (Size.bytes f.size)) []) }

/-- The state with one more operation in flight. -/
def State.withOp (s : State) (o : Op) : State := { s with nextId := s.nextId + 1, ops := s.ops.insert s.nextId o }

/-- The one element `e` of operation `id` may be performed now: it has not been, no access before it must come first (R216, R288),
and it lies on the issuing core or not as `remote` says (R226). -/
def State.Performs (s : State) (id : Nat) (o : Op) (e : Elem) (remote : Bool) : Prop :=
  s.ops.find? id = some o ∧ o.elems = [e] ∧ o.abandoned = false ∧ o.faulted = false ∧ e.performed = false ∧ e.sent = false ∧
  e.entered = none ∧ Op.remote o e = remote ∧ s.blocked id o 0 e = false

/-- The scratchpad byte at which an S or L element begins (R29). -/
def Elem.place (e : Elem) : Nat := e.addr.toNat / 524288 % 512 * 524288 + e.addr.toNat % 524288

/-- `n` bytes from `a` on have been written with `bs` in a memory whose bytes were `old` and are `new`; no other byte has changed. -/
def Written (old new : Nat → Byte) (a : Nat) (bs : List Byte) : Prop :=
  ∀ x, new x = if a ≤ x ∧ x < a + bs.length then bs.getD (x - a) 0 else old x

/-- The stack behind a key performs a request of the module at once: it answers, and nothing waits in it (R235, R394). -/
def State.Serving (s : State) (key : Nat) : Prop := s.stackHeld key = false ∧ s.stackLost key = false ∧ s.heldAt key = []

/-- Group `g` counts its completions itself: its record is not written, and counter `n` is sound (R154, R240). -/
def Group.Counts (g : Group) (n : Nat) : Prop := g.rcd = none ∧ n ∉ g.aBad

/-- `h` is `g` after its counters have changed: a WAIT that has begun to wait, and whose condition now holds, ends in this cycle, so that the
next word is ready in it (R220). -/
def Group.Wakes (g h : Group) (now : Nat) : Prop :=
  let g' : Group := { g with a := h.a, cont := h.cont, urgent := h.urgent }
  match g.waitTest, g.waitFrom with
  | some w, some c =>
    if g'.waitHolds w = true ∧ g.waitMet = none then
      h = if g.hold = .waiting then
          { g' with
            pc := g.waitNext, hold := .ready, waitcyc := (g.waitcyc + (now - c)) % 2 ^ 64, waitFrom := none, waitTest := none,
            bpSkip := [], haltPending := h.haltPending }
        else { g' with waitMet := some now }
    else h = g'
  | _, _ => h = g'

/-- Operation `id` has completed: it is in flight no more, and the arrival counter of its group has gone down by one (R213). -/
def State.Arrived (s t : State) (id : Nat) (o : Op) (g : Group) : Prop :=
  t.ops.find? id = none ∧ ∃ h, t.group? o.group = some h ∧ h.ra o.counter = g.ra o.counter - 1 ∧
    (∀ n, n ≠ o.counter → h.ra n = g.ra n) ∧ g.Wakes h s.cycle ∧ h.cont.pc = g.cont.pc ∧ h.cont.em = g.cont.em ∧
    (∀ k, k ≠ o.group → t.group? k = s.group? k)

/-- The moves `ms` write each of `n` bytes, the one at `dst j` as `src j` says. -/
def Carries (ms : List Move) (n : Nat) (dst : Nat → DWord) (src : Nat → MoveByte) : Prop :=
  ∀ j, j < n → ∃ m ∈ ms, ∃ (i : Nat) (a : DWord), m.bytes[i]? = some (src j) ∧ a ∈ m.left ∧ a + BitVec.ofNat 64 i = dst j

/-- The copy that a CPY or CPYT of group `g` puts into its core's pool (R238 to R240). -/
def State.pooled (s : State) (g : Group) (f : CopyF) (dst src : Space) (ms : List Move) : Copy :=
  { core := g.core, ctx := s.ctxOf s.cur, team := teamOf s.cur, group := s.cur, queue := f.queue.toNat, dst := dst, src := src,
    scope := f.scope, counter := if f.nc then none else some f.n.toNat, pc := g.pc,
    after := s.joined (teamOf s.cur) f.queue.toNat, moves := ms }

/-! ### Management -/

/-- The session of a request is open for the principal `p`, its tag is right, and its counter is the next (R396). -/
def State.Good (s : State) (r : MgmtReq) (p : Principal) : Prop :=
  ∃ x, s.sessions.find? r.session = some x ∧ x.principal = some p ∧ r.tagOk = true ∧ r.counter = x.counter

/-- A request of the session is outstanding (R395). -/
def State.Outstanding (s : State) (r : MgmtReq) : Prop := ∃ c ∈ s.ctxs, ∃ q, c.2.destroying = some q ∧ q.session = r.session

/-- A request is good, no other of its session is outstanding, and the identity key has signatures left (R390, R396). -/
def State.Session (s : State) (r : MgmtReq) (p : Principal) : Prop := s.Good r p ∧ ¬ s.Outstanding r ∧ s.nextLeaf < 1048576

/-- Owner k has no page mapped, and no store buffer holds bytes of one (R382, R398). -/
def State.Unmapped (s : State) (k : BitVec 8) : Prop :=
  (∀ c ∈ s.ctxs, ∀ l ∈ s.leavesFrom c.2.root 5, l.2.owner ≠ k) ∧ ∀ c ∈ s.cores, ∀ l ∈ c.2.unhomed, l.owner ≠ k

/-- Firmware answers requests: the package is booted to step 7 (R376, R397). -/
def State.Serves (s : State) (r : MgmtReq) (p : Principal) : Prop := s.Session r p ∧ s.booted = true ∧ 7 ≤ s.bootStep

/-- The state after a good request has come: the counter of its direction has advanced, and the session's 60 s begin again (R396). -/
def State.heard (s : State) (r : MgmtReq) : State :=
  { s with sessions := s.sessions.modify r.session (fun x => { x with counter := x.counter + 1, last := s.cycle }) }

/-- The state after the answer to a request, with its STATUS, its payload and its SEQ; the counter of its direction has advanced in an open
session (R395, R396). -/
def State.replied (s : State) (r : MgmtReq) (status : Nat) (data : List Byte) : State :=
  { s with
    sessions := s.sessions.modify r.session (fun x => if x.principal.isSome then { x with sent := x.sent + 1 } else x)
    outbox := s.outbox ++ [{ kind := .mgmt status, dest := r.session, tag := r.seq.toNat, data := data }] }

/-- The state after the answer to a request outside every session (R395). -/
def State.repliedFree (s : State) (seq : BitVec 16) (status : Nat) : State :=
  { s with outbox := s.outbox ++ [{ kind := .mgmt status, tag := seq.toNat }] }

/-- The group has no event to take at its boundary: no error, fault, discard, termination, halt or breakpoint (R343). -/
def State.Undisturbed (s : State) (k : Nat) (g : Group) : Prop :=
  g.scalarErr = none ∧ g.asyncFault = none ∧ g.stopCause = none ∧ (s.grid k).terminating = false ∧ g.haltPending = none ∧
  g.fwStop = false ∧ s.bpNow k g = none

/-- Memory, the scratchpads and the groups are in their one canonical form; a swapped gang's image lists no byte that an unlisted
one holds (log 4). -/
def State.MemoryForm (s : State) : Prop :=
  Memory.wf s.phys ∧ Memory.wf s.spad ∧ SMap.Sorted s.groups ∧ ∀ e ∈ s.gangs, ∀ b ∈ e.2.image, b.2 ≠ memDefault

/-! ### Floating values -/

/-- A finite FP32 encoding (R67, R68). -/
def finiteF32 (x : Word) : Bool := x.toNat / 2 ^ 23 % 256 ≠ 255

/-- An FP32 NaN, and a signalling one (R68). -/
def nanF32 (x : Word) : Bool := x.toNat / 2 ^ 23 % 256 = 255 && x.toNat % 2 ^ 23 ≠ 0
def signalF32 (x : Word) : Bool := nanF32 x && !x.getLsbD 22

/-- The value of a finite FP32 encoding in units of 2^-149 (R67). -/
def unitsF32 (x : Word) : Int :=
  (if x.msb then -1 else 1) *
  (if x.toNat / 2 ^ 23 % 256 = 0 then ((x.toNat % 2 ^ 23 : Nat) : Int)
   else (((2 ^ 23 + x.toNat % 2 ^ 23) * 2 ^ (x.toNat / 2 ^ 23 % 256 - 1) : Nat) : Int))

/-- The largest finite FP32 value in units of 2^-149. -/
def maxUnitsF32 : Nat := (2 ^ 24 - 1) * 2 ^ 253

/-- `r` is the finite FP32 value that num/den, in units of 2^-149, rounds to in the mode (R70). -/
def RoundsF32 (rm : RM) (num : Int) (den : Nat) (r : Word) : Prop :=
  finiteF32 r = true ∧
  match rm with
  | .rdn => unitsF32 r * den ≤ num ∧ ∀ w, finiteF32 w = true → unitsF32 w * den ≤ num → unitsF32 w ≤ unitsF32 r
  | .rup => num ≤ unitsF32 r * den ∧ ∀ w, finiteF32 w = true → num ≤ unitsF32 w * den → unitsF32 r ≤ unitsF32 w
  | .rtz => (unitsF32 r).natAbs * den ≤ num.natAbs ∧ 0 ≤ unitsF32 r * num ∧
      ∀ w, finiteF32 w = true → (unitsF32 w).natAbs * den ≤ num.natAbs → (unitsF32 w).natAbs ≤ (unitsF32 r).natAbs
  | .rne => ∀ w, finiteF32 w = true → (unitsF32 r * den - num).natAbs ≤ (unitsF32 w * den - num).natAbs ∧
      ((unitsF32 r * den - num).natAbs = (unitsF32 w * den - num).natAbs → unitsF32 w ≠ unitsF32 r → r.getLsbD 0 = false)

/-- The mode rounds a value of this sign away from zero where it does not fit (R70). -/
def RM.away (rm : RM) (neg : Bool) : Bool := rm = .rne || (rm = .rup && !neg) || (rm = .rdn && neg)

/-- num/den, in units of 2^-149, is tiny: rounded to 24 bits with unbounded exponent range it lies below 2^-126, which is 2^23 units (R69). -/
def tinyF32 (rm : RM) (num : Int) (den : Nat) : Bool :=
  decide (num.natAbs < 2 ^ 23 * den) &&
  (decide (num.natAbs * 2 ≤ (2 ^ 24 - 1) * den) ||
   (if rm = .rne then decide (num.natAbs * 4 < (2 ^ 25 - 1) * den) else !RM.away rm (decide (num < 0))))

/-- num/den overflows: rounded to 24 bits with unbounded exponent range it exceeds the largest finite value (R69). -/
def overflowsF32 (rm : RM) (num : Int) (den : Nat) : Bool :=
  if rm = .rne then decide ((2 ^ 25 - 1) * 2 ^ 252 * den ≤ num.natAbs)
  else if RM.away rm (decide (num < 0)) then decide (maxUnitsF32 * den < num.natAbs)
  else decide (2 ^ 277 * den ≤ num.natAbs)

/-- A result so rounded, with NX where it is inexact, UF where it is also tiny, and no other flag (R69). -/
def RoundedOut (rm : RM) (num : Int) (den : Nat) (o : LaneOut) : Prop :=
  RoundsF32 rm num den o.val ∧ (o.flags.getLsbD 4 = decide (unitsF32 o.val * den ≠ num)) ∧
  (o.flags.getLsbD 3 = (decide (unitsF32 o.val * den ≠ num) && tinyF32 rm num den)) ∧ o.flags &&& 0x67 = 0

/-- The FP32 result of num/den: rounded, or on overflow what the mode delivers, with OF and NX (R69, R70). -/
def ResultF32 (rm : RM) (num : Int) (den : Nat) (o : LaneOut) : Prop :=
  if overflowsF32 rm num den then
    o = ⟨(if RM.away rm (decide (num < 0)) then 0x7F800000 else 0x7F7FFFFF) ||| (if num < 0 then 0x80000000 else 0), flOF ||| flNX⟩
  else RoundedOut rm num den o

/-- The integer that x/2^149 rounds to in the mode (R70). -/
def integralF32 (rm : RM) (x : Int) : Int :=
  let q := x / 2 ^ 149
  let m := x % 2 ^ 149
  match rm with
  | .rdn => q
  | .rup => -(-x / 2 ^ 149)
  | .rtz => x.tdiv (2 ^ 149)
  | .rne => if 2 * m < 2 ^ 149 ∨ (2 * m = 2 ^ 149 ∧ q % 2 = 0) then q else q + 1

/-- A comparison of FP32 encodings by their values (R134): unordered ones satisfy NE and UN only, and an infinity lies beyond every finite
value. -/
def comparesF32 (k : FCond) (x y : Word) : Bool :=
  let un := nanF32 x || nanF32 y
  match k with
  | .eq => !un && decide (unitsF32 x = unitsF32 y)
  | .ne => un || decide (unitsF32 x ≠ unitsF32 y)
  | .lt => !un && decide (unitsF32 x < unitsF32 y)
  | .le => !un && decide (unitsF32 x ≤ unitsF32 y)
  | .gt => !un && decide (unitsF32 y < unitsF32 x)
  | .ge => !un && decide (unitsF32 y ≤ unitsF32 x)
  | .un => un
  | .or => !un

/-- A comparison sets NV: on a signalling NaN always, on a quiet one under LT, LE, GT and GE (R134). -/
def comparesNV (k : FCond) (x y : Word) : Bool :=
  signalF32 x || signalF32 y || ((nanF32 x || nanF32 y) && (k = .lt || k = .le || k = .gt || k = .ge))

/-- FP32 x comes before y in the order of R147, in which −0 is less than +0. -/
def belowF32 (x y : Word) : Prop := unitsF32 x < unitsF32 y ∨ (unitsF32 x = unitsF32 y ∧ x.msb = true ∧ y.msb = false)

/-! ### Narrower formats -/

/-- A floating format: bits of exponent and fraction, its least subnormal value in units of 2^-149, the code of its largest finite value,
and what an overflow away from zero delivers, positive and negative (R67, R70). -/
structure SmallFmt where
  eb : Nat
  mb : Nat
  unit : Nat
  big : Nat
  past : Nat
  pastNeg : Nat
  deriving DecidableEq, Repr

def smallF16 : SmallFmt := ⟨5, 10, 2 ^ 125, 0x7BFF, 0x7C00, 0xFC00⟩
def smallBF16 : SmallFmt := ⟨8, 7, 2 ^ 16, 0x7F7F, 0x7F80, 0xFF80⟩
def smallE4M3 : SmallFmt := ⟨4, 3, 2 ^ 140, 0x7E, 0x7F, 0x7F⟩
def smallE5M2 : SmallFmt := ⟨5, 2, 2 ^ 133, 0x7B, 0x7C, 0xFC⟩

/-- A finite code of the format. -/
def SmallFmt.finite (f : SmallFmt) (x : Nat) : Prop := x < 2 ^ (f.eb + f.mb + 1) ∧ x % 2 ^ (f.eb + f.mb) ≤ f.big

/-- The value of a finite code in units of 2^-149 (R67). -/
def SmallFmt.units (f : SmallFmt) (x : Nat) : Int :=
  let e := x / 2 ^ f.mb % 2 ^ f.eb
  let m := x % 2 ^ f.mb
  (if x.testBit (f.eb + f.mb) then -1 else 1) * (((if e = 0 then m else (2 ^ f.mb + m) * 2 ^ (e - 1)) * f.unit : Nat) : Int)

/-- `r` is the finite code that num, in units of 2^-149, rounds to in the mode (R70). -/
def SmallFmt.Rounds (f : SmallFmt) (rm : RM) (num : Int) (r : Nat) : Prop :=
  f.finite r ∧
  match rm with
  | .rdn => f.units r ≤ num ∧ ∀ w, f.finite w → f.units w ≤ num → f.units w ≤ f.units r
  | .rup => num ≤ f.units r ∧ ∀ w, f.finite w → num ≤ f.units w → f.units r ≤ f.units w
  | .rtz => (f.units r).natAbs ≤ num.natAbs ∧ 0 ≤ f.units r * num ∧
      ∀ w, f.finite w → (f.units w).natAbs ≤ num.natAbs → (f.units w).natAbs ≤ (f.units r).natAbs
  | .rne => ∀ w, f.finite w → (f.units r - num).natAbs ≤ (f.units w - num).natAbs ∧
      ((f.units r - num).natAbs = (f.units w - num).natAbs → f.units w ≠ f.units r → r % 2 = 0)

/-- num overflows: rounded with unbounded exponent range it exceeds the largest finite value (R69). -/
def SmallFmt.overflows (f : SmallFmt) (rm : RM) (num : Int) : Bool :=
  let top := (f.units f.big).natAbs
  let step := top - (f.units (f.big - 1)).natAbs
  if rm = .rne then decide (2 * top + step < 2 * num.natAbs) || (decide (2 * top + step = 2 * num.natAbs) && decide (f.big % 2 = 1))
  else if RM.away rm (decide (num < 0)) then decide (top < num.natAbs) else decide (top + step ≤ num.natAbs)

/-- A narrowed result: rounded, with NX exactly where inexact and no flag but NX and UF; on overflow what the mode delivers, with OF and NX,
or with SAT the largest finite value (R69, R70, R80). -/
def SmallFmt.Narrows (f : SmallFmt) (sat : Bool) (rm : RM) (num : Int) (o : LaneOut) : Prop :=
  if f.overflows rm num then
    o = ⟨BitVec.ofNat 32 (if RM.away rm (decide (num < 0)) && !sat then (if num < 0 then f.pastNeg else f.past)
      else f.big + (if num < 0 then 2 ^ (f.eb + f.mb) else 0)), flOF ||| flNX⟩
  else f.Rounds rm num o.val.toNat ∧ (o.flags.getLsbD 4 = decide (f.units o.val.toNat ≠ num)) ∧ o.flags &&& 0x67 = 0

/-! ### Matrix segments -/

/-- M and e of R191 of a finite code. -/
def SmallFmt.mant (f : SmallFmt) (x : Nat) : Nat := (if x / 2 ^ f.mb % 2 ^ f.eb = 0 then 0 else 2 ^ f.mb) + x % 2 ^ f.mb
def SmallFmt.expo (f : SmallFmt) (x : Nat) : Int := (max (x / 2 ^ f.mb % 2 ^ f.eb) 1 : Nat) - (2 ^ (f.eb - 1) - 1 : Nat)

/-- `es` is the segment exponent of a line's elements (R191). -/
def SmallFmt.Top (f : SmallFmt) (raw : List Nat) (es : Int) : Prop :=
  (∀ x ∈ raw, f.mant x ≠ 0 → f.expo x ≤ es) ∧
  ((∃ x ∈ raw, f.mant x ≠ 0 ∧ f.expo x = es) ∨ ((∀ x ∈ raw, f.mant x = 0) ∧ es = 0))

/-- An element aligned to the segment exponent in a field of F bits, cut toward zero (R191), and whether a nonzero bit is cut off (R192). -/
def SmallFmt.aligned (f : SmallFmt) (F : Nat) (es : Int) (x : Nat) : Int :=
  (if x.testBit (f.eb + f.mb) then -1 else 1) *
    ((f.mant x * 2 ^ (F - 2 - f.mb) / 2 ^ (es - f.expo x).toNat : Nat) : Int)
def SmallFmt.loses (f : SmallFmt) (F : Nat) (es : Int) (x : Nat) : Bool :=
  decide (f.mant x * 2 ^ (F - 2 - f.mb) % 2 ^ (es - f.expo x).toNat ≠ 0)

/-- Line l of an operand in a segment, from the bytes of the team's allocation (R165, R190). -/
def State.operandLine (s : State) (o : EngineOp) (e : TEntry) (seg l : Nat) : LineSeg :=
  let at_ (a n : Nat) : Nat := leNat (s.getSpad (s.lKey o.group a) n)
  let row := e.base + l * e.lstride
  let raw (k : Nat) : Nat :=
    if e.fmt = 7 then
      let p := 8 * (k % 8) + k / 8
      at_ (row + 32 * seg + p / 2) 1 / 16 ^ (p % 2) % 16
    else if e.fmt = 1 ∨ e.fmt = 2 then at_ (row + 2 * (64 * seg + k)) 2
    else at_ (row + (64 * seg + k)) 1
  let n := min 64 (e.kdim - 64 * seg)
  if l < e.lines ∧ n ≠ 0 then
    lineSeg e.fmt ((List.range n).map raw) (if e.fmt = 7 then at_ (e.codeBase + l * e.cstride + seg) 1 else 0)
  else { code := if e.fmt = 7 then 0 else 1 }

/-- The superblock scale of line l of a QG4 operand as a segment of an MMA sees it: where the segment holds no element, the one that the
superblock has had since it was opened (R198). -/
def State.operandScale (s : State) (o : EngineOp) (e : TEntry) (seg l : Nat) (opens : Bool) (kept : List Word) : Word :=
  if e.kdim ≤ 64 * seg then (if opens then 0 else kept.getD l 0)
  else if l < e.lines then BitVec.ofNat 32 (leNat (s.getSpad (s.lKey o.group (e.scaleBase + l * e.sstride + 4 * (seg / 256))) 4))
  else 0

/-- RoundFP(x + y, FP32, RNE) of finite values: an exact zero is +0 unless both are −0 (R69, R70). -/
def Sum32 (x y : Word) (r : LaneOut) : Prop :=
  if unitsF32 x + unitsF32 y = 0 then r = ⟨if x = 0x80000000 ∧ y = 0x80000000 then 0x80000000 else 0, 0⟩
  else ResultF32 .rne (unitsF32 x + unitsF32 y) 1 r

/-- v = RoundFP(P × codes × 2^e): an exact zero is +0 (R198). -/
def SegValue32 (p : Int) (codes : Nat) (e : Int) (r : LaneOut) : Prop :=
  if p * codes = 0 then r = ⟨0, 0⟩
  else ResultF32 .rne (p * codes * 2 ^ (149 + e).toNat) (2 ^ (-(149 + e)).toNat) r

/-- w = RoundFP(Q × F), F the product of S / 7,905 over the scales (R198). -/
def Flush32 (q : Word) (scales : List Word) (r : LaneOut) : Prop :=
  let num := scales.foldl (fun n x => n * unitsF32 x) (unitsF32 q)
  if num = 0 then (r.val = 0 ∨ r.val = 0x80000000) ∧ r.flags = 0
  else ResultF32 .rne num ((2 ^ 149 * 7905) ^ scales.length) r

/-- A drain into one element of an FP32-mode tile (R198, R199): `t` and the partial `q` become `t'` and `q'`, and `ov` says whether a
value rounded to an infinity (R200); what follows an infinity is not said. -/
def FloatDrain (qg opens closes : Bool) (scales : List Word) (p : Int) (codes : Nat) (e : Int) (t q t' q' : Word) (ov : Bool) : Prop :=
  let big (r : LaneOut) : Bool := !finiteF32 r.val
  ∃ v, SegValue32 p codes e v ∧ (big v = true → ov = true) ∧ (big v = false →
    if qg = false then ∃ r, Sum32 t v.val r ∧ t' = r.val ∧ ov = big r
    else ∃ a, Sum32 (if opens then 0x80000000 else q) v.val a ∧ q' = a.val ∧ (big a = true → ov = true) ∧ (big a = false →
      if closes = false then t' = t ∧ ov = false
      else ∃ w, Flush32 a.val scales w ∧ (big w = true → ov = true) ∧ (big w = false →
        ∃ r, Sum32 t w.val r ∧ t' = r.val ∧ ov = big r)))

end Sys2Proof.Machine
end

