-- ==== Sys2Proof/Certificates/Slice0/Obligations.lean ====
section
/-! DEFINITION. The statements about the model, for the provers. -/

open Sys2Proof Sys2Proof.Machine

/-! ### Scalar instructions -/

/-- R95, R96: SADD, SSUB, SMUL, SDIV, SAND, SOR, SXOR, SMIN and SMAX write the result of their two sources to D, and nothing else of the
module changes but the PC. -/
def Obligations.ScalarArithmeticWritesItsResult : Prop :=
  ∀ (s : State) (g : Group) (f : SBin),
    s.ScalarResult g f (.sadd .wrap f) (fun _ x y => x + y) ∧
    s.ScalarResult g f (.sadd .sat f) (fun n x y =>
      BitVec.ofInt n (min (max (x.toInt + y.toInt) (-(2 ^ (n - 1)))) (2 ^ (n - 1) - 1))) ∧
    s.ScalarResult g f (.sadd .usat f) (fun n x y => BitVec.ofNat n (min (x.toNat + y.toNat) (2 ^ n - 1))) ∧
    s.ScalarResult g f (.ssub .wrap f) (fun _ x y => x - y) ∧
    s.ScalarResult g f (.ssub .sat f) (fun n x y =>
      BitVec.ofInt n (min (max (x.toInt - y.toInt) (-(2 ^ (n - 1)))) (2 ^ (n - 1) - 1))) ∧
    s.ScalarResult g f (.ssub .usat f) (fun n x y => BitVec.ofNat n (x.toNat - y.toNat)) ∧
    s.ScalarResult g f (.smul .lo f) (fun _ x y => x * y) ∧
    s.ScalarResult g f (.smul .hi f) (fun n x y => BitVec.ofInt n ((x.toInt * y.toInt) / 2 ^ n)) ∧
    s.ScalarResult g f (.smul .hiu f) (fun n x y => BitVec.ofNat n (x.toNat * y.toNat / 2 ^ n)) ∧
    s.ScalarResult g f (.sdiv true false f) (fun n x y => if y = 0 then BitVec.allOnes n else x / y) ∧
    s.ScalarResult g f (.sdiv true true f) (fun _ x y => if y = 0 then x else x % y) ∧
    s.ScalarResult g f (.sdiv false false f) (fun n x y =>
      if y = 0 then BitVec.allOnes n else BitVec.ofInt n (x.toInt.tdiv y.toInt)) ∧
    s.ScalarResult g f (.sdiv false true f) (fun n x y =>
      if y = 0 then x else BitVec.ofInt n (x.toInt.tmod y.toInt)) ∧
    (∀ inv, s.ScalarResult g f (.sand inv f) (fun _ x y => x &&& (if inv then ~~~y else y))) ∧
    (∀ inv, s.ScalarResult g f (.sor inv f) (fun _ x y => x ||| (if inv then ~~~y else y))) ∧
    (∀ inv, s.ScalarResult g f (.sxor inv f) (fun _ x y => x ^^^ (if inv then ~~~y else y))) ∧
    s.ScalarResult g f (.smin false f) (fun _ x y => if x.toInt ≤ y.toInt then x else y) ∧
    s.ScalarResult g f (.smin true f) (fun _ x y => if x.toNat ≤ y.toNat then x else y) ∧
    s.ScalarResult g f (.smax false f) (fun _ x y => if x.toInt ≤ y.toInt then y else x) ∧
    s.ScalarResult g f (.smax true f) (fun _ x y => if x.toNat ≤ y.toNat then y else x)

/-- R96 to R98: the shifts, which read a 32-bit amount modulo the width; the comparisons; the selection. -/
def Obligations.ScalarShiftsComparesAndSelects : Prop :=
  ∀ (s : State) (g : Group) (f : SBin),
    (s.Ready g (.sshl f) → s.Retires (.sshl f)
      (if f.w64 then g.wp (regNo f.d) (s.uni64 s.cur g f.x f.a <<< ((s.uni32 s.cur g f.x f.b).toNat % 64))
       else g.ws (regNo f.d) (s.uni32 s.cur g f.x f.a <<< ((s.uni32 s.cur g f.x f.b).toNat % 32))) (g.nextPc f.x.lit)) ∧
    (s.Ready g (.sshr false f) → s.Retires (.sshr false f)
      (if f.w64 then g.wp (regNo f.d) (s.uni64 s.cur g f.x f.a >>> ((s.uni32 s.cur g f.x f.b).toNat % 64))
       else g.ws (regNo f.d) (s.uni32 s.cur g f.x f.a >>> ((s.uni32 s.cur g f.x f.b).toNat % 32))) (g.nextPc f.x.lit)) ∧
    (s.Ready g (.sshr true f) → s.Retires (.sshr true f)
      (if f.w64 then g.wp (regNo f.d) ((s.uni64 s.cur g f.x f.a).sshiftRight ((s.uni32 s.cur g f.x f.b).toNat % 64))
       else g.ws (regNo f.d) ((s.uni32 s.cur g f.x f.a).sshiftRight ((s.uni32 s.cur g f.x f.b).toNat % 32)))
      (g.nextPc f.x.lit)) ∧
    s.CompareResult g f .eq (fun _ x y => x == y) ∧ s.CompareResult g f .ne (fun _ x y => x != y) ∧
    s.CompareResult g f .lt (fun _ x y => x.slt y) ∧ s.CompareResult g f .le (fun _ x y => x.sle y) ∧
    s.CompareResult g f .gt (fun _ x y => y.slt x) ∧ s.CompareResult g f .ge (fun _ x y => y.sle x) ∧
    s.CompareResult g f .ltu (fun _ x y => x.ult y) ∧ s.CompareResult g f .leu (fun _ x y => x.ule y) ∧
    s.CompareResult g f .gtu (fun _ x y => y.ult x) ∧ s.CompareResult g f .geu (fun _ x y => y.ule x) ∧
    (∀ c, s.uni32 s.cur g f.x c ≠ 0 → s.Ready g (.ssel c f) → s.Retires (.ssel c f)
      (if f.w64 then g.wp (regNo f.d) (s.uni64 s.cur g f.x f.a) else g.ws (regNo f.d) (s.uni32 s.cur g f.x f.a))
      (g.nextPc f.x.lit)) ∧
    (∀ c, s.uni32 s.cur g f.x c = 0 → s.Ready g (.ssel c f) → s.Retires (.ssel c f)
      (if f.w64 then g.wp (regNo f.d) (s.uni64 s.cur g f.x f.b) else g.ws (regNo f.d) (s.uni32 s.cur g f.x f.b))
      (g.nextPc f.x.lit))

/-- R99: counts and reversals of one source; BFE and BFI on the field of `w` bits from bit `p`, where p is B modulo the width n
and w is the smaller of C modulo 128 and n − p, say by the bits of what they write. -/
def Obligations.ScalarBitOperations : Prop :=
  ∀ (s : State) (g : Group) (w64 : Bool) (d a : Operand) (x : Ext),
    s.CountResult g .popc w64 d a x (fun n v => (List.range n).countP (fun i => v.getLsbD i)) ∧
    s.CountResult g .clz w64 d a x (fun n v => ((List.range n).find? (fun i => v.getLsbD (n - 1 - i))).getD n) ∧
    s.CountResult g .ctz w64 d a x (fun n v => ((List.range n).find? (fun i => v.getLsbD i)).getD n) ∧
    s.BitResult g .brev w64 d a x (fun _ v => v.reverse) ∧
    s.BitResult g .bswap w64 d a x (fun n v =>
      BitVec.ofNat n (((List.range (n / 8)).map (fun i => (v.extractLsb' (8 * i) 8).toNat * 256 ^ (n / 8 - 1 - i))).sum)) ∧
    (∀ (b c : Operand) (n p w : Nat) (v old r : BitVec n), n = (if w64 then 64 else 32) →
      v.toNat = (if w64 then (s.uni64 s.cur g x a).toNat else (s.uni32 s.cur g x a).toNat) →
      old.toNat = (if w64 then (g.rp (regNo d)).toNat else (g.rs (regNo d)).toNat) →
      p = (s.uni32 s.cur g x b).toNat % n → w = min ((s.uni32 s.cur g x c).toNat % 128) (n - p) →
      let put : Group := if w64 then g.wp (regNo d) (r.setWidth 64) else g.ws (regNo d) (r.setWidth 32)
      ((∀ i, r.getLsbD i = (decide (i < w) && v.getLsbD (p + i))) → s.Ready g (.sbit (.bfeU b c) w64 d a x) →
        s.Retires (.sbit (.bfeU b c) w64 d a x) put (g.nextPc x.lit)) ∧
      ((∀ i, r.getLsbD i = (decide (i < n) && decide (0 < w) && v.getLsbD (p + min i (w - 1)))) →
        s.Ready g (.sbit (.bfeI b c) w64 d a x) → s.Retires (.sbit (.bfeI b c) w64 d a x) put (g.nextPc x.lit)) ∧
      ((∀ i, r.getLsbD i = if p ≤ i ∧ i < p + w then v.getLsbD (i - p) else old.getLsbD i) →
        s.Ready g (.sbit (.bfi b c) w64 d a x) → s.Retires (.sbit (.bfi b c) w64 d a x) put (g.nextPc x.lit)))

/-- R93, R94: NOP, and the moves between registers, constants and special registers. R5, R337: the reserved bits 11 to 8 of `$tcause` keep
reading 0. -/
def Obligations.ScalarMoves : Prop :=
  ∀ (s : State) (g : Group) (d a : Operand) (x : Ext) (l : Lit),
    (s.Ready g (.nop l) → s.Retires (.nop l) g (g.nextPc l)) ∧
    (s.Ready g (.smov d (.word a x)) → s.Retires (.smov d (.word a x)) (g.ws (regNo d) (s.uni32 s.cur g x a)) (g.nextPc x.lit)) ∧
    (s.Ready g (.smov d (.w64 a x)) → s.Retires (.smov d (.w64 a x)) (g.wp (regNo d) (s.uni64 s.cur g x a)) (g.nextPc x.lit)) ∧
    ((∀ c, a ≠ .int c) → s.Ready g (.smov d (.f32 a x)) →
      s.Retires (.smov d (.f32 a x)) (g.ws (regNo d) (s.uni32 s.cur g x a)) (g.nextPc x.lit)) ∧
    (∀ (c : BitVec 6) (v : Int), v = (c.toNat : Int) - 32 → s.Ready g (.smov d (.f32 (.int c) x)) →
      s.Retires (.smov d (.f32 (.int c) x))
        (g.ws (regNo d) (BitVec.ofNat 32 (roundFP fp32 .rne ⟨decide (v < 0), v.natAbs, 1⟩).1)) (g.nextPc x.lit)) ∧
    (∀ (n : BitVec 8), s.Ready g (.smov d (.special n l)) → s.Retires (.smov d (.special n l))
      (if special64 n.toNat then g.wp (regNo d) (s.specialReg s.cur g n.toNat)
       else g.ws (regNo d) (loWord (s.specialReg s.cur g n.toNat))) (g.nextPc l)) ∧
    (s.Ready g (.smovToSpecial 0x0F a l) →
      s.Retires (.smovToSpecial 0x0F a l) { g with tpc := s.uni64 s.cur g ⟨0, l⟩ a } (g.nextPc l)) ∧
    (s.Ready g (.smovToSpecial 0x10 a l) →
      s.Retires (.smovToSpecial 0x10 a l) { g with tcause := s.uni32 s.cur g ⟨0, l⟩ a &&& 0xFFFFF0FF } (g.nextPc l))

/-! ### Control flow and masks -/

/-- R100 to R106: a branch with a good target makes it the PC of the next word; an offset counts words from the branch itself. R36, R55 step 1: a taken branch to a bad
target raises the misaligned-target fault before every other check, and has no other effect; that the record's ADDR is the target is the
model's reading (log 26). -/
def Obligations.BranchesGoToTheirTargets : Prop :=
  (∀ (s : State) (g : Group) (d a b : Operand) (x : Ext) (l : Lit) (w64 : Bool) (t : DWord) (v : Int) (sel part : BitVec 96),
      (t = g.pc + 8 * s.uni64 s.cur g x b → s.GoodTarget t →
        (s.Ready g (.br b x) → s.Retires (.br b x) g t) ∧
        (s.Ready g (.call d (.offset b) x) → s.Retires (.call d (.offset b) x) (g.wp (regNo d) (g.nextPc x.lit)) t) ∧
        (s.Ready g (.loop d b x) → g.rs (regNo d) ≠ 1 → s.Retires (.loop d b x) (g.ws (regNo d) (g.rs (regNo d) - 1)) t) ∧
        (v = (if w64 then (s.uni64 s.cur g x a).toInt else (s.uni32 s.cur g x a).toInt) →
          (s.Ready g (.brc .z w64 a b x) → s.Retires (.brc .z w64 a b x) g (if v = 0 then t else g.nextPc x.lit)) ∧
          (s.Ready g (.brc .nz w64 a b x) → s.Retires (.brc .nz w64 a b x) g (if v ≠ 0 then t else g.nextPc x.lit)) ∧
          (s.Ready g (.brc .ltz w64 a b x) → s.Retires (.brc .ltz w64 a b x) g (if v < 0 then t else g.nextPc x.lit)) ∧
          (s.Ready g (.brc .gez w64 a b x) → s.Retires (.brc .gez w64 a b x) g (if 0 ≤ v then t else g.nextPc x.lit)) ∧
          (s.Ready g (.brc .gtz w64 a b x) → s.Retires (.brc .gtz w64 a b x) g (if 0 < v then t else g.nextPc x.lit)) ∧
          (s.Ready g (.brc .lez w64 a b x) → s.Retires (.brc .lez w64 a b x) g (if v ≤ 0 then t else g.nextPc x.lit))) ∧
        (part = g.em &&& ~~~g.dead → sel = s.tripleSrc s.cur g x a &&& part →
          (s.Ready g (.brm .any a b x) → s.Retires (.brm .any a b x) g (if sel ≠ 0 then t else g.nextPc x.lit)) ∧
          (s.Ready g (.brm .none a b x) → s.Retires (.brm .none a b x) g (if sel = 0 then t else g.nextPc x.lit)) ∧
          (s.Ready g (.brm .all a b x) → s.Retires (.brm .all a b x) g (if sel = part then t else g.nextPc x.lit)) ∧
          (s.Ready g (.brm .nall a b x) → s.Retires (.brm .nall a b x) g (if sel ≠ part then t else g.nextPc x.lit)))) ∧
      (t = s.uni64 s.cur g x a → s.GoodTarget t →
        s.Ready g (.call d (.reg a) x) → s.Retires (.call d (.reg a) x) (g.wp (regNo d) (g.nextPc x.lit)) t) ∧
      (t = g.rp (regNo a) → s.GoodTarget t → s.Ready g (.jmp (.reg a) l) → s.Retires (.jmp (.reg a) l) g t) ∧
      (t = g.tpc → s.GoodTarget t → s.Ready g (.jmp .tpc l) → s.Retires (.jmp .tpc l) g t) ∧
      (g.rs (regNo d) = 1 → s.Ready g (.loop d b x) → s.Retires (.loop d b x) (g.ws (regNo d) 0) (g.nextPc x.lit))) ∧
  (∀ (s : State) (g : Group) (d a b : Operand) (x : Ext) (l : Lit) (t : DWord), ¬ s.GoodTarget t →
      let faults (i : Instr) : Prop :=
        s.group? s.cur = some g → g.place = .resident → Instr.sourcesOk g.vregs g.sregs i = true → g.readsError i = false →
        s.mustWait s.cur g i = false → exec i s = .next (s.systemFault s.cur g { cause := 5, pc := g.pc, addr := t })
      (t = g.pc + 8 * s.uni64 s.cur g x b →
        faults (.br b x) ∧ faults (.call d (.offset b) x) ∧
        (s.uni32 s.cur g x a = 0 → faults (.brc .z false a b x)) ∧
        (s.tripleSrc s.cur g x a &&& (g.em &&& ~~~g.dead) = 0 → faults (.brm .none a b x)) ∧
        (g.rs (regNo d) ≠ 1 → faults (.loop d b x))) ∧
      (t = s.uni64 s.cur g x a → faults (.call d (.reg a) x)) ∧ (t = g.rp (regNo a) → faults (.jmp (.reg a) l)) ∧
      (t = g.tpc → faults (.jmp .tpc l)))

/-- R108, R109: EMOP changes the execution mask s125 to s127, after it has saved the old one where SAVE is given; MASKOP computes
on mask triples. -/
def Obligations.MaskOperations : Prop :=
  ∀ (s : State) (g : Group) (d a b : Operand) (x : Ext) (save : Option Operand) (ma mb : BitVec 96) (na nb : Nat),
    ma = s.tripleSrc s.cur g x a → mb = s.tripleSrc s.cur g x b →
    na = (s.uni32 s.cur g x a).toNat → nb = (s.uni32 s.cur g x b).toNat →
    let saved : Group := match save with
      | some d => g.wt (regNo d) g.em
      | none => g
    let em (op : EmopOp) (m : BitVec 96) : Prop :=
      s.Ready g (.emop op save x) → s.Retires (.emop op save x) (saved.wt 125 m) (g.nextPc x.lit)
    let mask (op : MaskOp) (m : BitVec 96) : Prop :=
      s.Ready g (.maskop op d x) → s.Retires (.maskop op d x) (g.wt (regNo d) m) (g.nextPc x.lit)
    let count (op : MaskOp) (n : Nat) : Prop :=
      s.Ready g (.maskop op d x) → s.Retires (.maskop op d x) (g.ws (regNo d) (BitVec.ofNat 32 n)) (g.nextPc x.lit)
    em (.set a) ma ∧ em (.and a) (g.em &&& ma) ∧ em (.andn a) (g.em &&& ~~~ma) ∧ em (.or a) (g.em ||| ma) ∧
    em (.els a) (ma &&& ~~~g.em) ∧ em .live (g.em &&& ~~~g.dead) ∧
    mask (.and a b) (ma &&& mb) ∧ mask (.or a b) (ma ||| mb) ∧ mask (.xor a b) (ma ^^^ mb) ∧ mask (.andn a b) (ma &&& ~~~mb) ∧
    mask (.not a) (~~~ma) ∧ mask (.mov a) ma ∧ mask (.live a) (ma &&& ~~~g.dead) ∧
    (∀ m : BitVec 96, (∀ i, m.getLsbD i = (decide (i < 96) && decide (na ≤ i) && decide (i < nb))) → mask (.range a b) m) ∧
    count (.popc a) ((List.range 96).countP (fun i => ma.getLsbD i)) ∧
    count (.first a) (((List.range 96).find? (fun i => ma.getLsbD i)).getD 96) ∧
    count (.last a) ((((List.range 96).reverse).find? (fun i => ma.getLsbD i)).getD 96)

/-! ### Regions, traps and the end of a group -/

/-- R304: a REGION that names an entry of the live-set table whose registers the group has waits for the group's split-phase
operations, and then records the continuation point; with an uncorrectable error in the scalar state that it reads behind a Commit() it leaves
the fault pending (R27, R154, R343). R310, R311: YIELD commits with its condition noted; the REGION after it goes on where the
condition holds already, and else writes the record of its region start, frees the slot and leaves the record waiting. -/
def Obligations.RegionsAndYields : Prop :=
  (∀ (s : State) (g : Group) (n : BitVec 8) (l : Lit) (ls : LiveSet),
      s.Ready g (.region n l) → (s.kernel s.cur).live[n.toNat]? = some ls →
      (∀ r ∈ ls.vs, r < g.vregs) → (∀ r ∈ ls.ss, r < g.sregs) →
      let g' : Group := { g with
        pairPending := false, pairRegion := none, yielding := .none
        cont := { pc := g.pc, em := g.em, a := g.a, live := some n.toNat, mark := s.nextId } }
      let parks (w : WaitOn) (more : State → Prop) : Prop := Answers (exec (.region n l) s) (fun t => ∃ h r,
        t.group? s.cur = some h ∧ h.place = .yielded ∧ h.rcd = some r ∧ r.pc = g.pc ∧ r.em = g.em ∧
        r.live = some n.toNat ∧ r.cause = 4 ∧ r.wait = w ∧ s.SameMemory t ∧ more t)
      (s.outstanding s.cur = true → exec (.region n l) s = .next (s.wait s.cur g)) ∧
      (s.outstanding s.cur = false → g.pairPending = true → g.readsError (.region n l) = true → g.yielding = .none →
        Answers (exec (.region n l) s) (fun t => s.SameMemory t ∧ ∃ h, t.group? s.cur = some h ∧ h.cont = g'.cont ∧
          h.pc = g.nextPc l ∧ h.pairPending = false ∧ h.scalarErr = some { cause := 0x0A, pc := g.pc })) ∧
      (s.outstanding s.cur = false → (g.pairPending = true → g.readsError (.region n l) = false) →
        (g.yielding = .none → s.Retires (.region n l) g' (g.nextPc l)) ∧
        (∀ w i p, g.yielding = .bar w i p → (s.bar s.cur w i).phase ≠ p →
          s.RetiresInto (s.setBar s.cur w i ((s.bar s.cur w i).observe s.cur)).flushDeferred (.region n l) g' (g.nextPc l)) ∧
        (∀ e, g.yielding = .event e 0 → s.Retires (.region n l) g' (g.nextPc l)) ∧
        (∀ e k, g.yielding = .event e k → 0 < k → (s.event e).waiters = [] → k ≤ (s.event e).count →
          s.RetiresInto (s.setEvent e { s.event e with count := (s.event e).count - k }) (.region n l) g' (g.nextPc l)) ∧
        ((s.grid s.cur).terminating = false → (∀ r ∈ ls.ss, r ∉ g.sBad) →
          (∀ w i p, g.yielding = .bar w i p → (s.bar s.cur w i).phase = p → parks (.bar w i p) (fun _ => True)) ∧
          (∀ e k, g.yielding = .event e k → k ≠ 0 → ((s.event e).waiters ≠ [] ∨ (s.event e).count < k) →
            parks (.event e k) (fun t => (s.cur, k) ∈ (t.event e).waiters))))) ∧
  (∀ (s : State) (g : Group) (l : Lit),
      (∀ (bar : BarRef) (a : Operand), s.Ready g (.yieldBar bar a l) →
        s.Commits s (.yieldBar bar a l)
          { g with yielding := .bar bar.gang bar.idx.toNat ((s.uni32 s.cur g ⟨0, l⟩ a).getLsbD 0) } (g.nextPc l)) ∧
      (∀ (e : BitVec 8) (a : Operand) (n : Nat), s.Ready g (.yieldEv e a l) → n = (s.uni32 s.cur g ⟨0, l⟩ a).toNat →
        (s.event e.toNat).ctx = some (s.ctxOf s.cur) → n ≤ 65535 →
        s.Commits s (.yieldEv e a l) { g with yielding := .event e.toNat n } (g.nextPc l)))

/-- R55, steps 1, 3, 5 and 6, R54, R59 and R154: a program word of the issuing group is stopped by the first check that it fails, a bad
target of a taken branch before all others; a word that passes them and is held at issue waits (R158, R213, R217, R300). The order is the
rule's. The model's readings are the ADDR of a bad target (log 26), that a target whose operands are refused or erroneous is not checked
(log 52), and that a held word waits before its own checks (log 28). -/
def Obligations.IssueChecksAreMadeInOrder : Prop :=
  ∀ (s : State) (g : Group) (i : Instr), Instr.isProgram i = true → s.group? s.cur = some g → g.place = .resident →
    let formsOk : Bool := Instr.codesOk i && (Instr.opnds i).all (Opnd.declared g.vregs g.sregs) && s.tileOk s.cur i
    let liveIns : LiveSet := s.liveSet s.cur g g.cont.live
    (∀ t, s.badBranch s.cur g i = some t → exec i s = .next (s.systemFault s.cur g { cause := 5, pc := g.pc, addr := t })) ∧
    (s.badBranch s.cur g i = none →
      (s.commitOk s.cur g i = false → exec i s = .next (s.systemFault s.cur g { cause := 1, pc := g.pc })) ∧
      (s.commitOk s.cur g i = true → formsOk = false →
        exec i s = .next (s.systemFault s.cur g { cause := 2, pc := g.pc, slot := slotOf g.vregs g.sregs i })) ∧
      (s.commitOk s.cur g i = true → formsOk = true →
        ((Instr.writes i).any liveIns.meets = true →
          exec i s = .next (s.systemFault s.cur g { cause := 2, detail := 1, pc := g.pc, slot := liveSlotOf liveIns i })) ∧
        ((Instr.writes i).any liveIns.meets = false →
          ((Instr.klass i).all (Klass.admits g.role) = false →
            exec i s = .next ((s.userTrap s.cur g 0x41 (roleInfo i g.role)).tick 8)) ∧
          ((Instr.klass i).all (Klass.admits g.role) = true →
            (g.readsError i = true → g.pairPending = false → exec i s =
              .next ((s.groupError s.cur g 0 0 6 127 false).systemFault s.cur g { cause := 0x0A, pc := g.pc })) ∧
            (g.readsError i = false ∨ g.pairPending = true → s.mustWait s.cur g i = true →
              exec i s = .next (s.wait s.cur g))))))

/-- R60, R336, R337: a user trap saves the PC and the cause and goes on at the kernel's handler; nothing else of the group changes
but the note of its issue (R330, R331). Without a handler it is the system fault 0x0B. R339, R348: TRAP takes the user trap with its
number, and BRK, where the context is not being debugged, the user trap 0x43. R348: while firmware marks the context as being debugged,
BRK retires and halts its group at the next word. -/
def Obligations.UserTrapsEnterTheHandler : Prop :=
  (∀ (s : State) (k : Nat) (g : Group) (cause info : Nat), info < 2 ^ 20 →
      ((s.kernel k).trapoff ≠ 0xFFFFFFFF →
        (s.userTrap k g cause info).group? k = some { g with
          tpc := g.pc, tcause := BitVec.ofNat 32 (info * 4096 + cause), hold := .ready, rel := none, bpSkip := [],
          recRead := none, lastIssue := s.cycle, urgent := false
          pc := (s.kernel k).code + 8 * BitVec.ofNat 64 (s.kernel k).trapoff } ∧
        (∀ j, j ≠ k → (s.userTrap k g cause info).group? j = s.group? j) ∧
        (∀ c, (s.userTrap k g cause info).core c = { s.core c with
          dpRole := ((s.userTrap k g cause info).core c).dpRole, fpMark := ((s.userTrap k g cause info).core c).fpMark }) ∧
        ((s.userTrap k g cause info).core g.core).fpMark = s.waitClock ∧
        s.userTrap k g cause info = { s with groups := (s.userTrap k g cause info).groups, cores := (s.userTrap k g cause info).cores }) ∧
      ((s.kernel k).trapoff = 0xFFFFFFFF →
        s.userTrap k g cause info = s.systemFault k g { cause := 0x0B, detail := cause, pc := g.pc })) ∧
  (∀ (s : State) (g : Group) (l : Lit),
      (∀ n : BitVec 6, s.Ready g (.trap n l) → exec (.trap n l) s = .next ((s.userTrap s.cur g n.toNat 0).tick 8)) ∧
      (∀ n : BitVec 8, s.Ready g (.brk n l) → (s.ctx (s.ctxOf s.cur)).debugged = false →
        exec (.brk n l) s = .next ((s.userTrap s.cur g 0x43 n.toNat).tick 8))) ∧
  (∀ (s : State) (g : Group) (n : BitVec 8) (l : Lit), s.Ready g (.brk n l) → (s.ctx (s.ctxOf s.cur)).debugged = true →
      s.Retires (.brk n l) { g with haltPending := some { cause := 0x20, detail := n.toNat, pc := g.pc } } (g.nextPc l))

/-- R308, R340, R341: taking a system fault discards the group to its region start, parks the record and puts a fault record into
the fault queue, or keeps it in the core while the queue is full or earlier records wait; every other group stands as before, and no memory
changes. R342: a group of a terminating grid leaves no record. -/
def Obligations.SystemFaultsParkTheGroup : Prop :=
  ∀ (s t : State) (k : Nat) (g : Group) (f : FaultInfo), t = s.systemFault k g f →
    ((s.grid k).terminating = false → s.unsavable k g = false →
      ∃ h r, t.group? k = some h ∧ h.place = .parked ∧ h.hold = .ready ∧ h.rcd = some r ∧ h.pc = g.cont.pc ∧
      r.pc = g.cont.pc ∧ r.em = g.cont.em ∧ r.acnt = g.cont.a ∧ r.live = g.cont.live ∧ r.tpc = g.tpc ∧ r.tcause = g.tcause ∧
      r.waitcyc = g.waitcyc ∧ r.role = g.role ∧ r.wait = .none ∧
      r.cause = (if f.cause = 7 then 3 else if f.cause = 0x0A then 6 else 5)) ∧
    ((s.grid k).terminating = true → t.group? k = some { g.ended with leftAt := s.nextId }) ∧
    (∀ j, j ≠ k → t.group? j = s.group? j) ∧ s.SameMemory t ∧
    ((s.grid k).terminating = true ∨ s.unsavable k g = false →
      (s.faultQueue.length < 1024 → (∀ c ∈ s.cores, c.2.faultWait = []) → t.faultQueue = s.faultQueue ++ [faultBytes s k g f]) ∧
      (1024 ≤ s.faultQueue.length → t.faultQueue = s.faultQueue ∧
        ∃ n, (t.core g.core).faultWait = (s.core g.core).faultWait ++ [(n, faultBytes s k g f)]))

/-- R347: SYSREQ, once what FENCE.ALL.SYSTEM waits for is done and the request queue has room, commits, queues the group for
firmware and pins it with its service number and argument. R346, R342: EXIT, once the group's split-phase operations have completed, ends
the group and takes it off every barrier of its team and gang; EXIT.ABORT begins the termination of its grid with the low 16 bits of its operand; the gang retires with its last
group. -/
def Obligations.SysreqAndExit : Prop :=
  (∀ (s : State) (g : Group) (n : BitVec 8) (d a : Operand) (l : Lit), s.Ready g (.sysreq n d a l) →
      s.releaseWait s.cur g .system true = none → s.sysreqQueue.length < 64 →
      Answers (exec (.sysreq n d a l) s) (fun t =>
        t.sysreqQueue = s.sysreqQueue ++ [s.cur] ∧ s.SameMemory t ∧ (∀ k, k ≠ s.cur → t.group? k = s.group? k) ∧
        ∃ h, t.group? s.cur = some { h with
            hold := .sysreq n.toNat (s.uni64 s.cur g ⟨0, l⟩ a) (regNo d) (g.nextPc l), pairPending := true } ∧
          h = g.issued (g.nextPc l) s.cycle)) ∧
  (∀ (s : State) (g : Group) (a : Operand) (l : Lit), SMap.Sorted s.groups → s.outstanding s.cur = false →
      (s.Ready g (.exit l) → Answers (exec (.exit l) s) (fun t =>
        t.group? s.cur = some { g.ended with leftAt := s.nextId } ∧ g.ended.place = .gone ∧ s.SameMemory t ∧
        (∀ k, k ≠ s.cur → ∃ b, t.group? k = (s.group? k).map (fun x => { x with released := b })) ∧
        (∀ gang i, s.cur ∉ (t.bar s.cur gang i).wcur ∧ s.cur ∉ (t.bar s.cur gang i).wpend) ∧
        ((∀ e ∈ s.groups, gangOf e.1 = gangOf s.cur → e.1 ≠ s.cur → e.2.place = .gone) →
          (∀ e ∈ s.copies, e.2.team / 16 ≠ gangOf s.cur) →
          (∀ c ∈ s.cores, ∀ o ∈ c.2.engine, gangOf o.group ≠ gangOf s.cur) →
          (s.gang s.cur).place = .placed → (t.gang s.cur).place = .retired))) ∧
      (s.Ready g (.exitAbort a l) → ∀ gr, s.grids.find? (gridOf s.cur) = some gr → gr.terminating = false →
        Answers (exec (.exitAbort a l) s) (fun t =>
          t.group? s.cur = some { g.ended with leftAt := s.nextId } ∧ s.SameMemory t ∧
          ∃ gr', t.grids.find? (gridOf s.cur) = some gr' ∧ gr'.terminating = true ∧
            gr'.code = some (gr.code.getD ((s.uni32 s.cur g ⟨0, l⟩ a).toNat % 65536)))))

/-! ### Vector, conversion and cross-lane instructions -/

/-- R117: each instruction of the lane loop (VADD, VSUB, VMUL, VMULH, VMAD, VDIV, VAND, VOR, VXOR, VSHL, VSHR, VMIN, VMAX, VMOV, VFADD, VFSUB,
VFMUL, VFMA, VFMIN, VFMAX, VFDIV, VFSQRT, VSF, VCLASS, VBFE, VBIT, VDOT4, VRND, CVT, CVT8, PACK, UNPACK, QGDEC, QGENC, QGSCL, CVTSAT), without SCR and without an uncorrectable source,
writes to every participating lane what its operation gives for that lane's sources, all read from the group as it stood. R118, R154: a participating lane that reads an element with an uncorrectable error dies: its element of D becomes 0, its
flags stay, and it is live no more; the other participating lanes write their results. -/
def Obligations.LaneInstructionsWriteTheirLanes : Prop :=
  (∀ (s : State) (g : Group) (i : Instr) (op : LaneOp) (f : VOps), Instr.lane? i = some (op, f) → f.scr = false →
      s.Ready g i → g.SoundIn (laneReads op f) →
      s.LaneResults i g (regNo f.d) (fun L =>
        laneEval op (s.laneSrc s.cur g (LaneOp.kinds op).1 f.x f.a L) (s.laneSrc s.cur g (LaneOp.kinds op).2.1 f.x f.b L)
          (s.laneSrc s.cur g (LaneOp.kinds op).2.2 f.x f.c L) (g.rv (regNo f.d) L) f.x.imm.toNat) f.x.lit) ∧
  (∀ (s : State) (g : Group) (i : Instr) (op : LaneOp) (f : VOps), Instr.lane? i = some (op, f) → f.scr = false →
      s.Ready g i → Answers (exec i s) (fun t => ∃ h, t.group? s.cur = some h ∧ s.SameMemory t ∧ h.pc = g.nextPc f.x.lit ∧
        ∀ L, L < 96 → g.part L = true →
          ((∃ r ∈ laneReads op f, r * 96 + L ∈ g.vBad) →
            h.rv (regNo f.d) L = 0 ∧ h.rf L = g.rf L ∧ h.live L = false) ∧
          ((∀ r ∈ laneReads op f, r * 96 + L ∉ g.vBad) →
            h.rv (regNo f.d) L = (s.laneResult s.cur g op f L).val ∧
            h.rf L = g.rf L ||| (s.laneResult s.cur g op f L).flags ∧ h.live L = true)))

/-- R121 to R124, R126 to R129: what one lane computes, on 32-bit elements, from its sources a, b, c and its old destination d. -/
def Obligations.IntegerLaneValues : Prop :=
  ∀ (a b c d : Word) (k : Nat) (inv : Bool),
    laneEval (.add ⟨false, false, false⟩) a b c d k = ⟨a + b, 0⟩ ∧
    laneEval (.add ⟨true, true, false⟩) a b c d k = ⟨BitVec.ofNat 32 (min (a.toNat + b.toNat) (2 ^ 32 - 1)), 0⟩ ∧
    laneEval (.sub ⟨false, false, false⟩) a b c d k = ⟨a - b, 0⟩ ∧
    laneEval (.sub ⟨true, true, false⟩) a b c d k = ⟨BitVec.ofNat 32 (a.toNat - b.toNat), 0⟩ ∧
    laneEval (.mul false) a b c d k = ⟨a * b, 0⟩ ∧
    laneEval (.mulh true) a b c d k = ⟨BitVec.ofNat 32 (a.toNat * b.toNat / 2 ^ 32), 0⟩ ∧
    laneEval (.mulh false) a b c d k = ⟨BitVec.ofInt 32 (a.toInt * b.toInt / 2 ^ 32), 0⟩ ∧
    laneEval (.mad .wrap) a b c d k = ⟨a * b + c, 0⟩ ∧
    laneEval (.mad (.sat true)) a b c d k = ⟨BitVec.ofNat 32 (min (a.toNat * b.toNat + c.toNat) (2 ^ 32 - 1)), 0⟩ ∧
    (∀ r : Int, r = a.toInt + b.toInt →
      laneEval (.add ⟨false, true, false⟩) a b c d k = ⟨BitVec.ofInt 32 (max (-(2 ^ 31)) (min r (2 ^ 31 - 1))), 0⟩) ∧
    (∀ r : Int, r = a.toInt - b.toInt →
      laneEval (.sub ⟨false, true, false⟩) a b c d k = ⟨BitVec.ofInt 32 (max (-(2 ^ 31)) (min r (2 ^ 31 - 1))), 0⟩) ∧
    (∀ r : Int, r = a.toInt * b.toInt + c.toInt →
      laneEval (.mad (.sat false)) a b c d k = ⟨BitVec.ofInt 32 (max (-(2 ^ 31)) (min r (2 ^ 31 - 1))), 0⟩) ∧
    laneEval (.div true false) a b c d k =
      (if b = 0 then ⟨BitVec.allOnes 32, flIDZ⟩ else ⟨BitVec.ofNat 32 (a.toNat / b.toNat), 0⟩) ∧
    laneEval (.div true true) a b c d k = (if b = 0 then ⟨a, flIDZ⟩ else ⟨BitVec.ofNat 32 (a.toNat % b.toNat), 0⟩) ∧
    laneEval (.div false false) a b c d k =
      (if b = 0 then ⟨BitVec.allOnes 32, flIDZ⟩
       else if a.toInt = -(2 ^ 31) ∧ b.toInt = -1 then ⟨a, flIOV⟩ else ⟨BitVec.ofInt 32 (a.toInt.tdiv b.toInt), 0⟩) ∧
    laneEval (.div false true) a b c d k =
      (if b = 0 then ⟨a, flIDZ⟩
       else if a.toInt = -(2 ^ 31) ∧ b.toInt = -1 then ⟨0, flIOV⟩ else ⟨BitVec.ofInt 32 (a.toInt.tmod b.toInt), 0⟩) ∧
    laneEval (.and inv) a b c d k = ⟨a &&& (if inv then ~~~b else b), 0⟩ ∧
    laneEval (.or inv) a b c d k = ⟨a ||| (if inv then ~~~b else b), 0⟩ ∧
    laneEval (.xor inv) a b c d k = ⟨a ^^^ (if inv then ~~~b else b), 0⟩ ∧
    laneEval (.shl false) a b c d k = ⟨a <<< (b.toNat % 32), 0⟩ ∧
    laneEval (.shr true false) a b c d k = ⟨a >>> (b.toNat % 32), 0⟩ ∧
    laneEval (.shr false false) a b c d k = ⟨a.sshiftRight (b.toNat % 32), 0⟩ ∧
    laneEval (.min true false) a b c d k = ⟨if a.toNat ≤ b.toNat then a else b, 0⟩ ∧
    laneEval (.min false false) a b c d k = ⟨if a.toInt ≤ b.toInt then a else b, 0⟩ ∧
    laneEval (.max true false) a b c d k = ⟨if a.toNat ≤ b.toNat then b else a, 0⟩ ∧
    laneEval (.max false false) a b c d k = ⟨if a.toInt ≤ b.toInt then b else a, 0⟩ ∧
    laneEval .mov a b c d k = ⟨a, 0⟩ ∧
    (∀ n, n = ((List.range 32).countP (fun i => a.getLsbD i)) → laneEval (.bit .popc) a b c d k = ⟨BitVec.ofNat 32 n, 0⟩) ∧
    laneEval (.bit .brev) a b c d k = ⟨a.reverse, 0⟩ ∧
    (∀ n, n = ((List.range 32).find? (fun i => a.getLsbD (31 - i))).getD 32 →
      laneEval (.bit .clz) a b c d k = ⟨BitVec.ofNat 32 n, 0⟩) ∧
    (∀ n, n = ((List.range 32).find? (fun i => a.getLsbD i)).getD 32 → laneEval (.bit .ctz) a b c d k = ⟨BitVec.ofNat 32 n, 0⟩) ∧
    laneEval (.bit .bswap) a b c d k =
      ⟨((a &&& 0xFF) <<< 24) ||| ((a &&& 0xFF00) <<< 8) ||| ((a >>> 8) &&& 0xFF00) ||| (a >>> 24), 0⟩ ∧
    (∀ (r : Word) (p w : Nat), p = b.toNat % 32 → w = min (c.toNat % 128) (32 - p) →
      ((∀ i, r.getLsbD i = (decide (i < 32) && decide (0 < w) && a.getLsbD (p + min i (w - 1)))) →
        laneEval (.bfe .i) a b c d k = ⟨r, 0⟩) ∧
      ((∀ i, r.getLsbD i = if p ≤ i ∧ i < p + w then a.getLsbD (i - p) else d.getLsbD i) →
        laneEval (.bfe .ins) a b c d k = ⟨r, 0⟩)) ∧
    (∀ (t : DotTypes) (ua ub : Bool) (v : Int),
      let byte (u : Bool) (x : Word) (i : Nat) : Int :=
        let y : Byte := (x >>> (8 * i)).setWidth 8
        if u then (y.toNat : Int) else y.toInt
      (t = .ss ∧ ua = false ∧ ub = false) ∨ (t = .uu ∧ ua = true ∧ ub = true) ∨ (t = .su ∧ ua = false ∧ ub = true) →
      v = c.toInt + byte ua a 0 * byte ub b 0 + byte ua a 1 * byte ub b 1 + byte ua a 2 * byte ub b 2 + byte ua a 3 * byte ub b 3 →
      laneEval (.dot4 t false) a b c d k = ⟨BitVec.ofInt 32 v, 0⟩ ∧
      laneEval (.dot4 t true) a b c d k = ⟨BitVec.ofInt 32 (max (-(2 ^ 31)) (min v (2 ^ 31 - 1))), 0⟩) ∧
    (∀ r : Word, (∀ i, r.getLsbD i = (decide (i < min (c.toNat % 128) (32 - b.toNat % 32)) && a.getLsbD (b.toNat % 32 + i))) →
      laneEval (.bfe .u) a b c d k = ⟨r, 0⟩) ∧
    laneEval (.dot4 .uu false) a b c d k = ⟨c + BitVec.ofNat 32
      ((a.toNat % 256) * (b.toNat % 256) + (a.toNat / 256 % 256) * (b.toNat / 256 % 256) +
       (a.toNat / 65536 % 256) * (b.toNat / 65536 % 256) + (a.toNat / 16777216) * (b.toNat / 16777216)), 0⟩

/-- R67, R69, R70, R79, R84, R131, R132, R135, R138: in FP32 a result of finite sources is the exact real rounded once in the mode; NX tells
whether it differs, UF whether it is tiny besides, and on overflow the mode's value stands with OF and NX: VFADD, VFSUB, VFMUL, VFMA with its
sign forms, VFDIV, CVT.F32.I32, CVT.F32.U32 and QGDEC.F32. A square root is rounded in each mode, and VRND gives the integral value of each.
Values are counted in units of 2^-149. -/
def Obligations.FloatingResultsAreRounded : Prop :=
  (∀ (a b c d : Word) (k : Nat) (rm : RM), finiteF32 a = true → finiteF32 b = true → finiteF32 c = true →
    let x := unitsF32 a
    let y := unitsF32 b
    let z := unitsF32 c
    ResultF32 rm (x + y) 1 (laneEval (.fadd .f32 rm) a b c d k) ∧
    (x + y = 0 → x ≠ 0 → (laneEval (.fadd .f32 rm) a b c d k).val = if rm = .rdn then 0x80000000 else 0) ∧
    ResultF32 rm (x - y) 1 (laneEval (.fsub .f32 rm) a b c d k) ∧
    ResultF32 rm (x * y) (2 ^ 149) (laneEval (.fmul .f32 rm) a b c d k) ∧
    (∀ (np nc : Bool) (p : Int), p = (if np then -(x * y) else x * y) + (if nc then -z else z) * 2 ^ 149 →
      ResultF32 rm p (2 ^ 149) (laneEval (.fma .f32 np nc rm) a b c d k)) ∧
    (y ≠ 0 → ResultF32 rm (x * y.sign * 2 ^ 149) y.natAbs (laneEval (.fdiv rm) a b c d k)) ∧
    (∀ o r, 0 ≤ x → o = laneEval (.fsqrt rm) a b c d k → r = unitsF32 o.val →
      finiteF32 o.val = true ∧ 0 ≤ r ∧ (o.flags = if r * r = x * 2 ^ 149 then 0 else flNX) ∧
      (rm = .rup → x * 2 ^ 149 ≤ r * r ∧
        ∀ w, finiteF32 w = true → 0 ≤ unitsF32 w → x * 2 ^ 149 ≤ unitsF32 w * unitsF32 w → r ≤ unitsF32 w) ∧
      (rm = .rne → ∀ w v, finiteF32 w = true → v = unitsF32 w → 0 ≤ v →
        (v < r → (r + v) * (r + v) ≤ 4 * (x * 2 ^ 149)) ∧ (r < v → 4 * (x * 2 ^ 149) ≤ (r + v) * (r + v)))) ∧
    (∀ o, o = laneEval (.rnd .f32 rm) a b c d k → unitsF32 o.val = integralF32 rm x * 2 ^ 149 ∧ o.val.msb = a.msb ∧
      (o.flags = if unitsF32 o.val = x then 0 else flNX)) ∧
    (∀ r, 0 ≤ x → (rm = .rtz ∨ rm = .rdn) → r = unitsF32 (laneEval (.fsqrt rm) a b c d k).val →
      0 ≤ r ∧ r * r ≤ x * 2 ^ 149 ∧ ∀ w, finiteF32 w = true → unitsF32 w * unitsF32 w ≤ x * 2 ^ 149 → unitsF32 w ≤ r) ∧
    (∀ o, o = laneEval (.rnd .f32 .rdn) a b c d k →
      unitsF32 o.val = x / 2 ^ 149 * 2 ^ 149 ∧ (o.flags = if unitsF32 o.val = x then 0 else flNX)) ∧
    (∀ o, o = laneEval (.rnd .f32 .rup) a b c d k →
      unitsF32 o.val = -(-x / 2 ^ 149 * 2 ^ 149) ∧ (o.flags = if unitsF32 o.val = x then 0 else flNX))) ∧
  (∀ (a b c d : Word) (k : Nat) (rm : RM),
    ResultF32 rm (a.toInt * 2 ^ 149) 1 (laneEval (.cvt (.f32i32 rm)) a b c d k) ∧
    ResultF32 rm (a.toNat * 2 ^ 149) 1 (laneEval (.cvt (.f32u32 rm)) a b c d k) ∧
    (∀ p : Int, finiteF32 c = true → p = qgImage (bitsAt a.toNat (4 * (k % 8)) 4) * (b.toNat % 256 : Nat) * unitsF32 c →
      ResultF32 rm p 7905 (laneEval (.qgdec false rm) a b c d k)))

/-- R68, R70, R71, R131 to R133, R135 to R137: results without a rounding in FP32: NaN sources, infinities and zeros; the lesser and the
greater; the packed 16-bit formats as two elements; the class word; and the special functions at their exact points. -/
def Obligations.FloatingSpecialValues : Prop :=
  (∀ (a b c d : Word) (k : Nat) (rm : RM),
    let sig := (if signalF32 a || signalF32 b then flNV else 0)
    (nanF32 a = true ∨ nanF32 b = true →
      laneEval (.fadd .f32 rm) a b c d k = ⟨0x7FC00000, sig⟩ ∧ laneEval (.fsub .f32 rm) a b c d k = ⟨0x7FC00000, sig⟩ ∧
      laneEval (.fmul .f32 rm) a b c d k = ⟨0x7FC00000, sig⟩ ∧ laneEval (.fdiv rm) a b c d k = ⟨0x7FC00000, sig⟩ ∧
      laneEval (.fmin .f32 true) a b c d k = ⟨0x7FC00000, sig⟩ ∧ laneEval (.fmax .f32 true) a b c d k = ⟨0x7FC00000, sig⟩) ∧
    (nanF32 a = true → nanF32 b = false →
      laneEval (.fmin .f32 false) a b c d k = ⟨b, sig⟩ ∧ laneEval (.fmax .f32 false) a b c d k = ⟨b, sig⟩) ∧
    (nanF32 a = false → nanF32 b = true →
      laneEval (.fmin .f32 false) a b c d k = ⟨a, sig⟩ ∧ laneEval (.fmax .f32 false) a b c d k = ⟨a, sig⟩) ∧
    (finiteF32 a = true → finiteF32 b = true → ∀ n : Bool,
      laneEval (.fmin .f32 n) a b c d k = ⟨if unitsF32 a < unitsF32 b ∨ (unitsF32 a = unitsF32 b ∧ a.msb = true) then a else b, 0⟩ ∧
      laneEval (.fmax .f32 n) a b c d k = ⟨if unitsF32 b < unitsF32 a ∨ (unitsF32 a = unitsF32 b ∧ a.msb = false) then a else b, 0⟩) ∧
    laneEval (.fadd .f32 rm) 0x7F800000 0xFF800000 c d k = ⟨0x7FC00000, flNV⟩ ∧
    laneEval (.fmul .f32 rm) 0x7F800000 0x80000000 c d k = ⟨0x7FC00000, flNV⟩ ∧
    laneEval (.fdiv rm) 0x80000000 0 c d k = ⟨0x7FC00000, flNV⟩ ∧
    (finiteF32 a = true → unitsF32 a ≠ 0 → laneEval (.fdiv rm) a 0 c d k = ⟨if a.msb then 0xFF800000 else 0x7F800000, flDZ⟩) ∧
    (finiteF32 a = true → unitsF32 a < 0 → laneEval (.fsqrt rm) a b c d k = ⟨0x7FC00000, flNV⟩)) ∧
  (∀ (a b c d : Word) (k : Nat) (f : FFmt) (g : Fmt) (rm : RM), (f = .f16x2 ∧ g = fp16) ∨ (f = .bf16x2 ∧ g = bf16) →
    (∀ lo hi, lo = fAdd g rm (g.decode (a.toNat % 65536)) (g.decode (b.toNat % 65536)) →
      hi = fAdd g rm (g.decode (a.toNat / 65536)) (g.decode (b.toNat / 65536)) →
      laneEval (.fadd f rm) a b c d k = ⟨BitVec.ofNat 32 (lo.1 + 65536 * hi.1), lo.2 ||| hi.2⟩) ∧
    (∀ lo hi, lo = fMul g rm (g.decode (a.toNat % 65536)) (g.decode (b.toNat % 65536)) →
      hi = fMul g rm (g.decode (a.toNat / 65536)) (g.decode (b.toNat / 65536)) →
      laneEval (.fmul f rm) a b c d k = ⟨BitVec.ofNat 32 (lo.1 + 65536 * hi.1), lo.2 ||| hi.2⟩)) ∧
  (∀ (a b c d : Word) (k : Nat), laneEval (.cls .f32) a b c d k = ⟨
    if nanF32 a then (if signalF32 a then 0x100 else 0x200)
    else if finiteF32 a then
      (if unitsF32 a = 0 then (if a.msb then 0x008 else 0x010)
       else if (unitsF32 a).natAbs < 2 ^ 23 then (if a.msb then 0x004 else 0x020) else (if a.msb then 0x002 else 0x040))
    else (if a.msb then 0x001 else 0x080), 0⟩) ∧
  (∀ (b c d : Word) (k : Nat),
    laneEval (.sf .rcp) 0 b c d k = ⟨0x7F800000, flDZ⟩ ∧ laneEval (.sf .rcp) 0x40000000 b c d k = ⟨0x3F000000, 0⟩ ∧
    laneEval (.sf .rsqrt) 0x40800000 b c d k = ⟨0x3F000000, 0⟩ ∧ laneEval (.sf .rsqrt) 0xBF800000 b c d k = ⟨0x7FC00000, flNV⟩ ∧
    laneEval (.sf .exp2) 0x40400000 b c d k = ⟨0x41000000, 0⟩ ∧ laneEval (.sf .log2) 0x41000000 b c d k = ⟨0x40400000, 0⟩ ∧
    laneEval (.sf .log2) 0 b c d k = ⟨0xFF800000, flDZ⟩ ∧ laneEval (.sf .sinpi) 0x3F000000 b c d k = ⟨0x3F800000, 0⟩ ∧
    laneEval (.sf .cospi) 0x3F800000 b c d k = ⟨0xBF800000, 0⟩ ∧ laneEval (.sf .tanh) 0xFF800000 b c d k = ⟨0xBF800000, 0⟩ ∧
    laneEval (.sf .sigmoid) 0 b c d k = ⟨0x3F000000, 0⟩)

/-- R79 to R86: conversions: those that lose nothing; to an integer with saturation; packing and unpacking; QG4 indexes and block codes.
Values of FP32 are counted in units of 2^-149. -/
def Obligations.ConversionLaneValues : Prop :=
  ∀ (a b c d : Word) (k : Nat),
    (a.toNat % 32768 < 31744 →
      unitsF32 (laneEval (.cvt .f32f16) a b c d k).val =
        (if a.getLsbD 15 then -1 else 1) * (if a.toNat / 1024 % 32 = 0 then ((a.toNat % 1024 : Nat) : Int)
          else ((1024 + a.toNat % 1024) * 2 ^ (a.toNat / 1024 % 32 - 1) : Nat)) * 2 ^ 125 ∧
      (laneEval (.cvt .f32f16) a b c d k).flags = 0) ∧
    (nanF32 (a <<< 16) = false → laneEval (.cvt .f32bf16) a b c d k = ⟨a <<< 16, 0⟩) ∧
    (a.toNat % 128 ≠ 127 → unitsF32 (laneEval (.cvt8 .f32e4m3) a b c d k).val =
      (if a.getLsbD 7 then -1 else 1) * (if a.toNat / 8 % 16 = 0 then ((a.toNat % 8 : Nat) : Int)
        else ((8 + a.toNat % 8) * 2 ^ (a.toNat / 8 % 16 - 1) : Nat)) * 2 ^ 140) ∧
    (∀ (f : CvtsatForm) (rm : RM) (lo hi n : Int),
      (f = .i32f32 rm ∧ lo = -2147483648 ∧ hi = 2147483647) ∨ (f = .u32f32 rm ∧ lo = 0 ∧ hi = 4294967295) ∨
      (f = .i16f32 rm ∧ lo = -32768 ∧ hi = 32767) ∨ (f = .u16f32 rm ∧ lo = 0 ∧ hi = 65535) ∨
      (f = .i8f32 rm ∧ lo = -128 ∧ hi = 127) ∨ (f = .u8f32 rm ∧ lo = 0 ∧ hi = 255) → n = integralF32 rm (unitsF32 a) →
      (nanF32 a = true → laneEval (.cvtsat f) a b c d k = ⟨0, flNV⟩) ∧
      (nanF32 a = false → finiteF32 a = false → laneEval (.cvtsat f) a b c d k = ⟨BitVec.ofInt 32 (if a.msb then lo else hi), flNV⟩) ∧
      (finiteF32 a = true → laneEval (.cvtsat f) a b c d k =
        (if n < lo then ⟨BitVec.ofInt 32 lo, flNV⟩ else if hi < n then ⟨BitVec.ofInt 32 hi, flNV⟩
         else ⟨BitVec.ofInt 32 n, if unitsF32 a = n * 2 ^ 149 then 0 else flNX⟩))) ∧
    (∀ rm : RM,
      (finiteF32 a = true →
        smallF16.Narrows false rm (unitsF32 a) (laneEval (.cvt (.f16f32 rm)) a b c d k) ∧
        smallBF16.Narrows false rm (unitsF32 a) (laneEval (.cvt (.bf16f32 rm)) a b c d k) ∧
        ∀ sat, smallE4M3.Narrows sat rm (unitsF32 a) (laneEval (.cvt8 (.e4m3f32 sat rm)) a b c d k) ∧
          smallE5M2.Narrows sat rm (unitsF32 a) (laneEval (.cvt8 (.e5m2f32 sat rm)) a b c d k)) ∧
      (finiteF32 (a <<< 16) = true →
        smallF16.Narrows false rm (unitsF32 (a <<< 16)) (laneEval (.cvt (.f16bf16 rm)) a b c d k)) ∧
      (smallF16.finite (a.toNat % 65536) →
        smallBF16.Narrows false rm (smallF16.units (a.toNat % 65536)) (laneEval (.cvt (.bf16f16 rm)) a b c d k)) ∧
      (∀ lo hi, lo = laneEval (.cvt (.f16f32 rm)) a b c d k → hi = laneEval (.cvt (.f16f32 rm)) b a c d k →
        laneEval (.pack (.f16x2 rm)) a b c d k = ⟨lo.val ||| (hi.val <<< 16), lo.flags ||| hi.flags⟩) ∧
      (∀ lo hi, lo = laneEval (.cvt (.bf16f32 rm)) a b c d k → hi = laneEval (.cvt (.bf16f32 rm)) b a c d k →
        laneEval (.pack (.bf16x2 rm)) a b c d k = ⟨lo.val ||| (hi.val <<< 16), lo.flags ||| hi.flags⟩)) ∧
    (∀ lo hi : Int, lo = max (-32768) (min a.toInt 32767) → hi = max (-32768) (min b.toInt 32767) →
      laneEval (.pack .i16x2sat) a b c d k = ⟨(BitVec.ofInt 32 lo &&& 0xFFFF) ||| (BitVec.ofInt 32 hi <<< 16),
        if lo = a.toInt ∧ hi = b.toInt then 0 else flNV⟩) ∧
    laneEval (.unpack .f32f16) a b c d k = laneEval (.cvt .f32f16) (a >>> (16 * (k % 2))) b c d k ∧
    laneEval (.unpack .f32bf16) a b c d k = laneEval (.cvt .f32bf16) (a >>> (16 * (k % 2))) b c d k ∧
    (a.toNat % 128 ≤ 0x7B → unitsF32 (laneEval (.cvt8 .f32e5m2) a b c d k).val = smallE5M2.units (a.toNat % 256)) ∧
    laneEval (.cvtsat .i8i32) a b c d k =
      ⟨BitVec.ofInt 32 (max (-128) (min a.toInt 127)), if -128 ≤ a.toInt ∧ a.toInt ≤ 127 then 0 else flNV⟩ ∧
    laneEval (.cvtsat .u8u32) a b c d k = ⟨BitVec.ofNat 32 (min a.toNat 255), if a.toNat ≤ 255 then 0 else flNV⟩ ∧
    laneEval (.pack .h16) a b c d k = ⟨(a &&& 0xFFFF) ||| (b <<< 16), 0⟩ ∧
    laneEval (.unpack .u16) a b c d k = ⟨(a >>> (16 * (k % 2))) &&& 0xFFFF, 0⟩ ∧
    laneEval (.unpack .i8) a b c d k = ⟨((a >>> (8 * (k % 4))).setWidth 8).signExtend 32, 0⟩ ∧
    (∀ i, (laneEval (.pack .ins8) a b c d k).val.getLsbD i =
      (if 8 * (k % 4) ≤ i ∧ i < 8 * (k % 4) + 8 then a.getLsbD (i - 8 * (k % 4)) else d.getLsbD i)) ∧
    (finiteF32 a = true → finiteF32 c = true → 0 < unitsF32 c → b.toNat % 256 ≠ 0 →
      ∀ i num den, i = bitsAt (laneEval (.qgenc false) a b c d k).val.toNat (4 * (k % 8)) 4 → num = unitsF32 a * 7905 →
        den = ((b.toNat % 256 : Nat) : Int) * unitsF32 c →
        (∀ j, j < 16 → (num - qgImage i * den).natAbs ≤ (num - qgImage j * den).natAbs) ∧
        (∀ j, j < 16 → (num - qgImage j * den).natAbs = (num - qgImage i * den).natAbs → j ≠ i → i % 2 = 0) ∧
        (laneEval (.qgenc false) a b c d k).flags = (if num = qgImage i * den then 0 else flNX)) ∧
    (∀ i, (i < 4 * (k % 8) ∨ 4 * (k % 8) + 4 ≤ i) →
      (laneEval (.qgenc false) a b c d k).val.getLsbD i = d.getLsbD i) ∧
    (finiteF32 a = true → finiteF32 b = true → 0 < unitsF32 b →
      ∀ n : Nat, (2 * n - 1 : Int) * unitsF32 b ≤ 510 * (unitsF32 a).natAbs → 510 * (unitsF32 a).natAbs < (2 * n + 1 : Int) * unitsF32 b →
        (laneEval .qgscl a b c d k).val = (if n ≤ 255 then BitVec.ofNat 32 n else 255) ∧
        ((laneEval .qgscl a b c d k).flags = if 255 < n then flOF
          else if (n : Int) * unitsF32 b = 255 * (unitsF32 a).natAbs then 0 else flNX))

/-- R71, R121, R124: a packed form applies its operation to each 16-bit half and carries nothing between them. R44, R46: the halves of a P word read every source before either writes. -/
def Obligations.PairedAndPackedHalves : Prop :=
  (∀ (a b c d lo hi r : Word) (k : Nat) (op : LaneOp) (f : Half → Half → Half),
      ((op = .add ⟨false, false, true⟩ ∧ f = fun (x y : Half) => x + y) ∨ (op = .sub ⟨false, false, true⟩ ∧ f = fun (x y : Half) => x - y) ∨
       (op = .mul true ∧ f = fun (x y : Half) => x * y) ∨ (op = .shl true ∧ f = fun (x y : Half) => x <<< (y.toNat % 16)) ∨
       (op = .shr true true ∧ f = fun (x y : Half) => x >>> (y.toNat % 16)) ∨
       (op = .min true true ∧ f = fun (x y : Half) => if x.toNat ≤ y.toNat then x else y) ∨
       (op = .max true true ∧ f = fun (x y : Half) => if x.toNat ≤ y.toNat then y else x)) →
      lo = (f (a.setWidth 16) (b.setWidth 16)).setWidth 32 → hi = (f ((a >>> 16).setWidth 16) ((b >>> 16).setWidth 16)).setWidth 32 →
      r = lo ||| (hi <<< 16) → laneEval op a b c d k = ⟨r, 0⟩) ∧
  (∀ (s : State) (g : Group) (h0 h1 : PHalf),
      let op0 := ShortOp.laneOp h0.op
      let op1 := ShortOp.laneOp h1.op
      let f0 : VOps := ⟨false, .v h0.d, h0.a, h0.b, .v 0, ⟨0, none⟩⟩
      let f1 : VOps := ⟨false, .v h1.d, h1.a, h1.b, .v 0, ⟨0, none⟩⟩
      s.Ready g (.pWord h0 h1) → (s.ctx (s.ctxOf s.cur)).debugged = false → g.half1 = false →
      g.SoundIn (laneReads op0 f0 ++ laneReads op1 f1) →
      ∃ m h, g.LaneWrites m h0.d.toNat (fun L => s.laneResult s.cur g op0 f0 L) ∧
        m.LaneWrites h h1.d.toNat (fun L => s.laneResult s.cur g op1 f1 L) ∧
        s.Retires (.pWord h0 h1) h (g.pc + 8))

/-- R125, R126, R134, R139: comparisons write a triple with 0 in every lane that does not take part; VSEL selects by a triple;
VFLAG reads, clears, sets and moves the flags of the participating lanes. -/
def Obligations.VectorComparesSelectsAndFlags : Prop :=
  ∀ (s : State) (g : Group) (d a b c : Operand) (x : Ext) (l : Lit) (u : Bool) (m : BitVec 96) (va vb : Nat → Int),
    (∀ L, va L = if u then ((s.laneSrc s.cur g .int x a L).toNat : Int) else (s.laneSrc s.cur g .int x a L).toInt) →
    (∀ L, vb L = if u then ((s.laneSrc s.cur g .int x b L).toNat : Int) else (s.laneSrc s.cur g .int x b L).toInt) →
    let cmp (k : VCond) (p : Nat → Bool) : Prop :=
      s.Ready g (.vcmp k u d a b x) → (∀ L, m.getLsbD L = (decide (L < 96) && g.part L && p L)) →
      s.Retires (.vcmp k u d a b x) (g.wt (regNo d) m) (g.nextPc x.lit)
    (g.SoundIn (vReg? a ++ vReg? b) →
      cmp .eq (fun L => decide (va L = vb L)) ∧ cmp .ne (fun L => decide (va L ≠ vb L)) ∧
      cmp .lt (fun L => decide (va L < vb L)) ∧ cmp .le (fun L => decide (va L ≤ vb L)) ∧
      cmp .gt (fun L => decide (vb L < va L)) ∧ cmp .ge (fun L => decide (vb L ≤ va L)) ∧
      (s.Ready g (.vsel d a b c x) → s.LaneResults (.vsel d a b c x) g (regNo d) (fun L =>
        ⟨s.laneSrc s.cur g .int x (if (g.rt (regNo c)).getLsbD L then a else b) L, 0⟩) x.lit) ∧
      (∀ (k : FCond) (fa fb : Nat → Word), (∀ L, fa L = s.laneSrc s.cur g (.flt fp32) x a L) →
        (∀ L, fb L = s.laneSrc s.cur g (.flt fp32) x b L) → s.Ready g (.vfcmp k d a b x) →
        (∀ L, m.getLsbD L = (decide (L < 96) && g.part L && comparesF32 k (fa L) (fb L))) →
        ∃ h : Group, s.Retires (.vfcmp k d a b x) (h.wt (regNo d) m) (g.nextPc x.lit) ∧ h = { g with vflags := h.vflags } ∧
          ∀ L, h.rf L = if L < 96 ∧ g.part L = true then g.rf L ||| (if comparesNV k (fa L) (fb L) then flNV else 0) else g.rf L)) ∧
    (∀ sel : Flags,
      let any (m : BitVec 96) : Prop := ∀ L, m.getLsbD L = (decide (L < 96) && g.part L && decide (g.rf L &&& sel ≠ 0))
      let flags (h : Group) (p : Nat → Flags) : Prop := h = { g with vflags := h.vflags } ∧
        ∀ L, h.rf L = if L < 96 ∧ g.part L = true then p L else g.rf L
      (any m → s.Ready g (.vflag (.read d sel) l) → s.Retires (.vflag (.read d sel) l) (g.wt (regNo d) m) (g.nextPc l)) ∧
      (any m → s.Ready g (.vflag (.readclr d sel) l) → ∃ h, flags h (fun L => g.rf L &&& ~~~sel) ∧
        s.Retires (.vflag (.readclr d sel) l) (h.wt (regNo d) m) (g.nextPc l)) ∧
      (s.Ready g (.vflag (.clr sel) l) → ∃ h, flags h (fun L => g.rf L &&& ~~~sel) ∧
        s.Retires (.vflag (.clr sel) l) h (g.nextPc l)) ∧
      (s.Ready g (.vflag (.set sel) l) → ∃ h, flags h (fun L => g.rf L ||| sel) ∧
        s.Retires (.vflag (.set sel) l) h (g.nextPc l)) ∧
      (s.Ready g (.vflag (.get d) l) → s.LaneResults (.vflag (.get d) l) g (regNo d) (fun L => ⟨(g.rf L).setWidth 32, 0⟩) l) ∧
      (g.SoundIn (vReg? a) → s.Ready g (.vflag (.put a) l) →
        ∃ h, flags h (fun L => (s.laneSrc s.cur g .int ⟨0, l⟩ a L).setWidth 7) ∧
          s.Retires (.vflag (.put a) l) h (g.nextPc l)))

/-- R144, R145: SHFL and BCAST deliver the element of a source lane as it stood before; a dead source gives 0 and NV, and a
source of SHFL out of range the lane's own element. -/
def Obligations.ShufflesAndBroadcasts : Prop :=
  ∀ (s : State) (g : Group) (d a b : Operand) (x : Ext), g.vBad = [] →
    let el (L : Nat) : Word := s.laneSrc s.cur g .int x a L
    let shuffle (m : ShflMode) (from_ : Nat → Nat → Int) : Prop :=
      s.Ready g (.shfl m d a b x) → s.LaneResults (.shfl m d a b x) g (regNo d) (fun L =>
        let src := from_ L ((s.laneSrc s.cur g .int x b L).toNat % 128)
        if src < 0 ∨ 95 < src then ⟨el L, 0⟩ else if g.dead.getLsbD src.toNat then ⟨0, flNV⟩ else ⟨el src.toNat, 0⟩) x.lit
    let broadcast (k : BcastSrc) (src : Nat) : Prop :=
      s.Ready g (.bcast k d a x) → s.LaneResults (.bcast k d a x) g (regNo d) (fun _ =>
        if 95 < src ∨ g.dead.getLsbD src = true then ⟨0, flNV⟩ else ⟨el src, 0⟩) x.lit
    shuffle .idx (fun _ n => n) ∧ shuffle .up (fun L n => (L : Int) - n) ∧ shuffle .down (fun L n => (L : Int) + n) ∧
    shuffle .xor (fun L n => ((L ^^^ n : Nat) : Int)) ∧ shuffle .rot (fun L n => (((L + n) % 96 : Nat) : Int)) ∧
    broadcast (.lane b) ((s.uni32 s.cur g x b).toNat % 128) ∧
    (∀ L, L < 96 → g.part L = true → (∀ j, j < L → g.part j = false) → broadcast .first L) ∧
    (∀ L, L < 96 → g.part L = true → (∀ j, L < j → j < 96 → g.part j = false) → broadcast .last L) ∧
    (s.Ready g (.bcastS d a b x) → s.Retires (.bcastS d a b x)
      (g.ws (regNo d) (if 95 < (s.uni32 s.cur g x b).toNat % 128 ∨ g.dead.getLsbD ((s.uni32 s.cur g x b).toNat % 128) = true
        then 0 else el ((s.uni32 s.cur g x b).toNat % 128))) (g.nextPc x.lit))

/-- R146 to R149: reductions and prefix combinations over the participating lanes in ascending order; the floating sum of RED is
that of the fixed tree of 128 leaves, with −0 for a lane that takes no part; that of SCAN is added in lane order, each addition as VFADD's. -/
def Obligations.ReductionsAndScans : Prop :=
  ∀ (s : State) (g : Group) (d a : Operand) (x : Ext) (P : List Nat), g.vBad = [] →
    P = (List.range 96).filter (fun L => g.part L) →
    let el (L : Nat) : Word := s.laneSrc s.cur g .int x a L
    let fel (L : Nat) : Word := s.laneSrc s.cur g (.flt fp32) x a L
    let reduces (op : RedOp) (r : Word) : Prop :=
      (s.Ready g (.red op false d a x) → s.Retires (.red op false d a x) (g.ws (regNo d) r) (g.nextPc x.lit)) ∧
      (s.Ready g (.red op true d a x) → s.LaneResults (.red op true d a x) g (regNo d) (fun _ => ⟨r, 0⟩) x.lit)
    reduces (.scan .add) ((P.map el).foldl (· + ·) 0) ∧
    reduces (.scan (.min true)) ((P.map el).foldl (fun m y => if m.toNat ≤ y.toNat then m else y) 0xFFFFFFFF) ∧
    reduces (.scan (.max false)) ((P.map el).foldl (fun m y => if m.toInt ≤ y.toInt then y else m) 0x80000000) ∧
    reduces (.scan (.min false)) ((P.map el).foldl (fun m y => if m.toInt ≤ y.toInt then m else y) 0x7FFFFFFF) ∧
    reduces (.scan (.max true)) ((P.map el).foldl (fun m y => if m.toNat ≤ y.toNat then y else m) 0) ∧
    (∀ (op : RedOp) (r : Word) (N : List Word), N = (P.map fel).filter (fun y => !nanF32 y) →
      (op = .fmin ∧ (if P = [] then r = 0x7F800000 else if N = [] then r = 0x7FC00000 else r ∈ N ∧ ∀ y ∈ N, ¬ belowF32 y r)) ∨
      (op = .fmax ∧ (if P = [] then r = 0xFF800000 else if N = [] then r = 0x7FC00000 else r ∈ N ∧ ∀ y ∈ N, ¬ belowF32 r y)) ∨
      (op = .amax ∧ (if P = [] then r = 0 else if N = [] then r = 0x7FC00000 else
        ∃ z ∈ N, r = z &&& 0x7FFFFFFF ∧ ∀ y ∈ N, unitsF32 (y &&& 0x7FFFFFFF) ≤ unitsF32 r)) →
      let nv : Flags := if ∃ y ∈ P.map fel, signalF32 y = true then flNV else 0
      (s.Ready g (.red op false d a x) → ∃ h : Group, s.Retires (.red op false d a x) (h.ws (regNo d) r) (g.nextPc x.lit) ∧
        h = { g with vflags := h.vflags } ∧ ∀ L, h.rf L = if L < 96 ∧ g.part L = true then g.rf L ||| nv else g.rf L) ∧
      (s.Ready g (.red op true d a x) → s.LaneResults (.red op true d a x) g (regNo d) (fun _ => ⟨r, nv⟩) x.lit)) ∧
    reduces (.scan .and) ((P.map el).foldl (· &&& ·) 0xFFFFFFFF) ∧
    reduces (.scan .or) ((P.map el).foldl (· ||| ·) 0) ∧
    reduces (.scan .xor) ((P.map el).foldl (· ^^^ ·) 0) ∧
    (∀ rm, s.Ready g (.red (.scan (.fadd rm)) false d a x) → ∃ h : Group,
      s.Retires (.red (.scan (.fadd rm)) false d a x)
        (h.ws (regNo d) (treeNode rm (fun L => if L < 96 ∧ g.part L = true then fel L else 0x80000000) 7 0)) (g.nextPc x.lit) ∧
      h = { g with vflags := h.vflags } ∧ ∀ L, ¬ (L < 96 ∧ g.part L = true) → h.rf L = g.rf L) ∧
    (∀ rm, s.Ready g (.red (.scan (.fadd rm)) true d a x) → ∃ fl : Flags,
      s.LaneResults (.red (.scan (.fadd rm)) true d a x) g (regNo d) (fun _ =>
        ⟨treeNode rm (fun L => if L < 96 ∧ g.part L = true then fel L else 0x80000000) 7 0, fl⟩) x.lit) ∧
    (∀ (op : ScanOp) (excl : Bool) (f : Word → Word → Word) (one : Word),
      (op = .add ∧ f = (fun m y => m + y) ∧ one = 0) ∨
      (op = .min false ∧ f = (fun m y => if m.toInt ≤ y.toInt then m else y) ∧ one = 0x7FFFFFFF) ∨
      (op = .min true ∧ f = (fun m y => if m.toNat ≤ y.toNat then m else y) ∧ one = 0xFFFFFFFF) ∨
      (op = .max false ∧ f = (fun m y => if m.toInt ≤ y.toInt then y else m) ∧ one = 0x80000000) ∨
      (op = .max true ∧ f = (fun m y => if m.toNat ≤ y.toNat then y else m) ∧ one = 0) ∨
      (op = .and ∧ f = (fun m y => m &&& y) ∧ one = 0xFFFFFFFF) ∨ (op = .or ∧ f = (fun m y => m ||| y) ∧ one = 0) ∨
      (op = .xor ∧ f = (fun m y => m ^^^ y) ∧ one = 0) → s.Ready g (.scan op excl d a x) →
      s.LaneResults (.scan op excl d a x) g (regNo d) (fun L =>
        ⟨((P.filter (fun j => if excl then decide (j < L) else decide (j ≤ L))).map el).foldl f one, 0⟩) x.lit) ∧
    (∀ (rm : RM) (excl : Bool) (acc : Nat → Word),
      (∀ L, acc L = ((P.filter (fun j => decide (j < L))).map fel).foldl
        (fun m y => (laneEval (.fadd .f32 rm) m y 0 0 0).val) 0x80000000) → s.Ready g (.scan (.fadd rm) excl d a x) →
      s.LaneResults (.scan (.fadd rm) excl d a x) g (regNo d) (fun L =>
        let o := laneEval (.fadd .f32 rm) (acc L) (fel L) 0 0 0
        ⟨if excl then acc L else o.val, o.flags⟩) x.lit)

/-- R150 to R153: votes, packing under a selection, the lane map and lane status. -/
def Obligations.VotesCompactionAndLaneStatus : Prop :=
  ∀ (s : State) (g : Group) (d a b c : Operand) (x : Ext) (l : Lit) (P Q : List Nat), g.vBad = [] →
    Q = (List.range 96).filter (fun L => g.part L) → P = Q.filter (fun L => (g.rt (regNo c)).getLsbD L) →
    let el (L : Nat) : Word := s.laneSrc s.cur g .int x a L
    let n (i : Instr) (v : Nat) : Prop := s.Ready g i → s.Retires i (g.ws (regNo d) (BitVec.ofNat 32 v)) (g.nextPc x.lit)
    let st (i : Instr) (v : Nat) : Prop := s.Ready g i → s.Retires i (g.ws (regNo d) (BitVec.ofNat 32 v)) (g.nextPc l)
    n (.vote .any d a x) (if ∃ L ∈ Q, el L ≠ 0 then 1 else 0) ∧
    n (.vote .all d a x) (if ∀ L ∈ Q, el L ≠ 0 then 1 else 0) ∧
    n (.vote .popc d a x) (Q.countP (fun L => el L ≠ 0)) ∧
    n (.vote .uni d a x) (if ∀ L ∈ Q, ∀ j ∈ Q, el L = el j then 1 else 0) ∧
    (∀ m : BitVec 96, (∀ L, m.getLsbD L = (decide (L ∈ Q) && decide (el L ≠ 0))) → s.Ready g (.vote .ballot d a x) →
      s.Retires (.vote .ballot d a x) (g.wt (regNo d) m) (g.nextPc x.lit)) ∧
    (s.Ready g (.compact false d a c x) → s.LaneResults (.compact false d a c x) g (regNo d) (fun L =>
      ⟨match P[Q.idxOf L]? with
        | some j => el j
        | none => 0, 0⟩) x.lit) ∧
    (s.Ready g (.compact true d a c x) → s.LaneResults (.compact true d a c x) g (regNo d) (fun L =>
      ⟨if L ∈ P then el (Q.getD (P.idxOf L) 0) else g.rv (regNo d) L, 0⟩) x.lit) ∧
    (s.Ready g (.lmap .beat d x) →
      s.LaneResults (.lmap .beat d x) g (regNo d) (fun L => ⟨BitVec.ofNat 32 (L / s.goodOf g), 0⟩) x.lit) ∧
    (s.Ready g (.lmap .phys d x) → s.LaneResults (.lmap .phys d x) g (regNo d) (fun L =>
      ⟨BitVec.ofNat 32 ((goodLanes (s.laneWord g.core g.dp)).getD (L % s.goodOf g) 0), 0⟩) x.lit) ∧
    (∀ L, L < 96 → L / s.goodOf g = (s.uni32 s.cur g x a).toNat →
      (goodLanes (s.laneWord g.core g.dp)).getD (L % s.goodOf g) 0 = (s.uni32 s.cur g x b).toNat →
      0 < s.goodOf g → n (.lmap (.lane a b) d x) L) ∧
    (s.Ready g (.lnstat .live d l) → s.Retires (.lnstat .live d l) (g.wt (regNo d) (~~~g.dead)) (g.nextPc l)) ∧
    st (.lnstat .nlive d l) ((List.range 96).countP (fun L => g.live L)) ∧
    st (.lnstat .nbeats d l) ((List.range (s.beats g)).countP (fun b => Q.any (fun L => L / s.goodOf g == b))) ∧
    st (.lnstat .good d l) ((List.range 32).countP (fun p => (s.laneWord g.core g.dp).getLsbD p)) ∧
    st (.lnstat .peak d l) (if s.beats g = 0 then 0 else 96 / s.beats g)

/-- R48 to R51: a sweep whose segments stay aligned and inside the allocation, and a word with SCR as a sweep of one iteration, run
their iterations in order. No byte of memory changes, and no byte of a scratchpad outside the elements of D's segment. R48, R50, R51: one iteration of a sweep, where nothing is marked uncorrectable: every lane reads its sources, from a segment the
word at the segment's offset plus 4 L, before any lane writes; D's segment receives the results of the participating lanes and no
other byte. -/
def Obligations.SweepsRunTheirIterations : Prop :=
  (∀ (s : State) (g : Group) (i : Instr) (w : SweepPrefix) (op : LaneOp) (f : VOps),
      (i = .sweep w op f ∨ (Instr.lane? i = some (op, f) ∧ f.scr = true ∧ w = ⟨1, 0, 0, 0, 0⟩)) →
      s.Ready g i → (s.ctx (s.ctxOf s.cur)).debugged = false →
      (∀ x ∈ s.segments g w op f, ∀ n, n < w.count.toNat →
        (x.1 + (n : Int) * x.2) % 4 = 0 ∧ 0 ≤ x.1 + (n : Int) * x.2 ∧ x.1 + (n : Int) * x.2 + 384 ≤ (s.team s.cur).scratch) →
      Answers (exec i s) (fun t => ∃ u h h',
        (u, h) = (List.range w.count.toNat).foldl (fun r n => r.1.sweepIter s.cur g r.2 w op f n) (s, g) ∧
        h' = { h with haltPending := none } ∧ u.OnlyGroup t (h'.issued (g.pc + (if i = .sweep w op f then 16 else
          if f.x.lit.isSome then 16 else 8)) u.cycle) ∧
        (∀ a, t.rawByte a = s.rawByte a) ∧
        (∀ a, (∀ r, f.d = .s r → ∀ n, n < w.count.toNat → ∀ L, L < 96 → g.part L = true →
            ¬ (s.segKey s.cur g f.d w.sd n L ≤ a ∧ a < s.segKey s.cur g f.d w.sd n L + 4)) →
          t.spadByte a = s.spadByte a))) ∧
  (∀ (s u : State) (k : Nat) (g0 g h : Group) (w : SweepPrefix) (op : LaneOp) (f : VOps) (n : Nat) (out : Nat → LaneOut),
      (u, h) = s.sweepIter k g0 g w op f n → g.vBad = [] → s.spadBad = [] →
      (∀ L, out L = laneEval op (s.sweepSrc k g0 g (LaneOp.kinds op).1 f.x f.a w.sa n L)
        (s.sweepSrc k g0 g (LaneOp.kinds op).2.1 f.x f.b w.sb n L) (s.sweepSrc k g0 g (LaneOp.kinds op).2.2 f.x f.c w.sc n L)
        (match f.d with
          | .s _ => s.sweepSrc k g0 g .int f.x f.d w.sd n L
          | _ => g.rv (regNo f.d) L) f.x.imm.toNat) →
      (∀ r, f.d = .v r → g.LaneWrites h r.toNat out ∧ u = s) ∧
      (∀ (r : BitVec 7) (off : Int), f.d = .s r → off = ((g0.rs r.toNat).toNat : Int) + n * w.sd.toInt → 0 ≤ off →
        (∀ L, L < 96 → g.part L = true → u.getSpad (s.lKey k (off.toNat + 4 * L)) 4 = leBytes 4 (out L).val.toNat) ∧
        (∀ a, (∀ L, L < 96 → g.part L = true → ¬ (s.lKey k (off.toNat + 4 * L) ≤ a ∧ a < s.lKey k (off.toNat + 4 * L) + 4)) →
          u.spadByte a = s.spadByte a) ∧
        h = { g with vflags := h.vflags } ∧
        ∀ L, h.rf L = if L < 96 ∧ g.part L = true then g.rf L ||| (out L).flags else g.rf L))

/-! ### Loads, stores and waiting for them -/

/-- R207 to R213: an access whose elements pass the checks, and which no rule of order holds, counts one up in its arrival counter
and goes into flight; no memory changes yet. One without an element completes at once. R205, R206, R210, R341: the checks of an access of `n` bytes an element, in their order; the lowest lane that fails the first
failing check is the one recorded; the ADDR it names for an L offset outside the allocation is the model's reading (log 26). A core's memory
port that is full holds an access at issue (R235); when one is full is a free choice (log 43). -/
def Obligations.AccessesAreCheckedAndIssued : Prop :=
  (∀ (s : State) (g : Group) (i : Instr) (f : MemF) (vec load : Bool) (els : List (Nat × Int)),
      s.IsAccess g i f vec load els → s.Ready g i → g.vBad = [] → (s.ctx (s.ctxOf s.cur)).debugged = false →
      (els = [] → s.Retires i g (g.nextPc f.l)) ∧
      (els ≠ [] →
        (∀ x, s.accessFault s.cur g f.space (Size.bytes f.size) (Size.bytes f.size) els = some x →
          exec i s = .next (s.systemFault s.cur g x)) ∧
        (s.accessFault s.cur g f.space (Size.bytes f.size) (Size.bytes f.size) els = none →
          s.accessHold s.cur g f.space (f.sem = .release) f.scope els = none →
          (s.portFull f.space = true → exec i s = .next (s.wait s.cur g)) ∧
          (s.portFull f.space = false → (load = true ∨ f.space ≠ .g ∨ s.bufferFull s.cur g els = false) → s.RetiresInto (s.withOp (s.flight g f vec load els)) i
            { g.wa f.n.toNat (g.ra f.n.toNat + 1) with
              haltPending := none
              waitOps := if s.accessAcq s.cur f.space (f.sem = .acquire) els then s.nextId :: g.waitOps else g.waitOps }
            (g.nextPc f.l))))) ∧
  (∀ (s : State) (k : Nat) (g : Group) (sp : Space) (n : Nat) (els : List (Nat × Int)) (e : Nat × Int) (pre post : List (Nat × Int)),
      0 < n → els = pre ++ e :: post →
      let core (a : Int) : Nat := a.toNat / 524288 % 512
      let formOk (a : Int) : Prop := 0x01F0000000000000 ≤ a ∧ a < 0x01F0000000000000 + 2 ^ 28 ∧ core a < 448 ∧
        a.toNat % 524288 < 393216
      let inL (a : Int) : Prop := 0 ≤ a ∧ a + n ≤ (s.team k).scratch
      let member (a : Int) : Prop := ∃ m, m < s.gangSize k ∧ (s.teamAt (gangOf k * 16 + m)).core = core a
      let owns (a : Int) : Prop := core a ≠ g.core ∨
        ((s.team k).base ≤ a.toNat % 524288 ∧ a.toNat % 524288 + n ≤ (s.team k).base + (s.team k).scratch)
      let first (cause detail : Nat) (bad : Int → Prop) : Prop := bad e.2 → (∀ x ∈ pre, ¬ bad x.2) →
        s.accessFault k g sp n n els =
          some { cause := cause, detail := detail, lane := e.1, addr := s.faultAddr k sp e.2, pc := g.pc }
      let all (p : Int → Prop) : Prop := ∀ x ∈ els, p x.2
      first 6 0 (fun a => a % n ≠ 0) ∧
      (all (fun a => a % n = 0) →
        (sp = .g → first 8 0 (fun a => 2 ^ 57 ≤ a) ∧ (all (fun a => a < 2 ^ 57) → s.accessFault k g sp n n els = none)) ∧
        (sp = .l → first 8 1 (fun a => ¬ inL a) ∧ (all inL → s.accessFault k g sp n n els = none)) ∧
        (sp = .s → first 8 0 (fun a => ¬ formOk a) ∧
          (all formOk → first 9 0 (fun a => ¬ member a) ∧
            (all member → first 8 0 (fun a => ¬ owns a) ∧ (all owns → s.accessFault k g sp n n els = none))))))

/-- R220, R221: WAIT ends once its counter is at most k and WAIT.ALL once every counter is 0; ACTR reads the counters. A WAIT that
does not end leaves the registers as they are, and one that ends after it has waited adds to `$waitcyc` the cycles from its issue to the
first one in which its condition held, in which the next word may issue (`Group.Wakes` says what the completion does). R299, R300: what each FENCE waits for, and what it leaves in force. -/
def Obligations.WaitsAndFences : Prop :=
  (∀ (s : State) (g : Group) (n : BitVec 4) (k : BitVec 8) (d : Operand) (l : Lit),
      let waits (i : Instr) (test : Option Nat × Nat) (holds : Prop) : Prop := s.Ready g i →
        (holds → g.waitFrom = none → s.Retires i g (g.nextPc l)) ∧
        (∀ c, holds → g.waitFrom = some c →
          s.Retires i { g with waitcyc := (g.waitcyc + (g.waitMet.getD s.cycle - c)) % 2 ^ 64 } (g.nextPc l)) ∧
        (¬ holds → g.waitFrom = none →
          exec i s = .next ((s.markIssue g).wait s.cur { g with
            waitFrom := some s.cycle, waitTest := some test, waitNext := g.nextPc l, waitMet := none, lastIssue := s.cycle
            urgent := false })) ∧
        (∀ c, ¬ holds → g.waitFrom = some c → exec i s = .next (s.wait s.cur g))
      waits (.wait n k l) (some n.toNat, k.toNat) (g.ra n.toNat ≤ k.toNat) ∧
      waits (.waitAll l) (none, 0) (∀ j, j < 16 → g.ra j = 0) ∧
      (s.Ready g (.actrRead d n l) →
        s.Retires (.actrRead d n l) (g.ws (regNo d) (BitVec.ofNat 32 (g.ra n.toNat))) (g.nextPc l)) ∧
      (∀ m : Word, (∀ j, m.getLsbD j = (decide (j < 16) && decide (g.ra j ≠ 0))) → s.Ready g (.actrMask d l) →
        s.Retires (.actrMask d l) (g.ws (regNo d) m) (g.nextPc l))) ∧
  (∀ (s : State) (g : Group) (scope : Scope) (l : Lit),
      let held : Group := { g with fenceRel := some (s.mkRel s.cur g scope) }
      let waits (i : Instr) : Prop := ∃ g', g'.place = g.place ∧ g'.pc = g.pc ∧ exec i s = .next (s.wait s.cur g')
      (s.Ready g (.fence .acq scope l) → s.readsPending s.cur = false → s.Retires (.fence .acq scope l) g (g.nextPc l)) ∧
      (s.Ready g (.fence .acq scope l) → s.readsPending s.cur = true → waits (.fence .acq scope l)) ∧
      (s.Ready g (.fence .rel scope l) → s.Retires (.fence .rel scope l) held (g.nextPc l)) ∧
      (s.Ready g (.fence .ar scope l) → s.readsPending s.cur = false → s.Retires (.fence .ar scope l) held (g.nextPc l)) ∧
      (s.Ready g (.fence .all scope l) → s.releaseWait s.cur g scope true = none → s.Retires (.fence .all scope l) g (g.nextPc l)) ∧
      (s.Ready g (.fence .all scope l) → s.outstanding s.cur = true → g.rel = none → waits (.fence .all scope l)) ∧
      (s.Ready g (.fence .all scope l) → s.outstanding s.cur = false → Scope.narrow scope = true → g.rel = none →
        s.Retires (.fence .all scope l) g (g.nextPc l)))

/-- R222 to R224: PREF makes the checks of a one-byte load and changes nothing; ZFILL puts lines of zeros in flight; GWIN gives the
S address of a byte of a member's allocation, or all ones. -/
def Obligations.PrefetchZfillAndGangWindow : Prop :=
  ∀ (s : State) (g : Group) (d a b : Operand) (l : Lit) (scale : Bool) (hint : Hint) (disp : BitVec 10) (sem : Sem)
    (scope : Scope) (n : BitVec 4) (sp : Space),
    (∀ (perLane : Bool) (els : List (Nat × Int)), g.vBad = [] →
      els = (if perLane then g.lanes.map (fun L =>
          (L, ((s.uni64 s.cur g ⟨0, l⟩ a).toNat + (s.laneSrc s.cur g .int ⟨0, l⟩ b L).toInt * (if scale then 64 else 1) +
            disp.toInt) % 2 ^ 64))
        else [(127, ((s.uni64 s.cur g ⟨0, l⟩ a).toNat + (s.uni32 s.cur g ⟨0, l⟩ b).toInt * (if scale then 64 else 1) +
          disp.toInt) % 2 ^ 64)]) →
      s.Ready g (.pref perLane a b scale hint disp l) → (∀ e ∈ els, e.2 < 2 ^ 57) → s.portFull .g = false →
      s.Retires (.pref perLane a b scale hint disp l) g (g.nextPc l)) ∧
    (∀ (m : Nat) (addr : Int) (els : List (Nat × Int)), s.Ready g (.zfill sp a b sem scope hint n disp l) →
      (s.uni32 s.cur g ⟨0, l⟩ b).toNat = 64 * m → addr = addrIn sp (s.baseIn g sp l a) disp.toInt →
      els = (List.range m).map (fun j => (127, addrIn sp addr (64 * (j : Int)))) →
      (m = 0 → s.Retires (.zfill sp a b sem scope hint n disp l) g (g.nextPc l)) ∧
      (0 < m → m ≤ 1024 → addr % 64 = 0 → (s.ctx (s.ctxOf s.cur)).debugged = false →
        s.accessFault s.cur g sp 64 64 els = none → s.accessHold s.cur g sp (sem = .release) scope els = none →
        s.portFull sp = false → (sp ≠ .g ∨ s.bufferFull s.cur g els = false) →
        s.RetiresInto (s.withOp
          { group := s.cur, ctx := s.ctxOf s.cur, core := g.core, kind := .store, space := sp, scope := scope, size := .u8,
            vec := false, reg := 0, counter := n.toNat, pc := g.pc,
            elems := els.map (fun e =>
              { lane := 127, addr := s.faultAddr s.cur sp e.2, n := 64, data := List.replicate 64 0 }) })
          (.zfill sp a b sem scope hint n disp l)
          { g.wa n.toNat (g.ra n.toNat + 1) with
            haltPending := none
            waitOps := if s.accessAcq s.cur sp false els then s.nextId :: g.waitOps else g.waitOps } (g.nextPc l))) ∧
    (s.Ready g (.gwin d a b l) →
      let m := (s.uni32 s.cur g ⟨0, l⟩ a).toNat
      let off := (s.uni32 s.cur g ⟨0, l⟩ b).toNat
      (m < s.gangSize s.cur → off < (s.team s.cur).scratch → m < 16 → s.Retires (.gwin d a b l)
        (g.wp (regNo d) (BitVec.ofNat 64 (0x01F0000000000000 + (s.teamAt (gangOf s.cur * 16 + m)).core * 2 ^ 19 +
          (s.teamAt (gangOf s.cur * 16 + m)).base + off))) (g.nextPc l)) ∧
      (s.gangSize s.cur ≤ m ∨ (s.team s.cur).scratch ≤ off →
        s.Retires (.gwin d a b l) (g.wp (regNo d) (BitVec.allOnes 64)) (g.nextPc l)))

/-! ### Operations in flight -/

/-- R204, R209, R213, R214: a load reads its bytes, in G space through the store buffer of its core, and then delivers each word of
them to its register; with the last one it has arrived. R209: what a register word of a load holds: the bytes in little-endian order, extended as SIZE states. -/
def Obligations.LoadsReadAndDeliver : Prop :=
  (∀ (s : State) (id : Nat) (o : Op) (e : Elem), o.kind = .load →
      (s.Performs id o e false → e.todo ≠ [] → o.space ≠ .g → exec (.loadComplete id) s = .next { s with
        ops := s.ops.insert id { o with elems := [{ e with
          performed := true, got := (List.range e.n).map (fun i => s.spadByte (e.place + i))
          bad := s.spadMarked e.place e.n }] } }) ∧
      (∀ key p, s.Performs id o e false → e.todo ≠ [] → o.space = .g → s.elemReach o e = .ok (key, p) →
        destOf key = .memory → s.Serving key →
        exec (.loadComplete id) s = .next { s.noteLeaf o.core o.ctx e.addr.toNat p with
          ops := s.ops.insert id { o with elems := [{ e with
            performed := true, got := (List.range e.n).map (fun i => s.coreByte o.core p.owner (key + i))
            bad := (List.range e.n).any (fun i => s.physBad.contains (key + i) && (s.bufByte o.core (key + i)).isNone) }] } }) ∧
      (∀ w g, s.ops.find? id = some o → o.elems = [e] → o.abandoned = false → e.performed = true → e.bad = false → e.todo = [w] →
        s.group? o.group = some g → g.Counts o.counter →
        Answers (exec (.loadComplete id) s) (fun t => s.SameMemory t ∧ s.Arrived t id o
          (if o.vec then (if g.live e.lane then g.wv (o.reg + e.off + w) e.lane (loadWord o.size e.got w) else g)
           else g.ws (o.reg + e.off + w) (loadWord o.size e.got w))))) ∧
  (∀ (b0 b1 b2 b3 b4 b5 b6 b7 : Byte),
      loadWord .u8 [b0] 0 = b0.setWidth 32 ∧ loadWord .i8 [b0] 0 = b0.signExtend 32 ∧
      loadWord .u16 [b0, b1] 0 = (b1 ++ b0).setWidth 32 ∧ loadWord .i16 [b0, b1] 0 = (b1 ++ b0).signExtend 32 ∧
      loadWord .w [b0, b1, b2, b3] 0 = b3 ++ (b2 ++ (b1 ++ b0)) ∧
      loadWord .dw [b0, b1, b2, b3, b4, b5, b6, b7] 0 = b3 ++ (b2 ++ (b1 ++ b0)) ∧
      loadWord .dw [b0, b1, b2, b3, b4, b5, b6, b7] 1 = b7 ++ (b6 ++ (b5 ++ b4)))

/-- R204, R213, R215, R226, R288: a store of scratchpad writes exactly its bytes; a store of memory on an SO page writes them to their
home, and any other to its core's store buffer, where the core reads them: at a narrow scope it has completed then, at a wide one when its
entry goes home, which writes exactly the entry's bytes. The owner of the lines is taken to be the page's. -/
def Obligations.StoresWriteTheirBytes : Prop :=
  ∀ (s : State) (id : Nat) (o : Op) (e : Elem) (g : Group), e.data.length = e.n → s.group? o.group = some g → g.Counts o.counter →
    (o.kind = .store → e.todo = [] → o.space ≠ .g →
      (s.Performs id o e false → Answers (exec (.storeComplete id) s) (fun t =>
        Written s.spadByte t.spadByte e.place e.data ∧ t.phys = s.phys ∧ s.Arrived t id o g)) ∧
      (∀ m, s.Performs id o e true → s.memberOn o.group (sCore e.addr.toNat) = some m →
        (s.teamAt m).holds (sOff e.addr.toNat) e.n = true → Answers (exec (.remoteSAccess id) s) (fun t =>
          Written s.spadByte t.spadByte e.place e.data ∧ t.phys = s.phys ∧ s.Arrived t id o g))) ∧
    (∀ key p, o.kind = .store → e.todo = [] → o.space = .g → s.Performs id o e false →
      s.elemReach o e = .ok (key, p) → destOf key = .memory → s.stackLost key = false →
      (p.kind = 1 → s.Serving key → (s.core o.core).storeBuf.find? (fun l => l.line = key / 64) = none →
        (∀ i, i < e.n → s.lineKey.getD ((key + i) / 64) 0 = p.owner ∧ destOf (key + i) = .memory) →
        Answers (exec (.storeComplete id) s) (fun t =>
          Written s.rawByte t.rawByte key e.data ∧ t.spad = s.spad ∧ s.Arrived t id o g)) ∧
      (p.kind ≠ 1 → s.bufferRoom o.core (key / 64) = true → key % 64 + e.n ≤ 64 →
        Answers (exec (.storeComplete id) s) (fun t =>
          (∀ i, i < e.n → t.coreByte o.core p.owner (key + i) = e.data.getD i 0) ∧ s.SameMemory t ∧
          (o.atEntry p.kind = true → s.Arrived t id o g) ∧
          (o.atEntry p.kind = false → t.ops.find? id = some { o with elems := [{ e with entered := some key }] } ∧
            t.groups = s.groups)))) ∧
    (∀ core line l, s.Serving (line * 64) →
      (s.core core).storeBuf.find? (fun x => x.line = line) = some l → SMap.Sorted l.bytes → (∀ b ∈ l.bytes, b.1 < 64) →
      s.lineKey.getD line 0 = l.owner → (∀ i, i < 64 → destOf (line * 64 + i) = .memory) →
      Answers (exec (.storeBufferWriteback core line) s) (fun t =>
        (∀ i, i < 64 → t.rawByte (line * 64 + i) = (l.bytes.find? i).getD (s.rawByte (line * 64 + i))) ∧
        (∀ a, a / 64 ≠ line → t.rawByte a = s.rawByte a) ∧ t.spad = s.spad ∧
        (t.core core).storeBuf = (s.core core).storeBuf.filter (fun x => x.id ≠ l.id) ∧
        ((∀ x ∈ l.ops, s.ops.find? x = none) → t.groups = s.groups) ∧
        (∀ key, l.ops = [id] → s.ops.find? id = some o → o.elems = [e] → e.entered = some key → key / 64 = line →
          (l.bytes.find? (key % 64)).isSome = true → e.todo = [] → o.abandoned = false → s.Arrived t id o g)))

/-! ### Synchronisation -/

/-- R263 to R266: ATOM, once its elements pass the checks and the translations and nothing holds it, commits and goes into flight with the
leaves that its translations found. R265 to R267: an element of ATOM is updated at its unit in one step; a form that returns a value takes the old one. -/
def Obligations.AtomicsUpdateTheirElement : Prop :=
  (∀ (s : State) (g : Group) (f : AtomF) (n : Nat) (els : List (Nat × Int)), s.Ready g (.atom f) → g.vBad = [] →
      (s.ctx (s.ctxOf s.cur)).debugged = false → n = (if f.w64 then 8 else 4) →
      (let base := s.baseIn g f.space f.l f.a
       els = (if f.scalar then [(127, addrIn f.space base ((s.uni32 s.cur g ⟨0, f.l⟩ f.b).toInt * n))]
         else g.lanes.map (fun L => (L, addrIn f.space base ((s.laneSrc s.cur g .int ⟨0, f.l⟩ f.b L).toInt * n))))) →
      s.accessFaultWith s.cur g true f.space n n els = none → s.outstanding s.cur = false →
      s.accessHold s.cur g f.space (f.ord = .rel || f.ord = .ar) f.scope els = none →
      s.atomTranslate s.cur g f.space els = none → s.portFull f.space = false →
      (els = [] → s.Commits s (.atom f) g (g.nextPc f.l)) ∧
      (els ≠ [] → s.Commits (s.withOp
          { group := s.cur, ctx := s.ctxOf s.cur, core := g.core, kind := .atomic f.op f.ret, space := f.space, scope := f.scope,
            size := if f.w64 then .dw else .w, vec := !f.scalar, reg := regNo f.d, counter := f.n.toNat, pc := g.pc,
            elems := els.flatMap (fun e => (pieces n n e.1 (s.faultAddr s.cur f.space e.2) f.ret false
              (s.atomData s.cur g f e.1) (g.atomCmp f e.1)).map (fun x => { x with leaf := s.atomLeaf s.cur g f.space e.2 })) }) (.atom f)
        { g.wa f.n.toNat (g.ra f.n.toNat + 1) with
          haltPending := none
          waitOps := if s.accessAcq s.cur f.space (f.ord = .acq || f.ord = .ar) els then s.nextId :: g.waitOps else g.waitOps }
        (g.nextPc f.l))) ∧
  (∀ (s : State) (id : Nat) (o : Op) (e : Elem) (g : Group) (op : AtomOp) (ret : Bool) (old c d v : Nat) (bs : List Byte),
      s.Performs id o e false → o.kind = .atomic op ret → (e.n = 4 ∨ e.n = 8) → s.group? o.group = some g →
      g.Counts o.counter →
      c = leNat e.data → d = leNat e.cmp → c < 2 ^ (8 * e.n) → (ret = true → e.todo ≠ []) →
      ((op = .add ∧ v = (old + c) % 2 ^ (8 * e.n)) ∨ (op = .minu ∧ v = min old c) ∨ (op = .maxu ∧ v = max old c) ∨
        (op = .min ∧ v = if (BitVec.ofNat (8 * e.n) old).toInt ≤ (BitVec.ofNat (8 * e.n) c).toInt then old else c) ∨
        (op = .max ∧ v = if (BitVec.ofNat (8 * e.n) old).toInt ≤ (BitVec.ofNat (8 * e.n) c).toInt then c else old) ∨
        (op = .and ∧ v = old &&& c) ∨ (op = .or ∧ v = old ||| c) ∨ (op = .xor ∧ v = old ^^^ c) ∨ (op = .xchg ∧ v = c) ∨
        (op = .cas ∧ v = if old = d then c else old) ∨ (op = .incw ∧ v = if c ≤ old then 0 else old + 1) ∨
        (op = .fadd ∧ e.n = 4 ∧ v = (fAdd fp32 .rne (fp32.decode old) (fp32.decode c)).1)) →
      (o.space ≠ .g → bs = s.getSpad e.place e.n → old = leNat bs →
        s.spadMarked e.place e.n = false →
        Answers (exec (.atomicPerform id) s) (fun t =>
          Written s.spadByte t.spadByte e.place (leBytes e.n v) ∧ t.phys = s.phys ∧
          (ret = true → t.ops.find? id = some { o with elems := [{ e with performed := true, got := bs, bad := false }] }) ∧
          (ret = false → s.Arrived t id o g))) ∧
      (∀ key p, o.space = .g → s.elemReach o e = .ok (key, p) → destOf key = .memory → s.Serving key → (s.core o.core).storeBuf.find? (fun l => l.line = key / 64) = none →
        (∀ i, i < e.n → s.lineKey.getD ((key + i) / 64) 0 = p.owner ∧ destOf (key + i) = .memory ∧
          s.physBad.contains (key + i) = false) → bs = (List.range e.n).map (fun i => s.rawByte (key + i)) → old = leNat bs →
        Answers (exec (.atomicPerform id) s) (fun t =>
          Written s.rawByte t.rawByte key (leBytes e.n v) ∧ t.spad = s.spad ∧
          (ret = true → t.ops.find? id = some { o with elems := [{ e with performed := true, got := bs, bad := false }] }) ∧
          (ret = false → s.Arrived t id o g))))

/-- R271 to R275: BAR on a barrier whose waiters of the last phase have all been released. An arrival counts up, and the last one
ends the phase; WAIT goes on where the phase differs from its parity, and else the group waits at the barrier. -/
def Obligations.BarrierInstructions : Prop :=
  ∀ (s : State) (g : Group) (bar : BarRef) (a d : Operand) (q : BitVec 3) (l : Lit) (i : Nat) (b : Bar),
    i = bar.idx.toNat → b = s.bar s.cur bar.gang i →
    (∀ n, s.Ready g (.barInit bar a l) → n = (s.uni32 s.cur g ⟨0, l⟩ a).toNat → 1 ≤ n → n ≤ 4096 →
      s.Commits ((s.setBar s.cur bar.gang i { expect := n }).releaseWaiters s.cur bar.gang i false).flushDeferred
        (.barInit bar a l) g (g.nextPc l)) ∧
    (∀ n, s.Ready g (.barInit bar a l) → n = (s.uni32 s.cur g ⟨0, l⟩ a).toNat → (n = 0 ∨ 4096 < n) →
      exec (.barInit bar a l) s = .next (s.systemFault s.cur g { cause := 8, pc := g.pc })) ∧
    (b.wpend = [] → (bar.gang = true → s.releaseWait s.cur g .gang = none) →
      let arrives (i' : Instr) (who : List Nat) : Prop := s.Ready g i' →
        (b.count + 1 ≠ b.expect →
          s.Commits (s.setBar s.cur bar.gang i { b with count := b.count + 1, wcur := who }) i' (g.ws (regNo d) 1) (g.nextPc l)) ∧
        (b.count + 1 = b.expect →
          s.Commits ((s.setBar s.cur bar.gang i { b with count := 0, phase := !b.phase, wpend := who, wcur := [] }).releaseWaiters
            s.cur bar.gang i (!b.phase)) i' (g.ws (regNo d) 1) (g.nextPc l))
      arrives (.barArrive d bar l) (if s.cur ∈ b.wcur then b.wcur else b.wcur ++ [s.cur]) ∧
      arrives (.barArriveNw d bar l) b.wcur ∧
      ((s.team s.cur).deferred.length < 32 → s.boundCopies s.cur q.toNat = [] → arrives (.barArriveDefer d bar q l) b.wcur)) ∧
    (b.wpend ≠ [] → (bar.gang = true → s.releaseWait s.cur g .gang = none) →
      (s.Ready g (.barArrive d bar l) → s.Commits s (.barArrive d bar l) (g.ws (regNo d) 0) (g.nextPc l)) ∧
      (s.Ready g (.barArriveNw d bar l) → s.Commits s (.barArriveNw d bar l) (g.ws (regNo d) 0) (g.nextPc l))) ∧
    (∀ p, p = (s.uni32 s.cur g ⟨0, l⟩ a).getLsbD 0 → s.Ready g (.barWait bar a l) →
      (b.phase ≠ p → s.RetiresInto (s.setBar s.cur bar.gang i { b with wpend := b.wpend.filter (· ≠ s.cur) }).flushDeferred
        (.barWait bar a l) g (g.nextPc l)) ∧
      (b.phase = p → Answers (exec (.barWait bar a l) s) (fun t => s.SameMemory t ∧
        t.group? s.cur = some { g with hold := .bar bar.gang i p (g.nextPc l), released := false }))) ∧
    (s.Ready g (.barStat d bar l) → b.count < 2 ^ 13 → b.wcur.length < 2 ^ 9 → b.wpend.length < 2 ^ 9 →
      ∀ w : Word, w.extractLsb' 0 13 = BitVec.ofNat 13 b.count → w.extractLsb' 13 9 = BitVec.ofNat 9 b.wcur.length →
        w.extractLsb' 22 9 = BitVec.ofNat 9 b.wpend.length → w.getLsbD 31 = b.phase →
        s.Retires (.barStat d bar l) (g.ws (regNo d) w) (g.nextPc l)) ∧
    (s.Ready g (.barStatExp d bar l) →
      s.Retires (.barStatExp d bar l) (g.ws (regNo d) (BitVec.ofNat 32 b.expect)) (g.nextPc l))

/-- R273, R275, R311: when a phase ends, the groups that wait for it, in BAR.WAIT or with a yielded record, are released and no others;
a released waiter has observed the phase, and goes on or is queued for resumption. R274: an arrival bound to copies is held while they run, is accepted into the table, and is performed once they are complete
and the barrier's waiters have gone: whenever waiters leave, held arrivals follow until none of them can be performed. -/
def Obligations.BarriersReleaseTheirWaiters : Prop :=
  (∀ (s : State) (k : Nat) (gang : Bool) (i : Nat) (phase : Bool),
      (∀ j g, s.group? j = some g →
        let same : Prop := if gang then j / 256 = k / 256 else j / 16 = k / 16
        (∀ p next, g.hold = .bar gang i p next → p ≠ phase → same →
          (s.releaseWaiters k gang i phase).group? j = some { g with released := true }) ∧
        (g.rcd = none → (∀ p next, g.hold = .bar gang i p next → p = phase ∨ ¬ same) →
          (s.releaseWaiters k gang i phase).group? j = some g)) ∧
      (∀ g w p next, s.group? k = some g → g.place = .resident → g.hold = .bar w i p next → g.released = true →
        exec (.barrierWaiterRelease k) s = .next (((s.setBar k w i
          { s.bar k w i with wpend := (s.bar k w i).wpend.filter (· ≠ k) }).setGroup k
            { g with hold := .ready, released := false, pc := next }).flushDeferred)) ∧
      (∀ g r w p, s.group? k = some g → g.place = .yielded → g.hold = .ready → g.rcd = some r → r.wait = .bar w i p →
        g.released = true → exec (.barrierWaiterRelease k) s = .next
          (({ s.setBar k w i { s.bar k w i with wpend := (s.bar k w i).wpend.filter (· ≠ k) } with
              nextId := s.nextId + 1 }.setGroup k
            { g with released := false, place := .queued, resumeOrder := s.nextId }).flushDeferred))) ∧
  (∀ s : State, (s.heldReady = [] → s.flushDeferred = s) ∧ s.flushDeferred.physBad = s.physBad ∧ s.SameMemory s.flushDeferred ∧
      (SMap.Sorted s.teams → s.flushDeferred.heldReady = [])) ∧
  (∀ (s : State) (g : Group) (d : Operand) (bar : BarRef) (q : BitVec 3) (l : Lit) (team idx : Nat) (x : Deferred),
      (s.Ready g (.barArriveDefer d bar q l) → (s.team s.cur).deferred.length < 32 → s.boundCopies s.cur q.toNat ≠ [] →
        (bar.gang = true → s.releaseWait s.cur g .gang = none) →
        s.Commits ({ s with nextId := s.nextId + 1 }.setTeam (teamOf s.cur) { s.team s.cur with
            deferred := (s.team s.cur).deferred ++
              [({ group := s.cur, gang := bar.gang, idx := bar.idx.toNat, copies := s.boundCopies s.cur q.toNat,
                  order := none, bound := s.boundCopies s.cur q.toNat } : Deferred)] })
          (.barArriveDefer d bar q l) (g.ws (regNo d) 1) (g.nextPc l)) ∧
      ((s.teamAt team).deferred[idx]? = some x → s.deferredReady x = true → teamOf x.group = team → x.gang = false →
        let b := s.bar x.group false x.idx
        b.count + 1 ≠ b.expect → Answers (exec (.deferredArrival team idx) s) (fun t =>
          (t.teamAt team).deferred = (s.teamAt team).deferred.eraseIdx idx ∧ t.groups = s.groups ∧ s.SameMemory t ∧
          t.bar x.group false x.idx = { b with count := b.count + 1 })) ∧
      ((s.teamAt team).deferred[idx]? = some x → s.deferredReady x = false → exec (.deferredArrival team idx) s = .next s))

/-- R276 to R279: QOP. A push writes its two words at the tail with the producer phase in bit 31 of the second; a pop delivers the words at
the head; full and empty queues block PUSH and POP and turn TRYPUSH and TRYPOP away. A push on a queue in which groups wait in POP gives its
entry to the first of them in the same step, and a pop lets the first group that waits in PUSH perform its push. -/
def Obligations.QueueInstructions : Prop :=
  ∀ (s : State) (g : Group) (q : BitVec 5) (a b d : Operand) (l : Lit) (x : Queue), x = s.queue s.cur q.toNat →
    (s.Ready g (.qopStat d q l) → s.Retires (.qopStat d q l) (g.ws (regNo d) (BitVec.ofNat 32
      ((if x.pphase then 2 ^ 31 else 0) + (if x.cphase then 2 ^ 30 else 0) + (if x.defd then 2 ^ 29 else 0) +
        x.count * 2 ^ 16 + x.head * 2 ^ 8 + x.tail))) (g.nextPc l)) ∧
    (s.Ready g (.qopStatCfg d q l) → s.Retires (.qopStatCfg d q l)
      (g.ws (regNo d) (BitVec.ofNat 32 (x.size * 2 ^ 19 + x.base))) (g.nextPc l)) ∧
    (∀ base size, base = (s.uni32 s.cur g ⟨0, l⟩ a).toNat → size = (s.uni32 s.cur g ⟨0, l⟩ b).toNat → s.Ready g (.qopDef q a b l) →
      base % 8 = 0 → 1 ≤ size → size ≤ 256 → base + 8 * size ≤ (s.team s.cur).scratch → x.blocked = [] →
      Answers (exec (.qopDef q a b l) s) (fun t =>
        t.queue s.cur q.toNat = { defd := true, base := base, size := size, pphase := true, cphase := true } ∧
        Written s.spadByte t.spadByte (s.lKey s.cur base) (List.replicate (8 * size) 0) ∧ t.phys = s.phys ∧
        t.group? s.cur = some ({ g with pairPending := true }.issued (g.nextPc l) s.cycle))) ∧
    (∀ (w0 w1 : Word), w0 = s.uni32 s.cur g ⟨0, l⟩ a → w1 = s.uni32 s.cur g ⟨0, l⟩ b → x.defd = true → x.blocked = [] →
      let pushed (i : Instr) (h : Group) : Prop := s.Ready g i → x.count ≠ x.size → Answers (exec i s) (fun t =>
        t.queue s.cur q.toNat = { x with
          tail := (x.tail + 1) % x.size, count := x.count + 1
          pphase := if (x.tail + 1) % x.size = 0 then !x.pphase else x.pphase } ∧
        Written s.spadByte t.spadByte (s.lKey s.cur (x.base + 8 * x.tail))
          (leBytes 4 w0.toNat ++ leBytes 4 ((if x.pphase then 2 ^ 31 else 0) + w1.toNat % 2 ^ 31)) ∧ t.phys = s.phys ∧
        t.group? s.cur = some ({ h with pairPending := true }.issued (g.nextPc l) s.cycle))
      pushed (.qopPush q a b l) g ∧ pushed (.qopTrypush d q a b l) (g.ws (regNo d) 1) ∧
      (x.count = x.size → s.Ready g (.qopTrypush d q a b l) →
        s.Commits s (.qopTrypush d q a b l) (g.ws (regNo d) 0) (g.nextPc l)) ∧
      (x.count = x.size → s.Ready g (.qopPush q a b l) → Answers (exec (.qopPush q a b l) s) (fun t =>
        (t.queue s.cur q.toNat).blocked = [s.cur] ∧ s.SameMemory t ∧
        t.group? s.cur = some { g with hold := .push q.toNat w0 w1 (g.nextPc l) }))) ∧
    (∀ (key : Nat) (w0 w1 : Word), key = s.lKey s.cur (x.base + 8 * x.head) → x.defd = true → x.blocked = [] →
      w0 = BitVec.ofNat 32 (leNat (s.getSpad key 4)) → w1 = BitVec.ofNat 32 (leNat (s.getSpad (key + 4) 4)) →
      s.spadMarked key 8 = false →
      let popped (i : Instr) (h : Group) : Prop := s.Ready g i → x.count ≠ 0 → Answers (exec i s) (fun t =>
        t.queue s.cur q.toNat = { x with
          head := (x.head + 1) % x.size, count := x.count - 1
          cphase := if (x.head + 1) % x.size = 0 then !x.cphase else x.cphase } ∧ s.SameMemory t ∧
        t.group? s.cur = some ({ h with pairPending := true }.issued (g.nextPc l) s.cycle))
      popped (.qopPop d q l) ((g.ws (regNo d) w0).ws (regNo d + 1) w1) ∧
      popped (.qopTrypop d q l) (((g.ws (regNo d) w0).ws (regNo d + 1) w1).ws (regNo d + 2) 1) ∧
      (x.count = 0 → s.Ready g (.qopTrypop d q l) →
        s.Commits s (.qopTrypop d q l) (g.ws (regNo d + 2) 0) (g.nextPc l)) ∧
      (x.count = 0 → s.Ready g (.qopPop d q l) → Answers (exec (.qopPop d q l) s) (fun t =>
        (t.queue s.cur q.toNat).blocked = [s.cur] ∧ s.SameMemory t ∧
        t.group? s.cur = some { g with hold := .pop q.toNat (regNo d) (g.nextPc l) }))) ∧
    (∀ (who : Nat) (rest : List Nat) (h : Group) (next : DWord), x.defd = true → x.blocked = who :: rest → who ∉ rest → who ≠ s.cur →
      s.group? who = some h →
      let on (o : Nat) : Nat := (o + 1) % x.size
      let turn (b : Bool) (o : Nat) : Bool := if on o = 0 then !b else b
      let served (h' : Group) : Group := { h' with hold := .ready, pc := next, pairPending := true }
      let moved : Queue := { x with head := on x.head, tail := on x.tail, pphase := turn x.pphase x.tail,
                                    cphase := turn x.cphase x.head, blocked := rest }
      (∀ (w0 w1 : Word) (d' : Nat) (i : Instr) (g' : Group), w0 = s.uni32 s.cur g ⟨0, l⟩ a → w1 = s.uni32 s.cur g ⟨0, l⟩ b →
        h.hold = .pop q.toNat d' next → x.count = 0 → x.head = x.tail → x.size ≠ 0 →
        (i = .qopPush q a b l ∧ g' = g ∨ i = .qopTrypush d q a b l ∧ g' = g.ws (regNo d) 1) → s.Ready g i →
        let w1' : Word := BitVec.ofNat 32 ((if x.pphase then 2 ^ 31 else 0) + w1.toNat % 2 ^ 31)
        Answers (exec i s) (fun t => t.queue s.cur q.toNat = moved ∧
          t.group? who = some (served ((h.ws d' w0).ws (d' + 1) w1')) ∧
          Written s.spadByte t.spadByte (s.lKey s.cur (x.base + 8 * x.tail)) (leBytes 4 w0.toNat ++ leBytes 4 w1'.toNat) ∧
          t.phys = s.phys ∧ t.group? s.cur = some ({ g' with pairPending := true }.issued (g.nextPc l) s.cycle))) ∧
      (∀ (w0 w1 p0 p1 : Word) (key : Nat) (i : Instr) (g' : Group), key = s.lKey s.cur (x.base + 8 * x.head) →
        w0 = BitVec.ofNat 32 (leNat (s.getSpad key 4)) → w1 = BitVec.ofNat 32 (leNat (s.getSpad (key + 4) 4)) →
        s.spadMarked key 8 = false → h.hold = .push q.toNat p0 p1 next → x.count = x.size → x.size ≠ 0 →
        (i = .qopPop d q l ∧ g' = (g.ws (regNo d) w0).ws (regNo d + 1) w1 ∨
          i = .qopTrypop d q l ∧ g' = ((g.ws (regNo d) w0).ws (regNo d + 1) w1).ws (regNo d + 2) 1) → s.Ready g i →
        Answers (exec i s) (fun t => t.queue s.cur q.toNat = moved ∧ t.group? who = some (served h) ∧
          Written s.spadByte t.spadByte (s.lKey s.cur (x.base + 8 * x.tail))
            (leBytes 4 p0.toNat ++ leBytes 4 ((if x.pphase then 2 ^ 31 else 0) + p1.toNat % 2 ^ 31)) ∧
          t.phys = s.phys ∧ t.group? s.cur = some ({ g' with pairPending := true }.issued (g.nextPc l) s.cycle)))) ∧
    (x.defd = false → s.Ready g (.qopPush q a b l) →
      exec (.qopPush q a b l) s = .next (s.systemFault s.cur g { cause := 8, pc := g.pc }))

/-- R280 to R282: EVW on an event barrier bound to the group's context takes k of its count where nobody waits and the count reaches,
and else waits in order; a write at its target counts up to 65,535 and then sets OVF; the first waiter goes on once the count reaches. R283: a
waiter whose context has lost the binding meets the protection fault, and the count stands. -/
def Obligations.EventBarriers : Prop :=
  ∀ (s : State) (g : Group) (e : BitVec 8) (a d : Operand) (l : Lit) (b : EventBar) (n : Nat), b = s.event e.toNat →
    (n = (s.uni32 s.cur g ⟨0, l⟩ a).toNat → b.ctx = some (s.ctxOf s.cur) → n ≤ 65535 →
      (b.waiters = [] → n ≤ b.count → 1 ≤ n →
        (s.Ready g (.evw e a l) →
          s.Commits (s.setEvent e.toNat { b with count := b.count - n }) (.evw e a l) g (g.nextPc l)) ∧
        (s.Ready g (.evwTry d e a l) →
          s.Commits (s.setEvent e.toNat { b with count := b.count - n }) (.evwTry d e a l) (g.ws (regNo d) 1) (g.nextPc l))) ∧
      (1 ≤ n → (b.waiters ≠ [] ∨ b.count < n) →
        (s.Ready g (.evw e a l) → Answers (exec (.evw e a l) s) (fun t => s.SameMemory t ∧
          (t.event e.toNat).waiters = b.waiters ++ [(s.cur, n)] ∧
          t.group? s.cur = some { g with hold := .evw e.toNat n (g.nextPc l) })) ∧
        (s.Ready g (.evwTry d e a l) → s.Commits s (.evwTry d e a l) (g.ws (regNo d) 0) (g.nextPc l)))) ∧
    (b.ctx = some (s.ctxOf s.cur) →
      (s.Ready g (.evwStat d e l) → s.Retires (.evwStat d e l)
        (g.ws (regNo d) (BitVec.ofNat 32 ((if b.ovf then 2 ^ 16 else 0) + b.count))) (g.nextPc l)) ∧
      (s.Ready g (.evwClr d e l) → s.Commits (s.setEvent e.toNat { b with ovf := false }) (.evwClr d e l)
        (g.ws (regNo d) (BitVec.ofNat 32 ((if b.ovf then 2 ^ 16 else 0) + b.count))) (g.nextPc l))) ∧
    (b.ctx ≠ some (s.ctxOf s.cur) → s.Ready g (.evw e a l) →
      exec (.evw e a l) s = .next (s.systemFault s.cur g { cause := 8, detail := 3, pc := g.pc })) ∧
    (exec (.eventWrite e .systemCore) s = .next (s.setEvent e.toNat
      (if b.count = 65535 then { b with ovf := true } else { b with count := b.count + 1 }))) ∧
    (∀ c, b.ctx = some c → exec (.eventWrite e (.context c)) s = exec (.eventWrite e .systemCore) s) ∧
    (∀ c, b.ctx ≠ some c → s.ioLog.length < 1024 → exec (.eventWrite e (.context c)) s = .next { s with
      ioLog := s.ioLog ++ [{ addr := 0x01FFFFFFFFFF0000 + 16 * e.toNat, reason := .eventBinding }] }) ∧
    (∀ k m rest w next h, b.waiters = (k, m) :: rest → s.group? k = some h → h.place = .resident → h.hold = .evw e.toNat w next →
      (b.ctx = some (s.ctxOf k) → m ≤ b.count →
        exec (.evwWaiterRelease e) s = .next ((s.setEvent e.toNat { b with count := b.count - m, waiters := rest }).setGroup k
          { h with hold := .ready, pc := next, pairPending := true })) ∧
      (b.ctx = some (s.ctxOf k) → b.count < m → exec (.evwWaiterRelease e) s = .next s) ∧
      (b.ctx ≠ some (s.ctxOf k) → exec (.evwWaiterRelease e) s = .next
        ((s.setEvent e.toNat { b with waiters := rest }).systemFault k { h with hold := .waiting }
          { cause := 8, detail := 3, pc := h.pc })))

/-! ### Launches and doorbells -/

/-- R316, R319 to R321: LAUNCH makes a grid of the 64-byte record it reads, at no more than the priority of its own gang, and delivers
the grid's number, and waits while 65,536 grids stand; SPAWN appends the record to a work queue of its context, and waits, or with TRY
delivers 0, while that is full. The record's read waits for what a load of the group would wait for (R216, R288, R294). That an instruction
which waits keeps the record it has read is the model's reading (log 28), and so is the ADDR of an L base (log 26). -/
def Obligations.GridLaunches : Prop :=
  ∀ (s : State) (g : Group) (ls : Bool) (d a b : Operand) (l : Lit) (q : Nat) (bs : List Byte) (r : LaunchRec) (w : WorkQueue),
    let sp : Space := if ls then .l else .g
    let base := s.baseIn g sp l a
    let free : Prop := g.hasRead = true ∨ s.readHold s.cur g sp base 64 = none
    let whole (i : Instr) : Prop := s.Ready g i ∧ base % 64 = 0 ∧ s.outstanding s.cur = false ∧ free ∧
      s.readOnce s.cur g sp base 64 = .ok bs ∧ r = parseLaunch bs ∧ r.malformed = false ∧ r.dep = false
    let v : State := if g.hasRead then s else s.readSent s.cur g sp base 64
    let kept : Group := { g with recRead := some bs }
    q = (s.uni32 s.cur g ⟨0, l⟩ b).toNat → w = s.workQueues.getD q {} →
    (v.releaseWait s.cur kept .package = none →
      (whole (.launch ls d a l) →
        (s.grids.length < 65536 →
          s.Commits (v.newGrid (s.ctxOf s.cur) (min r.prio (s.gang s.cur).eprio) r .launch) (.launch ls d a l)
            (g.ws (regNo d) s.nextGrid) (g.nextPc l)) ∧
        (65536 ≤ s.grids.length → exec (.launch ls d a l) s = .next (v.wait s.cur kept))) ∧
      (q ≤ 255 → w.ctx = some (s.ctxOf s.cur) →
        let u : State := { v with
          workQueues := s.workQueues.insert q { w with recs := w.recs ++ [(s.cur / 16777216, r)] } }
        (s.wqFull q = false →
          (whole (.spawn ls a b l) → s.Commits u (.spawn ls a b l) g (g.nextPc l)) ∧
          (whole (.spawnTry ls d a b l) → s.Commits u (.spawnTry ls d a b l) (g.ws (regNo d) 1) (g.nextPc l))) ∧
        (s.wqFull q = true →
          (whole (.spawn ls a b l) → exec (.spawn ls a b l) s = .next (v.wait s.cur kept)) ∧
          (whole (.spawnTry ls d a b l) → s.Commits v (.spawnTry ls d a b l) (g.ws (regNo d) 0) (g.nextPc l))))) ∧
    ((255 < q ∨ w.ctx ≠ some (s.ctxOf s.cur)) → whole (.spawn ls a b l) →
      exec (.spawn ls a b l) s = .next (v.systemFault s.cur g { cause := 8, detail := 3, pc := g.pc })) ∧
    (∀ i, i = .launch ls d a l ∨ i = .spawn ls a b l ∨ i = .spawnTry ls d a b l → s.Ready g i →
      (base % 64 ≠ 0 → exec i s = .next (s.systemFault s.cur g { cause := 6, pc := g.pc, addr := s.faultAddr s.cur sp base })) ∧
      (∀ g', base % 64 = 0 → g.hasRead = false → s.readHold s.cur g sp base 64 = some g' → exec i s = .next (s.wait s.cur g')) ∧
      (base % 64 = 0 → free → s.readOnce s.cur g sp base 64 = .ok bs →
        ((parseLaunch bs).malformed = true ∨ (parseLaunch bs).dep = true) →
        exec i s = .next (v.systemFault s.cur g { cause := 8, detail := 2, pc := g.pc }))) ∧
    (∀ c p src, let t := s.newGrid c p r src
      t.grids.find? s.nextGrid.toNat = some { ctx := c, lr := r, prio := p, source := src, dispatched := s.cycle } ∧
      (∀ n, n ≠ s.nextGrid.toNat → t.grids.find? n = s.grids.find? n) ∧
      (s.nextGrid + 1 ≠ 0 → s.grids.find? (s.nextGrid + 1).toNat = none → t.nextGrid = s.nextGrid + 1))

/-- R371, R372, R378: DBELL puts one write to the endpoint window into the tailstock of its die, with the writes that must come first;
the tailstock sends it once they are performed and no earlier one of its group is held (R373), through a bridge window to the peer's address
(R362), and discards it where its port does not run (R359). -/
def Obligations.DoorbellsAndTailstocks : Prop :=
  ∀ (s : State) (g : Group) (w64 team : Bool) (a b : Operand) (x : Ext) (addr : DWord) (key : Nat) (p : Pte) (die : Nat),
    let n := if w64 then 8 else 4
    let v := if w64 then (s.uni64 s.cur g x b).toNat else (s.uni32 s.cur g x b).toNat
    let i : Instr := .dbell w64 team a b x
    let ready : Prop := s.Ready g i ∧ addr = s.uni64 s.cur g x a ∧ die = g.core / 112
    (ready → addr.toNat < 2 ^ 57 → addr.toNat % n = 0 → s.outstanding s.cur = false →
      s.translate g.core (s.ctxOf s.cur) addr.toNat .store = .ok (key, p) →
      (p.tier = 2 → destOf key = .endpoint →
        ((s.tails.getD die []).length < 256 →
          s.Commits ({ s with nextId := s.nextId + 1, tails := s.tails.insert die (s.tails.getD die [] ++
              [({ group := s.cur, core := g.core, target := key, data := leBytes n v, cover := s.covered s.cur g team,
                  order := s.nextId } : Tail)]) }.noteLeaf g.core
              (s.ctxOf s.cur) addr.toNat p) i g (g.nextPc x.lit)) ∧
        (256 ≤ (s.tails.getD die []).length → exec i s = .next (s.wait s.cur g))) ∧
      (p.tier ≠ 2 ∨ destOf key ≠ .endpoint →
        exec i s = .next (s.systemFault s.cur g { cause := 8, addr := addr, pc := g.pc }))) ∧
    (ready → 2 ^ 57 ≤ addr.toNat → exec i s = .next (s.systemFault s.cur g { cause := 8, addr := addr, pc := g.pc })) ∧
    (ready → addr.toNat < 2 ^ 57 → addr.toNat % n ≠ 0 →
      exec i s = .next (s.systemFault s.cur g { cause := 6, addr := addr, pc := g.pc })) ∧
    (∀ e : Tail, s.tails.getD die [] = [e] → s.tailFirst e = true →
      (s.relDone e.core e.cover = false → exec (.tailstockSend die) s = .next s) ∧
      (s.relDone e.core e.cover = true →
        let t : State := { s with tails := s.tails.erase die }
        let pa := e.target % 4503599627370496
        (s.portUp (s.portOf e.target) = true →
          ((∀ w ∈ s.bridges, ¬ (w.2.base ≤ pa ∧ pa < w.2.base + w.2.size)) → exec (.tailstockSend die) s =
            .next { t with outbox := s.outbox ++ [{ kind := .doorbell, dest := e.target, data := e.data }] }) ∧
          (∀ n w, s.bridges = [(n, w)] → w.base ≤ pa → pa < w.base + w.size → s.runsAs w.port .bridge = true →
            exec (.tailstockSend die) s = .next { t with outbox := s.outbox ++
              [{ kind := .bridgeWrite, dest := w.peer + (pa - w.base), data := e.data }] })) ∧
        (s.portUp (s.portOf e.target) = false → s.ioLog.length < 1024 → exec (.tailstockSend die) s =
          .next { t with ioLog := s.ioLog ++ [{ addr := e.target % 4503599627370496, reason := .portDown }] }))) ∧
    (∀ port, port < 16 → port ∉ s.portDown → exec (.portDown port) s = .next { s with portDown := s.portDown ++ [port] })

/-! ### The matrix engine -/

/-- R163, R164, R166, R167, R173 to R175: TDEF writes the image it reads into the tensor table and delivers a handle of a generation
that no handle of the old entry has; TFREE ends a current handle; TQRY reads a word of the entry, or whether a handle is current. A
handle that is not current takes the stale-handle trap. TFREE and TQRY wait at issue until the entry, 64 bytes of HBM read as a G load, is in
the core's table cache, which then holds it (R163, R167). Operand-cache entries of a generation that has ended are not used again. The DETAIL
0 of an index of 4096 or more is the model's reading (log 34), the ADDR of an L base too (log 26), and that an entry with bytes marked
uncorrectable faults (log 7). -/
def Obligations.TensorTableInstructions : Prop :=
  ∀ (s : State) (g : Group) (gs : Bool) (d a b : Operand) (x : Ext) (img : List Byte) (c idx gen : Nat) (h : Word),
    let sp : Space := if gs then .g else .l
    let base := s.accBase s.cur g sp x a
    let i : Instr := .tdef gs d a b x
    let v := s.readSent s.cur g sp base 64
    let old := v.entry c idx
    let u := s.useEntries g.core c [h]
    let here (j : Nat) : Prop := v.entryHeld c j = false ∧ v.stackLost ((s.ctx c).tensorTable + 64 * j) = false
    let ofGen (n : Nat) : CacheEntry → Bool := fun e => decide (e.ctx = c ∧ e.idx = idx ∧ e.gen = n)
    c = s.ctxOf s.cur → img.length = 64 →
    (idx = (s.uni32 s.cur g x b).toNat → s.Ready g i → base % 64 = 0 → s.readHold s.cur g sp base 64 = none →
      s.readAs s.cur g sp base 64 = .ok img →
      (idx < 4096 → malformedImage img = false → here idx →
        let made (n : Nat) : State := (v.setEntry c idx (img.take 60 ++ leBytes 4 (256 + n))).dropTable c idx
        (old.valid = false →
          s.Commits (made old.gen) i (g.ws (regNo d) (BitVec.ofNat 32 (old.gen * 4096 + idx))) (g.nextPc x.lit)) ∧
        (old.valid = true → gen = (old.gen + 1) % 256 → s.Commits ((made gen).dropTag (ofGen old.gen)) i
          (g.ws (regNo d) (BitVec.ofNat 32 (gen * 4096 + idx))) (g.nextPc x.lit))) ∧
      (4096 ≤ idx → exec i s = .next (v.systemFault s.cur g { cause := 8, pc := g.pc })) ∧
      (idx < 4096 → malformedImage img = true →
        exec i s = .next (v.systemFault s.cur g { cause := 8, detail := 2, pc := g.pc }))) ∧
    (∀ g', s.Ready g i → base % 64 = 0 → s.readHold s.cur g sp base 64 = some g' → exec i s = .next (s.wait s.cur g')) ∧
    (s.Ready g i → base % 64 ≠ 0 →
      exec i s = .next (s.systemFault s.cur g { cause := 6, pc := g.pc, addr := s.faultAddr s.cur sp base })) ∧
    (h = s.uni32 s.cur g x a → s.Ready g (.tfree a x) →
      (s.hasEntry g.core c h = true →
        (s.current c h = true → idx = h.toNat % 4096 → s.entryHeld c idx = false → s.stackLost ((s.ctx c).tensorTable + 64 * idx) = false → gen = h.toNat / 4096 % 256 → s.Commits
          (((u.setEntry c idx ((s.entryBytes c idx).take 60 ++ leBytes 4 ((gen + 1) % 256))).dropTable c idx).dropTag (ofGen gen))
          (.tfree a x) g (g.nextPc x.lit)) ∧
        (s.current c h = false → exec (.tfree a x) s = .next ((u.userTrap s.cur g 0x40 (h.toNat % 2 ^ 20)).tick 8))) ∧
      (s.hasEntry g.core c h = false →
        (s.entryHeld c (h.toNat % 4096) = true → exec (.tfree a x) s = .next (s.wait s.cur g)) ∧
        (s.entryHeld c (h.toNat % 4096) = false →
          (s.entryBad c (h.toNat % 4096) = false → exec (.tfree a x) s = .next (u.wait s.cur g)) ∧
          (s.entryBad c (h.toNat % 4096) = true → exec (.tfree a x) s = .next (s.loadFault s.cur g .g
            { cause := 0x0A, pc := g.pc, addr := BitVec.ofNat 64 ((s.ctx c).tensorTable + 64 * (h.toNat % 4096)) }))))) ∧
    (∀ (l : Lit) (n : BitVec 4), h = s.uni32 s.cur g ⟨0, l⟩ a → idx = h.toNat % 4096 →
      (s.hasEntry g.core c h = true →
        (s.Ready g (.tqry (.word n) d a l) → s.RetiresInto u (.tqry (.word n) d a l)
          (g.ws (regNo d) (BitVec.ofNat 32 (leNat ((s.entryBytes c idx).drop (4 * n.toNat) |>.take 4)))) (g.nextPc l)) ∧
        (s.Ready g (.tqry .cur d a l) → s.RetiresInto u (.tqry .cur d a l)
          (g.ws (regNo d) (if s.current c h then 1 else 0)) (g.nextPc l))) ∧
      (s.hasEntry g.core c h = false → s.entryHeld c idx = false → s.entryBad c idx = false →
        ∀ f, s.Ready g (.tqry f d a l) → exec (.tqry f d a l) s = .next (u.wait s.cur g))) ∧
    (u.hasEntry g.core c h = true ∧ (u.dropTable c (h.toNat % 4096)).hasEntry g.core c h = false) ∧
    (let at_ (c' j : Nat) : Nat := (s.ctx c').tensorTable + 64 * j;
      s.entryBytes c idx = s.getPhys (s.ctx c).owner (at_ c idx) 64 ∧
      ((∀ n, n < 64 → destOf (at_ c idx + n) = .memory) → (s.setEntry c idx img).entryBytes c idx = img) ∧
      (at_ c idx % 64 = 0 → ∀ c' j, at_ c' j % 64 = 0 → at_ c' j ≠ at_ c idx →
        (s.setEntry c idx img).entryBytes c' j = s.entryBytes c' j) ∧
      (∀ n k e, e ∈ ((s.dropTag (ofGen n)).core k).opCache → ofGen n e = true → e.dropped = true ∧ e.pins ≠ []))

/-- R158, R171, R176 to R182, R186: a matrix instruction whose checks pass enters the queue of its core's engine with the values its
operands have at issue; MMA, MLOAD and MSTORE wait until the entries that they name have come into the core's table cache (R167), count one
more operation under their arrival counter, and MMA is of commit class. R172, R183 to R185: MCORR, MSTAT and MSIG wait while the engine holds an instruction of the team on their tile, and then read the
tile's correction sums, its status, which MSTAT.CLR clears, and its signature. -/
def Obligations.MatrixInstructions : Prop :=
  (∀ (s : State) (g : Group) (z : Bool) (a b w : Operand) (rm : RM) (n : BitVec 4) (t : BitVec 3) (l : Lit) (f : SwfenceForm)
      (x : Ext) (ha hb win : Word) (ba bb : List Byte),
      let c := s.ctxOf s.cur
      let o (kind : EngineKind) (tile : Nat) (counter : Option Nat) : EngineOp :=
        { id := s.nextId, group := s.cur, tile := tile, kind := kind, counter := counter, pc := g.pc }
      let u (s : State) (o : EngineOp) : State :=
        { s with nextId := s.nextId + 1 }.setCore g.core { s.core g.core with engine := (s.core g.core).engine ++ [o] }
      let one := s.useEntries g.core c [ha]
      let two := s.useEntries g.core c [ha, hb]
      let counted := g.wa n.toNat (g.ra n.toNat + 1)
      let good (h : Word) : Prop := s.entryHeld c (h.toNat % 4096) = false ∧ s.entryBad c (h.toNat % 4096) = false
      let fits (rs : List (Nat × Nat)) : Prop := ∀ r ∈ rs, r.1 + r.2 ≤ (s.team s.cur).scratch
      ha = s.uni32 s.cur g ⟨0, l⟩ a → hb = s.uni32 s.cur g ⟨0, l⟩ b → win = s.uni32 s.cur g ⟨0, l⟩ w →
      ba = s.entryBytes c (ha.toNat % 4096) → bb = s.entryBytes c (hb.toNat % 4096) →
      (s.Ready g (.mma z a b w n t l) →
        let ea := parseEntry ba
        let eb := parseEntry bb
        let k0 := win.toNat / 65536
        let m := if win.toNat % 65536 ≠ 0 then win.toNat % 65536 else (max ea.kdim eb.kdim + 63) / 64 - k0
        ((∃ L, L < 96 ∧ g.live L = true ∧ g.active L = false) → exec (.mma z a b w n t l) s = .next ((s.userTrap s.cur g 0x42 0).tick 8)) ∧
        ((∀ L, L < 96 → g.live L = true → g.active L = true) →
          (s.hasEntry g.core c ha = false ∨ s.hasEntry g.core c hb = false → (s.hasEntry g.core c ha = true ∨ good ha) →
            (s.hasEntry g.core c hb = true ∨ good hb) →
            exec (.mma z a b w n t l) s = .next (two.wait s.cur g)) ∧
          (s.hasEntry g.core c ha = true → s.hasEntry g.core c hb = true →
            (s.current c ha = false → exec (.mma z a b w n t l) s = .next ((two.userTrap s.cur g 0x40 (ha.toNat % 2 ^ 20)).tick 8)) ∧
            (s.current c ha = true → s.current c hb = true → ea.space = 0 → eb.space = 0 →
              (mmaClass ea.fmt = 0 ∨ mmaClass eb.fmt = 0 → exec (.mma z a b w n t l) s =
                .next (two.systemFault s.cur g { cause := 8, detail := 2, pc := g.pc })) ∧
              (mmaClass ea.fmt ≠ 0 → mmaClass eb.fmt ≠ 0 → fits (ea.footprint k0 m) → fits (eb.footprint k0 m) →
                s.Commits (u two (o (.mma z ba bb ha hb win) t.toNat (some n.toNat))) (.mma z a b w n t l) counted (g.nextPc l)))))) ∧
      (s.Ready g (.mzero t l) → s.RetiresInto (u s (o .mzero t.toNat none)) (.mzero t l) g (g.nextPc l)) ∧
      (s.hasEntry g.core c ha = false → good ha →
        (s.Ready g (.mload a w n t l) → exec (.mload a w n t l) s = .next (one.wait s.cur g)) ∧
        (s.Ready g (.mstore rm a w n t l) → exec (.mstore rm a w n t l) s = .next (one.wait s.cur g))) ∧
      (s.hasEntry g.core c ha = true → s.current c ha = true → (parseEntry ba).tileFit = true →
        fits ((parseEntry ba).tileFootprint win) →
        (s.Ready g (.mload a w n t l) →
          s.RetiresInto (u one (o (.mload ba win) t.toNat (some n.toNat))) (.mload a w n t l) counted (g.nextPc l)) ∧
        (s.Ready g (.mstore rm a w n t l) →
          s.RetiresInto (u one (o (.mstore rm ba win) t.toNat (some n.toNat))) (.mstore rm a w n t l) counted (g.nextPc l))) ∧
      (s.Ready g (.swfence f x) → s.RetiresInto (u s (o (.swfence (match f with
          | .h a => some [(s.uni32 s.cur g x a).toNat % 4096]
          | .h2 a b => some [(s.uni32 s.cur g x a).toNat % 4096, (s.uni32 s.cur g x b).toNat % 4096]
          | .all => none)) 0 none)) (.swfence f x) g (g.nextPc x.lit))) ∧
  (∀ (s : State) (g : Group) (part1 cb clr : Bool) (d a : Operand) (t : BitVec 3) (l : Lit) (x : Tile), x = s.tile s.cur t.toNat →
      (s.tileBusy s.cur t.toNat = false →
        (s.Ready g (.mcorr part1 cb d a t l) → s.Retires (.mcorr part1 cb d a t l)
          (g.ws (regNo d) ((if cb then x.cb else x.ra).getD
            (2 * ((s.uni32 s.cur g ⟨0, l⟩ a).toNat % 64) + (if part1 then 1 else 0)) 0)) (g.nextPc l)) ∧
        (s.Ready g (.mstat false d t l) → s.Retires (.mstat false d t l) (g.ws (regNo d) x.status) (g.nextPc l)) ∧
        (s.Ready g (.mstat true d t l) → s.RetiresInto (s.setTile s.cur t.toNat { x with status := 0 }) (.mstat true d t l)
          (g.ws (regNo d) x.status) (g.nextPc l)) ∧
        (s.Ready g (.msig d t l) → s.Retires (.msig d t l) (g.ws (regNo d) x.sig) (g.nextPc l))) ∧
      (s.tileBusy s.cur t.toNat = true → ∀ i, i = .mcorr part1 cb d a t l ∨ i = .mstat clr d t l ∨ i = .msig d t l →
        s.Ready g i → exec i s = .next (s.wait s.cur g)))

/-- R158, R171, R180 to R182, R186, R293: the engine takes the instructions of its queue in order, one at a time, once the earlier accesses of
the group have been performed (R293), and an instruction's whole effect is there when its counter goes down: MZERO clears its tile, MLOAD
fills it from the window, with 0 outside the tensor, MSTORE writes the elements of the window, SWFENCE ends the operand-cache entries it
names. -/
def Obligations.EngineRunsItsQueue : Prop :=
  ∀ (s : State) (core : Nat) (o : EngineOp) (rest : List EngineOp), (s.core core).engine = o :: rest →
    (o.started = false → s.accessesBefore o = true → exec (.engineOpStart core) s = .next s) ∧
    (o.started = false → s.accessesBefore o = false → Answers (exec (.engineOpStart core) s) (fun t =>
      (∃ seed snap, (t.core core).engine = { o with started := true, seed := seed, snap := snap } :: rest) ∧
      t.groups = s.groups ∧ t.teams = s.teams ∧ t.phys = s.phys ∧
      ((∀ rm e w, o.kind ≠ .mstore rm e w) → s.SameMemory t))) ∧
    (o.started = false → exec (.engineOpComplete core) s = .next s) ∧
    (o.started = true → exec (.engineOpStart core) s = .next s) ∧
    (o.started = true → o.kind = .mzero → Answers (exec (.engineOpComplete core) s) (fun t =>
      (t.core core).engine = rest ∧ t.tile o.group o.tile = {} ∧ s.SameMemory t ∧
      ∀ k, teamOf k ≠ teamOf o.group → t.team k = s.team k)) ∧
    (∀ e w a, o.started = true → o.kind = .mload e w → (parseEntry e).tileFit = true → s.spadBad = [] →
      (∀ x, o.snap.getD x 0 = s.spadByte x) → a = (parseEntry e).base →
      let y := parseEntry e
      let l0 := w.toNat / 65536
      let k0 := w.toNat % 65536
      Answers (exec (.engineOpComplete core) s) (fun t => (t.core core).engine = rest ∧ s.SameMemory t ∧
        ∀ i j, i < 64 → j < 64 → (t.tile o.group o.tile).words.getD (64 * i + j) 0 =
          if l0 + i < y.lines ∧ k0 + j < y.kdim then
            let raw := leNat (s.getSpad (s.lKey o.group (a + (l0 + i) * y.lstride + (k0 + j) * y.size)) y.size)
            if y.fmt = 1 then BitVec.ofNat 32 (fCvt fp32 .rne (bf16.decode raw)).1
            else if y.fmt = 2 then BitVec.ofNat 32 (fCvt fp32 .rne (fp16.decode raw)).1
            else BitVec.ofNat 32 raw
          else 0)) ∧
    (∀ rm e w t, o.started = false → s.accessesBefore o = false → o.kind = .mstore rm e w → (parseEntry e).tileFit = true →
      (s.tile o.group o.tile).bad = [] → exec (.engineOpStart core) s = .next t →
      let y := parseEntry e
      let l0 := w.toNat / 65536
      let k0 := w.toNat % 65536
      let in_ (i j : Nat) : Prop := i < 64 ∧ j < 64 ∧ l0 + i < y.lines ∧ k0 + j < y.kdim
      let place (i j : Nat) : Nat := s.lKey o.group (y.base + (l0 + i) * y.lstride + (k0 + j) * y.size)
      let stored (i j : Nat) : List Byte :=
        let x := (s.tile o.group o.tile).words.getD (64 * i + j) 0
        leBytes y.size (if y.fmt = 1 then (fCvt bf16 rm (fp32.decode x.toNat)).1
          else if y.fmt = 2 then (fCvt fp16 rm (fp32.decode x.toNat)).1 else x.toNat)
      (∀ i j i' j', in_ i j → in_ i' j' → i ≠ i' ∨ j ≠ j' →
        place i j + y.size ≤ place i' j' ∨ place i' j' + y.size ≤ place i j) →
      Answers (exec (.engineOpComplete core) t) (fun u => (u.core core).engine = rest ∧ u.phys = s.phys ∧
        (∀ i j n, in_ i j → n < y.size → u.spadByte (place i j + n) = (stored i j).getD n 0) ∧
        (∀ x, (∀ i j, in_ i j → x < place i j ∨ place i j + y.size ≤ x) → u.spadByte x = s.spadByte x))) ∧
    (∀ idx, o.started = true → o.kind = .swfence idx → Answers (exec (.engineOpComplete core) s) (fun t =>
      (t.core core).engine = rest ∧ s.SameMemory t ∧ t.teams = s.teams ∧
      ∀ e ∈ (t.core core).opCache, e.ctx = s.ctxOf o.group → (idx = none ∨ ∃ l, idx = some l ∧ e.idx ∈ l) → e.dropped = true)) ∧
    (∀ n g, o.started = true → o.kind = .mzero ∨ (∃ e w, o.kind = .mload e w) → o.counter = some n → o.abandoned = false →
      s.group? o.group = some g → g.Counts n →
      Answers (exec (.engineOpComplete core) s) (fun t => ∃ h, t.group? o.group = some h ∧ h.ra n = g.ra n - 1 ∧
        ∀ m, m ≠ n → h.ra m = g.ra m))

/-- R165, R178, R161, R190 to R194, R198 to R201: an MMA drains its segments in ascending order, one at a time, and each adds to element (i, j)
of its tile the sum P of the products of the images of line i of A and line j of B, where elements outside the tensors count as 0; two I8
or I6 operands add it exactly and saturate, other formats add it as FP32 in the order of sums. Floating lines are aligned to their largest
exponent, a NaN or infinity poisons its line, and the status, the correction sums and the signature follow. Element (i, j) of MMA.Z on two
I8 tensors of one segment is the sum of the products of their bytes. -/
def Obligations.ByteMatrixProduct : Prop :=
  (∀ (fmt : Nat) (f : SmallFmt) (F : Nat) (raw : List Nat) (code : Nat),
      (fmt, f, F) ∈ [(1, smallBF16, 18), (2, smallF16, 18), (3, smallE4M3, 9), (4, smallE5M2, 9)] →
      (∀ x ∈ raw, x < 2 ^ (f.eb + f.mb + 1)) →
      ((∃ x ∈ raw, ¬ f.finite x) → lineSeg fmt raw code = { poison := true }) ∧
      (∀ es, (∀ x ∈ raw, f.finite x) → f.Top raw es → lineSeg fmt raw code =
        { q := raw.map (f.aligned F es), exp := es - ((F : Int) - 2), loss := raw.any (f.loses F es) })) ∧
  (∀ (raw : List Nat) (code : Nat),
      lineSeg 5 raw code = { q := raw.map (fun x => (BitVec.ofNat 8 x).toInt) } ∧
      lineSeg 6 raw code = { q := raw.map (fun x => (BitVec.ofNat 6 x).toInt) } ∧
      lineSeg 7 raw code = (if code = 0 then { code := 0 } else { q := raw.map (fun x =>
        ([-31, -22, -17, -13, -9, -6, -3, -1, 0, 2, 4, 7, 10, 14, 19, 31] : List Int).getD (x % 16) 0), code := code })) ∧
  (∀ (s : State) (core : Nat) (o : EngineOp) (rest : List EngineOp) (z : Bool) (ba bb : List Byte) (ha hb w : Word) (ea eb : TEntry)
      (n seg : Nat) (old : Tile),
      (s.core core).engine = o :: rest → o.started = true → o.kind = .mma z ba bb ha hb w → ea = parseEntry ba → eb = parseEntry bb →
      mmaClass ea.fmt ≠ 0 → mmaClass eb.fmt ≠ 0 → 1 ≤ ea.lines → 1 ≤ eb.lines →
      n = (if w.toNat % 65536 ≠ 0 then w.toNat % 65536 else (max ea.kdim eb.kdim + 63) / 64 - w.toNat / 65536) →
      o.run.drained < n → seg = w.toNat / 65536 + o.run.drained → old = s.tile o.group o.tile →
      handleIdx ha ≠ handleIdx hb → s.spadBad = [] → old.bad = [] → (∀ e ∈ (s.core core).opCache, e.seg ≠ seg) →
      (s.core core).upset = [] → (∀ x, o.snap.getD x 0 = s.spadByte x) →
      let a (i : Nat) : LineSeg := s.operandLine o ea seg i
      let b (j : Nat) : LineSeg := s.operandLine o eb seg j
      let p (i j : Nat) : Int := ((List.range 64).map (fun k => (a i).q.getD k 0 * (b j).q.getD k 0)).foldl (· + ·) 0
      let before (i j : Nat) : Word := if z = true ∧ o.run.drained = 0 then 0 else old.words.getD (64 * i + j) 0
      let int : Prop := (ea.fmt = 5 ∨ ea.fmt = 6) ∧ (eb.fmt = 5 ∨ eb.fmt = 6)
      let qg : Bool := ea.fmt = 7 || eb.fmt = 7
      let opens : Bool := o.run.drained = 0 || seg % 256 = 0
      let closes : Bool := seg % 256 = 255 || o.run.drained + 1 = n
      let scales (i j : Nat) : List Word := (if ea.fmt = 7 then [s.operandScale o ea seg i opens o.run.sa] else []) ++
        (if eb.fmt = 7 then [s.operandScale o eb seg j opens o.run.sb] else [])
      let low (q : Int) : Int := (q + 256) % 512 - 256
      let part (fmt m : Nat) (q : Int) : Int :=
        if fmt = 1 ∨ fmt = 2 then (if m = 0 then (q - low q) / 512 else low q) else if m = 0 then q else 0
      let squares (fmt m : Nat) (l : LineSeg) : Int := (l.q.map (fun q => part fmt m q * part fmt m q)).foldl (· + ·) 0
      Answers (exec (.engineOpComplete core) s) (fun t => ∃ run : MmaRun,
        let now := t.tile o.group o.tile
        let after (i j : Nat) : Word := now.words.getD (64 * i + j) 0
        let bit (n : Nat) : Bool := now.status.getLsbD n
        s.SameMemory t ∧ run.drained = o.run.drained + 1 ∧
        (t.core core).engine = (if run.drained < n then { o with run := run } :: rest else rest) ∧
        (∀ i m, i < 64 → m < 2 → ((now.ra.getD (2 * i + m) 0).toNat : Int) = squares ea.fmt m (a i) ∧
          ((now.cb.getD (2 * i + m) 0).toNat : Int) = squares eb.fmt m (b i)) ∧
        bit 3 = old.status.getLsbD 3 ∧ bit 4 = old.status.getLsbD 4 ∧
        (bit 0 = true ↔ old.status.getLsbD 0 = true ∨ ∃ i, i < 64 ∧ ((a i).loss = true ∨ (b i).loss = true)) ∧
        (n = 1 → now.sig = BitVec.ofNat 32 (Nat.xor ((List.range 4096).foldl (fun c ij => crcP c (p (ij / 64) (ij % 64))) 0xFFFFFFFF)
          0xFFFFFFFF)) ∧
        (int →
          let sum (i j : Nat) : Int := (before i j).toInt + p i j
          (∀ i j, i < 64 → j < 64 → (after i j).toInt = max (-2 ^ 31) (min (2 ^ 31 - 1) (sum i j))) ∧
          (bit 2 = true ↔ old.status.getLsbD 2 = true ∨ ∃ i j, i < 64 ∧ j < 64 ∧ (sum i j < -2 ^ 31 ∨ 2 ^ 31 - 1 < sum i j)) ∧
          bit 1 = old.status.getLsbD 1) ∧
        (¬ int →
          (∀ i j, i < 64 → j < 64 → nanF32 (before i j) = true → after i j = 0x7FC00000) ∧
          (∀ i j, i < 64 → j < 64 → (a i).poison = true ∨ (b j).poison = true → (qg = false ∨ closes = true) →
            after i j = 0x7FC00000) ∧
          (opens = true ∨ qg = false ∨ ∀ i j, i < 64 → j < 64 → finiteF32 (o.run.q.getD (64 * i + j) 0x80000000) = true) →
          (∀ i j, i < 64 → j < 64 → finiteF32 (before i j) = true ∧ ∀ x ∈ scales i j, finiteF32 x = true) →
            (bit 1 = true ↔ old.status.getLsbD 1 = true ∨ ∃ i, i < 64 ∧ ((a i).poison = true ∨ (b i).poison = true)) ∧
            ∃ ov : Nat → Nat → Bool,
              (bit 2 = true ↔ old.status.getLsbD 2 = true ∨ ∃ i j, i < 64 ∧ j < 64 ∧ ov i j = true) ∧
              ∀ i j, i < 64 → j < 64 →
                ((a i).poison = true ∨ (b j).poison = true → ov i j = false) ∧
                ((a i).poison = false → (b j).poison = false → FloatDrain qg opens closes (scales i j) (p i j) ((a i).code * (b j).code)
                  ((a i).exp + (b j).exp) (before i j) (o.run.q.getD (64 * i + j) 0x80000000) (after i j)
                  (run.q.getD (64 * i + j) 0x80000000) (ov i j)))))

/-! ### Copies and collectives -/

/-- R238, R240, R241, R243 to R248: a CPY or CPYT whose checks pass puts a copy into the pool of its core, which is to write each
byte of the destination with the source's byte, at every member that a GMC names, and counts it under its arrival counter unless NC; one that
touches SO pages first waits as a release at SYSTEM scope, and holds later issue (R288, R291, R300); a CPYT of QG4 tensors writes nibbles,
codes and scales; QFENCE joins queues; CSTAT reads how many copies there are. The ADDR of a misaligned copy, the DETAIL of an unfit window
and the ADDR of a copy that is too long are the model's readings (log 32). -/
def Obligations.CopiesEnterThePool : Prop :=
  ∀ (s : State) (g : Group) (f : CopyF) (dsp ssp : Space) (twoD : Bool) (len rows : Nat) (ds ss d c : Int),
    let room (so : Bool) : Prop := s.outstanding s.cur = false ∧ (s.copies.filter (fun e => e.2.core = g.core)).length < 1024 ∧
      (so = true → s.releaseWait s.cur g .system = none)
    let counted (so : Bool) : Group :=
      { (if f.nc then g else g.wa f.n.toNat (g.ra f.n.toNat + 1)) with waitOps := if so then s.nextId :: g.waitOps else g.waitOps }
    (d = s.accBase s.cur g dsp ⟨0, f.l⟩ f.a → c = s.accBase s.cur g ssp ⟨0, f.l⟩ f.b →
      (len, rows, ds, ss) = (if twoD then
          ((g.rs (regNo f.c)).toNat, (g.rs (regNo f.c + 1)).toNat, (g.rs (regNo f.c + 2)).toInt, (g.rs (regNo f.c + 3)).toInt)
        else ((s.uni32 s.cur g ⟨0, f.l⟩ f.c).toNat, 1, 0, 0)) →
      s.Ready g (.cpy dsp ssp twoD f) →
      let even : Prop := len % 4 = 0 ∧ ds % 4 = 0 ∧ ss % 4 = 0 ∧ d % 4 = 0 ∧ c % 4 = 0
      let small : Prop := if twoD then len ≤ 65536 ∧ rows ≤ 65536 else len ≤ 16777216
      let to_ (r : Nat) : Int := formAddr dsp d (r * ds)
      let of_ (r : Nat) : Int := formAddr ssp c (r * ss)
      (¬ even → exec (.cpy dsp ssp twoD f) s =
        .next (s.systemFault s.cur g { cause := 6, pc := g.pc, addr := s.faultAddr s.cur dsp d })) ∧
      (even → ¬ small →
        let out (a : Int) : FaultInfo :=
          { cause := 8, detail := 1, addr := s.faultAddr s.cur .l (max a (s.team s.cur).scratch), pc := g.pc }
        exec (.cpy dsp ssp twoD f) s = .next (s.systemFault s.cur g (if twoD = false ∧ dsp = .l then out d
          else if twoD = false ∧ ssp = .l then out c else { cause := 8, pc := g.pc }))) ∧
      (∀ so ws rs, ws = (dsp, byteAddrs dsp ((List.range rows).map (fun r => (to_ r, len)))) →
        rs = (ssp, byteAddrs ssp ((List.range rows).map (fun r => (of_ r, len)))) → so = s.onSO s.cur [ws, rs] →
        even → small → s.copyFault s.cur g ws rs = none → room so →
        ∃ ms, (∀ r, r < rows → Carries ms len (fun j => s.faultAddr s.cur dsp (to_ r) + BitVec.ofNat 64 j)
            (fun j => { src := some (s.faultAddr s.cur ssp (of_ r) + BitVec.ofNat 64 j) })) ∧
          s.Commits { s with nextId := s.nextId + 1, copies := s.copies.insert s.nextId (s.pooled g f dsp ssp ms) }
            (.cpy dsp ssp twoD f) (counted so) (g.nextPc f.l))) ∧
    (∀ (gmc : Option Operand) (hd hs : Word) (k0 l0 mask : Nat) (teams : List Nat),
      hd = s.uni32 s.cur g ⟨0, f.l⟩ f.a → hs = s.uni32 s.cur g ⟨0, f.l⟩ f.b →
      k0 = (s.uni64 s.cur g ⟨0, f.l⟩ f.c).toNat % 2 ^ 32 → l0 = (s.uni64 s.cur g ⟨0, f.l⟩ f.c).toNat / 2 ^ 32 →
      (gmc = none ∧ mask = 1 ∧ teams = [teamOf s.cur] ∨ ∃ d, gmc = some d ∧ mask = (g.rs (regNo d)).toNat ∧
        teams = ((List.range (s.gangSize s.cur)).filter (bitAt mask)).map (fun m => gangOf s.cur * 16 + m)) →
      let i : Instr := .cpyt gmc f
      s.Ready g i →
      let x := s.ctxOf s.cur
      let u := s.useEntries g.core x [hs, hd]
      let held := s.hasEntry g.core x hs && s.hasEntry g.core x hd
      let good (h : Word) : Prop := s.hasEntry g.core x h = true ∨ s.entryHeld x (handleIdx h) = false ∧ s.entryBad x (handleIdx h) = false
      let es := s.entry x (handleIdx hs)
      let ed := s.entry x (handleIdx hd)
      let sp := entrySpace es.space
      let plain := (List.range ed.lines).flatMap (fun l =>
        cpytLine (fun a => BitVec.ofNat 64 a) (fun a => [BitVec.ofNat 64 a]) es ed k0 (l0 + l) l)
      let unfit : Prop := ed.space ≠ 0 ∨ es.fmt ≠ ed.fmt ∨
        (es.fmt = 7 ∧ (k0 % 64 ≠ 0 ∨ (k0 % 16384 ≠ 0 ∧ 16384 < k0 % 16384 + ed.kdim)))
      -- a byte of the destination at a member, and a byte of the source
      let to_ (t a : Nat) : DWord := s.faultAddr (t * 16) .l ((a % 2 ^ 64 : Nat) : Int)
      let of_ (a : Nat) : DWord := s.faultAddr s.cur sp ((a % 2 ^ 64 : Nat) : Int)
      let taken (inside : Prop) [Decidable inside] (a : Nat) : MoveByte := if inside then { src := some (of_ a) } else {}
      (held = false → good hs → good hd → exec i s = .next (u.wait s.cur g)) ∧
      (held = true → s.current x hs = false → exec i s = .next ((u.userTrap s.cur g 0x40 (hs.toNat % 2 ^ 20)).tick 8)) ∧
      (held = true → s.current x hs = true → s.current x hd = false →
        exec i s = .next ((u.userTrap s.cur g 0x40 (hd.toNat % 2 ^ 20)).tick 8)) ∧
      (held = true → s.current x hs = true → s.current x hd = true →
        (unfit → exec i s = .next (u.systemFault s.cur g { cause := 8, detail := 2, pc := g.pc })) ∧
        (¬ unfit → gmc.isSome = true → (mask = 0 ∨ 2 ^ s.gangSize s.cur ≤ mask) →
          exec i s = .next (u.systemFault s.cur g { cause := 8, pc := g.pc })) ∧
        (¬ unfit → (gmc.isSome = true → mask ≠ 0 ∧ mask < 2 ^ s.gangSize s.cur) → ed.misaligned = false → es.misaligned = false →
          s.copyFault s.cur g (.l, plain.flatMap (fun m => m.left.flatMap (fun a =>
              (List.range m.bytes.length).map (fun (j : Nat) => ((a.toNat + j : Nat) : Int)))))
            (sp, readAddrs plain) = none → room (s.onSO s.cur [(sp, readAddrs plain)]) →
          ∃ ms, s.Commits { u with nextId := s.nextId + 1, copies := s.copies.insert s.nextId (s.pooled g f .l sp ms) } i
              (counted (s.onSO s.cur [(sp, readAddrs plain)])) (g.nextPc f.l) ∧
            ∀ t ∈ teams, ∀ l, l < ed.lines →
              let line := l0 + l
              let ks := if line < es.lines then es.kdim - k0 else 0
              (es.fmt ≠ 7 → Carries ms (ed.kdim * ed.size) (fun j => to_ t (ed.base + l * ed.lstride + j))
                (fun j => taken (j < ks * es.size) (es.base + line * es.lstride + k0 * es.size + j))) ∧
              (es.fmt = 7 →
                Carries ms ((ed.kdim + 63) / 64) (fun j => to_ t (ed.codeBase + l * ed.cstride + j))
                  (fun j => taken (j < (ks + 63) / 64) (es.codeBase + line * es.cstride + k0 / 64 + j)) ∧
                (∀ n, n < (ed.kdim + 16383) / 16384 →
                  let sb := (k0 + 16384 * n) / 16384
                  Carries ms 4 (fun j => to_ t (ed.scaleBase + l * ed.sstride + 4 * n + j))
                    (fun j => taken (line < es.lines ∧ 16384 * sb < es.kdim) (es.scaleBase + line * es.sstride + 4 * sb + j))) ∧
                (∀ k, k < ed.kdim →
                  let p := 8 * (k % 8) + k % 64 / 8
                  let nib (y : Byte) (p : Nat) : Nat := y.toNat / 16 ^ (p % 2) % 16
                  ∃ m ∈ ms, ∃ (n : Nat) (a : DWord) (y : MoveByte), m.bytes[n]? = some y ∧ a ∈ m.left ∧
                    a + BitVec.ofNat 64 n = to_ t (ed.base + l * ed.lstride + 32 * (k / 64) + p / 2) ∧ nib y.keep p = 0 ∧
                    (k < ks → nib y.mask p = 15 ∧ nib y.val p = 0 ∧
                      y.src = some (of_ (es.base + line * es.lstride + 32 * ((k0 + k) / 64) + p / 2))) ∧
                    (ks ≤ k → nib y.mask p = 0 ∧ nib y.val p = 8) ∧
                    (p % 2 = 0 → ed.kdim ≤ k + 8 → nib y.keep (p + 1) = 15 ∧ nib y.mask (p + 1) = 0 ∧ nib y.val (p + 1) = 0)))))) ∧
    (∀ (q : BitVec 8) (l : Lit), s.Ready g (.qfence q l) →
      (q = 0 → s.Retires (.qfence q l) g (g.nextPc l)) ∧
      (q ≠ 0 → s.RetiresInto (s.setTeam (teamOf s.cur) { s.team s.cur with
          joins := (s.team s.cur).joins.filter (fun j => j.2.any (fun i => (s.copies.find? i).isSome)) ++
            [(q.toNat, s.teamCopies (teamOf s.cur) (bitAt q.toNat))] }) (.qfence q l) g (g.nextPc l))) ∧
    (∀ (q : BitVec 3) (r : Operand) (l : Lit),
      (s.Ready g (.cstat (.infl q) r l) → s.Retires (.cstat (.infl q) r l) (g.ws (regNo r) (BitVec.ofNat 32
        (s.copies.filter (fun e => e.2.team = teamOf s.cur ∧ e.2.queue = q.toNat)).length)) (g.nextPc l)) ∧
      (s.Ready g (.cstat .pool r l) → s.Retires (.cstat .pool r l) (g.ws (regNo r) (BitVec.ofNat 32
        (1024 - (s.copies.filter (fun e => e.2.core = g.core)).length))) (g.nextPc l)) ∧
      (s.Ready g (.cstat .mask r l) → ∃ w : Word, (∀ n, w.getLsbD n =
          decide (n < 8 ∧ ∃ e ∈ s.copies, e.2.team = teamOf s.cur ∧ e.2.queue = n)) ∧
        s.Retires (.cstat .mask r l) (g.ws (regNo r) w) (g.nextPc l)))

/-- R239 to R242, R246, R287, R291: a copy reads the bytes of one aligned word or writes one aligned word at a time, and is complete when it
is first in its queue and has made its writes: its pool entry is free, and its counter goes down. Its writes to another core and to SO pages
wait until the store buffer holds nothing that earlier copies of the queue wrote. A page fault pauses it until firmware has served it;
another fault ends it, with an error record, whose SOURCE 8 is the model's choice (log 57). -/
def Obligations.CopiesReadWriteAndComplete : Prop :=
  ∀ (s : State) (id : Nat) (c : Copy), s.copies.find? id = some c →
    let unhalted : Prop := ∀ y ∈ s.groups, gridOf y.1 = gridOf c.group → y.2.hold ≠ .halted
    (∀ u b key p, (s.copyUnits id c).filter (s.unitReady id c) = [u] → s.unitLoc c u = .ok (b, key, p) → (b = false → s.Serving key) →
      Answers (exec (.copyComplete id) s) (fun t =>
        match u with
        | .read bs => s.SameMemory t ∧ t.groups = s.groups ∧ ∃ c', t.copies.find? id = some c' ∧
            (p.isSome = true → destOf key = .remote →
              c'.moves = c.moves ∧ c'.asked = (unitSpan bs).1.toNat / 4 :: c.asked) ∧
            (p = none ∨ destOf key ≠ .remote →
              (∀ i j a, (i, j, a) ∈ bs → ∃ m, c'.moves[i]? = some m ∧
                let x := key + (a.toNat - (unitSpan bs).1.toNat)
                m.got.find? j = some (match p with
                  | none => s.spadByte x
                  | some p => s.coreByte c.core p.owner x)) ∧
              ∀ n, (∀ x ∈ bs, x.1 ≠ n) → c'.moves[n]? = c.moves[n]?)
        | .write i a => ∃ c' m m', t.copies.find? id = some c' ∧ c.moves[i]? = some m ∧ c'.moves[i]? = some m' ∧
            m'.left = m.left.filter (· ≠ a) ∧
            let put (old : Nat → Byte) : List Byte := (List.range m.bytes.length).map (fun j =>
              let y := m.bytes.getD j {}
              (m.got.getD j 0 &&& y.mask) ||| y.val ||| (old j &&& y.keep))
            (p = none → Written s.spadByte t.spadByte key (put (fun j => s.spadByte (key + j))) ∧ t.phys = s.phys ∧
              t.groups = s.groups) ∧
            (∀ q, p = some q → q.kind = 1 ∨ (q.kind ≠ 2 ∧ Scope.narrow c.scope = false) →
              (s.core c.core).storeBuf.find? (fun l => l.line = key / 64) = none → (∀ y ∈ m.bytes, y.keep = 0) →
              (∀ j, j < m.bytes.length → s.lineKey.getD ((key + j) / 64) 0 = q.owner ∧ destOf (key + j) = .memory) →
              Written s.rawByte t.rawByte key (put (fun _ => 0)) ∧ t.spad = s.spad ∧ t.groups = s.groups))) ∧
    (∀ l ∈ (s.core c.core).storeBuf, l.un = false → l.id < id → ∀ i a,
      ((c.dst = .l ∧ sCore a.toNat ≠ c.core) ∨
        ∃ key p, s.copyLoc c c.dst a 1 .store = .ok (false, key, some p) ∧ p.isSO = true) → .write i a ∉ s.copyUnits id c) ∧
    (s.copyUnits id c = [] →
      (c.moves.all (fun m => m.left.isEmpty) = true → s.copiesBefore id c = [] → (∀ i ∈ c.after, s.copies.find? i = none) →
        c.paused = none → c.faulted = false → c.badAddr = none → s.owes id = false → (∀ e ∈ s.teams, e.2.deferred = []) →
        Answers (exec (.copyComplete id) s) (fun t =>
          t.copies = s.copies.erase id ∧ s.SameMemory t ∧
          (c.counter = none → t.groups = s.groups) ∧
          (∀ n g, c.counter = some n → s.group? c.group = some g → g.Counts n →
            ∃ h, t.group? c.group = some h ∧ h.ra n = g.ra n - 1 ∧ ∀ m, m ≠ n → h.ra m = g.ra m))) ∧
      (s.copiesBefore id c ≠ [] → exec (.copyComplete id) s = .next s)) ∧
    (∀ u a wr, s.copyUnits id c = [u] →
      ((∃ bs, u = .read bs ∧ a = (unitSpan bs).1 ∧ wr = false) ∨ (∃ i, u = .write i a ∧ wr = true)) →
      (s.unitLoc c u = .error (7, 0) → exec (.copyPageFault id) s =
        .next { s with copies := s.copies.insert id { c with paused := some (a, 0, wr) } }) ∧
      (∀ e, s.unitLoc c u = .error e → e ≠ (7, 0) → unhalted → exec (.copyPageFault id) s = .next
        ({ s.errorRec c.core 0 0 (gridOf c.group) c.pc a 0 8 127 false with
            copies := s.copies.insert id { c with moves := [], asked := [], paused := none, faulted := true } }.beginTermination
          (gridOf c.group) (e.1 * 256 + e.2)))) ∧
    (∀ a n wr va level pte, c.paused = some (a, n, wr) →
      let on (t : State) : State := { t with copies := t.copies.insert id { c with paused := none } }
      ((s.walk c.ctx a.toNat).isOk = true → exec (.copyResume ⟨id, .mapPage va level pte⟩) s = .next (on s)) ∧
      (∀ t, s.servePage c.ctx a.toNat va level pte = (true, t) → exec (.copyResume ⟨id, .mapPage va level pte⟩) s = .next (on t)) ∧
      (∀ t, s.servePage c.ctx a.toNat va level pte = (false, t) → exec (.copyResume ⟨id, .mapPage va level pte⟩) s = .next t) ∧
      ((s.walk c.ctx a.toNat).isOk = false → s.pagedAt c.ctx a.toNat = none → (s.ctx c.ctx).demand a.toNat = false → unhalted →
        exec (.copyResume ⟨id, .terminate⟩) s = .next ({ s with
          copies := s.copies.insert id { c with moves := [], asked := [], paused := none, faulted := true } }.beginTermination
            (gridOf c.group) (0x0700 + n))))

/-- R252 to R256: COLL, which reads its descriptor and its member list once and waits until the entries that it names are in the core's
table cache, begins a collective in a free slot of its team; one with elements on SO pages first waits as a release at SYSTEM scope, and
holds later issue (R288, R300); COLLWT waits for its end and reads its status; a member that has written every element of its destination
is done; a failed step is repeated RETRY times and then fails the collective, and so does a member that has not come in time; a step from
another package ends when all its flits have come, and is acknowledged. ISUM is the sum modulo 2^32, and a floating sum is taken by the tree
of R253. That a COLL which waits keeps what it has read is the model's reading (log 28), and that RETRIES stops at 15 (log 33). -/
def Obligations.CollectivesRunInTheirSlots : Prop :=
  ∀ (s : State) (g : Group) (ls : Bool) (a d : Operand) (slot : BitVec 3) (l : Lit) (bs ms : List Byte),
    let sp : Space := if ls then .l else .g
    let base := s.accBase s.cur g sp ⟨0, l⟩ a
    let x := s.ctxOf s.cur
    let r := parseColl bs
    let i : Instr := .coll ls a slot l
    let read : Prop := (g.hold = .waiting ∧ g.recRead = some (bs ++ ms) ∧ bs.length = 64) ∨
      ((g.hold ≠ .waiting ∨ g.recRead = none) ∧ s.readHold s.cur g sp base 64 = none ∧ s.readAs s.cur g sp base 64 = .ok bs ∧
        r.members % 4 = 0 ∧ (∀ n, n < r.nmem → s.readHold s.cur g .g ((r.members + 4 * n : Nat) : Int) 4 = none) ∧
        s.readWords s.cur g r.members r.nmem = .ok ms)
    let kept : Group := { g with recRead := some (bs ++ ms) }
    let v := s.collSent s.cur g sp base bs
    let u := v.useEntries g.core x [r.src, r.dst]
    let held := s.hasEntry g.core x r.src && s.hasEntry g.core x r.dst
    let good (h : Word) : Prop := s.hasEntry g.core x h = true ∨ v.entryHeld x (handleIdx h) = false ∧ v.entryBad x (handleIdx h) = false
    (s.Ready g i → base % 64 ≠ 0 →
      exec i s = .next (s.systemFault s.cur g { cause := 6, pc := g.pc, addr := s.faultAddr s.cur sp base })) ∧
    (∀ g', s.Ready g i → base % 64 = 0 → g.hasRead = false → s.readHold s.cur g sp base 64 = some g' →
      exec i s = .next (s.wait s.cur g')) ∧
    (s.Ready g i → base % 64 = 0 → read →
      (held = false → good r.src → good r.dst → exec i s = .next (u.wait s.cur kept)) ∧
      (held = true → v.current x r.src = false →
        exec i s = .next ((u.userTrap s.cur kept 0x40 (r.src.toNat % 2 ^ 20)).tick 8)) ∧
      (held = true → v.current x r.src = true → v.current x r.dst = true →
        let src := v.entryBytes x (handleIdx r.src)
        let dst := v.entryBytes x (handleIdx r.dst)
        let bad := r.malformed (parseEntry src) (parseEntry dst) ms g.core
        let so := s.onSO s.cur [collAddrs (parseEntry src) r.srcElems, collAddrs (parseEntry dst) r.dstElems]
        let part : Coll :=
          { ctx := x, core := g.core, team := teamOf s.cur, slot := slot.toNat, rank := r.rank, desc := bs, members := ms,
            src := src, dst := dst, pc := g.pc, start := s.cycle }
        let free : Prop := s.outstanding s.cur = false ∧ (so = true → u.releaseWait s.cur kept .system = none)
        (bad = true → exec i s = .next (u.systemFault s.cur kept { cause := 8, detail := 2, pc := g.pc })) ∧
        (bad = false → s.outstanding s.cur = true → exec i s = .next (u.wait s.cur kept)) ∧
        (bad = false → free → ((s.team s.cur).coll slot.toNat).pending = none →
          s.Commits ({ u with
              nextId := s.nextId + 1
              colls := s.colls.insert s.nextId { part with round := s.collRound part } }.setTeam
            (teamOf s.cur) { s.team s.cur with
              colls := (s.team s.cur).colls.insert slot.toNat { status := 0xFF, pending := some s.nextId } }) i
            { g with waitOps := if so then s.nextId :: g.waitOps else g.waitOps } (g.nextPc l)) ∧
        (bad = false → free → ((s.team s.cur).coll slot.toNat).pending.isSome = true →
          exec i s = .next (u.wait s.cur kept)))) ∧
    (∀ y, y = (s.team s.cur).coll slot.toNat →
      (s.Ready g (.collwt d slot l) →
        (y.pending = none → s.Retires (.collwt d slot l) (g.ws (regNo d) y.status) (g.nextPc l)) ∧
        (y.pending.isSome = true → exec (.collwt d slot l) s = .next (s.wait s.cur g))) ∧
      (s.Ready g (.collwtTry d slot l) → s.Retires (.collwtTry d slot l) (g.ws (regNo d) y.status) (g.nextPc l))) ∧
    (∀ team n id c rank, s.collOf team n = some (id, c) → c.team = team → c.slot = n →
      let limit := (parseColl c.desc).timeout * s.freq
      (s.collStuck id c = none →
        (c.ready = true → (∀ e, e < (parseColl c.desc).dstElems → e ∈ c.wrote) → s.owes id = false → Answers (exec (.collComplete team n) s) (fun t =>
          (t.teamAt team).coll n = { status := BitVec.ofNat 32 (min 15 c.retries * 256), pending := none } ∧
          t.groups = s.groups ∧ s.SameMemory t)) ∧
        (c.ready = false → exec (.collComplete team n) s = .next s) ∧
        (∀ yid y, rank ≠ c.rank → rank ∈ (parseColl c.desc).needs → c.got.find? rank = none →
          memberPkg c.members rank = Config.packageNumber % 512 →
          List.find? (fun (e : Nat × Coll) => c.matches e.2 && e.2.rank = rank) s.colls = some (yid, y) →
          y.allRead = true → id ≠ yid → Answers (exec (.collStep team n rank) s) (fun t => s.SameMemory t ∧ t.groups = s.groups ∧
            ∃ c', t.colls.find? id = some c' ∧
              c'.got.find? rank = some ((List.range y.srcLen).map (fun j => y.data.getD j 0)))) ∧
        (∀ bs', rank ≠ c.rank → rank ∈ (parseColl c.desc).needs → c.got.find? rank = none →
          memberPkg c.members rank ≠ Config.packageNumber % 512 → rank ∉ c.differs →
          (c.arrived rank = some bs' → Answers (exec (.collStep team n rank) s) (fun t => s.SameMemory t ∧ t.groups = s.groups ∧
            ∃ c', t.colls.find? id = some c' ∧ c'.got.find? rank = some bs')) ∧
          (c.arrived rank = none → exec (.collStep team n rank) s = .next s))) ∧
      (rank ≠ c.rank → rank ∈ (parseColl c.desc).needs → c.got.find? rank = none →
        (c.tries.getD rank 0 < (parseColl c.desc).retry → exec (.collStepFail team n rank) s = .next { s with
          colls := s.colls.insert id { c with tries := c.tries.insert rank (c.tries.getD rank 0 + 1), retries := c.retries + 1 } }) ∧
        ((parseColl c.desc).retry ≤ c.tries.getD rank 0 → exec (.collStepFail team n rank) s = .next (s.collFail c 1 rank))) ∧
      ((parseColl c.desc).timeout ≠ 0 → rank < (parseColl c.desc).nmem →
        (s.collFailed c = none → (∀ e ∈ s.colls, c.matches e.2 = true →
            e.2.rank ≠ rank ∧ e.2.got.find? rank = none ∧ e.2.arriving.find? rank = none ∧ rank ∉ e.2.differs) →
          (∃ e ∈ s.colls, c.matches e.2 = true ∧ e.2.start + limit ≤ s.cycle) →
          exec (.collTimeout team n rank) s = .next (s.collFail c 2 rank)) ∧
        (∀ q, s.collFailed c = some (2, q) → c.start + limit ≤ s.cycle →
          exec (.collTimeout team n rank) s = .next ((s.collEnd id c 2 q).collPurge)))) ∧
    ((∀ xs : List Nat, xs ≠ [] → (∀ x ∈ xs, x < 2 ^ 32) → collReduce 2 xs = xs.sum % 2 ^ 32) ∧
      (∀ (p q : Nat) (u v : Nat), u = (fAdd fp32 .rne (fp32.decode p) (fp32.decode q)).1 → (fp32.decode u).isNan = false →
        collReduce 0 [p, q] = u ∧
        (v = (fAdd fp32 .rne (fp32.decode u) (fp32.decode u)).1 → (fp32.decode v).isNan = false → collReduce 0 [p, q, p, q] = v)))

/-! ### Groups between their words: events, resumption, firmware and the debug agent -/

/-- R25, R308, R309, R343: what is pending for a group is taken at a boundary, between words, and not inside a commit-class pair or a
SYSREQ: a fault found after issue parks the group with a record of its region's start, before a discard that was asked for, which queues
such a record; a terminating grid's group ends; a halted group is pinned, and only a cluster drain or a termination ends it (R349). The
record stands in the context's record area. A live-in s-register that cannot be saved parks the group with CAUSE 6. R26, R308, R312, R328: a
queued record whose gang stands on its cores, and before which no other comes, resumes on a datapath with room: the PC, mask, dead lanes,
counters and live-ins are the record's, and every other register reads 0. -/
def Obligations.PendingEventsAreTakenAtBoundaries : Prop :=
  (∀ (s : State) (k : Nat) (g : Group), s.group? k = some g →
      let saves : Prop := (s.grid k).terminating = false ∧ s.unsavable k g = false
      let saved (c : Nat) (p : Place) (t : State) : Prop := s.SameMemory t ∧ ∃ h r, t.group? k = some h ∧ h.place = p ∧
        h.rcd = some r ∧ r.pc = g.cont.pc ∧ r.em = g.cont.em ∧ r.acnt = g.cont.a ∧ r.cause = c ∧
        t.records.find? k = some (r.bytes (s.liveSet k g g.cont.live)) ∧
        (∀ n ∈ (s.liveSet k g g.cont.live).ss, r.sval.getD n 0 = g.rs n) ∧
        (g.vBad = [] → r.dead = g.dead ∧ ∀ n ∈ (s.liveSet k g g.cont.live).vs, ∀ L, L < 96 →
          r.vval.getD (n * 96 + L) 0 = if g.live L then g.rv n L else 0)
      (g.scalarErr = none → g.place = .resident → g.pairPending = false → (∀ n a d next, g.hold ≠ .sysreq n a d next) →
        (g.hold ≠ .halted →
          (∀ f, g.asyncFault = some f → exec (.asyncFault k) s = .next (s.systemFault k g f) ∧
            (saves → Answers (exec (.asyncFault k) s)
              (saved (if f.cause = 7 then 3 else if f.cause = 0x0A then 6 else 5) .parked))) ∧
          (∀ c, g.asyncFault = none → g.stopCause = some c → c ≠ 7 → (s.grid k).terminating = false → g.haltPending = none →
            g.fwStop = false → exec (.groupDiscard k) s = .next (s.discard k g c .none .queued) ∧
            (saves → Answers (exec (.groupDiscard k) s) (saved c .queued)))) ∧
        (g.hold = .halted ∨ g.asyncFault = none →
          (g.stopCause = some 7 → exec (.groupDiscard k) s = .next (s.discard k g 7 .none .queued) ∧
            (saves → Answers (exec (.groupDiscard k) s) (saved 7 .queued))) ∧
          (∀ c, g.stopCause = some c → c ≠ 7 → (s.grid k).terminating = true →
            exec (.groupDiscard k) s = .next (s.endGroup k g))) ∧
        (g.hold = .halted → (s.grid k).terminating = false → g.stopCause ≠ some 7 →
          exec (.asyncFault k) s = .next s ∧ exec (.groupDiscard k) s = .next s)) ∧
      (g.place ≠ .resident ∨ g.pairPending = true ∨ (∃ n a d next, g.hold = .sysreq n a d next) →
        exec (.asyncFault k) s = .next s ∧ exec (.groupDiscard k) s = .next s) ∧
      (∀ c w q, (s.grid k).terminating = false →
        (s.unsavable k g = false → saved c q (s.discard k g c w q) ∧
          ∀ h r, (s.discard k g c w q).group? k = some h → h.rcd = some r → r.wait = w) ∧
        (s.unsavable k g = true → ∃ h r, (s.discard k g c w q).group? k = some h ∧ h.place = .parked ∧ h.rcd = some r ∧ r.cause = 6))) ∧
  (∀ (s : State) (k : Nat) (g : Group) (r : Rec), s.group? k = some g → g.rcd = some r →
      let home := (s.team k).core
      (s.resumePlaces k g = [] → exec (.recordResume k) s = .next s) ∧
      (g.place = .queued → (s.gang k).place = .placed → (s.grid k).terminating = false → home < 448 →
        (s.core home).drained = false → (∀ o ∈ s.ops, o.2.group = k → o.2.kind = .load) → s.ahead k home g = false →
        (∃ l ∈ s.dpLoads home (teamOf k), l.groups < 8 ∧ l.mine < 4 ∧ l.regs + g.vregs ≤ 512) →
        Answers (exec (.recordResume k) s) (fun t => s.SameMemory t ∧
          ∃ h, t.group? k = some h ∧ h.place = .resident ∧ h.hold = .ready ∧ h.rcd = none ∧ (h.core, h.dp) ∈ s.resumePlaces k g ∧
            (s.floats k = false → h.core = home ∧ ∃ l ∈ s.dpLoads home (teamOf k), l.dp = h.dp ∧ l.admits g.vregs = true) ∧
            h.pc = r.pc ∧ h.em = r.em ∧ h.dead = r.dead ∧ h.a = r.acnt ∧ h.waitcyc = r.waitcyc ∧ h.tpc = r.tpc ∧
            h.tcause = r.tcause ∧ h.cont.pc = r.pc ∧ h.cont.em = r.em ∧ h.cont.live = r.live ∧ h.fenceRel = g.fenceRel ∧
            (∀ n, n < 125 → h.rs n = r.sval.getD n 0) ∧ (∀ n L, L < 96 → h.rv n L = r.vval.getD (n * 96 + L) 0) ∧
            (∀ L, h.rf L = 0))))

/-- R231, R232, R340, R342, R347, R349, R350, R353: what firmware and the debug agent do to groups: the oldest record that waits enters the
fault queue; a parked group resumes once the page of its fault is present, which firmware brings back from the second tier or allocates in a
range declared for it, or its grid is terminated; a SYSREQ delivers its service's result; a halted group is read, written and released; an
invalidation takes a page's leaf out of every TLB of its context, and with it a page may go to the second tier. That TIME is the model's
clock (log 49), that an invalidation waits for atomics and takes one 64 KiB page at a time (log 42), that DEBUG_REGISTER_WRITE marks a
context as debugged (log 39) and which faults firmware may answer with which page (log 35) are the model's choices. -/
def Obligations.FirmwareServesGroups : Prop :=
  ∀ (s : State) (k : Nat) (g : Group), s.group? k = some g →
    (∀ core r rest, (s.core core).faultWait = r :: rest → s.faultQueue.length < 1024 →
      ((∀ c ∈ s.cores, ∀ x ∈ c.2.faultWait, r.1 ≤ x.1) → exec (.faultRecordEnqueue core) s = .next
        ({ s with faultQueue := s.faultQueue ++ [r.2] }.setCore core { s.core core with faultWait := rest })) ∧
      ((∃ c ∈ s.cores, ∃ x ∈ c.2.faultWait, x.1 < r.1) → exec (.faultRecordEnqueue core) s = .next s)) ∧
    (g.place = .parked → ∀ b, s.faultQueue.find? (s.recordOfGroup k) = some b →
      let c := s.ctxOf k
      let fault := natAt b 24 8
      let paged : Prop := g.rcd.map (·.cause) = some 3
      let u : State := { s with faultQueue := s.faultQueue.erase b }
      s.takeRecord k = (some b, u) ∧
      (∀ va level pte t, paged → s.servePage c fault va level pte = (true, t) →
        exec (.pageFaultService k (.mapPage va level pte)) s = .next ((t.takeRecord k).2.unpark k)) ∧
      (∀ va level pte t, paged → s.servePage c fault va level pte = (false, t) →
        exec (.pageFaultService k (.mapPage va level pte)) s = .next t) ∧
      (∀ va level pte, ¬ paged → exec (.pageFaultService k (.mapPage va level pte)) s = .next s) ∧
      (¬ paged ∨ ((s.walk c fault).isOk = false ∧ s.pagedAt c fault = none ∧ (s.ctx c).demand fault = false) →
        exec (.pageFaultService k .terminate) s =
          .next (u.beginTermination (gridOf k) (s.haltCode (gridOf k) (recordCode b)))) ∧
      (paged → (s.walk c fault).isOk = true ∨ (s.pagedAt c fault).isSome = true → exec (.pageFaultService k .terminate) s = .next s)) ∧
    (∀ c fault va level pte,
      let l : Pte := ⟨pte⟩
      let base := va / 2 ^ levelShift level * 2 ^ levelShift level
      let place := physKey l.tier l.addr
      let serve := s.servePage c fault va level pte
      let fits : Prop := level ≤ 2 ∧ va / 2 ^ levelShift level = fault / 2 ^ levelShift level ∧ l.valid = true ∧ l.leaf = true ∧
        l.malformed level = false ∧ destOf place = .memory ∧ (s.ctx c).window base (2 ^ levelShift level) = false ∧
        l.owner = (s.ctx c).owner
      ((s.walk c fault).isOk = true → serve = (true, s)) ∧
      ((s.walk c fault).isOk = false → ¬ fits → serve = (false, s)) ∧
      ((s.walk c fault).isOk = false → s.pagedAt c fault = none → (s.ctx c).demand fault = false → serve = (false, s)) ∧
      ((s.walk c fault).isOk = false → fits → (s.writePte c base level pte).isSome = true →
        (∀ old, s.pagedAt c fault = some old → old.level = level → sameRights ⟨old.leaf⟩ l = true → ∀ v,
          (s.freshPage c level place l.owner = (false, v) → serve = (false, v)) ∧
          (s.freshPage c level place l.owner = (true, v) → ∀ t, (v.pageIn old place l.owner).changeLeaf c base level pte = some t →
            serve = (true, t))) ∧
        (s.pagedAt c fault = none → (s.ctx c).demand fault = true → ∀ v,
          (s.freshPage c level place l.owner = (false, v) → serve = (false, v)) ∧
          (s.freshPage c level place l.owner = (true, v) → ∀ t, v.changeLeaf c base level pte = some t → serve = (true, t))))) ∧
    (∀ t : State, t.group? k = some g → Answers (.next (t.unpark k)) (fun t' =>
      t'.group? k = some { g with place := .queued, resumeOrder := t.nextId } ∧ t.SameMemory t')) ∧
    (∀ n a d next, g.hold = .sysreq n a d next → k ∈ s.sysreqQueue →
      let ends (s' : State) (r : DWord) : Prop := exec (.sysreqServiceComplete k) s = .next
        ({ s' with sysreqQueue := s.sysreqQueue.erase k }.setGroup k { g.wp d r with hold := .ready, pc := next })
      (n = 0 → ends s a) ∧
      (n = 1 → ends s (BitVec.ofNat 64 (s.time / 1000000))) ∧
      (n = 2 → ends (s.setCtx (s.ctxOf k) { s.ctx (s.ctxOf k) with
        log := (s.ctx (s.ctxOf k)).log ++ [(a, k / 16777216, k)] }) 0) ∧
      (n = 3 → (s.event (a.toNat % 256)).ctx ≠ some (s.ctxOf k) → ends s (BitVec.allOnes 64)) ∧
      (n = 3 → (s.event (a.toNat % 256)).ctx = some (s.ctxOf k) → ends (s.postEvent (a.toNat % 256) .systemCore) 0) ∧
      (n = 4 → ends s (s.ctx (s.ctxOf k)).dbbase) ∧ (5 ≤ n → ends s (BitVec.allOnes 64))) ∧
    (g.hold = .halted → (∀ single, Answers (exec (.debugRelease k single) s) (fun t =>
        t.group? k = some { g with hold := .ready, singleStep := single, lastIssue := s.cycle } ∧ s.SameMemory t)) ∧
      (∀ (v : DWord) (n : Fin 256) (L : Nat), n.val < g.vregs → L < 96 → g.live L = true →
        exec (.debugRegisterWrite k (.vreg (BitVec.ofNat 8 n.val) L) v) s =
          .next (s.setGroup k (g.wv n.val L (v.setWidth 32)))) ∧
      (∀ v, exec (.debugRegisterWrite k .pc v) s =
        .next (s.setGroup k { g with pc := v, half1 := false, waitFrom := none, waitTest := none, waitMet := none }))) ∧
    (g.hold ≠ .halted → ∀ single v, exec (.debugRelease k single) s = .next s ∧ exec (.debugRegisterWrite k .pc v) s = .next s) ∧
    (∀ v, exec (.debugRegisterWrite k .debugged v) s = .next (s.setCtx (s.ctxOf k)
      { s.ctx (s.ctxOf k) with debugged := decide (v ≠ 0) })) ∧
    (g.place = .resident → (s.ctx (s.ctxOf k)).debugged = true → Answers (exec (.firmwareStop k) s) (fun t =>
      t.group? k = some { g with fwStop := true } ∧ ∀ j, j ≠ k → t.group? j = s.group? j)) ∧
    ((s.ctx (s.ctxOf k)).debugged = false → exec (.firmwareStop k) s = .next s) ∧
    (∀ c va, va < 2 ^ 57 → (∀ p ∈ s.pagedOut, p.moved = true ∨ p.covers c va = false) →
      let page := va / 65536
      (s.atomsUse c (page * 65536) 65536 = false → (∀ e ∈ s.cores, e.2.unhomed = []) →
        Answers (exec (.tlbInvalidate c ⟨va, false⟩) s) (fun t => (∀ h, h < 1024 → t.tlbs.find? (tlbKey h c page) = none) ∧
          (∀ h x page', h < 1024 → page' < 2 ^ 41 → x ≠ c ∨ page' ≠ page →
            t.tlbs.find? (tlbKey h x page') = s.tlbs.find? (tlbKey h x page')) ∧ t = { s with tlbs := t.tlbs })) ∧
      (s.atomsUse c (page * 65536) 65536 = true → exec (.tlbInvalidate c ⟨va, false⟩) s =
        .next { s with agenda := (1, .tlbInvalidate c ⟨va, false⟩) :: s.agenda })) ∧
    (∀ c va, (∀ t, s.unmapPage c va = some t → exec (.tlbInvalidate c ⟨va, true⟩) s = exec (.tlbInvalidate c ⟨va, false⟩) t) ∧
      (s.unmapPage c va = none → exec (.tlbInvalidate c ⟨va, true⟩) s = exec (.tlbInvalidate c ⟨va, false⟩) s) ∧
      (∀ level p t, va < 2 ^ 57 → s.walkLeaf (s.ctx c).root va 5 = some (level, p) → destOf (physKey p.tier p.addr) = .memory →
        (s.mappedBy (physKey p.tier p.addr) (pageBytes level)).length = 1 →
        s.onLostStack (physKey p.tier p.addr) (pageBytes level) = false →
        s.changeLeaf c (va / 2 ^ levelShift level * 2 ^ levelShift level) level 0 = some t →
        s.unmapPage c va = some { t with pagedOut := t.pagedOut ++ [{ ctx := c, leaf := p.raw, level := level
                                                                      va := va / 2 ^ levelShift level * 2 ^ levelShift level }] }))

/-! ### Grids, gangs and queues -/

/-- R22, R317, R326, R327, R329, R380: a step of the scheduler visits the waiting gangs in the order of their ageing priority; a gang that
fits goes to its rectangle, one core to a member, with a ticket, and its groups begin at their roles' entries with the launch arguments;
the first gang that fits nowhere takes the chuck. That gangs of two grids which are alike in priority, dispatch time and number go by grid
number is the model's choice (log 40). -/
def Obligations.SchedulerPlacesGangs : Prop :=
  ∀ (s : State) (x : Nat),
    (s.placementStop = true → exec .schedulerStep s = .next { s with placementStop := false }) ∧
    (s.placementStop = false → s.chuck = none → s.waitOrder = [] → exec .schedulerStep s = .next s) ∧
    (SMap.Sorted s.gangs → s.waitOrder.Pairwise (fun a b =>
      s.ageing b < s.ageing a ∨ (s.ageing a = s.ageing b ∧
        ((s.gangs.getD a {}).dispatched < (s.gangs.getD b {}).dispatched ∨
          ((s.gangs.getD a {}).dispatched = (s.gangs.getD b {}).dispatched ∧
            (a % 65536 < b % 65536 ∨ (a % 65536 = b % 65536 ∧ a < b))))))) ∧
    (∀ g r, s.placementStop = false → s.chuck = none → s.waitOrder = [x] → s.gangs.getD x {} = g → g.place = .waiting →
      (s.findRect x [] = some r →
        let k := s.kernel (x * 256)
        Answers (exec .schedulerStep s) (fun t => s.SameMemory t ∧ t.chuck = none ∧
          (∃ h, t.gangs.find? x = some h ∧ h.place = .placed ∧ h.die = r.1 ∧ h.origin = r.2 ∧ h.eprio = s.ageing x ∧
            (s.nextTicket ∉ s.gangs.map (fun e => e.2.ticket) → h.ticket = s.nextTicket)) ∧
          ∀ m, m < k.w * k.h → (t.teamAt (x * 16 + m)).core = cellCore k.w r m ∧
            (t.teamAt (x * 16 + m)).scratch = k.scratch ∧
            ∀ n, n < k.roles.length → n < 16 → ∃ h, t.group? ((x * 16 + m) * 16 + n) = some h ∧ h.place = .resident ∧
              h.core = cellCore k.w r m ∧ h.role = k.roles.getD n 0 ∧
              h.pc = k.code + BitVec.ofNat 64 (8 * (k.slots.getD h.role {}).entry) ∧ h.em = BitVec.allOnes 96 ∧
              (2 ≤ h.sregs → h.rp 0 = (s.grid (x * 256)).lr.argp))) ∧
      (s.findRect x [] = none → s.reserveRect x = some r → s.teams = [] → exec .schedulerStep s = .next { s with
        chuck := some { gang := x, die := r.1, origin := r.2, since := s.cycle } })) ∧
    (∀ c y r, s.placementStop = false → s.chuck = some c → c.gang = y → s.waitOrder = [x, y] → x ≠ y → s.findRect x [] = none →
      s.reserveRect x = some r → s.teams = [] → (∀ held, s.findRect y held = none) → exec .schedulerStep s = .next { s with
        chuck := some { gang := x, die := r.1, origin := r.2, since := s.cycle } }) ∧
    (exec .packageSchedulerIllegal s = .next { s.rebuildChuck with placementStop := true }) ∧
    (s.chuck = none → exec .chuck0Read s = .next { s with
      outbox := s.outbox ++ [{ kind := .report, data := List.replicate 12 0 }], chuckLatch := (0, 0) }) ∧
    (∀ c, s.chuck = some c →
      let k := s.kernel (c.gang * 256)
      let w0 : Word := BitVec.ofNat 32 (c.gang / 65536)
      let w1 : Word := BitVec.ofNat 32 (2 ^ 31 + s.ageing c.gang * 2 ^ 28 + c.gang % 65536 * 2 ^ 12 + c.origin * 2 ^ 5 +
        (k.w - 1) * 8 + (k.h - 1) * 2)
      let w2 : Word := BitVec.ofNat 32 c.die
      exec .chuck0Read s = .next { s with
        outbox := s.outbox ++ [{ kind := .report, data := leBytes 4 w0.toNat ++ (leBytes 4 w1.toNat ++ leBytes 4 w2.toNat) }],
        chuckLatch := (w1, w2) }) ∧
    (∀ c, s.placementStop = false → s.chuck = some c → s.waits c.gang = false →
      State.waitOrder { s with chuck := none } = [] → exec .schedulerStep s = .next { s with chuck := none })

/-- R332, R333, R331: a gang is swapped out once its groups are discarded and nothing of it is under way, its allocation going into its
image; the image is read back at the cores that it returns to. A core whose count has expired swaps out the gang that has been there
longest; firmware may pre-empt a gang. -/
def Obligations.GangsAreSwapped : Prop :=
  ∀ (s : State) (x : Nat) (g : Gang), s.gangs.find? x = some g →
    (∀ c, g.place = .swapping c → s.swapReady x = true → Answers (exec (.gangSwapOut x) s) (fun t =>
      s.SameMemory t ∧ t.groups = s.groups ∧ ∃ h, t.gangs.find? x = some h ∧ h.place = .swapped ∧
        ∀ m team, s.members x = [(x * 16 + m, team)] → m < 16 → team.base + team.scratch ≤ 524288 →
          ∀ off, off < team.scratch → h.image.getD (m * 524288 + off) 0 = s.spadByte (spadKey team.core (team.base + off)))) ∧
    (∀ c, g.place = .swapping c → s.swapReady x = false → exec (.gangSwapOut x) s = .next s) ∧
    (g.place = .returning → Answers (exec (.gangSwapIn x g.die g.origin) s) (fun t =>
      (∃ h, t.gangs.find? x = some h ∧ h.place = .placed ∧ h.ticket = g.ticket) ∧ t.phys = s.phys ∧
      ∀ m team, s.members x = [(x * 16 + m, team)] → m < 16 → team.base + team.scratch ≤ 524288 → team.base % 4 = 0 →
        SMap.Sorted g.image → (∀ e ∈ g.image, e.1 / 524288 = m ∧ e.1 % 524288 < team.scratch) →
        (∀ off, off < team.scratch →
          t.spadByte (spadKey team.core (team.base + off)) = g.image.getD (m * 524288 + off) 0) ∧
        ∀ a, team.owns a = false → t.spadByte a = s.spadByte a)) ∧
    (∀ die origin, g.place ≠ .returning → exec (.gangSwapIn x die origin) s = .next s) ∧
    (g.place = .placed → Answers (exec (.firmwarePreEmption x) s) (fun t => s.SameMemory t ∧
      t.gangs.find? x = some { g with place := .swapping 1 } ∧
      ∀ k h, s.group? k = some h → t.group? k = some
        (if k / 256 = x ∧ h.place = .resident ∧ h.stopCause = none then { h with stopCause := some 1 } else h))) ∧
    (g.place = .returning → exec (.firmwarePreEmption x) s = .next (s.setGang x { g with place := .swapped })) ∧
    (g.place ≠ .placed → g.place ≠ .returning → exec (.firmwarePreEmption x) s = .next s) ∧
    (∀ core, (s.gangWaits = false ∨ s.waitClock - (s.core core).fpMark < 2 ^ (s.schedcfg.toNat % 32)) →
      exec (.forwardProgressExpiry core) s = .next s) ∧
    (∀ core t, s.gangWaits = true → 2 ^ (s.schedcfg.toNat % 32) ≤ s.waitClock - (s.core core).fpMark →
      s.qualifying core = [t] → exec (.forwardProgressExpiry core) s = .next
        ((s.setCore core { s.core core with fpMark := s.waitClock }).beginSwap (t.1 / 16) 2))

/-- R315, R318, R321, R342: a grid is taken up with its descriptors, or fails with a code; its gangs wait for placement. A work queue's
oldest record becomes a grid. A grid whose groups have ended writes its completion word and is forgotten; a terminated one gives up its
records and its waiting gangs. -/
def Obligations.GridsBeginAndEnd : Prop :=
  ∀ (s : State) (n : Nat) (gr : Grid), s.grids.find? n = some gr →
    (gr.kernel = none → gr.code = none →
      (∀ code, s.readKernel gr = .error code →
        exec (.gridTakeUp n) s = .next (s.setGrid n { gr with code := some code })) ∧
      (∀ k s1, s.readKernel gr = .ok (k, s1) → Answers (exec (.gridTakeUp n) s) (fun t =>
        t.grids.find? n = some { gr with kernel := some k } ∧ s.SameMemory t ∧
        ∀ i, i < gr.lr.ngangs → t.gangs.find? (n * 65536 + i) = some { dispatched := gr.dispatched }))) ∧
    (gr.kernel ≠ none → exec (.gridTakeUp n) s = .next s) ∧
    (s.gridDone n gr = true → gr.lr.evt = false →
      (gr.lr.doneaddr = 0 → exec (.gridCompletion n) s = .next (s.dropGrid n)) ∧
      (∀ key p, gr.lr.doneaddr ≠ 0 → s.translate rootTlb gr.ctx gr.lr.doneaddr.toNat .store = .ok (key, p) →
        (∀ i, i < 8 → destOf (key + i) = .memory) → s.stackLost key = false → Answers (exec (.gridCompletion n) s) (fun t =>
          t.grids.find? n = none ∧ t.getPhys p.owner key 8 =
            leBytes 8 (match gr.code with
              | none => 1
              | some c => 2 + c % 65536 * 65536)))) ∧
    (s.gridDone n gr = false → exec (.gridCompletion n) s = .next s) ∧
    (∀ code, (∀ e ∈ s.groups, e.1 / 16777216 = n → e.2.hold ≠ .halted) → s.haltCode n code = code) ∧
    (∀ code k h b, s.groups = [(k, h)] → k / 16777216 = n → h.hold = .halted → s.faultQueue = [b] → s.recordOfGroup k b = true →
      s.haltCode n code = natAt b 2 2) ∧
    (∀ code, gr.terminating = false → Answers (exec (.termination n code) s) (fun t =>
      t.grids.find? n = some { gr with terminating := true, code := some (gr.code.getD (s.haltCode n code.toNat)) } ∧ s.SameMemory t ∧
      (∀ k g, SMap.Sorted s.groups → k / 16777216 = n → t.group? k = some g → g.place = .resident ∨ g.place = .gone) ∧
      (∀ k g, k / 16777216 ≠ n → s.group? k = some g → t.group? k = some g) ∧
      (∀ x g, x / 65536 = n → s.gangs.find? x = some g → g.place = .waiting →
        ∃ h, t.gangs.find? x = some h ∧ h.place = .retired))) ∧
    (∀ code, gr.terminating = true → exec (.termination n code) s = .next s) ∧
    (∀ wq w c who r rest, s.workQueues.find? wq = some w → w.ctx = some c → w.recs = (who, r) :: rest →
      exec (.workQueueTake wq) s = .next
        ({ s with workQueues := s.workQueues.insert wq { w with recs := rest } }.newGrid c r.prio r (.workQueue wq)))

/-- R322 to R325: a kick starts the scans of the mapped queues of its doorbell index, and is kept pending for one that is not mapped; a scan
takes the valid packets of its ring in order as grids, waits with a DEP packet that it has read for the queue's grids, and ends at a packet
that is not valid;
firmware maps pending queues into the slots of the context's quota. -/
def Obligations.UserQueuesAreScanned : Prop :=
  ∀ (s : State) (i : Nat) (h : HwSlot) (q : Nat) (u : UserQueue),
    (∀ n : BitVec 12, (∀ e ∈ s.slots, (s.slotQueue e.2).map (·.dbidx) ≠ some n.toNat) → n.toNat ∉ s.pendingIdx →
      exec (.kick n) s = .next { s with pendingIdx := s.pendingIdx ++ [n.toNat] }) ∧
    (∀ n : BitVec 12, (∀ e ∈ s.userQueues, e.2.dbidx = n.toNat → e.1 = q) → s.slots.find? i = some h → h.queue = some q →
      s.userQueues.find? q = some u → u.dbidx = n.toNat → h.scanning = false → Answers (exec (.kick n) s) (fun t =>
        t.pendingIdx = s.pendingIdx ∧
        t.slots.find? i = some { h with scanning := true, fromKick := true, took := false, rereads := 65, stale := false })) ∧
    (s.slots.find? i = some h → h.queue = some q → s.userQueues.find? q = some u →
      (∀ key p lr, h.scanning = true → h.depWait = none →
        s.translate rootTlb u.ctx (u.ring.toNat + 64 * h.read) .load = .ok (key, p) → lr = parseLaunch (s.getPhys p.owner key 64) →
        (lr.valid = h.xphase → (lr.dep = false ∨ s.queueBusy q = false) → Answers (exec (.queueReread i) s) (fun t =>
          t.grids.find? s.nextGrid.toNat =
            some { ctx := u.ctx, lr := lr, prio := u.prio, source := .userQueue q, dispatched := s.cycle } ∧
          s.SameMemory t ∧
          ∃ h', t.slots.find? i = some h' ∧ h'.read = (h.read + 1) % 2 ^ u.log2n ∧ h'.scanning = true ∧
            h'.xphase = if (h.read + 1) % 2 ^ u.log2n = 0 then !h.xphase else h.xphase)) ∧
        (lr.valid = h.xphase → lr.dep = true → s.queueBusy q = true → Answers (exec (.queueReread i) s) (fun t =>
          t.grids = s.grids ∧ t.slots.find? i = some { h with stale := false, depWait := some lr })) ∧
        (lr.valid ≠ h.xphase → h.fromKick = true → h.took = false →
          (1 < h.rereads → Answers (exec (.queueReread i) s) (fun t => t.grids = s.grids ∧
            t.slots.find? i = some { h with rereads := h.rereads - 1 })) ∧
          (h.rereads ≤ 1 → Answers (exec (.queueReread i) s) (fun t => t.grids = s.grids ∧
            t.slots.find? i = some { h with scanning := false, depWait := none, idleSince := s.cycle, stale := true }))) ∧
        (lr.valid ≠ h.xphase → (h.fromKick = false ∨ h.took = true) → Answers (exec (.queueReread i) s) (fun t =>
          t.grids = s.grids ∧
          t.slots.find? i = some { h with scanning := false, depWait := none, idleSince := s.cycle }))) ∧
      (∀ lr, h.depWait = some lr →
        (s.queueBusy q = false → Answers (exec (.depPacketRelease i) s) (fun t =>
          t.grids.find? s.nextGrid.toNat =
            some { ctx := u.ctx, lr := lr, prio := u.prio, source := .userQueue q, dispatched := s.cycle } ∧
          s.SameMemory t ∧
          ∃ h', t.slots.find? i = some h' ∧ h'.read = (h.read + 1) % 2 ^ u.log2n ∧ h'.depWait = none ∧
            h'.xphase = if (h.read + 1) % 2 ^ u.log2n = 0 then !h.xphase else h.xphase)) ∧
        (s.queueBusy q = true → exec (.depPacketRelease i) s = .next s))) ∧
    (s.userQueues.find? q = some u → s.pendingQueue q u = true → s.slotFor u = some (i, h) → h.queue = none →
      Answers (exec (.queueMap q) s) (fun t => u.dbidx ∉ t.pendingIdx ∧ q ∉ t.fwScan ∧ t.grids = s.grids ∧
        ∃ h', t.slots.find? i = some h' ∧ h'.queue = some q ∧ h'.read = u.read ∧ h'.xphase = u.xphase ∧ h'.scanning = true ∧
          h'.fromKick = false)) ∧
    (s.userQueues.find? q = some u → s.slotFor u = none → exec (.queueMap q) s = .next s) ∧
    (s.slots.getD i {} = h →
      ((h.queue = none ∨ h.scanning = true) → exec (.queueIdleExpiry i) s = .next s) ∧
      (s.cycle - h.idleSince < 100 * s.freq → exec (.queueIdleExpiry i) s = .next s) ∧
      (h.queue.isSome = true → h.scanning = false → 100 * s.freq ≤ s.cycle - h.idleSince →
        exec (.queueIdleExpiry i) s = .next (s.pendingOrder.foldl State.mapQueue s) ∧
        (s.pendingOrder = [q] → exec (.queueIdleExpiry i) s = exec (.queueMap q) s))) ∧
    ((∀ x, x ∈ s.pendingOrder ↔ ∃ y, (x, y) ∈ s.userQueues ∧ s.pendingQueue x y = true) ∧
      (SMap.Sorted s.userQueues → s.pendingOrder.Pairwise (fun a b =>
        ((s.userQueues.find? a).map (·.dbidx)).getD 0 ≤ ((s.userQueues.find? b).map (·.dbidx)).getD 0)))

/-- R32, R355 to R357, R388, R394: a core in an illegal state stops the issue of its cluster and has every resident group of the cluster
discarded, and of no other; issue goes on once they are and 4,000 cycles have passed; a second drain within a second of the last one, and no
later one, takes the cluster's datapaths out of service, which is measured and reported. -/
def Obligations.IllegalStatesDrainTheCluster : Prop :=
  ∀ (s : State) (core : Nat), core < 448 →
    let k := clusterOf core
    ((∀ since, s.lastDrain.find? k = some since → 1000000 * s.freq < s.cycle - since) →
      Answers (exec (.illegalStateCheck core) s) (fun t => s.SameMemory t ∧
      (∀ c, c < 448 → clusterOf c = k → (t.core c).drained = true) ∧
      (∀ c, c < 448 → clusterOf c ≠ k → (t.core c).drained = (s.core c).drained) ∧
      t.lastDrain.find? k = some s.cycle ∧ t.reports = s.reports ∧ t.mrs = s.mrs ∧ (∀ c, (t.core c).oos = (s.core c).oos) ∧
      ∀ j g, s.group? j = some g → t.group? j = some
        (if g.place = .resident ∧ g.core < 448 ∧ clusterOf g.core = k then { g with stopCause := some 7 } else g))) ∧
    (∀ since, s.lastDrain.find? k = some since → s.cycle - since ≤ 1000000 * s.freq →
      Answers (exec (.illegalStateCheck core) s) (fun t => s.SameMemory t ∧ t.reports = s.reports ++ [(3, k)] ∧
        (∃ item, t.mr 7 = shaBytes (s.mr 7 ++ shaBytes item)) ∧ t.lastDrain.find? k = some s.cycle ∧
        (∀ c, c < 448 → clusterOf c = k → (t.core c).drained = true) ∧
        ∀ c d, c < 448 → d < 4 → clusterOf c = k → d ∈ (t.core c).oos)) ∧
    (s.drainOver k = true → Answers (exec (.clusterDrainResume k true) s) (fun t => s.SameMemory t ∧ t.groups = s.groups ∧
      (∀ c, c < 448 → clusterOf c = k → (t.core c).drained = false) ∧
      ∀ c, clusterOf c ≠ k → t.core c = s.core c)) ∧
    (∀ ok, s.drainOver k = false → exec (.clusterDrainResume k ok) s = .next s)

/-! ### Memory controllers, links and endpoints -/

/-- R215, R233 to R236, R257, R258, R383, R384, R394: a bank keeps or closes its row by the counter of the row, a bank's slot refreshes it or uses
up its allowance, requests that find the bank in refresh or the stack in self-refresh are queued and served after it, a stack in
self-refresh is reported after 2 ms; a request goes under a key slot that holds a key, of which one is switched after 2^31 flit groups and
retired when no request names it; a link replays a flit eight times and then retrains once before it is lost, discards a flit that has
come before, and sends nothing after stop until go; another package's write is performed and acknowledged, and its acknowledgement performs
a store (R215). That a refresh slot in self-refresh does nothing, that rows stay open across it and
that a link retrains once between good flits are the model's readings (log 43), and so is how another package's traffic comes in (log 17). -/
def Obligations.ControllersAndLinks : Prop :=
  ∀ (s : State) (n bank row : Nat) (sl : Bool) (f : Flit),
    (∀ p st, p = s.pch n → st = s.stack (n / 65536) →
      let access := exec (.hbmAccess n bank ⟨row, sl⟩) s
      (bank < 16 → st.oos = false → (st.key sl).live = true →
        let u : State := s.setStack (n / 65536) (st.count sl)
        ((st.key sl).down < 2147483648 →
          (p.allBank = false → bank ∉ p.refreshing → st.selfRefresh = false →
            Answers access (fun t => s.SameMemory t ∧ t.stack (n / 65536) = st.count sl ∧
              (t.pch n).prevRow.find? bank = some row ∧ (t.pch n).served.find? bank = some s.cycle ∧
              (t.pch n).openRow.find? bank = (if 2 ≤ (t.pch n).policy.getD (policyEntry bank row) 2 then some row else none) ∧
              (∀ old, p.prevRow.find? bank = some old → (t.pch n).policy.getD (policyEntry bank old) 2 =
                if old = row then min 3 (p.policy.getD (policyEntry bank old) 2 + 1) else p.policy.getD (policyEntry bank old) 2 - 1) ∧
              (p.prevRow.find? bank = none → (t.pch n).policy = p.policy))) ∧
          (p.allBank = true ∨ bank ∈ p.refreshing ∨ st.selfRefresh = true →
            access = .next (u.setPch n { p with queue := p.queue ++ [(bank, row, sl)] }))) ∧
        (2147483648 ≤ (st.key sl).down →
          ((st.key (!sl)).live = true → access = .next s) ∧
          ((st.key (!sl)).live = false → st.slot = sl → p.allBank = true ∨ bank ∈ p.refreshing ∨ st.selfRefresh = true →
            access = .next ((s.setStack (n / 65536) ((st.switch).count (!sl))).setPch n
              { p with queue := p.queue ++ [(bank, row, !sl)] })))) ∧
      (bank < 16 → st.oos = false → (st.key sl).live = false → Answers access (fun t => s.SameMemory t ∧ t.pchs = s.pchs ∧
        ((t.stack (n / 65536)).replays = 1 ∨ ((t.stack (n / 65536)).replays = st.replays + 1 ∧ st.replays < 8) ∨ 8 ≤ st.replays))) ∧
      (st.oos = true → access = .next s) ∧
      (∀ b, ((st.count b).key b).down = (st.key b).down + 1 ∧ ((st.count b).key b).up = (st.key b).up + 1 ∧
        (st.count b).key (!b) = st.key (!b) ∧ (st.count b).slot = st.slot ∧ (st.count b).replays = 0 ∧ (st.count b).retrained = false) ∧
      ((st.switch).slot = (!st.slot) ∧ (st.switch).key (!st.slot) = { live := true } ∧ (st.switch).key st.slot = st.key st.slot) ∧
      (p.allBank = true ∨ st.selfRefresh = true ∨ st.oos = true →
        exec (.refreshSlot n) s = .next (s.setPch n { p with slot := p.slot + 1 })) ∧
      (p.allBank = false → st.selfRefresh = false → st.oos = false →
        let b := p.slot % 16
        let active : Prop := (∃ r ∈ p.queue, r.1 = b) ∨ ∃ c, p.served.find? b = some c ∧ s.cycle ≤ c + 3300
        Answers (exec (.refreshSlot n) s) (fun t => (t.pch n).slot = p.slot + 1 ∧ s.SameMemory t ∧
          (active →
            (0 < p.allowance.getD b 8 →
              (t.pch n).allowance.getD b 8 = p.allowance.getD b 8 - 1 ∧ (t.pch n).allBank = false) ∧
            (p.allowance.getD b 8 = 0 → (t.pch n).allBank = true ∧ ∀ b, (t.pch n).allowance.getD b 8 = 8)) ∧
          (¬ active → (t.pch n).refreshing = b :: p.refreshing ∧ (t.pch n).allBank = false ∧ (t.pch n).openRow.find? b = none ∧
            (t.pch n).allowance = p.allowance))) ∧
      Answers (exec (.refreshEnd n) s) (fun t => s.SameMemory t ∧ (t.pch n).refreshing = [] ∧ (t.pch n).allBank = false ∧
        (st.selfRefresh = true → (t.pch n).queue = p.queue) ∧
        (st.selfRefresh = false → (t.pch n).queue = [] ∧
          ∀ r q, p.queue = q ++ [r] → (t.pch n).prevRow.find? r.1 = some r.2.1 ∧ (t.pch n).served.find? r.1 = some s.cycle))) ∧
    (∀ x, x = s.stack n →
      (n < 8 → x.oos = false → x.selfRefresh = false → exec (.stackCriticalTemp n) s =
        .next (s.setStack n { x with selfRefresh := true, heldSince := some s.cycle })) ∧
      (x.selfRefresh = true → Answers (exec (.stackResume n) s) (fun t => s.SameMemory t ∧
        t.stack n = { x with selfRefresh := false, heldSince := none } ∧
        ∀ k p, k / 65536 = n → s.pchs.find? k = some p → ∃ q, t.pchs.find? k = some q ∧ q.allowance = [] ∧ q.queue = [] ∧
          (p.queue = [] → q = { p with allowance := [] }))) ∧
      (∀ since, x.heldSince = some since →
        (since + 2000 * s.freq < s.cycle → exec (.memoryStallEvent n) s = .next
          { s.setStack n { x with heldSince := some (since + 2000 * s.freq) } with
            outbox := s.outbox ++ [{ kind := .report, dest := n }] }) ∧
        (s.cycle ≤ since + 2000 * s.freq → exec (.memoryStallEvent n) s = .next s)) ∧
      (n < 8 → x.oos = false →
        let lost : State := { s.setStack n { x with oos := true, selfRefresh := false, heldSince := none } with
          reports := s.reports ++ [(6, n)] }
        exec (.stackOutOfService n) s = .next lost ∧
        (∀ ok, x.replays = 0 → Answers (exec (.stackLinkTagFail n ok) s) (fun t => (t.stack n).replays = 1)) ∧
        (∀ ok, Answers (exec (.stackLinkTagFail n ok) s) (fun t =>
          ((t.stack n).replays = 1 ∨ ((t.stack n).replays = x.replays + 1 ∧ x.replays < 8) ∨
            (8 ≤ x.replays ∧ if ok = true ∧ x.retrained = false
              then t.stack n = { x with replays := 0, retrained := true, key0 := { live := true }, key1 := { live := true } }
              else (t.stack n).oos = true ∧ t.reports = s.reports ++ [(6, n)])) ∧ s.SameMemory t)) ∧
        ((x.key (!x.slot)).live = false → exec (.keySwitch n) s = .next (s.setStack n x.switch)) ∧
        ((x.key (!x.slot)).live = true → exec (.keySwitch n) s = .next s)) ∧
      ((x.key (!x.slot)).live = true → s.slotUsed n (!x.slot) = false → Answers (exec (.keySlotRetire n) s) (fun t =>
        s.SameMemory t ∧ ((t.stack n).key (!x.slot)).live = false ∧ (t.stack n).key x.slot = x.key x.slot ∧ (t.stack n).slot = x.slot)) ∧
      ((x.key (!x.slot)).live = false ∨ s.slotUsed n (!x.slot) = true → exec (.keySlotRetire n) s = .next s) ∧
      (∀ k p r, s.pchs.find? k = some p → k / 65536 = n → r ∈ p.queue → s.slotUsed n r.2.2 = true)) ∧
    (∀ p, p = s.port n →
      (∀ room, n < 64 →
        (room ≤ 2 → exec (.thojanFlowControl n room) s = .next (s.setPort n { p with stopped := true })) ∧
        (2 < room → p.retraining = false → p.oos = false → Answers (exec (.thojanFlowControl n room) s) (fun t =>
          s.SameMemory t ∧ (t.port n).stopped = false ∧ (t.port n).tx = [] ∧ (t.port n).seq = p.seq + p.tx.length ∧
          t.outbox = s.outbox ++ ((List.range p.tx.length).zip p.tx).map (fun x => { x.2 with
            link := some (n, p.seq + x.1), crc := Config.flitCrc (p.seq + x.1) x.2.num x.2.data }) ∧
          (p.replay.length ≤ 64 → (t.port n).replay.length ≤ 64)))) ∧
      (p.retraining = true →
        (p.tx = [] → Answers (exec (.linkRetrain n true) s) (fun t => s.SameMemory t ∧
          t.outbox = s.outbox ++ p.replay.filter (fun m => p.nacks ≠ 0 && m.link.any (fun x => decide (p.nackSeq ≤ x.2))) ∧
          t.port n = { p with
            retraining := false, retrained := true, replays := 0, nacks := 0, nackRetrained := p.nackRetrained || decide (8 ≤ p.nacks) })) ∧
        (n < 64 → p.oos = false → (∀ m ∈ p.replay ++ p.tx, m.kind ≠ .collStep) → Answers (exec (.linkRetrain n false) s) (fun t =>
          (t.port n).oos = true ∧ (t.port n).retraining = false ∧ t.reports = s.reports ++ [(4, n)] ∧ s.SameMemory t))) ∧
      (n = f.port → n < 64 → p.oos = false → p.retraining = false →
        (f.crcOk = false →
          (p.replays < 8 → exec (.flitReceive f) s = .next (s.setPort n { p with replays := p.replays + 1 })) ∧
          (8 ≤ p.replays → p.retrained = false → exec (.flitReceive f) s = .next (s.setPort n { p with retraining := true })) ∧
          (8 ≤ p.replays → p.retrained = true → Answers (exec (.flitReceive f) s) (fun t => (t.port n).oos = true))) ∧
        (f.crcOk = true → f.seq ≠ p.expected → exec (.flitReceive f) s = .next s) ∧
        (f.crcOk = true → f.seq = p.expected →
          let good : State := s.setPort n { p with expected := p.expected + 1, replays := 0, retrained := false }
          let new : State := { good with seenFlits := (f.src, f.num) :: s.seenFlits }
          ((f.src, f.num) ∈ s.seenFlits → exec (.flitReceive f) s = .next good) ∧
          ((f.src, f.num) ∉ s.seenFlits →
            (f.load = .idle → exec (.flitReceive f) s = .next new) ∧
            (∀ key bs tag, f.load = .write key bs tag → destOf key = .memory → s.stackLost key = false → exec (.flitReceive f) s =
              .next ((new.setPhys (s.lineKey.getD (key / 64) 0) key (bs.take 64)).linkSend
                { kind := .remoteReply, dest := f.src, tag := tag, data := [0] })) ∧
            (∀ k bs bad id o e, f.load = .reply k bs bad → s.asks.find? k = some (.elem id 0 []) → s.ops.find? id = some o →
              o.kind = .store → o.elems = [e] → e.sent = true → e.performed = false → e.todo = [] →
              Answers (exec (.flitReceive f) s) (fun t => s.SameMemory t ∧ t.asks = s.asks.erase k ∧ t.ops.find? id = none)) ∧
            (∀ seq m, f.load = .nack seq → p.replay.find? (fun m => m.link = some (n, seq)) = some m →
              (p.nackSeq ≠ seq ∨ p.nacks < 8 → Answers (exec (.flitReceive f) s) (fun t => s.SameMemory t ∧
                t.outbox = s.outbox ++ [m] ∧ (t.port n).nacks = (if seq = p.nackSeq then p.nacks else 0) + 1)) ∧
              (p.nackSeq = seq → 8 ≤ p.nacks → Answers (exec (.flitReceive f) s) (fun t =>
                if p.nackRetrained then (t.port n).oos = true else (t.port n).retraining = true ∧ t.outbox = s.outbox))) ∧
            (∀ part r off bs c, f.load = .step part r off true bs → s.colls.find? part = some c →
              memberPkg c.members r ≠ Config.packageNumber % 512 → r < (parseColl c.desc).nmem → Answers (exec (.flitReceive f) s) (fun t =>
                s.SameMemory t ∧ ∃ d, t.colls.find? part = some d ∧
                  d = { c with arriving := c.arriving.insert r (mergeBytes (c.arriving.getD r []) off (bs.take 64)) }))))))

/-- R360, R364 to R366, R370: a request of an endpoint acts through its channel's context: a write or a read at the address that the walk
or a grant gives, an event where it names an event target, an atomic at the home; a read of another endpoint is sent on to it, and
answered when that answers; a request without a channel, or that the walk or the grants do not admit, is logged where it is posted and
else completes with Unsupported Request; a read or an atomic of another package's memory goes to that package. Nothing arrives at a port
that does not run (R359). -/
def Obligations.EndpointRequests : Prop :=
  ∀ (s : State) (r : EpRequest) (ch : Nat) (c : Channel),
    let need : Need := if r.write then .store else .load
    let n := if r.write then r.data.length else r.len
    let ur (w : Requester) (tag : Nat) : State := { s with
      outbox := s.outbox ++ [{ kind := .completionUR, dest := w.rid.toNat, tag := tag }] }
    let refused (why : IoReason) : Prop :=
      (r.write = false → exec (.endpointMemoryRequest r) s = .next (ur r.who r.tag)) ∧
      (r.write = true → s.ioLog.length < 1024 → exec (.endpointMemoryRequest r) s = .next { s with
        ioLog := s.ioLog ++ [({ rid := r.who.rid.toNat, pasid := (r.who.pasid.map BitVec.toNat).getD 0, addr := r.addr.toNat, reason := why } : IoEntry)] })
    (s.portUp r.who.port.toNat = false → exec (.endpointMemoryRequest r) s = .next s) ∧
    (s.portUp r.who.port.toNat = true → s.channelOf r.who = none → refused .noChannel) ∧
    (s.portUp r.who.port.toNat = true → s.channelOf r.who = some (ch, c) →
      (c.flr = true → refused .retired) ∧
      (c.flr = false → 0 < n → n ≤ 4096 → (r.write = true → n ≤ 512) →
        (∀ e, r.write = true → r.translated = false → r.addr.toNat = 0x01FFFFFFFFFF0000 + 16 * e → e < 256 →
          exec (.endpointMemoryRequest r) s = .next (s.postEvent e (.channel ch))) ∧
        (r.write = false ∨ eventTarget r.translated r.addr = none →
          (∀ why, s.reach c r.translated r.addr n need = .error why → refused why) ∧
          (∀ key owner, s.reach c r.translated r.addr n need = .ok (key, owner) → s.stackLost key = false →
            (r.write = true → (∀ i, i < n → destOf (key + i) = .memory) → Answers (exec (.endpointMemoryRequest r) s) (fun t =>
              t.getPhys owner key n = r.data ∧ t.groups = s.groups ∧ t.spad = s.spad ∧ t.outbox = s.outbox)) ∧
            (r.write = false → destOf key ≠ .endpoint → destOf key ≠ .remote → Answers (exec (.endpointMemoryRequest r) s) (fun t => s.SameMemory t ∧
              ∃ parts : List (List Byte), parts.flatten = s.getPhys owner key n ∧ (∀ d ∈ parts, d.length ≤ 128) ∧
                t.outbox = s.outbox ++ parts.map (fun d =>
                  { kind := .completion, dest := r.who.rid.toNat, tag := r.tag, data := d }))) ∧
            (r.write = false → destOf key = .endpoint → Answers (exec (.endpointMemoryRequest r) s) (fun t => s.SameMemory t ∧
              t.outbox = s.outbox ++ [s.endpointMsg false key s.nextId (leBytes 2 n)] ∧
              t.peerReads.find? s.nextId = some ⟨r.who.rid.toNat, r.tag, r.addr.toNat, false⟩)) ∧
            (r.write = false → destOf key = .remote → Answers (exec (.endpointMemoryRequest r) s) (fun t => s.SameMemory t ∧
              t.peerReads.find? s.nextId = some ⟨r.who.rid.toNat, r.tag, r.addr.toNat, false⟩ ∧
              t.asks.find? (s.nextId + 1) = some (.peer s.nextId))))))) ∧
    (∀ id lane q data, s.ops.find? id = none → s.peerReads.find? id = some q → q.core = false →
      Answers (exec (.endpointCompletion id lane true data) s) (fun t => t.peerReads = s.peerReads.erase id ∧
        (data.length ≤ 128 - q.addr % 128 → t.outbox =
          s.outbox ++ [{ kind := .completion, dest := q.rid, tag := q.tag, data := data }])) ∧
      exec (.endpointCompletion id lane false data) s = .next { s with
        peerReads := s.peerReads.erase id
        outbox := s.outbox ++ [{ kind := .completionUR, dest := q.rid, tag := q.tag }] }) ∧
    (∀ w translated op bytes addr x y tag, s.portUp w.port.toNat = true →
      (s.channelOf w = none → exec (.endpointAtomicop w translated op bytes addr x y tag) s = .next (ur w tag)) ∧
      (bytes ≠ 4 → bytes ≠ 8 → exec (.endpointAtomicop w translated op bytes addr x y tag) s = .next (ur w tag)) ∧
      (∀ key owner, s.channelOf w = some (ch, c) → c.flr = false → bytes = 4 ∨ bytes = 8 → addr.toNat % bytes = 0 →
        s.reach c translated addr bytes .atomic = .ok (key, owner) → (∀ i, i < bytes → destOf (key + i) = .memory) →
        s.stackLost key = false → (∀ i, i < bytes → key + i ∉ s.physBad) →
        let old := leNat (s.getPhys owner key bytes)
        let new := match op with
          | .fetchAdd => (old + x.toNat) % 2 ^ (8 * bytes)
          | .swap => x.toNat % 2 ^ (8 * bytes)
          | .cas => if old = y.toNat % 2 ^ (8 * bytes) then x.toNat % 2 ^ (8 * bytes) else old
        Answers (exec (.endpointAtomicop w translated op bytes addr x y tag) s) (fun t =>
          leNat (t.getPhys owner key bytes) = new ∧ t.groups = s.groups ∧ t.spad = s.spad ∧
          t.outbox = s.outbox ++ [{ kind := .completion, dest := w.rid.toNat, tag := tag, data := s.getPhys owner key bytes }])) ∧
      (∀ key owner, s.channelOf w = some (ch, c) → c.flr = false → bytes = 4 ∨ bytes = 8 → addr.toNat % bytes = 0 →
        s.reach c translated addr bytes .atomic = .ok (key, owner) →
        (destOf key = .remote → Answers (exec (.endpointAtomicop w translated op bytes addr x y tag) s) (fun t => s.SameMemory t ∧
          t.peerReads.find? s.nextId = some ⟨w.rid.toNat, tag, addr.toNat, false⟩ ∧ t.asks.find? (s.nextId + 1) = some (.peer s.nextId))) ∧
        (destOf key = .memory → (∃ i, i < bytes ∧ key + i ∈ s.physBad) →
          Answers (exec (.endpointAtomicop w translated op bytes addr x y tag) s) (fun t => s.SameMemory t ∧
            t.outbox = s.outbox ++ [{ kind := .completionUR, dest := w.rid.toNat, tag := tag }])))) ∧
    (∀ w tag, (s.portUp w.port.toNat = true → exec (.endpointUnsupportedRequest w tag) s = .next (ur w tag)) ∧
      exec (.intxMessage w) s = .next s) ∧
    (∀ id o e ok (data : List Byte), s.ops.find? id = some o → o.elems = [e] → o.kind = .load → e.lane = ch → e.sent = true →
      e.performed = false → e.todo ≠ [] → data.length = e.n →
      Answers (exec (.endpointCompletion id ch ok data) s) (fun t => s.SameMemory t ∧ t.groups = s.groups ∧
        (∃ o' e', t.ops.find? id = some o' ∧ o'.elems = [e'] ∧ e'.performed = true ∧
          e'.got = if ok then data else List.replicate (max 4 e.n) 0xFF)) ∧
      Answers (exec (.completionTimeout id ch) s) (fun t => s.SameMemory t ∧ t.aerLog.length = s.aerLog.length + 1 ∧
        (∃ o' e', t.ops.find? id = some o' ∧ o'.elems = [e'] ∧ e'.performed = true ∧
          e'.got = List.replicate (max 4 e.n) 0xFF)))

/-- R367 to R369: a translation request is answered by a walk of the channel's context, and its grant recorded; when a leaf changes its
grants are invalidated, and a completion, or a reset in its place, removes them; a retirement ends with it. A page request is queued for
firmware under its channel's binding; firmware answers its group after the last request, and maps no page of a group for which there are
not enough. That RETIRING is cleared with VALID is the model's reading (log 44). -/
def Obligations.GrantsAndPageRequests : Prop :=
  ∀ (s : State) (w : Requester) (addr : DWord) (tag n : Nat) (c : Channel),
    (s.portUp w.port.toNat = true → s.channelOf w = some (n, c) → s.channels.find? n = some c → c.atsEn = true →
      c.retiring = false → c.flr = false → addr.toNat < 2 ^ 57 →
      (s.walkLeaf (s.ctx c.ctx).root addr.toNat 5 = none → exec (.translationRequest w addr tag) s = .next { s with
        outbox := s.outbox ++ [{ kind := .translation, dest := w.rid.toNat, tag := tag, data := leBytes 10 0 }] }) ∧
      (∀ level p g, s.walkLeaf (s.ctx c.ctx).root addr.toNat 5 = some (level, p) → (p.pR = true ∨ p.pW = true) →
        g = (⟨addr.toNat / 2 ^ levelShift level * 2 ^ levelShift level, level, p.raw⟩ : Grant) → g ∉ c.grants →
        c.grants.length < 65536 → Answers (exec (.translationRequest w addr tag) s) (fun t => s.SameMemory t ∧
          t.channels.find? n = some { c with grants := c.grants ++ [g] } ∧
          t.outbox = s.outbox ++ [translationReply w tag (some (level, p))]))) ∧
    (s.portUp w.port.toNat = true → s.channelOf w = none → exec (.translationRequest w addr tag) s = .next { s with
      outbox := s.outbox ++ [{ kind := .completionUR, dest := w.rid.toNat, tag := tag }] }) ∧
    (∀ ctx va, (∀ e ∈ s.channels, e.2.grants.any (fun g => g.covers va) = false) →
      exec (.atsInvalidate ctx va) s = .next s) ∧
    (∀ ctx va gs, s.channels = [(n, c)] → c.valid = true → c.ctx = ctx → gs = c.grants.filter (fun g => g.covers va) → gs ≠ [] →
      exec (.atsInvalidate ctx va) s = .next { s with
        channels := [(n, { c with inval := c.inval ++ [some gs] })]
        outbox := s.outbox ++ [{ kind := .invalidate, dest := c.rid, tag := n, data := leBytes 8 ((gs.head?.map (·.va)).getD 0) }] }) ∧
    (s.channels.find? n = some c →
      (∀ gs rest, c.inval = some gs :: rest → c.flr = false → c.waiting = [] → Answers (exec (.invalidateCompletion n) s) (fun t =>
        s.SameMemory t ∧ t.outbox = s.outbox ∧ t.channels.find? n =
          some { c with inval := rest, grants := c.grants.filter (fun g => !gs.contains g) })) ∧
      (∀ rest, c.inval = none :: rest → c.flr = false → c.retiring = true → Answers (exec (.invalidateCompletion n) s) (fun t =>
        ∃ d, t.channels.find? n = some d ∧ d.valid = false ∧ d.retiring = false ∧ d.grants = [] ∧ d.inval = [] ∧ d.waiting = [])) ∧
      (c.inval = [] → exec (.invalidateCompletion n) s = .next s ∧ exec (.invalidateTimeout n) s = .next s) ∧
      (c.inval ≠ [] → c.flr = false → Answers (exec (.invalidateTimeout n) s) (fun t =>
        (∃ d, t.channels.find? n = some d ∧ d = { c with flr := true }) ∧
        t.outbox = s.outbox ++ [{ kind := .functionReset, dest := c.rid, tag := n }])) ∧
      (c.flr = false → exec (.flrComplete n) s = .next s) ∧
      (s.channels = [(n, c)] → c.flr = true → c.inval = [none] → c.retiring = true →
        Answers (exec (.flrComplete n) s) (fun t => ∃ d, t.channels.find? n = some d ∧ d.valid = false ∧ d.flr = false ∧
          d.grants = []))) ∧
    (∀ write prg last, s.portUp w.port.toNat = true →
      (s.channelOf w = some (n, c) → c.priEn = true → c.retiring = false → c.flr = false → s.pageReqs.length < 4096 →
        exec (.pageRequest w addr write prg last) s = .next { s with
          pageReqs := s.pageReqs ++ [⟨w, addr, write, prg, last, n, c.ctx⟩] }) ∧
      (s.channelOf w = none → s.ioLog.length < 1024 → exec (.pageRequest w addr write prg last) s = .next { s with
        ioLog := s.ioLog ++ [({ rid := w.rid.toNat, pasid := (w.pasid.map BitVec.toNat).getD 0, addr := addr.toNat, reason := .noChannel } : IoEntry)] })) ∧
    (∀ q pages, q.who = w → q.last = true → s.pageReqs = [q] → (s.ctxs.find? q.ctx).isSome = true →
      let answer (k : MsgKind) : Prop := exec (.pageRequestGroupResponse w q.prg pages) s = .next { s with
        pageReqs := []
        outbox := s.outbox ++ [{ kind := k, dest := w.rid.toNat, tag := q.prg }] }
      (s.requestState q.ctx q = some true → answer .pageSuccess) ∧ (s.requestState q.ctx q = some false → answer .pageInvalid) ∧
      (s.requestState q.ctx q = none →
        ((s.ctx q.ctx).demand q.addr.toNat = false → answer .pageInvalid) ∧
        ((s.ctx q.ctx).demand q.addr.toNat = true → (s.walk q.ctx q.addr.toNat).isOk = false → pages = [] → answer .pageFailure))) ∧
    (∀ q r pages, q.who = w → r.who = w → q.prg = r.prg → q.ch = r.ch → q.ctx = r.ctx → q.last || r.last → s.pageReqs = [q, r] →
      s.requestState q.ctx q = none → s.requestState q.ctx r = none → (s.ctx q.ctx).demand q.addr.toNat = true →
      (s.ctx q.ctx).demand r.addr.toNat = true → q.addr.toNat / 65536 ≠ r.addr.toNat / 65536 → (s.ctxs.find? q.ctx).isSome = true →
      pages.length ≤ 1 → Answers (exec (.pageRequestGroupResponse w q.prg pages) s) (fun t =>
        t.ctxs = s.ctxs ∧ t.channels = s.channels ∧ t.outbox = s.outbox ++ [{ kind := .pageFailure, dest := w.rid.toNat, tag := q.prg }])) ∧
    (∀ prg pages, (∀ q ∈ s.pageReqs, q.who = w → q.prg = prg → q.last = false) →
      exec (.pageRequestGroupResponse w prg pages) s = .next s)

/-! ### The root die, the root of trust and the management interface -/

/-- R385 to R387, R391 to R393: a replay that agrees ends a sample, and a second one tells a transient error from a faulty array; the
clock follows power in steps of 25 MHz and a hot die holds it at 1,000 MHz; a sanding pass leaves a page that is in no use reading 0 to its
new owner, with a receipt, or retires it. That the clock rises by steps after a die has cooled, and that CALTRANS and CALFAIL wrap, are the
model's readings (logs 47, 60). -/
def Obligations.CaliperPowerAndScrubbing : Prop :=
  ∀ (s : State) (id : Nat) (x : Sample) (crc : Word) (die watts : Nat),
    (s.samples.find? id = some x →
      (x.replays.length < 2 → x.start + 1000 * s.freq ≤ s.cycle → Answers (exec (.caliperReplay id crc) s) (fun t => s.SameMemory t ∧
        t.samples.find? id = none ∧ (t.core x.core).calSkip = (s.core x.core).calSkip + 1 ∧
        (t.core x.core).calSamp = (s.core x.core).calSamp)) ∧
      (∀ c, s.replayCore x = some c → x.replays = [] → s.cycle < x.start + 1000 * s.freq →
        (crc = x.sig → Answers (exec (.caliperReplay id crc) s) (fun t => t.samples.find? id = none ∧ s.SameMemory t ∧
          t.teams = s.teams ∧ (t.core x.core).calTrans = (s.core x.core).calTrans ∧
          ((s.core x.core).calSamp ≠ BitVec.allOnes 32 → (t.core x.core).calSamp = (s.core x.core).calSamp + 1))) ∧
        (crc ≠ x.sig → Answers (exec (.caliperReplay id crc) s) (fun t => s.SameMemory t ∧ t.teams = s.teams ∧
          t.samples.find? id = some { x with replays := [(c, crc)] }))) ∧
      (∀ a b c d, x.replays = [(c, a), (d, b)] →
        (b = x.sig → Answers (exec (.caliperVerdict id) s) (fun t => t.samples.find? id = none ∧ t.teams = s.teams ∧
          (t.core x.core).calTrans = (s.core x.core).calTrans + 1 ∧ (t.core x.core).arrayEn = (s.core x.core).arrayEn)) ∧
        (b ≠ x.sig → b = a → (s.core x.core).arrayEn ≠ 0 → (s.core x.core).calArrays = [] →
          Answers (exec (.caliperVerdict id) s) (fun t => t.samples.find? id = none ∧ s.SameMemory t ∧
            (t.core x.core).calFail = (s.core x.core).calFail + 1 ∧
            ∃ j, j < 4 ∧ (s.core x.core).arrayEn.getLsbD j = true ∧ (t.core x.core).calArrays = [j] ∧
              (t.core x.core).arrayEn = (s.core x.core).arrayEn &&& ~~~(BitVec.ofNat 4 (2 ^ j)) ∧
              t.reports = s.reports ++ [(0, x.core * 4 + j)]))) ∧
      (x.replays.length < 2 → x.start + 1000 * s.freq ≤ s.cycle → Answers (exec (.caliperTimeout id) s) (fun t =>
        t.samples.find? id = none ∧ (t.core x.core).calSkip = (s.core x.core).calSkip + 1)) ∧
      (s.cycle < x.start + 1000 * s.freq → exec (.caliperTimeout id) s = .next s)) ∧
    (s.critical = [] →
      let limit := s.powerCfg.toNat / 2 ^ 20
      let fmax := s.powerCfg.toNat / 2 ^ 8 % 2 ^ 12
      (limit < watts → 25 < s.freq → exec (.powerLimitStep watts) s = .next { s with freq := s.freq - 25 }) ∧
      (watts * 100 ≤ limit * 95 → s.freq ≤ fmax →
        exec (.powerLimitStep watts) s = .next { s with freq := min (s.freq + 25) fmax }) ∧
      (watts ≤ limit → limit * 95 < watts * 100 → exec (.powerLimitStep watts) s = .next s)) ∧
    (s.critical ≠ [] → exec (.powerLimitStep watts) s = .next s) ∧
    (die < 4 → die ∉ s.critical → exec (.dieCriticalTemp die) s = .next { s with
      critical := s.critical ++ [die], freq := 1000, reports := s.reports ++ [(7, die)] }) ∧
    (exec (.dieTempResume die) s = .next { s with critical := s.critical.filter (· ≠ die) }) ∧
    (∀ (ctx unit key : Nat) (size : BitVec 2) (owner : BitVec 8) (ok : Bool), size ≠ 3 → unitFits unit key = true →
      key % pageBytes size.toNat = 0 →
      (s.isRetired unit key (pageBytes size.toNat) = true ∨ s.pageInUse key (pageBytes size.toNat) = true ∨
        s.onLostStack key (pageBytes size.toNat) = true → exec (.sandingPass ctx unit key size owner ok) s = .next s) ∧
      (∀ r ∈ s.retired.getD unit [], key < r.1 + r.2 → r.1 < key + pageBytes size.toNat →
        s.isRetired unit key (pageBytes size.toNat) = true) ∧
      (s.isRetired unit key (pageBytes size.toNat) = false → s.pageInUse key (pageBytes size.toNat) = false →
        s.onLostStack key (pageBytes size.toNat) = false →
        ((s.ctx ctx).cap = 0 → Answers (exec (.sandingPass ctx unit key size owner true) s) (fun t =>
          (∀ i, i < pageBytes size.toNat → t.physByte owner (key + i) = 0 ∧ (key + i) ∉ t.physBad) ∧
          (∀ a, (a < key ∨ key + pageBytes size.toNat ≤ a) → t.rawByte a = s.rawByte a) ∧
          t.sandSeq.find? unit = some (s.sandSeq.getD unit 0 + 1) ∧ t.groups = s.groups)) ∧
        (Answers (exec (.sandingPass ctx unit key size owner false) s) (fun t =>
          t.retired.getD unit [] = (if (s.retired.getD unit []).length < 4096
            then s.retired.getD unit [] ++ [(key, pageBytes size.toNat)] else s.retired.getD unit []) ∧
          t.reports = s.reports ++ [(5, key)] ∧ t.sandSeq = s.sandSeq))))

/-- R5, R326, R359, R375, R376, R388 to R390, R395: once it runs, firmware writes root-die registers, whose reserved bits stay 0 and whose
measured ones extend MR3 where they change, as each image loaded into a system core extends MR2; a system core reaches memory, the
endpoints and the scratchpads; after loss of power nothing happens but a module reset, which boots from flash and fuses alone. That a
part without power stops, what a reset keeps, and that system cores act under owner 0 are the model's choices (logs 13, 46, 48). -/
def Obligations.RootDieAndReset : Prop :=
  ∀ (s : State) (v : Word) (p i key off core : Nat) (data : List Byte),
    (s.bootStep < 3 → (∀ reg, exec (.registerWrite reg v) s = .next s) ∧ ∀ a, exec (.systemCoreAccess a) s = .next s) ∧
    (3 ≤ s.bootStep →
    (1 ≤ v.toNat / 2 ^ 8 % 2 ^ 16 → 10 ≤ v.toNat % 32 → v.toNat % 32 ≤ 30 →
      exec (.registerWrite .schedcfg v) s = .next { s with schedcfg := v &&& 0x00FFFF1F }) ∧
    let measured (t : State) : Prop := (t.layoutItem = s.layoutItem → t.mrs = s.mrs) ∧
      (t.layoutItem ≠ s.layoutItem → t.mrs = s.mrs.insert 3 (shaBytes (s.mr 3 ++ shaBytes t.layoutItem)))
    (p < 4 → Answers (exec (.registerWrite (.portcfg p) v) s) (fun t => t.portCfg.find? p = some (v &&& 0x0000FF3C) ∧
      measured t ∧ s.SameMemory t)) ∧
    (p < 4 → Answers (exec (.registerWrite (.portspd p) v) s) (fun t => t.portSpd.find? p = some (v &&& 0xF0000000) ∧ measured t)) ∧
    (let kept : Prop := i = 0 ∨ i = 3 ∨ 16 ≤ i ∨ (i = 4 ∧ 32 < v.toNat % 256) ∨ (i = 5 ∧ (v = 0 ∨ 4096 < v.toNat));
      (kept → exec (.registerWrite (.partitionWord i) v) s = .next s) ∧
      (¬ kept → Answers (exec (.registerWrite (.partitionWord i) v) s) (fun t => t.partition.find? i = some
        (if i = 1 ∨ i = 14 ∨ i = 15 then 0 else if i = 4 then v &&& 0xFF else v) ∧ measured t))) ∧
    (exec (.registerWrite .errorLogClear v) s = .next { s with errorLog := [] }) ∧
    (exec (.registerWrite .ioLogClear v) s = .next { s with ioLog := [] }) ∧
    ((∀ i, i < data.length + 1 → destOf (key + i) = .memory) → Answers (exec (.systemCoreAccess (.store key data)) s) (fun t =>
      t.getPhys 0 key data.length = data ∧ t.spad = s.spad ∧ t.groups = s.groups)) ∧
    (destOf key = .memory → Answers (exec (.systemCoreAccess (.load key p)) s) (fun t => s.SameMemory t ∧
      t.outbox = s.outbox ++ [{ kind := .report, data := s.getPhys 0 key p }])) ∧
    (destOf key = .endpoint → Answers (exec (.systemCoreAccess (.load key p)) s) (fun t => s.SameMemory t ∧
      t.peerReads.find? s.nextId = some ⟨0, 0, key, true⟩ ∧ t.outbox = s.outbox ++ [s.endpointMsg false key s.nextId (leBytes 2 p)])) ∧
    (∀ id lane ok, s.ops.find? id = none → s.peerReads.find? id = some ⟨0, 0, key, true⟩ →
      Answers (exec (.endpointCompletion id lane ok data) s) (fun t => s.SameMemory t ∧ t.peerReads = s.peerReads.erase id ∧
        t.outbox = s.outbox ++ [{ kind := .report, data := if ok then data else List.replicate 8 0xFF }] ∧
        t.aerLog.length = s.aerLog.length + if ok then 0 else 1)) ∧
    (∀ value, destOf key = .memory → Answers (exec (.systemCoreAccess (.lr 0 true key)) s) (fun t => s.SameMemory t ∧
        t.lrWords.find? 0 = some (key, 8) ∧ t.outbox = s.outbox ++ [{ kind := .report, data := s.getPhys 0 key 8 }]) ∧
      (s.lrWords.find? 0 = some (key, 8) → Answers (exec (.systemCoreAccess (.sc 0 true key value)) s) (fun t =>
        t.getPhys 0 key 8 = leBytes 8 value.toNat ∧ t.lrWords.find? 0 = none ∧
        t.outbox = s.outbox ++ [{ kind := .report, data := leBytes 8 0 }])) ∧
      (s.lrWords.find? 0 ≠ some (key, 8) → Answers (exec (.systemCoreAccess (.sc 0 true key value)) s) (fun t => s.SameMemory t ∧
        t.lrWords.find? 0 = none ∧ t.outbox = s.outbox ++ [{ kind := .report, data := leBytes 8 1 }]))) ∧
    (Answers (exec (.systemCoreAccess (.register .schedcfg)) s) (fun t => s.SameMemory t ∧
      t.outbox = s.outbox ++ [{ kind := .report, data := leBytes 4 s.schedcfg.toNat }])) ∧
    (Answers (exec (.systemCoreAccess (.channel p)) s) (fun t => s.SameMemory t ∧
      t.outbox = s.outbox ++ [{ kind := .report, data := leBytes 8 (s.channel p).entry.toNat }])) ∧
    (core < 448 → off + data.length ≤ 393216 → Answers (exec (.systemCoreAccess (.spadStore core off data)) s) (fun t =>
      Written s.spadByte t.spadByte (core * 524288 + off) data ∧ t.phys = s.phys)) ∧
    (core < 448 → off + p ≤ 393216 → Answers (exec (.systemCoreAccess (.spadLoad core off p)) s) (fun t => s.SameMemory t ∧
      t.outbox = s.outbox ++ [{ kind := .report, data := s.getSpad (core * 524288 + off) p }])) ∧
    (exec (.systemCoreAccess .fence) s = .next s) ∧
    (exec (.systemCoreAccess (.loadImage data)) s = .next { s with mrs := s.mrs.insert 2 (shaBytes (s.mr 2 ++ shaBytes data)) })) ∧
    (∀ a e, exec (.i3cDynamicAddressAssignment a) s = .next { s with i3cAddr := some a } ∧
      exec (.mctpEndpointIdAssignment e) s = .next { s with mctpEid := some e }) ∧
    (exec .powerLoss s = .next { s with powered := false }) ∧
    (s.powered = false → (∀ n e rest, s.agenda = (n, e) :: rest → (∀ a b c, e ≠ .moduleReset a b c) → step s = .fault .poweredOff) ∧
      (s.agenda = [] → step s = .fault .poweredOff)) ∧
    (∀ a b c, Answers (exec (.moduleReset a b c) s) (fun t =>
      t.groups = [] ∧ t.grids = [] ∧ t.ctxs = [] ∧ t.phys = [] ∧ t.spad = [] ∧ t.powered = true ∧ t.sessions = [] ∧
      t.laneWords = s.laneWords ∧ t.nextLeaf = s.nextLeaf ∧ t.operatorKey = s.operatorKey ∧ t.ownerPub = s.ownerPub ∧
      t.retired = s.retired ∧ t.images = s.images ∧ t.boots = s.boots + 1 ∧ t.nextGrid = 1 ∧ t.nextTicket = 1 ∧
      t.schedcfg = State.reset.schedcfg ∧ t.powerCfg = State.reset.powerCfg ∧
      t.booted = ((a || b) && c) ∧ (a = false → b = false → t.bootStep = 2) ∧ (a || b → c = false → t.bootStep = 4) ∧
      ((a || b) && c → t.bootStep = 7 ∧ t.slotB = !a ∧
        t.mr 1 = shaBytes (List.replicate 32 0 ++ shaBytes ((if a then 0x41 else 0x42) :: s.image (!a))) ∧
        t.mr 3 = shaBytes (List.replicate 32 0 ++ shaBytes t.layoutItem) ∧
        t.partition.find? 0 = some 1 ∧ (∃ w, t.partition.find? 4 = some w ∧ w.toNat ≤ 32) ∧
        (∃ w, t.partition.find? 5 = some w ∧ 1 ≤ w.toNat ∧ w.toNat ≤ 4096) ∧
        ∀ n, t.portDown.contains n = true → t.portUp n = false)))

/-- R390, R395 to R397: the management interface. A session is opened by HELLO and AUTH, counts its messages each way and ends with one
out of order; a command is done for the principals that may give it, and else denied; firmware answers once it has booted, one request of
a session at a time; an exhausted identity key leaves the commands outside a session and the answer to EVIDENCE. What an answer is where no
rule gives its STATUS, which memory firmware places and how an image is cut into requests are the model's (log 59). -/
def Obligations.ManagementCommands : Prop :=
  ∀ (s h : State) (r : MgmtReq) (o : BitVec 8) (k : BitVec 8) (c : Nat) (x : Session) (v : Word) (data : List Byte) (m : SeqBytes),
    let op : Prop := s.Serves r .operator
    let own : Prop := s.Serves r (.owner o)
    let ctxOwned : Prop := ∃ y, s.ctxs.find? c = some y ∧ y.owner = o
    h = s.heard r →
    -- sessions
    (∀ n counter, s.sessions.find? n = some x →
      (counter = x.counter → exec (.managementMessage n true counter) s = .next { s with
        sessions := s.sessions.insert n { x with counter := counter + 1, last := s.cycle } }) ∧
      (counter ≠ x.counter → exec (.managementMessage n true counter) s = .next { s with sessions := s.sessions.erase n }) ∧
      (exec (.managementMessage n false counter) s = .next { s with sessions := s.sessions.erase n }) ∧
      (x.last + 60000000 * s.freq ≤ s.cycle → exec (.sessionIdleTimeout n) s = .next { s with sessions := s.sessions.erase n }) ∧
      (s.cycle < x.last + 60000000 * s.freq → exec (.sessionIdleTimeout n) s = .next s) ∧
      (∀ p key, x.principal = none → s.keyOf p = some key →
        (Config.ed25519Ok key x.transcript m.bytes = true → Answers (exec (.auth n p m) s) (fun t =>
          t.sessions.find? n = some { x with principal := some p, counter := 0, sent := 0, last := s.cycle, keyIn := Config.sessionKey n x.transcript false, keyOut := Config.sessionKey n x.transcript true } ∧
          t.outbox = s.outbox ++ [{ kind := .mgmt 0, dest := n, tag := m.seq.toNat }])) ∧
        (Config.ed25519Ok key x.transcript m.bytes = false → Answers (exec (.auth n p m) s) (fun t =>
          t.sessions.find? n = none ∧ t.outbox = s.outbox ++ [{ kind := .mgmt 2, dest := n, tag := m.seq.toNat }])))) ∧
    (∀ n p, s.sessions.find? n = none →
      exec (.auth n p m) s = .next (s.repliedFree m.seq 2) ∧ ∀ tag counter, exec (.managementMessage n tag counter) s = .next s) ∧
    (∀ n share, share.length = 32 → m.bytes.length = 32 → s.nextLeaf < 1048576 → freeNumber s.sessions 4 = some n →
      Answers (exec (.hello share m) s) (fun t => t.nextLeaf = s.nextLeaf + 1 ∧
        (∃ d, t.outbox = s.outbox ++ [{ kind := .mgmt 0, dest := n, tag := m.seq.toNat, data := d }]) ∧
        ∃ y, t.sessions.find? n = some y ∧ y.principal = none ∧ y.counter = 0 ∧ y.sent = 0 ∧ y.last = s.cycle)) ∧
    (∀ share, share.length = 32 → m.bytes.length = 32 →
      (s.nextLeaf < 1048576 → freeNumber s.sessions 4 = none → exec (.hello share m) s = .next (s.repliedFree m.seq 5)) ∧
      (1048576 ≤ s.nextLeaf → exec (.hello share m) s = .next (s.repliedFree m.seq 4))) ∧
    (Answers (exec .cert s) (fun t => s.SameMemory t ∧ t.sessions = s.sessions ∧
      ∃ tag d, t.outbox = s.outbox ++ [{ kind := .mgmt 0, tag := tag, data := d }])) ∧
    (m.bytes.length = 32 → s.operatorKey = none →
      exec (.operatorSet none m) s = .next ({ s with operatorKey := some m.bytes }.repliedFree m.seq 0)) ∧
    (s.operatorKey.isSome = true → exec (.operatorSet none m) s = .next (s.repliedFree m.seq 2)) ∧
    (s.Session r .operator → m.bytes.length = 32 →
      exec (.operatorSet (some r) m) s = .next ({ h with operatorKey := some m.bytes }.replied r 0 [])) ∧
    (s.Session r (.owner o) → s.operatorKey.isSome = true → exec (.operatorSet (some r) m) s = .next (h.replied r 2 [])) ∧
    -- commands of the root of trust
    (∀ p, s.Good r p → ¬ s.Outstanding r → data.length = 32 →
      (s.nextLeaf < 1048576 → Answers (exec (.evidence r data) s) (fun t => t.nextLeaf = s.nextLeaf + 1 ∧
        ∃ ev, t.outbox = s.outbox ++ [{ kind := .mgmt 0, dest := r.session, tag := r.seq.toNat, data := ev }])) ∧
      (1048576 ≤ s.nextLeaf → exec (.evidence r data) s = .next (h.replied r 4 []))) ∧
    (s.Session r (.owner o) →
      (∀ mr : BitVec 4, 9 ≤ mr.toNat → data.length ≤ 4096 → exec (.measure r mr data) s = .next
        ({ h with mrs := s.mrs.insert mr.toNat (shaBytes (s.mr mr.toNat ++ shaBytes data)) }.replied r 0 [])) ∧
      (data.length = 32 → exec (.receiptCheck r data) s = .next
        (h.replied r 0 [if receiptTag s.boots (data.take 16) = data.drop 16 then 1 else 0])) ∧
      (exec (.ownerErase r k) s = .next (h.replied r 2 []) ∧ exec (.ownerRegister r k data) s = .next (h.replied r 2 []) ∧
        exec (.ownerInstall r k) s = .next (h.replied r 2 []) ∧ exec (.reset r) s = .next (h.replied r 2 []))) ∧
    (s.Session r .operator → k ≠ 0 →
      (data.length = 32 → exec (.ownerRegister r k data) s = .next
        ({ h with ownerPub := s.ownerPub.insert k.toNat data }.replied r 0 [])) ∧
      (s.Unmapped k →
        (Answers (exec (.ownerInstall r k) s) (fun t => t.ownerKeys.find? k.toNat = some true ∧ t.spad = s.spad ∧
          (∀ a, (∀ e ∈ s.lineKey, e.1 = a / 64 → e.2 ≠ k) → t.rawByte a = s.rawByte a) ∧
          t.outbox = s.outbox ++ [{ kind := .mgmt 0, dest := r.session, tag := r.seq.toNat }])) ∧
        (Answers (exec (.ownerErase r k) s) (fun t => t.ownerKeys.find? k.toNat = none ∧ t.spad = s.spad ∧
          (∀ a, (∀ e ∈ s.lineKey, e.1 = a / 64 → e.2 ≠ k) → t.rawByte a = s.rawByte a) ∧
          t.outbox = s.outbox ++ [{ kind := .mgmt 0, dest := r.session, tag := r.seq.toNat }]))) ∧
      (¬ s.Unmapped k →
        let refused := ({ h with reports := s.reports ++ [(8, k.toNat)] } : State).replied r 6 []
        exec (.ownerInstall r k) s = .next refused ∧ exec (.ownerErase r k) s = .next refused) ∧
      (Answers (exec (.reset r) s) (fun t => t.groups = [] ∧ t.phys = [] ∧ t.sessions = [] ∧ t.nextLeaf = s.nextLeaf ∧
        t.outbox.getLast? = some { kind := .mgmt 0, dest := r.session, tag := r.seq.toNat }))) ∧
    (∀ cmd, exec (.unknownCommand r cmd) s = .next (s.replied r 3 [])) ∧
    -- what firmware does not answer, and what it answers before it has booted
    (∀ p, s.Good r p →
      (s.booted = false ∨ 1048576 ≤ s.nextLeaf → exec (.powerSet r v) s = .next h ∧ exec (.reportRead r) s = .next h) ∧
      (s.booted = true → s.bootStep < 7 → s.nextLeaf < 1048576 → ¬ s.Outstanding r →
        exec (.powerSet r v) s = .next (h.replied r 7 []) ∧ exec (.reportRead r) s = .next (h.replied r 7 []))) ∧
    (∀ p, s.sessions.find? r.session = some x → x.principal = some p → r.tagOk = false ∨ r.counter ≠ x.counter →
      let ended : State := { s with sessions := s.sessions.erase r.session }
      exec (.powerSet r v) s = .next ended ∧ exec (.evidence r data) s = .next ended ∧ exec (.reportRead r) s = .next ended) ∧
    -- commands of the firmware
    (op →
      (∀ quota sizes db rep cap n, k ≠ 0 → cap ≠ 0 → cap ≤ 1048576 → db % 268435456 = 0 → db < 2 ^ 57 →
        rep % 64 = 0 → rep + 32 + 32 * cap ≤ 2 ^ 57 → rep + 32 + 32 * cap ≤ db ∨ db + 268435456 ≤ rep →
        freeNumber s.ctxs s.contextLimit = some n →
        (quota ≤ s.spareSlots.length → Answers (exec (.contextCreate r k quota sizes db rep cap) s) (fun t => t.groups = s.groups ∧
          ((∃ y, t.ctxs.find? n = some y ∧ y.owner = k ∧ y.dbbase.toNat = db ∧ y.quota = s.spareSlots.take quota ∧
              y.report = rep ∧ y.cap = cap ∧ y.recordBytes = sizes.records ∧ y.root = s.tableNext ∧
              t.outbox.getLast? =
                some { kind := .mgmt 0, dest := r.session, tag := r.seq.toNat, data := leBytes 4 n ++ leBytes 8 rep }) ∨
            (t.ctxs.find? n = none ∧ t.outbox.getLast? = some { kind := .mgmt 5, dest := r.session, tag := r.seq.toNat })))) ∧
        (s.spareSlots.length < quota → exec (.contextCreate r k quota sizes db rep cap) s = .next (h.replied r 5 []))) ∧
      (∀ ch entry, ch < 4096 → entry.toNat % 128 = 0 → s.channels = [] →
        (entry.msb = true → entry.getLsbD 60 = false → exec (.channelBind r ch entry) s =
          .next (({ h with channels := [(ch, { entry := entry })] }).replied r 0 [])) ∧
        (entry.msb = true → entry.getLsbD 60 = true → exec (.channelBind r ch entry) s =
          .next (({ h with
            channels := [(ch, { entry := entry, allocation := 256 })]
            outbox := s.outbox ++ [{ kind := .pageAllocation, dest := bitsAt entry.toNat 23 16, tag := ch, data := leBytes 4 256 }] } : State).replied r 0 [])) ∧
        (entry.msb = false → exec (.channelBind r ch entry) s =
          .next (({ h with channels := [(ch, { entry := entry })] }).replied r 0 []))) ∧
      (∀ ch entry old, ch < 4096 → entry.toNat % 128 = 0 → entry.msb = true → entry.getLsbD 60 = false → s.channels = [(ch, old)] →
        exec (.channelBind r ch entry) s =
          .next (({ h with channels := [(ch, { old with entry := entry, allocation := 0 })] }).replied r 0 [])) ∧
      (∀ ch, (s.channel ch).valid = false → exec (.channelRetire r ch) s = .next (h.replied r 3 [])) ∧
      (∀ ch, (s.channel ch).valid = true → exec (.channelRetire r ch) s = .next ((h.beginRetire ch).replied r 0 [])) ∧
      (exec (.powerSet r v) s = .next ((h.writePower v).replied r 0 [])) ∧
      (exec (.caliperSet r v) s = .next ((h.writeCaliper v).replied r 0 [])) ∧
      (∀ u t, h.takeOut u = some t → exec (.outOfService r u) s = .next (t.replied r 0 [])) ∧
      (∀ u, h.takeOut u = none → exec (.outOfService r u) s = .next (h.replied r 3 [])) ∧
      (exec (.reportRead r) s = .next
        (h.replied r 0 (s.partitionBytes ++ s.reports.flatMap (fun y => leBytes 4 y.1 ++ leBytes 8 y.2)))) ∧
      (let slot := if s.slotB then 0 else 1;
        data.length ≤ 4096 →
        exec (.imageWrite r ⟨0, data⟩) s = .next ({ h with images := s.images.insert slot data }.replied r 0 []) ∧
        (∀ old, s.images.find? slot = some old → old ≠ [] → old.length + data.length ≤ 100663296 →
          exec (.imageWrite r ⟨old.length, data⟩) s =
            .next ({ h with images := s.images.insert slot (old ++ data) }.replied r 0 []))) ∧
      (4096 < data.length → ∀ off, exec (.imageWrite r ⟨off, data⟩) s = .next (h.replied r 3 [])) ∧
      (exec (.logRead r .faults) s = .next (h.replied r 0 s.faultQueue.flatten)) ∧
      (exec (.logRead r .errors) s = .next (h.replied r 0 s.errorLog.flatten))) ∧
    (own → ctxOwned →
      ((∀ e ∈ s.grids, e.2.ctx ≠ c) → (∀ e ∈ s.channels, e.2.ctx ≠ c) → (∀ e ∈ s.ops, e.2.ctx ≠ c) → (∀ e ∈ s.copies, e.2.ctx ≠ c) →
        (∀ e ∈ s.colls, e.2.ctx ≠ c) → (∀ e ∈ s.cores, e.2.unhomed = []) → Answers (exec (.contextDestroy r c) s) (fun t =>
          t.ctxs.find? c = none ∧ (∀ e ∈ t.workQueues, e.2.ctx ≠ some c) ∧ (∀ e ∈ t.userQueues, e.2.ctx ≠ c) ∧
          ((∃ e ∈ s.ctxs, e.1 ≠ c ∧ e.2.owner = o) → s.SameMemory t ∧ t.ownerKeys = s.ownerKeys) ∧
          ((∀ e ∈ s.ctxs, e.1 ≠ c → e.2.owner ≠ o) → t.ownerKeys.find? o.toNat = none ∧ t.spad = s.spad ∧
            ∀ a, (∀ e ∈ s.lineKey, e.1 = a / 64 → e.2 ≠ o) → t.rawByte a = s.rawByte a) ∧
          t.outbox = s.outbox ++ [{ kind := .mgmt 0, dest := r.session, tag := r.seq.toNat }])) ∧
      (∀ n gr, s.grids.find? n = some gr → gr.ctx = c → gr.terminating = false →
        Answers (exec (.contextDestroy r c) s) (fun t =>
          (∃ g, t.grids.find? n = some g ∧ g.terminating = true) ∧ t.agenda = s.agenda ++ [(1, .contextDestroy r c)] ∧
          (t.ctx c).destroying = some r)) ∧
      (∀ va level pte, va < 2 ^ 57 → level ≤ 2 → Pte.malformed ⟨pte⟩ level = false → Pte.leaf ⟨pte⟩ = true →
        Pte.windowOk ⟨pte⟩ = true → Pte.owner ⟨pte⟩ = (s.ctx c).owner →
        let size := 2 ^ levelShift level
        let key := physKey (Pte.tier ⟨pte⟩) (Pte.addr ⟨pte⟩)
        let maps := exec (.map r c (.leaf va level pte)) s
        let refused : Prop := maps = .next (h.replied r 5 [])
        let kick : Prop := 0x000FFFFFE0000000 ≤ Pte.addr ⟨pte⟩ ∧ Pte.addr ⟨pte⟩ < 0x000FFFFFF0000000 ∧ Pte.tier ⟨pte⟩ = 2
        let shared : Prop := destOf key ≠ .memory ∨
          (s.mappedBy key (pageBytes level) ≠ [] ∧ ∀ k ∈ s.mappedBy key (pageBytes level), k = (s.ctx c).owner)
        ((s.ctx c).window (va / size * size) size = true ∨ kick → maps = .next (h.replied r 3 [])) ∧
        ((s.ctx c).window (va / size * size) size = false → ¬ kick →
          (s.onLostStack key (pageBytes level) = true ∨ h.tableFor (s.ctx c).root va level 5 = none → refused) ∧
          (s.onLostStack key (pageBytes level) = false → ∀ a u, h.tableFor (s.ctx c).root va level 5 = some (a, u) →
            (shared → maps =
              .next (((u.setPhys 0 a (leBytes 8 pte.toNat)).invalidateRange c (va / size * size) size).replied r 0 [])) ∧
            (destOf key = .memory → (∃ k ∈ s.mappedBy key (pageBytes level), k ≠ (s.ctx c).owner) → refused) ∧
            (destOf key = .memory → s.mappedBy key (pageBytes level) = [] →
              (s.pageInUse key (pageBytes level) = true ∨ s.isRetired (scrubUnit key) key (pageBytes level) = true → refused) ∧
              (s.pageInUse key (pageBytes level) = false → s.isRetired (scrubUnit key) key (pageBytes level) = false →
                (Config.freeChoice s.fresh = true → ∀ t,
                  (State.sand { h with fresh := s.fresh + 1 } c (scrubUnit key) key level (s.ctx c).owner true).changeLeaf c va level pte =
                    some t → maps = .next (t.replied r 0 [])) ∧
                (Config.freeChoice s.fresh = false → Answers maps (fun t => t.groups = s.groups ∧
                  ∃ st, (st = 0 ∨ st = 5 ∨ st = 6) ∧
                    t.outbox.getLast? = some { kind := .mgmt st, dest := r.session, tag := r.seq.toNat }))))))) ∧
      (∀ lo hi, lo < hi → hi ≤ 2 ^ 57 → exec (.map r c (.onDemand lo hi)) s = .next
        ((h.setCtx c { s.ctx c with onDemand := (s.ctx c).onDemand ++ [(lo, hi)] }).replied r 0 [])) ∧
      (exec (.eventBind r k c) s = .next
        ((h.setEvent k.toNat { ctx := some c, waiters := (s.event k.toNat).waiters }).replied r 0 [])) ∧
      (∀ q size, q < 256 → 64 ≤ size → size ≤ 65536 → exec (.wqBind r q c size) s = .next
        ({ h with workQueues := s.workQueues.insert q { ctx := some c, size := size } }.replied r 0 [])) ∧
      (∀ q n, parseQcb data = some q → q.ctx = c → freeNumber s.userQueues 65536 = some n →
        let placed := h.changeLeaf c ((s.ctx c).dbbase.toNat + 65536 * q.dbidx) 0
          (BitVec.ofNat 64 (0x000FFFFFE0000000 + 65536 * q.dbidx + 0x617))
        (∀ t, placed = some t → exec (.queueCreate r c data) s =
          .next ({ t with userQueues := s.userQueues.insert n q }.replied r 0 (leBytes 4 q.dbidx))) ∧
        (placed = none → exec (.queueCreate r c data) s = .next (h.replied r 5 []))) ∧
      (exec (.powerSet r v) s = .next (h.replied r 2 []) ∧ exec (.reportRead r) s = .next (h.replied r 2 []))) ∧
    (own → ¬ ctxOwned → exec (.eventBind r k c) s = .next (h.replied r 2 [])) ∧
    -- one request of a session at a time
    (∀ p, s.Good r p → s.Outstanding r → s.booted = true → s.nextLeaf < 1048576 →
      exec (.powerSet r v) s = .next (h.replied r 1 []) ∧ exec (.evidence r data) s = .next (h.replied r 1 []))

/-- R27, R35, R37, R55, R59: a step in which the word of a group issues runs the instruction that the words at its PC decode to, with the
REGION after it where it is a commit-class word that has made its Commit(), and nothing else but what follows an issue; where they decode
to none, or the word is an L word in the last slot of its fetch block, the group faults, with the bad target of a branch first. What the
turn and the agenda say is the model's (log 2), and so is which target an illegal branch has (log 52). -/
def Obligations.StepRunsTheDecodedWord : Prop :=
  (∀ (s u : State) (k : Nat) (g : Group), s.powered = true → s.agenda = [] → s.turn = .issue k →
    u = { s with turn := .any } → u.group? k = some g → g.place = .resident → g.issues = true → u.Undisturbed k g →
    (∀ (w v : DWord), g.pairRegion = none → g.pc.toNat % 8 = 0 → u.isLiteral k g.pc = false → u.fetchWord k g.pc = .ok w →
      let late : Prop := (w.extractLsb' 62 2).toNat = 2 ∧ g.pc.toNat % 64 = 56
      let illegal (lit : Lit) (st : Host.Outcome State Fault Refusal) : Prop :=
        (u.badLoose k g w lit = none → ∃ b, st = .next (u.systemFault k g { cause := 1, pc := g.pc, slot := b })) ∧
        (∀ a, u.badLoose k g w lit = some a → st = .next (u.systemFault k g { cause := 5, pc := g.pc, addr := a }))
      ((w.extractLsb' 62 1).toNat = 1 ∨ ¬ (0x12 ≤ (Fields.split w).opc.toNat ∧ (Fields.split w).opc.toNat ≤ 0x17) →
        ∀ lit, u.badLoose k g w lit = none) ∧
      (late → illegal none (step s)) ∧
      (¬ late → illegalPrefix w = true → step s = .next (u.systemFault k g { cause := 4, pc := g.pc })) ∧
      (¬ late → illegalPrefix w = false → (takesTwo w = true → u.fetchWord k (g.pc + 8) = .ok v) → (takesTwo w = false → v = 0) →
        (∀ i, decode w v = .ok i →
          let now : State := { u.noteFetch k g.pc i with cur := k }
          (∀ t, exec i now = .next t →
            (Instr.isCommit i = false → step s = .next (t.afterIssue k g i)) ∧
            (Instr.isCommit i = true →
              step s = ((t.afterIssue k g i).keepRegion k (u.regionAfter k g i)).issuePair k exec)) ∧
          (∀ f, exec i now = .fault f → step s = .fault f) ∧ (∀ r, exec i now = .refused r → step s = .refused r)) ∧
        (decode w v = .error .illegalInstruction → illegal (if takesTwo w then some v else none) (step s)) ∧
        (∀ e, decode w v = .error e → e ≠ .illegalInstruction → step s = .next (u.systemFault k g
          { cause := (if e = .illegalPairing then 3 else 4), pc := g.pc })))) ∧
    (∀ r t, g.pairRegion = some r → exec r { u with cur := k } = .next t → step s = .next (t.afterIssue k g r))) ∧
  (∀ (s : State) (k : Nat) (g : Group) (r : Option Instr), s.group? k = some g → g.place = .resident → g.hold = .ready →
    g.pairPending = true →
    ((s.keepRegion k r).group? k = some { g with pairRegion := r } ∧ s.SameMemory (s.keepRegion k r)) ∧
    (∀ i t, g.pairRegion = some i → exec i { s with cur := k } = .next t → s.issuePair k exec = .next (t.afterIssue k g i)) ∧
    (g.pairRegion = none → s.issuePair k exec = .next s)) ∧
  (∀ (s : State) (k : Nat) (a : DWord) (key : Nat) (p : Pte), s.translate (s.coreOf k) (s.ctxOf k) a.toNat .fetch = .ok (key, p) →
    s.icache.find? (gridOf k * 2 ^ 57 + a.toNat) = none →
    s.fetchWord k a = .ok (BitVec.ofNat 64 (leNat (s.getPhys p.owner key 8)))) ∧
  (∀ (s : State) (k : Nat) (a : DWord) (i : Instr), let t := s.noteFetch k a i
    t.groups = s.groups ∧ t.phys = s.phys ∧ t.spad = s.spad ∧ t.cores = s.cores ∧ t.cycle = s.cycle ∧ t.agenda = s.agenda) ∧
  (∀ (s : State) (k : Nat) (g h : Group) (i : Instr), s.group? k = some h → h.singleStep = false → (∀ n l, i ≠ .region n l) →
    s.afterIssue k g i = s) ∧
  (∀ (s : State) (i : Instr) (rest : List (Nat × Instr)), s.powered = true → s.agenda = (0, i) :: rest →
    (encode i = none → step s = exec i { s with agenda := rest }) ∧
    ((∃ ws, encode i = some ws) → step s = .next { s with agenda := rest }))

/-- R35, R38 to R40, R44 and the encoding of each opcode: words written out from the specification decode to the instructions they stand
for. -/
def Obligations.SpecifiedWordsDecode : Prop :=
  decodeTableWord 64 0x0B821200CE800000 = some (.loop (.s 9) (.int 0x1D) ⟨0, none⟩) ∧
  decodeTableWord 64 0x0CAA29A084000000 = some (.maskop (.range (.int 0x20) (.s 8)) (.s 20) ⟨0, none⟩) ∧
  decodeTableWord 64 0x5C10040488340DA3 = some (.pWord ⟨.vfaddF32, 8, .v 4, .v 9⟩ ⟨.vmulI32, 13, .v 6, .int 0x23⟩) ∧
  decodeTableWord 64 0x401008D0C02407C3 = some (.pWord ⟨.vaddI32, 8, .v 8, .int 0x21⟩ ⟨.vfmulF32, 9, .v 3, .fp 3⟩) ∧
  decodeTableWord 64 0x20900E0300000400 =
    some (.cvt8 (.e4m3f32 true .rtz) ⟨false, .v 7, .v 3, .v 0, .v 0, ⟨0, none⟩⟩) ∧
  decodeTableWord 64 0x19800A0201010000 = some (.vfma .f32 false false .rne ⟨false, .v 5, .v 2, .v 2, .v 4, ⟨0, none⟩⟩) ∧
  decodeTableWord 64 0x24080401D0800000 = some (.shfl .down (.v 2) (.v 1) (.int 0x21) ⟨0, none⟩) ∧
  decodeTableWord 64 0x2984010884EA0400 = some (.mma true (.s 8) (.s 9) (.int 0x28) 1 0 none) ∧
  decodeTableWord 64 0x3010110401010C10 =
    some (.ld ⟨.g, .w, .v 8, .s 4, .v 2, .plain, .group, true, .normal, 3, 0x010, none⟩) ∧
  decodeTableWord 64 0x08920F08D04A0000 =
    some (.sst ⟨.g, .w, .s 7, .s 8, .int 0x20, .release, .die, false, .normal, 0, 0, none⟩) ∧
  decodeTableWord 64 0x3886290883408430 = some (.cpyt (some (.s 20)) ⟨.s 8, .s 6, .s 2, 1, .gang, false, 0, none⟩) ∧
  decodeTableWord 64 0x3C42190AD0684A1A =
    some (.atom ⟨true, .add, .s 12, .s 10, .int 0x20, .int 0x21, 2, .rel, .team, .l, true, false, none⟩) ∧
  decodeTableWord 64 0x3C80000000000060 = some (.fence .ar .package none) ∧
  decodeTableWord 64 0x3D1001A000000000 = some (.barWait ⟨false, 0⟩ (.int 0x20) none) ∧
  decodeTableWord 64 0x3E84010CD1800000 = some (.spawn true (.s 12) (.int 0x23) none) ∧
  decodeTableWord 64 0x0E00000000000003 = some (.trap 3 none)

/-- R35, R39, R44, R47 and the encoding of every opcode: decoding the words of a well-formed instruction gives it back, with every operand
at every value its encoding admits. -/
def Obligations.DecodingGivesBackWhatIsEncoded : Prop :=
  ∀ (i : Instr) (ws : DWord × Option DWord), WellFormed i → Machine.Instr.pairingOk i = true → encode i = some ws →
    decodeWords ws = .ok i

/-- R35, R55: what decodes has the fields its description admits, and no bit of its words is lost: encoding it gives them back. -/
def Obligations.EncodingGivesBackWhatIsDecoded : Prop :=
  ∀ (w v : DWord) (i : Instr), decode w v = .ok i →
    Instr.fieldsOk i = true ∧ Machine.Instr.pairingOk i = true ∧ encode i = some (w, if takesTwo w then some v else none)

/-- R4, R14: memory and the scratchpads keep their canonical form through every step, whatever the state: the form is the model's
(log 4), and so is that of the groups; a swapped gang's images list no byte that an unlisted one holds. -/
def Obligations.EveryStepKeepsTheMemoryForm : Prop :=
  ∀ s t : State, s.MemoryForm → step s = .next t → t.MemoryForm

/-- R57, R233, R320, R326, R329, R359, R380, R386, R388, R392, R393: the module after reset. That memory and the scratchpads read 0 then is
the model's choice (log 4); that nothing runs and the channel table is empty is a reading (log 1). -/
def Obligations.TheResetStateIsAsStated : Prop :=
  State.reset.MemoryForm ∧ (∀ a, State.reset.rawByte a = 0 ∧ State.reset.spadByte a = 0) ∧ State.reset.powered = true ∧
  State.reset.groups = [] ∧ State.reset.grids = [] ∧ State.reset.ctxs = [] ∧ State.reset.cycle = 0 ∧
  State.reset.nextGrid = 1 ∧ State.reset.nextTicket = 1 ∧ (∀ n, State.reset.mr n = List.replicate 32 0) ∧
  (∀ c, let k := State.reset.core c
    k.oos = [] ∧ k.arrayEn = 0xF ∧ k.calSamp = 0 ∧ k.calSkip = 0 ∧ k.calTrans = 0 ∧ k.calFail = 0 ∧ k.storeBuf = [] ∧ k.away = [] ∧ k.engine = []) ∧
  (bitsAt State.reset.calCfg.toNat 31 1 = 1 ∧ bitsAt State.reset.calCfg.toNat 0 5 = 12) ∧
  (∀ n i, (State.reset.pch n).policy.getD i 2 = 2) ∧ (∀ p, State.reset.portCfgOf p = 0x0000FF30 ∧ State.reset.portSpdOf p = 0x70000000) ∧
  (bitsAt State.reset.schedcfg.toNat 8 16 = 100 ∧ bitsAt State.reset.schedcfg.toNat 0 5 = 20) ∧
  (bitsAt State.reset.powerCfg.toNat 20 12 = 2400 ∧ bitsAt State.reset.powerCfg.toNat 8 12 = 3300) ∧
  State.reset.chuck = none ∧ State.reset.chuckLatch = (0, 0) ∧ (∀ n, State.reset.event n = {} ∧ State.reset.channel n = {}) ∧
  (∀ u, State.reset.sandSeq.getD u 0 = 0) ∧ core.reset = State.reset ∧ core.step = step
end

