-- ==== Sys2Proof/Laws/Sparse.lean ====
section
/-! SUPPORT. Laws of sparse maps: reading after writing, and the canonical form that every operation keeps. -/

namespace Sys2Proof.Machine.SMap

variable {α : Type}

theorem find_insert_self (m : SMap α) (k : Nat) (v : α) : find? (insert m k v) k = some v := by
  induction m with
  | nil => simp [insert, find?]
  | cons a m ih =>
    obtain ⟨i, w⟩ := a
    simp only [insert]
    split
    · simp [find?]
    · split
      · simp [find?]
      · simp [find?, *]

theorem find_insert_other (m : SMap α) {k j : Nat} (v : α) (h : j ≠ k) : find? (insert m k v) j = find? m j := by
  induction m with
  | nil => simp [insert, find?, h.symm]
  | cons a m ih =>
    obtain ⟨i, w⟩ := a
    simp only [insert]
    split
    · simp [find?, h.symm]
    · split
      · subst_vars; simp [find?, h.symm]
      · simp [find?, ih]

theorem find_insert (m : SMap α) (k j : Nat) (v : α) : find? (insert m k v) j = if j = k then some v else find? m j := by
  split
  · subst_vars; exact find_insert_self m _ v
  · exact find_insert_other m v ‹_›

theorem find_erase (m : SMap α) (k j : Nat) : find? (erase m k) j = if j = k then none else find? m j := by
  induction m with
  | nil => simp [erase, find?]
  | cons a m ih =>
    obtain ⟨i, w⟩ := a
    simp only [erase]
    split
    · subst_vars; rw [ih]; by_cases h : j = i
      · simp [h]
      · simp [find?, h, Ne.symm h]
    · simp only [find?, ih]
      by_cases h : i = j
      · subst h; simp [*]
      · simp [h]

variable [DecidableEq α]

theorem getD_setD (m : SMap α) (k j : Nat) (v d : α) : getD (setD m k v d) j d = if j = k then v else getD m j d := by
  unfold setD getD
  split
  · rw [find_erase]; split <;> simp_all
  · rw [find_insert]; split <;> simp

/-- Reading with another default: only the key written counts. -/
theorem getD_setD_other (m : SMap α) {k j : Nat} (v d e : α) (h : j ≠ k) : getD (setD m k v d) j e = getD m j e := by
  unfold setD getD
  split
  · rw [find_erase, if_neg h]
  · rw [find_insert_other m v h]

theorem find_modify (m : SMap α) (k j : Nat) (f : α → α) :
    find? (modify m k f) j = if j = k then (find? m k).map f else find? m j := by
  unfold modify
  split
  · next h => split
              · subst_vars; simp [h]
              · rfl
  · next v h => rw [find_insert, h]; rfl

/-! ### The canonical form -/

omit [DecidableEq α] in
theorem mem_insert {m : SMap α} {k : Nat} {v : α} {e : Nat × α} (h : e ∈ insert m k v) : e = (k, v) ∨ e ∈ m := by
  induction m with
  | nil => simpa [insert] using h
  | cons a m ih =>
    obtain ⟨i, w⟩ := a
    simp only [insert] at h
    split at h
    · simpa using h
    · split at h
      · rcases List.mem_cons.1 h with h | h
        · exact .inl h
        · exact .inr (List.mem_cons_of_mem _ h)
      · rcases List.mem_cons.1 h with h | h
        · exact .inr (h ▸ List.mem_cons_self)
        · rcases ih h with h | h
          · exact .inl h
          · exact .inr (List.mem_cons_of_mem _ h)

omit [DecidableEq α] in
theorem mem_erase {m : SMap α} {k : Nat} {e : Nat × α} (h : e ∈ erase m k) : e ∈ m ∧ e.1 ≠ k := by
  induction m with
  | nil => simp [erase] at h
  | cons a m ih =>
    obtain ⟨i, w⟩ := a
    simp only [erase] at h
    split at h
    · exact ⟨List.mem_cons_of_mem _ (ih h).1, (ih h).2⟩
    · rcases List.mem_cons.1 h with h | h
      · subst h; exact ⟨List.mem_cons_self, ‹_›⟩
      · exact ⟨List.mem_cons_of_mem _ (ih h).1, (ih h).2⟩

omit [DecidableEq α] in
theorem sorted_insert {m : SMap α} (k : Nat) (v : α) (h : Sorted m) : Sorted (insert m k v) := by
  induction m with
  | nil => simp [insert, Sorted]
  | cons a m ih =>
    obtain ⟨i, w⟩ := a
    have h1 := List.pairwise_cons.1 h
    simp only [insert]
    split
    · refine List.pairwise_cons.2 ⟨fun e he => ?_, h⟩
      rcases List.mem_cons.1 he with he | he
      · subst he; assumption
      · have := h1.1 e he; simp at this ⊢; omega
    · split
      · subst_vars; exact List.pairwise_cons.2 h1
      · refine List.pairwise_cons.2 ⟨fun e he => ?_, ih h1.2⟩
        rcases mem_insert he with he | he
        · subst he; simp; omega
        · exact h1.1 e he

omit [DecidableEq α] in
theorem sorted_erase {m : SMap α} (k : Nat) (h : Sorted m) : Sorted (erase m k) := by
  induction m with
  | nil => simp [erase, Sorted]
  | cons a m ih =>
    obtain ⟨i, w⟩ := a
    have h1 := List.pairwise_cons.1 h
    simp only [erase]
    split
    · exact ih h1.2
    · exact List.pairwise_cons.2 ⟨fun e he => h1.1 e (mem_erase he).1, ih h1.2⟩

/-- A write keeps the canonical form. -/
theorem canon_setD {m : SMap α} (k : Nat) (v d : α) (h : Canon m d) : Canon (setD m k v d) d := by
  obtain ⟨h1, h2⟩ := h
  unfold setD
  split
  · exact ⟨sorted_erase k h1, fun e he => h2 e (mem_erase he).1⟩
  · refine ⟨sorted_insert k v h1, fun e he => ?_⟩
    rcases mem_insert he with he | he
    · subst he; assumption
    · exact h2 e he

theorem canon_nil (d : α) : Canon ([] : SMap α) d := ⟨List.Pairwise.nil, by simp⟩

end Sys2Proof.Machine.SMap
end

