-- ==== Sys2Proof/Laws/Ops.lean ====
section
/-! SUPPORT. What the shared operations do: issuing a word that is ready, retiring it, time, and the registers of a group. -/

namespace Sys2Proof.Machine

theorem find_setGroup (s : State) (k j : Nat) (g : Group) :
    (s.setGroup k g).group? j = if j = k then some g else s.group? j := SMap.find_insert _ _ _ _

theorem core_setCore (s : State) (c d : Nat) (x : CoreSt) : (s.setCore c x).core d = if d = c then x else s.core d :=
  SMap.getD_setD _ _ _ _ _

/-- A ready word runs its own effect. -/
theorem run_ready {s : State} {g : Group} {i : Instr} (h : s.Ready g i) (f : Nat → Group → State) :
    s.run i f = .next (f s.cur g) := by
  obtain ⟨h1, h2, h3, h4⟩ := h
  simp [State.run, h1, h2, h3, h4]

theorem lt_tick (s : State) (n : Nat) : s.cycle < (s.tick n).cycle := by
  simp only [State.tick]; omega

/-- Retiring a word changes the group and the issue record of its core, and time passes. -/
theorem retire_onlyGroup (s : State) (g : Group) (pc : DWord) (n : Nat) :
    s.OnlyGroup (s.retire s.cur g pc n) (g.issued pc s.cycle) := by
  refine ⟨?_, fun k hk => ?_, fun c => ?_, ?_, ?_, ?_⟩
  · simp [State.retire, State.markIssue, State.tick, State.group?, State.setCore, State.setGroup, SMap.find_insert_self, Group.issued]
  · simp [State.retire, State.markIssue, State.tick, State.group?, State.setCore, State.setGroup, SMap.find_insert_other _ _ hk]
  · simp only [State.retire, State.markIssue, State.tick, State.setCore, State.setGroup, State.core, SMap.getD_setD]
    split <;> simp [*]
  · exact lt_tick _ _
  · exact ⟨fun _ => rfl, fun _ => rfl, rfl, rfl, rfl⟩
  · rfl

/-- The next word of one that falls through. -/
theorem after_eq {g g' : Group} {i : Instr} {l : Lit} (hz : Instr.size i = if l.isSome then 16 else 8) (hp : g'.pc = g.pc) :
    g'.after i = g.nextPc l := by
  simp only [Group.after, Group.nextPc, hz, hp]; split <;> rfl

/-- Retiring a word that falls through. -/
theorem done_onlyGroup (s : State) {g g' x : Group} {i : Instr} {l : Lit} (n : Nat)
    (hz : Instr.size i = if l.isSome then 16 else 8) (hp : x.pc = g.pc) (hx : g' = x) :
    s.OnlyGroup (s.done s.cur g' i n) (x.issued (g.nextPc l) s.cycle) := by
  subst hx; rw [State.done, after_eq hz hp]; exact retire_onlyGroup ..

theorem not_badTarget {s : State} {t : DWord} (h : s.GoodTarget t) : s.badTarget s.cur t = false := by
  simp [State.badTarget, h.1, h.2]

theorem badTarget_of_not {s : State} {t : DWord} (h : ¬ s.GoodTarget t) : s.badTarget s.cur t = true := by
  by_contra h1
  exact h (by simpa [State.badTarget, State.GoodTarget] using h1)

theorem answers_of {o : Host.Outcome State Fault Refusal} {t : State} {P : State → Prop} (h : o = .next t) (hp : P t) :
    Answers o P := ⟨t, h, hp⟩

/-! ### Registers of a group -/

theorem rs_ws (g : Group) (n r : Nat) (x : Word) : (g.ws n x).rs r = if r = n then x else g.rs r := SMap.getD_setD _ _ _ _ _

theorem rv_wv (g : Group) {r lane r' lane' : Nat} (x : Word) (h : lane < 96) (h' : lane' < 96) :
    (g.wv r lane x).rv r' lane' = if r' = r ∧ lane' = lane then x else g.rv r' lane' := by
  simp only [Group.rv, Group.wv, SMap.getD_setD]
  by_cases e : r' = r ∧ lane' = lane
  · simp [e]
  · rw [if_neg e, if_neg (by omega)]

theorem ra_wa (g : Group) (n r x : Nat) : (g.wa n x).ra r = if r = n then x else g.ra r := SMap.getD_setD _ _ _ _ _

theorem rf_wf (g : Group) (lane l : Nat) (x : Flags) : (g.wf lane x).rf l = if l = lane then x else g.rf l :=
  SMap.getD_setD _ _ _ _ _

theorem pair_words (x : DWord) : pair (loWord x) (hiWord x) = x := by
  simp only [pair, loWord, hiWord]
  ext i hi
  simp only [BitVec.getElem_append, BitVec.getElem_extractLsb']
  split
  · simp [BitVec.getLsbD_eq_getElem hi]
  · rw [show 32 + (i - 32) = i by omega]; simp [BitVec.getLsbD_eq_getElem hi]

theorem rp_wp (g : Group) (n : Nat) (x : DWord) : (g.wp n x).rp n = x := by
  simp [Group.rp, Group.wp, rs_ws, pair_words]

end Sys2Proof.Machine
end

