-- ==== Sys2Proof/Laws/Lanes.lean ====
section
/-! SUPPORT. What a pass over the participating lanes does to a group: the lane loop and its kin. -/

namespace Sys2Proof.Machine

theorem orFlags_rv (g : Group) (L r l : Nat) (f : Flags) : (g.orFlags L f).rv r l = g.rv r l := by
  unfold Group.orFlags; split <;> rfl

theorem orFlags_vBad (g : Group) (L : Nat) (f : Flags) : (g.orFlags L f).vBad = g.vBad := by
  unfold Group.orFlags; split <;> rfl

theorem orFlags_rf (g : Group) (L l : Nat) (f : Flags) : (g.orFlags L f).rf l = if l = L then g.rf L ||| f else g.rf l := by
  unfold Group.orFlags
  split
  · subst_vars; split
    · subst_vars; simp
    · rfl
  · exact rf_wf ..

theorem orFlags_eta (g : Group) (L : Nat) (f : Flags) : g.orFlags L f = { g with vflags := (g.orFlags L f).vflags } := by
  unfold Group.orFlags; split <;> rfl

/-- One lane's write: its element and its flags. -/
def Group.laneWrite (g : Group) (d L : Nat) (o : LaneOut) : Group := (g.wv d L o.val).orFlags L o.flags

theorem laneWrite_eta (g : Group) (d L : Nat) (o : LaneOut) :
    g.laneWrite d L o =
      { g with
        v := (g.laneWrite d L o).v
        vflags := (g.laneWrite d L o).vflags
        vBad := (g.laneWrite d L o).vBad } := by
  unfold Group.laneWrite Group.orFlags
  split <;> rfl

/-- What a list of lanes, each once, writes to register `d`. -/
theorem foldl_laneWrite (d : Nat) (out : Nat → LaneOut) :
    ∀ (ls : List Nat) (g h : Group), ls.Nodup → (∀ L ∈ ls, L < 96) →
      h = ls.foldl (fun acc L => acc.laneWrite d L (out L)) g →
      (∀ L, L < 96 → h.rv d L = if L ∈ ls then (out L).val else g.rv d L) ∧
      (∀ r L, r ≠ d → L < 96 → h.rv r L = g.rv r L) ∧
      (∀ L, h.rf L = if L ∈ ls then g.rf L ||| (out L).flags else g.rf L) ∧
      (∀ x, x ∈ h.vBad ↔ x ∈ g.vBad ∧ ¬ ∃ L ∈ ls, x = d * 96 + L) ∧
      h = { g with v := h.v, vflags := h.vflags, vBad := h.vBad } := by
  intro ls
  induction ls with
  | nil => intro g h _ _ e; subst e; simp
  | cons j ls ih =>
    intro g h hn hb e
    obtain ⟨hj, hn⟩ := List.nodup_cons.1 hn
    obtain ⟨h1, h2, h3, h4, h5⟩ := ih (g.laneWrite d j (out j)) h hn (fun L hL => hb L (List.mem_cons_of_mem _ hL)) e
    have hj96 := hb j List.mem_cons_self
    refine ⟨fun L hL => ?_, fun r L hr hL => ?_, fun L => ?_, fun x => ?_, ?_⟩
    · rw [h1 L hL, Group.laneWrite, orFlags_rv, rv_wv _ _ hj96 hL]
      by_cases e : L = j
      · subst e; simp [hj]
      · simp [e]
    · rw [h2 r L hr hL, Group.laneWrite, orFlags_rv, rv_wv _ _ hj96 hL]
      simp [hr]
    · rw [h3 L, Group.laneWrite, orFlags_rf]
      have : ∀ l, (g.wv d j (out j).val).rf l = g.rf l := fun _ => rfl
      simp only [this]
      by_cases e : L = j
      · subst e; simp [hj]
      · simp [e]
    · rw [h4 x, Group.laneWrite, orFlags_vBad]
      simp only [Group.wv, List.mem_filter, decide_eq_true_eq, List.mem_cons, exists_eq_or_imp, not_or, ne_eq]
      tauto
    · rw [h5, laneWrite_eta]

theorem lanes_nodup (g : Group) : g.lanes.Nodup := List.Nodup.filter _ List.nodup_range

theorem mem_lanes {g : Group} {L : Nat} : L ∈ g.lanes ↔ L < 96 ∧ g.part L = true := by
  simp [Group.lanes]

/-- A pass over the participating lanes. -/
theorem foldl_lanes (g : Group) (d : Nat) (out : Nat → LaneOut) :
    g.LaneWrites (g.lanes.foldl (fun acc L => acc.laneWrite d L (out L)) g) d out := by
  obtain ⟨h1, h2, h3, h4, h5⟩ := foldl_laneWrite d out g.lanes g _ (lanes_nodup g) (fun L h => (mem_lanes.1 h).1) rfl
  refine ⟨fun L hL => ?_, h2, fun L => ?_, fun x => ?_, h5⟩
  · rw [h1 L hL]; simp [mem_lanes, hL]
  · rw [h3 L]; simp only [mem_lanes]
  · rw [h4 x]; simp only [mem_lanes, and_assoc]

theorem dying_nil {g : Group} {regs : List Nat} (h : g.SoundIn regs) : g.dying regs = [] := by
  unfold Group.dying
  split
  · rfl
  · refine List.filter_eq_nil_iff.2 (fun L hL => ?_)
    have := h L (mem_lanes.1 hL).1 (mem_lanes.1 hL).2
    simpa using this

end Sys2Proof.Machine
end

