-- ==== Sys2Proof/Laws/Memory.lean ====
section
/-! SUPPORT. What the operations over memory and the scratchpads do: they keep the canonical form (R4, R14, log 4), a read after a
write gives what was written, and every other byte reads as before. -/

namespace Sys2Proof.Machine

/-! ### What changes -/

theorem State.rekey_eta (s : State) (o : BitVec 8) (line : Nat) :
    s.rekey o line = { s with phys := (s.rekey o line).phys, lineKey := (s.rekey o line).lineKey } := by
  unfold State.rekey; split <;> rfl

theorem State.setPhysByte_eta (s : State) (o : BitVec 8) (k : Nat) (b : Byte) :
    s.setPhysByte o k b = { s with
      phys := (s.setPhysByte o k b).phys, physBad := (s.setPhysByte o k b).physBad, lineKey := (s.setPhysByte o k b).lineKey,
      lrWords := (s.setPhysByte o k b).lrWords } := by
  unfold State.setPhysByte; simp only []; rw [State.rekey_eta]

theorem State.setPhys_eta (s : State) (o : BitVec 8) (k : Nat) (bs : List Byte) :
    s.setPhys o k bs = { s with
      phys := (s.setPhys o k bs).phys, physBad := (s.setPhys o k bs).physBad, lineKey := (s.setPhys o k bs).lineKey,
      lrWords := (s.setPhys o k bs).lrWords } := by
  induction bs generalizing s k with
  | nil => rfl
  | cons b bs ih => unfold State.setPhys; rw [ih, State.setPhysByte_eta]

theorem State.setSpad_eta (s : State) (k : Nat) (bs : List Byte) :
    s.setSpad k bs = { s with spad := (s.setSpad k bs).spad } := by
  induction bs generalizing s k with
  | nil => rfl
  | cons b bs ih => unfold State.setSpad; rw [ih]

/-! ### The canonical form -/

theorem SMap.canon_filter {α : Type} {m : SMap α} {d : α} (p : Nat × α → Bool) (h : SMap.Canon m d) : SMap.Canon (m.filter p) d :=
  ⟨h.1.filter _, fun e he => h.2 e (List.mem_of_mem_filter he)⟩

theorem SMap.canon_foldl_setD {α β : Type} [DecidableEq α] (d : α) (k : β → Nat) (v : SMap α → β → α) (l : List β) {m : SMap α}
    (h : SMap.Canon m d) : SMap.Canon (l.foldl (fun m i => SMap.setD m (k i) (v m i) d) m) d := by
  induction l generalizing m with
  | nil => exact h
  | cons x l ih => exact ih (SMap.canon_setD _ _ _ h)

theorem SMap.canon_foldl_insert {α : Type} (d : α) (k : Nat × α → Nat) (l : List (Nat × α)) {m : SMap α} (h : SMap.Canon m d)
    (hl : ∀ e ∈ l, e.2 ≠ d) : SMap.Canon (l.foldl (fun m e => SMap.insert m (k e) e.2) m) d := by
  induction l generalizing m with
  | nil => exact h
  | cons x l ih =>
    refine ih ⟨SMap.sorted_insert _ _ h.1, fun e he => ?_⟩ (fun e he => hl e (List.mem_cons_of_mem _ he))
    rcases SMap.mem_insert he with rfl | he
    · exact hl x (List.mem_cons_self ..)
    · exact h.2 e he

theorem State.rekey_wf {s : State} (h : Memory.wf s.phys) (o : BitVec 8) (line : Nat) : Memory.wf (s.rekey o line).phys := by
  unfold State.rekey; split
  · exact h
  · exact SMap.canon_foldl_setD memDefault (fun i => line * 64 + i) (fun _ i => s.physByte o (line * 64 + i)) _ h

theorem State.setPhysByte_wf {s : State} (h : Memory.wf s.phys) (o : BitVec 8) (k : Nat) (b : Byte) :
    Memory.wf (s.setPhysByte o k b).phys := SMap.canon_setD _ _ _ (State.rekey_wf h o _)

theorem State.setPhys_wf {s : State} (h : Memory.wf s.phys) (o : BitVec 8) (k : Nat) (bs : List Byte) :
    Memory.wf (s.setPhys o k bs).phys := by
  induction bs generalizing s k with
  | nil => exact h
  | cons b bs ih => exact ih (State.setPhysByte_wf h o k b) (k + 1)

theorem State.setSpad_wf {s : State} (h : Memory.wf s.spad) (k : Nat) (bs : List Byte) : Memory.wf (s.setSpad k bs).spad := by
  induction bs generalizing s k with
  | nil => exact h
  | cons b bs ih => exact ih (s := { s with spad := s.spad.setD k b memDefault }) (SMap.canon_setD _ _ _ h) (k + 1)

theorem State.zeroPage_wf {s : State} (h : Memory.wf s.phys) (key n : Nat) (o : BitVec 8) : Memory.wf (s.zeroPage key n o).phys :=
  SMap.canon_filter _ h

theorem State.loseKey_wf {s : State} (h : Memory.wf s.phys) (k : BitVec 8) : Memory.wf (s.loseKey k).phys := by
  unfold State.loseKey
  simp only []
  generalize (s.lineKey.filter (fun e => e.2 = k && !plainKey (e.1 * 64))).map (·.1) = l
  suffices H : ∀ m : SMap Byte, Memory.wf m → Memory.wf (l.foldl (fun m l => (List.range 64).foldl (fun m i =>
      SMap.setD m (l * 64 + i) (Config.wrongKeyByte k.toNat (256 + s.fresh) (l * 64 + i) (s.rawByte (l * 64 + i))) memDefault) m) m) from
    H _ h
  intro m hm
  induction l generalizing m with
  | nil => exact hm
  | cons x l ih => exact ih _ (SMap.canon_foldl_setD memDefault (fun i => x * 64 + i) _ _ hm)

theorem State.readImage_wf {s : State} (h : Memory.wf s.spad) (g : Gang) (t : Nat × Team) (hg : ∀ b ∈ g.image, b.2 ≠ memDefault) :
    Memory.wf (s.readImage g t).spad :=
  SMap.canon_foldl_insert memDefault _ _ (SMap.canon_filter _ h) (fun e he => hg e (List.mem_of_mem_filter he))

/-! ### Reading after writing -/

theorem State.rawByte_rekey_other (s : State) (o : BitVec 8) {line k : Nat} (h : k / 64 ≠ line) :
    (s.rekey o line).rawByte k = s.rawByte k := by
  unfold State.rekey; split
  · rfl
  · unfold State.rawByte
    simp only []
    suffices H : ∀ (l : List Nat) (m : SMap Byte), (∀ i ∈ l, i < 64) →
        (l.foldl (fun m i => SMap.setD m (line * 64 + i) (s.physByte o (line * 64 + i)) memDefault) m).getD k memDefault =
          m.getD k memDefault from H _ _ (fun i hi => List.mem_range.mp hi)
    intro l
    induction l with
    | nil => intros; rfl
    | cons i l ih =>
      intro m hl
      have hi := hl i (List.mem_cons_self ..)
      rw [List.foldl_cons, ih _ (fun j hj => hl j (List.mem_cons_of_mem _ hj)), SMap.getD_setD_other]
      omega

theorem State.lineKey_rekey (s : State) (o : BitVec 8) (line l : Nat) :
    (s.rekey o line).lineKey.getD l 0 = if l = line then o else s.lineKey.getD l 0 := by
  unfold State.rekey; split
  · split
    · simp_all
    · rfl
  · exact SMap.getD_setD _ _ _ _ _

theorem State.rawByte_rekey_same (s : State) (o : BitVec 8) {line k : Nat} (h : k / 64 = line) (hk : s.lineKey.getD line 0 ≠ o) :
    (s.rekey o line).rawByte k = s.physByte o k := by
  unfold State.rekey; rw [if_neg hk]
  unfold State.rawByte
  simp only []
  suffices H : ∀ (l : List Nat) (m : SMap Byte), l.Nodup → (k % 64 ∈ l) →
      (l.foldl (fun m i => SMap.setD m (line * 64 + i) (s.physByte o (line * 64 + i)) memDefault) m).getD k memDefault =
        s.physByte o k from H _ _ List.nodup_range (List.mem_range.mpr (Nat.mod_lt _ (by decide)))
  have hne : ∀ (l : List Nat) (m : SMap Byte), k % 64 ∉ l → (∀ i ∈ l, line * 64 + i ≠ k) →
      (l.foldl (fun m i => SMap.setD m (line * 64 + i) (s.physByte o (line * 64 + i)) memDefault) m).getD k memDefault =
        m.getD k memDefault := by
    intro l
    induction l with
    | nil => intros; rfl
    | cons i l ih =>
      intro m hm hl
      rw [List.foldl_cons, ih _ (fun hc => hm (List.mem_cons_of_mem _ hc)) (fun j hj => hl j (List.mem_cons_of_mem _ hj)),
        SMap.getD_setD_other _ _ _ _ (fun hc => hl i (List.mem_cons_self ..) hc.symm)]
  intro l
  induction l with
  | nil => intro m _ hm; cases hm
  | cons i l ih =>
    intro m hn hm
    rw [List.nodup_cons] at hn
    rw [List.foldl_cons]
    by_cases hi : k % 64 ∈ l
    · exact ih _ hn.2 hi
    · have hik : i = k % 64 := by rcases List.mem_cons.mp hm with h' | h'; exacts [h'.symm, absurd h' hi]
      have hk' : line * 64 + i = k := by omega
      rw [hne l _ hi (fun j hj hjk => hi (by have : j = k % 64 := by omega
                                             exact this ▸ hj)), SMap.getD_setD, if_pos hk'.symm, hk']

/-- Bringing a line under an owner's key changes nothing that the owner reads. -/
theorem State.physByte_rekey (s : State) (o : BitVec 8) (line k : Nat) : (s.rekey o line).physByte o k = s.physByte o k := by
  by_cases hk : s.lineKey.getD line 0 = o
  · unfold State.rekey; rw [if_pos hk]
  · have hf : (s.rekey o line).fresh = s.fresh := by rw [State.rekey_eta]
    by_cases hl : k / 64 = line
    · have hr := State.rawByte_rekey_same s o hl hk
      have hx : (s.rekey o line).lineKey.getD (k / 64) 0 = o := by rw [State.lineKey_rekey, if_pos hl]
      unfold State.physByte at hr ⊢
      rw [hf]
      split <;> simp_all
    · have hx : (s.rekey o line).lineKey.getD (k / 64) 0 = s.lineKey.getD (k / 64) 0 := by rw [State.lineKey_rekey, if_neg hl]
      unfold State.physByte
      rw [hf, hx, State.rawByte_rekey_other s o hl]

/-- A written byte of memory reads back; every other byte reads, to the same owner, as before. -/
theorem State.physByte_setPhysByte (s : State) (o : BitVec 8) (k j : Nat) (b : Byte) (h : destOf k = .memory) :
    (s.setPhysByte o k b).physByte o j = if j = k then b else s.physByte o j := by
  have hl : (s.setPhysByte o k b).lineKey = (s.rekey o (k / 64)).lineKey := rfl
  have hf : (s.setPhysByte o k b).fresh = (s.rekey o (k / 64)).fresh := rfl
  by_cases hj : j = k
  · subst hj
    rw [if_pos rfl]
    unfold State.physByte
    rw [h, hl, State.lineKey_rekey]
    simp only [if_true]
    exact (SMap.getD_setD _ _ _ _ _).trans (if_pos rfl)
  · rw [if_neg hj, ← State.physByte_rekey s o (k / 64) j]
    unfold State.physByte
    rw [hl, hf, show (s.setPhysByte o k b).rawByte j = (s.rekey o (k / 64)).rawByte j from SMap.getD_setD_other _ _ _ _ hj]

/-- Written bytes of memory read back; every other byte reads, to the same owner, as before. -/
theorem State.physByte_setPhys (s : State) (o : BitVec 8) (k j : Nat) (bs : List Byte)
    (h : ∀ i, i < bs.length → destOf (k + i) = .memory) :
    (s.setPhys o k bs).physByte o j = if k ≤ j ∧ j < k + bs.length then bs.getD (j - k) 0 else s.physByte o j := by
  induction bs generalizing s k with
  | nil =>
    rw [if_neg (by simp only [List.length_nil]; omega)]; rfl
  | cons b bs ih =>
    unfold State.setPhys
    have h0 : destOf k = .memory := h 0 (by simp)
    rw [ih _ _ (fun i hi => by have := h (i + 1) (by simpa using hi); rwa [Nat.add_comm i 1, ← Nat.add_assoc] at this),
      State.physByte_setPhysByte s o k j b h0]
    by_cases hj : j = k
    · subst hj; rw [if_neg (by omega), if_pos rfl, if_pos (by simp)]; simp
    · by_cases h1 : k + 1 ≤ j ∧ j < k + 1 + bs.length
      · rw [if_pos h1, if_pos (by simp; omega), show j - k = (j - (k + 1)) + 1 by omega]; rfl
      · rw [if_neg h1, if_neg hj, if_neg (by simp; omega)]

theorem State.getPhys_setPhys (s : State) (o : BitVec 8) (k : Nat) (bs : List Byte)
    (h : ∀ i, i < bs.length → destOf (k + i) = .memory) : (s.setPhys o k bs).getPhys o k bs.length = bs := by
  apply List.ext_getElem
  · simp [State.getPhys]
  · intro i h1 h2
    simp only [State.getPhys, List.getElem_map, List.getElem_range]
    rw [State.physByte_setPhys s o k _ bs h, if_pos (by omega)]
    simp [List.getD, h2]

/-- Bytes of a scratchpad that are written read back; every other byte reads as before. -/
theorem State.spadByte_setSpad (s : State) (k j : Nat) (bs : List Byte) :
    (s.setSpad k bs).spadByte j = if k ≤ j ∧ j < k + bs.length then bs.getD (j - k) 0 else s.spadByte j := by
  induction bs generalizing s k with
  | nil =>
    rw [if_neg (by simp only [List.length_nil]; omega)]; rfl
  | cons b bs ih =>
    unfold State.setSpad
    rw [ih]
    have hs : ({ s with spad := s.spad.setD k b memDefault } : State).spadByte j = if j = k then b else s.spadByte j :=
      SMap.getD_setD _ _ _ _ _
    rw [hs]
    by_cases hj : j = k
    · subst hj; rw [if_neg (by omega), if_pos rfl, if_pos (by simp)]; simp
    · by_cases h1 : k + 1 ≤ j ∧ j < k + 1 + bs.length
      · rw [if_pos h1, if_pos (by simp; omega), show j - k = (j - (k + 1)) + 1 by omega]; rfl
      · rw [if_neg h1, if_neg hj, if_neg (by simp; omega)]

theorem State.getSpad_setSpad (s : State) (k : Nat) (bs : List Byte) : (s.setSpad k bs).getSpad k bs.length = bs := by
  apply List.ext_getElem
  · simp [State.getSpad]
  · intro i h1 h2
    simp only [State.getSpad, List.getElem_map, List.getElem_range]
    rw [State.spadByte_setSpad, if_pos (by omega)]
    simp [List.getD, h2]

/-! ### Reset -/

theorem State.reset_memoryWf : Memory.wf State.reset.phys ∧ Memory.wf State.reset.spad := ⟨SMap.canon_nil _, SMap.canon_nil _⟩

end Sys2Proof.Machine
end

