-- ==== Sys2Proof/Laws/Words.lean ====
section
/-! SUPPORT. The fields of a word are where R38, R41, R44 and R47 put them: cutting what was put together gives it back. -/

namespace Sys2Proof

open Machine

theorem Fields.split_pack (f : Fields) (long : Bool) : Fields.split (f.pack long) = f := by
  have h : ∀ (k : BitVec 2), Fields.split
      ((k ++ (f.opc ++ (f.mod ++ (f.d ++ (f.a ++ (f.b ++ (f.c ++ (f.n ++ f.imm)))))))).cast (by decide)) = f := by
    intro k
    obtain ⟨opc, mod, d, a, b, c, n, imm⟩ := f
    unfold Fields.split
    simp only [Fields.mk.injEq]
    refine ⟨?_, ?_, ?_, ?_, ?_, ?_, ?_, ?_⟩ <;> apply BitVec.eq_of_getLsbD_eq <;> intro i hi <;>
      simp only [BitVec.getLsbD_extractLsb', BitVec.getLsbD_cast, BitVec.getLsbD_append, hi, decide_true, Bool.true_and] <;>
      (repeat (first | rw [if_neg (by omega)] | rw [if_pos (by omega)])) <;> congr 1 <;> omega
  exact h _

/-- KIND of a packed word: F or L. -/
theorem Fields.kind_pack (f : Fields) (long : Bool) : (f.pack long).extractLsb' 62 2 = if long then 2 else 0 := by
  have h : ∀ (k : BitVec 2), ((k ++ (f.opc ++ (f.mod ++ (f.d ++ (f.a ++ (f.b ++ (f.c ++ (f.n ++ f.imm)))))))).cast (by decide) :
      DWord).extractLsb' 62 2 = k := by
    intro k
    apply BitVec.eq_of_getLsbD_eq; intro i hi
    simp only [BitVec.getLsbD_extractLsb', BitVec.getLsbD_cast, BitVec.getLsbD_append, hi, decide_true, Bool.true_and]
    (repeat (first | rw [if_neg (by omega)] | rw [if_pos (by omega)])); congr 1 <;> omega
  exact h _

/-- A word is its kind and its fields. -/
theorem Fields.pack_split (w : DWord) (long : Bool) (h : w.extractLsb' 62 2 = if long then 2 else 0) :
    (Fields.split w).pack long = w := by
  have h' : ∀ (k : BitVec 2), w.extractLsb' 62 2 = k → ((k ++ ((Fields.split w).opc ++ ((Fields.split w).mod ++ ((Fields.split w).d ++
      ((Fields.split w).a ++ ((Fields.split w).b ++ ((Fields.split w).c ++ ((Fields.split w).n ++ (Fields.split w).imm)))))))).cast
      (by decide) : DWord) = w := by
    intro k hk
    subst hk
    unfold Fields.split
    apply BitVec.eq_of_getLsbD_eq; intro i hi
    simp only [BitVec.getLsbD_extractLsb', BitVec.getLsbD_cast, BitVec.getLsbD_append]
    repeat' split
    all_goals rw [show decide (_ < _) = true from decide_eq_true (by omega)]; simp only [Bool.true_and]; congr 1; omega
  exact h' _ h

/-- The operand of a code that names one (R41). -/
theorem Operand.ofCode_code (o : Operand) (h : ∀ c, o ≠ .reserved c) : Operand.ofCode o.code = o := by
  cases o with
  | reserved c => exact absurd rfl (h c)
  | v n => clear h; revert n; decide
  | s n => clear h; revert n; decide
  | int n => clear h; revert n; decide
  | fp n => clear h; revert n; decide
  | special n => clear h; revert n; decide
  | _ => rfl

/-- Every code is the code of its operand. -/
theorem Operand.code_ofCode (c : BitVec 9) : (Operand.ofCode c).code = c := by
  revert c; decide

end Sys2Proof
end

