-- ==== Sys2Proof/Laws/PerInstr.lean ====
section
/-! SUPPORT. Statements about every instruction as syntax, one lemma per constructor. -/

namespace Sys2Proof.Laws

open Sys2Proof.Machine

/-- An encoding has a second word exactly where its first word takes one (R35, R38, R47). -/
def Encodes.Statement (i : Instr) : Prop := ∀ w v, encode i = some (w, v) → takesTwo w = v.isSome

theorem Encodes.of_fields (i : Instr) (hp : ∀ h0 h1, i ≠ .pWord h0 h1) (hs : ∀ p op f, i ≠ .sweep p op f) : Encodes.Statement i := by
  intro w v h
  unfold encode at h
  split at h
  · exact absurd rfl (hp _ _)
  · exact absurd rfl (hs _ _ _)
  · cases he : encodeFields i with
    | none => rw [he] at h; cases h
    | some f =>
      rw [he, Option.map_some, Option.some.injEq, Prod.mk.injEq] at h
      obtain ⟨rfl, rfl⟩ := h
      unfold takesTwo
      rw [Fields.kind_pack]
      cases (Machine.Instr.litOf i).isSome <;> rfl

theorem Encodes.kind_cast (k : BitVec 2) (x : BitVec 62) : ((k ++ x).cast (by decide) : DWord).extractLsb' 62 2 = k := by
  apply BitVec.eq_of_getLsbD_eq; intro i hi
  simp only [BitVec.getLsbD_extractLsb', BitVec.getLsbD_cast, BitVec.getLsbD_append, hi, decide_true, Bool.true_and]
  rw [if_neg (by omega)]; congr 1; omega

theorem Encodes.pWord (h0 h1 : PHalf) : Encodes.Statement (.pWord h0 h1) := by
  intro w v h
  simp only [encode, Option.some.injEq, Prod.mk.injEq] at h
  obtain ⟨rfl, rfl⟩ := h
  unfold takesTwo
  rw [Encodes.kind_cast]; rfl
theorem Encodes.sweep (p : SweepPrefix) (op : LaneOp) (f : VOps) : Encodes.Statement (.sweep p op f) := by
  intro w v h
  simp only [encode, Option.some.injEq, Prod.mk.injEq] at h
  obtain ⟨rfl, rfl⟩ := h
  unfold takesTwo
  rw [Encodes.kind_cast]; rfl
theorem Encodes.nop : ∀ x0, Encodes.Statement (.nop x0) :=
  fun _ => Encodes.of_fields _ (fun _ _ => nofun) (fun _ _ _ => nofun)
theorem Encodes.smov : ∀ x0 x1, Encodes.Statement (.smov x0 x1) :=
  fun _ _ => Encodes.of_fields _ (fun _ _ => nofun) (fun _ _ _ => nofun)
theorem Encodes.smovToSpecial : ∀ x0 x1 x2, Encodes.Statement (.smovToSpecial x0 x1 x2) :=
  fun _ _ _ => Encodes.of_fields _ (fun _ _ => nofun) (fun _ _ _ => nofun)
theorem Encodes.sadd : ∀ x0 x1, Encodes.Statement (.sadd x0 x1) :=
  fun _ _ => Encodes.of_fields _ (fun _ _ => nofun) (fun _ _ _ => nofun)
theorem Encodes.ssub : ∀ x0 x1, Encodes.Statement (.ssub x0 x1) :=
  fun _ _ => Encodes.of_fields _ (fun _ _ => nofun) (fun _ _ _ => nofun)
theorem Encodes.smul : ∀ x0 x1, Encodes.Statement (.smul x0 x1) :=
  fun _ _ => Encodes.of_fields _ (fun _ _ => nofun) (fun _ _ _ => nofun)
theorem Encodes.sdiv : ∀ x0 x1 x2, Encodes.Statement (.sdiv x0 x1 x2) :=
  fun _ _ _ => Encodes.of_fields _ (fun _ _ => nofun) (fun _ _ _ => nofun)
theorem Encodes.sand : ∀ x0 x1, Encodes.Statement (.sand x0 x1) :=
  fun _ _ => Encodes.of_fields _ (fun _ _ => nofun) (fun _ _ _ => nofun)
theorem Encodes.sor : ∀ x0 x1, Encodes.Statement (.sor x0 x1) :=
  fun _ _ => Encodes.of_fields _ (fun _ _ => nofun) (fun _ _ _ => nofun)
theorem Encodes.sxor : ∀ x0 x1, Encodes.Statement (.sxor x0 x1) :=
  fun _ _ => Encodes.of_fields _ (fun _ _ => nofun) (fun _ _ _ => nofun)
theorem Encodes.sshl : ∀ x0, Encodes.Statement (.sshl x0) :=
  fun _ => Encodes.of_fields _ (fun _ _ => nofun) (fun _ _ _ => nofun)
theorem Encodes.sshr : ∀ x0 x1, Encodes.Statement (.sshr x0 x1) :=
  fun _ _ => Encodes.of_fields _ (fun _ _ => nofun) (fun _ _ _ => nofun)
theorem Encodes.smin : ∀ x0 x1, Encodes.Statement (.smin x0 x1) :=
  fun _ _ => Encodes.of_fields _ (fun _ _ => nofun) (fun _ _ _ => nofun)
theorem Encodes.smax : ∀ x0 x1, Encodes.Statement (.smax x0 x1) :=
  fun _ _ => Encodes.of_fields _ (fun _ _ => nofun) (fun _ _ _ => nofun)
theorem Encodes.scmp : ∀ x0 x1, Encodes.Statement (.scmp x0 x1) :=
  fun _ _ => Encodes.of_fields _ (fun _ _ => nofun) (fun _ _ _ => nofun)
theorem Encodes.ssel : ∀ x0 x1, Encodes.Statement (.ssel x0 x1) :=
  fun _ _ => Encodes.of_fields _ (fun _ _ => nofun) (fun _ _ _ => nofun)
theorem Encodes.sbit : ∀ x0 x1 x2 x3 x4, Encodes.Statement (.sbit x0 x1 x2 x3 x4) :=
  fun _ _ _ _ _ => Encodes.of_fields _ (fun _ _ => nofun) (fun _ _ _ => nofun)
theorem Encodes.sld : ∀ x0, Encodes.Statement (.sld x0) :=
  fun _ => Encodes.of_fields _ (fun _ _ => nofun) (fun _ _ _ => nofun)
theorem Encodes.sst : ∀ x0, Encodes.Statement (.sst x0) :=
  fun _ => Encodes.of_fields _ (fun _ _ => nofun) (fun _ _ _ => nofun)
theorem Encodes.br : ∀ x0 x1, Encodes.Statement (.br x0 x1) :=
  fun _ _ => Encodes.of_fields _ (fun _ _ => nofun) (fun _ _ _ => nofun)
theorem Encodes.brc : ∀ x0 x1 x2 x3 x4, Encodes.Statement (.brc x0 x1 x2 x3 x4) :=
  fun _ _ _ _ _ => Encodes.of_fields _ (fun _ _ => nofun) (fun _ _ _ => nofun)
theorem Encodes.brm : ∀ x0 x1 x2 x3, Encodes.Statement (.brm x0 x1 x2 x3) :=
  fun _ _ _ _ => Encodes.of_fields _ (fun _ _ => nofun) (fun _ _ _ => nofun)
theorem Encodes.call : ∀ x0 x1 x2, Encodes.Statement (.call x0 x1 x2) :=
  fun _ _ _ => Encodes.of_fields _ (fun _ _ => nofun) (fun _ _ _ => nofun)
theorem Encodes.jmp : ∀ x0 x1, Encodes.Statement (.jmp x0 x1) :=
  fun _ _ => Encodes.of_fields _ (fun _ _ => nofun) (fun _ _ _ => nofun)
theorem Encodes.loop : ∀ x0 x1 x2, Encodes.Statement (.loop x0 x1 x2) :=
  fun _ _ _ => Encodes.of_fields _ (fun _ _ => nofun) (fun _ _ _ => nofun)
theorem Encodes.emop : ∀ x0 x1 x2, Encodes.Statement (.emop x0 x1 x2) :=
  fun _ _ _ => Encodes.of_fields _ (fun _ _ => nofun) (fun _ _ _ => nofun)
theorem Encodes.maskop : ∀ x0 x1 x2, Encodes.Statement (.maskop x0 x1 x2) :=
  fun _ _ _ => Encodes.of_fields _ (fun _ _ => nofun) (fun _ _ _ => nofun)
theorem Encodes.region : ∀ x0 x1, Encodes.Statement (.region x0 x1) :=
  fun _ _ => Encodes.of_fields _ (fun _ _ => nofun) (fun _ _ _ => nofun)
theorem Encodes.yieldBar : ∀ x0 x1 x2, Encodes.Statement (.yieldBar x0 x1 x2) :=
  fun _ _ _ => Encodes.of_fields _ (fun _ _ => nofun) (fun _ _ _ => nofun)
theorem Encodes.yieldEv : ∀ x0 x1 x2, Encodes.Statement (.yieldEv x0 x1 x2) :=
  fun _ _ _ => Encodes.of_fields _ (fun _ _ => nofun) (fun _ _ _ => nofun)
theorem Encodes.trap : ∀ x0 x1, Encodes.Statement (.trap x0 x1) :=
  fun _ _ => Encodes.of_fields _ (fun _ _ => nofun) (fun _ _ _ => nofun)
theorem Encodes.brk : ∀ x0 x1, Encodes.Statement (.brk x0 x1) :=
  fun _ _ => Encodes.of_fields _ (fun _ _ => nofun) (fun _ _ _ => nofun)
theorem Encodes.sysreq : ∀ x0 x1 x2 x3, Encodes.Statement (.sysreq x0 x1 x2 x3) :=
  fun _ _ _ _ => Encodes.of_fields _ (fun _ _ => nofun) (fun _ _ _ => nofun)
theorem Encodes.exit : ∀ x0, Encodes.Statement (.exit x0) :=
  fun _ => Encodes.of_fields _ (fun _ _ => nofun) (fun _ _ _ => nofun)
theorem Encodes.exitAbort : ∀ x0 x1, Encodes.Statement (.exitAbort x0 x1) :=
  fun _ _ => Encodes.of_fields _ (fun _ _ => nofun) (fun _ _ _ => nofun)
theorem Encodes.vadd : ∀ x0 x1, Encodes.Statement (.vadd x0 x1) :=
  fun _ _ => Encodes.of_fields _ (fun _ _ => nofun) (fun _ _ _ => nofun)
theorem Encodes.vsub : ∀ x0 x1, Encodes.Statement (.vsub x0 x1) :=
  fun _ _ => Encodes.of_fields _ (fun _ _ => nofun) (fun _ _ _ => nofun)
theorem Encodes.vmul : ∀ x0 x1, Encodes.Statement (.vmul x0 x1) :=
  fun _ _ => Encodes.of_fields _ (fun _ _ => nofun) (fun _ _ _ => nofun)
theorem Encodes.vmulh : ∀ x0 x1, Encodes.Statement (.vmulh x0 x1) :=
  fun _ _ => Encodes.of_fields _ (fun _ _ => nofun) (fun _ _ _ => nofun)
theorem Encodes.vmad : ∀ x0 x1, Encodes.Statement (.vmad x0 x1) :=
  fun _ _ => Encodes.of_fields _ (fun _ _ => nofun) (fun _ _ _ => nofun)
theorem Encodes.vdiv : ∀ x0 x1 x2, Encodes.Statement (.vdiv x0 x1 x2) :=
  fun _ _ _ => Encodes.of_fields _ (fun _ _ => nofun) (fun _ _ _ => nofun)
theorem Encodes.vand : ∀ x0 x1, Encodes.Statement (.vand x0 x1) :=
  fun _ _ => Encodes.of_fields _ (fun _ _ => nofun) (fun _ _ _ => nofun)
theorem Encodes.vor : ∀ x0 x1, Encodes.Statement (.vor x0 x1) :=
  fun _ _ => Encodes.of_fields _ (fun _ _ => nofun) (fun _ _ _ => nofun)
theorem Encodes.vxor : ∀ x0 x1, Encodes.Statement (.vxor x0 x1) :=
  fun _ _ => Encodes.of_fields _ (fun _ _ => nofun) (fun _ _ _ => nofun)
theorem Encodes.vshl : ∀ x0 x1, Encodes.Statement (.vshl x0 x1) :=
  fun _ _ => Encodes.of_fields _ (fun _ _ => nofun) (fun _ _ _ => nofun)
theorem Encodes.vshr : ∀ x0 x1 x2, Encodes.Statement (.vshr x0 x1 x2) :=
  fun _ _ _ => Encodes.of_fields _ (fun _ _ => nofun) (fun _ _ _ => nofun)
theorem Encodes.vmin : ∀ x0 x1 x2, Encodes.Statement (.vmin x0 x1 x2) :=
  fun _ _ _ => Encodes.of_fields _ (fun _ _ => nofun) (fun _ _ _ => nofun)
theorem Encodes.vmax : ∀ x0 x1 x2, Encodes.Statement (.vmax x0 x1 x2) :=
  fun _ _ _ => Encodes.of_fields _ (fun _ _ => nofun) (fun _ _ _ => nofun)
theorem Encodes.vcmp : ∀ x0 x1 x2 x3 x4 x5, Encodes.Statement (.vcmp x0 x1 x2 x3 x4 x5) :=
  fun _ _ _ _ _ _ => Encodes.of_fields _ (fun _ _ => nofun) (fun _ _ _ => nofun)
theorem Encodes.vsel : ∀ x0 x1 x2 x3 x4, Encodes.Statement (.vsel x0 x1 x2 x3 x4) :=
  fun _ _ _ _ _ => Encodes.of_fields _ (fun _ _ => nofun) (fun _ _ _ => nofun)
theorem Encodes.vmov : ∀ x0, Encodes.Statement (.vmov x0) :=
  fun _ => Encodes.of_fields _ (fun _ _ => nofun) (fun _ _ _ => nofun)
theorem Encodes.vfadd : ∀ x0 x1 x2, Encodes.Statement (.vfadd x0 x1 x2) :=
  fun _ _ _ => Encodes.of_fields _ (fun _ _ => nofun) (fun _ _ _ => nofun)
theorem Encodes.vfsub : ∀ x0 x1 x2, Encodes.Statement (.vfsub x0 x1 x2) :=
  fun _ _ _ => Encodes.of_fields _ (fun _ _ => nofun) (fun _ _ _ => nofun)
theorem Encodes.vfmul : ∀ x0 x1 x2, Encodes.Statement (.vfmul x0 x1 x2) :=
  fun _ _ _ => Encodes.of_fields _ (fun _ _ => nofun) (fun _ _ _ => nofun)
theorem Encodes.vfma : ∀ x0 x1 x2 x3 x4, Encodes.Statement (.vfma x0 x1 x2 x3 x4) :=
  fun _ _ _ _ _ => Encodes.of_fields _ (fun _ _ => nofun) (fun _ _ _ => nofun)
theorem Encodes.vfmin : ∀ x0 x1 x2, Encodes.Statement (.vfmin x0 x1 x2) :=
  fun _ _ _ => Encodes.of_fields _ (fun _ _ => nofun) (fun _ _ _ => nofun)
theorem Encodes.vfmax : ∀ x0 x1 x2, Encodes.Statement (.vfmax x0 x1 x2) :=
  fun _ _ _ => Encodes.of_fields _ (fun _ _ => nofun) (fun _ _ _ => nofun)
theorem Encodes.vfcmp : ∀ x0 x1 x2 x3 x4, Encodes.Statement (.vfcmp x0 x1 x2 x3 x4) :=
  fun _ _ _ _ _ => Encodes.of_fields _ (fun _ _ => nofun) (fun _ _ _ => nofun)
theorem Encodes.vfdiv : ∀ x0 x1, Encodes.Statement (.vfdiv x0 x1) :=
  fun _ _ => Encodes.of_fields _ (fun _ _ => nofun) (fun _ _ _ => nofun)
theorem Encodes.vfsqrt : ∀ x0 x1, Encodes.Statement (.vfsqrt x0 x1) :=
  fun _ _ => Encodes.of_fields _ (fun _ _ => nofun) (fun _ _ _ => nofun)
theorem Encodes.vsf : ∀ x0 x1, Encodes.Statement (.vsf x0 x1) :=
  fun _ _ => Encodes.of_fields _ (fun _ _ => nofun) (fun _ _ _ => nofun)
theorem Encodes.vflag : ∀ x0 x1, Encodes.Statement (.vflag x0 x1) :=
  fun _ _ => Encodes.of_fields _ (fun _ _ => nofun) (fun _ _ _ => nofun)
theorem Encodes.vclass : ∀ x0 x1, Encodes.Statement (.vclass x0 x1) :=
  fun _ _ => Encodes.of_fields _ (fun _ _ => nofun) (fun _ _ _ => nofun)
theorem Encodes.vbfe : ∀ x0 x1, Encodes.Statement (.vbfe x0 x1) :=
  fun _ _ => Encodes.of_fields _ (fun _ _ => nofun) (fun _ _ _ => nofun)
theorem Encodes.vbit : ∀ x0 x1, Encodes.Statement (.vbit x0 x1) :=
  fun _ _ => Encodes.of_fields _ (fun _ _ => nofun) (fun _ _ _ => nofun)
theorem Encodes.vdot4 : ∀ x0 x1 x2, Encodes.Statement (.vdot4 x0 x1 x2) :=
  fun _ _ _ => Encodes.of_fields _ (fun _ _ => nofun) (fun _ _ _ => nofun)
theorem Encodes.vrnd : ∀ x0 x1 x2, Encodes.Statement (.vrnd x0 x1 x2) :=
  fun _ _ _ => Encodes.of_fields _ (fun _ _ => nofun) (fun _ _ _ => nofun)
theorem Encodes.cvt : ∀ x0 x1, Encodes.Statement (.cvt x0 x1) :=
  fun _ _ => Encodes.of_fields _ (fun _ _ => nofun) (fun _ _ _ => nofun)
theorem Encodes.cvt8 : ∀ x0 x1, Encodes.Statement (.cvt8 x0 x1) :=
  fun _ _ => Encodes.of_fields _ (fun _ _ => nofun) (fun _ _ _ => nofun)
theorem Encodes.pack : ∀ x0 x1, Encodes.Statement (.pack x0 x1) :=
  fun _ _ => Encodes.of_fields _ (fun _ _ => nofun) (fun _ _ _ => nofun)
theorem Encodes.unpack : ∀ x0 x1, Encodes.Statement (.unpack x0 x1) :=
  fun _ _ => Encodes.of_fields _ (fun _ _ => nofun) (fun _ _ _ => nofun)
theorem Encodes.qgdec : ∀ x0 x1 x2, Encodes.Statement (.qgdec x0 x1 x2) :=
  fun _ _ _ => Encodes.of_fields _ (fun _ _ => nofun) (fun _ _ _ => nofun)
theorem Encodes.qgenc : ∀ x0 x1, Encodes.Statement (.qgenc x0 x1) :=
  fun _ _ => Encodes.of_fields _ (fun _ _ => nofun) (fun _ _ _ => nofun)
theorem Encodes.qgscl : ∀ x0, Encodes.Statement (.qgscl x0) :=
  fun _ => Encodes.of_fields _ (fun _ _ => nofun) (fun _ _ _ => nofun)
theorem Encodes.cvtsat : ∀ x0 x1, Encodes.Statement (.cvtsat x0 x1) :=
  fun _ _ => Encodes.of_fields _ (fun _ _ => nofun) (fun _ _ _ => nofun)
theorem Encodes.shfl : ∀ x0 x1 x2 x3 x4, Encodes.Statement (.shfl x0 x1 x2 x3 x4) :=
  fun _ _ _ _ _ => Encodes.of_fields _ (fun _ _ => nofun) (fun _ _ _ => nofun)
theorem Encodes.bcast : ∀ x0 x1 x2 x3, Encodes.Statement (.bcast x0 x1 x2 x3) :=
  fun _ _ _ _ => Encodes.of_fields _ (fun _ _ => nofun) (fun _ _ _ => nofun)
theorem Encodes.bcastS : ∀ x0 x1 x2 x3, Encodes.Statement (.bcastS x0 x1 x2 x3) :=
  fun _ _ _ _ => Encodes.of_fields _ (fun _ _ => nofun) (fun _ _ _ => nofun)
theorem Encodes.red : ∀ x0 x1 x2 x3 x4, Encodes.Statement (.red x0 x1 x2 x3 x4) :=
  fun _ _ _ _ _ => Encodes.of_fields _ (fun _ _ => nofun) (fun _ _ _ => nofun)
theorem Encodes.scan : ∀ x0 x1 x2 x3 x4, Encodes.Statement (.scan x0 x1 x2 x3 x4) :=
  fun _ _ _ _ _ => Encodes.of_fields _ (fun _ _ => nofun) (fun _ _ _ => nofun)
theorem Encodes.vote : ∀ x0 x1 x2 x3, Encodes.Statement (.vote x0 x1 x2 x3) :=
  fun _ _ _ _ => Encodes.of_fields _ (fun _ _ => nofun) (fun _ _ _ => nofun)
theorem Encodes.compact : ∀ x0 x1 x2 x3 x4, Encodes.Statement (.compact x0 x1 x2 x3 x4) :=
  fun _ _ _ _ _ => Encodes.of_fields _ (fun _ _ => nofun) (fun _ _ _ => nofun)
theorem Encodes.lmap : ∀ x0 x1 x2, Encodes.Statement (.lmap x0 x1 x2) :=
  fun _ _ _ => Encodes.of_fields _ (fun _ _ => nofun) (fun _ _ _ => nofun)
theorem Encodes.lnstat : ∀ x0 x1 x2, Encodes.Statement (.lnstat x0 x1 x2) :=
  fun _ _ _ => Encodes.of_fields _ (fun _ _ => nofun) (fun _ _ _ => nofun)
theorem Encodes.tdef : ∀ x0 x1 x2 x3 x4, Encodes.Statement (.tdef x0 x1 x2 x3 x4) :=
  fun _ _ _ _ _ => Encodes.of_fields _ (fun _ _ => nofun) (fun _ _ _ => nofun)
theorem Encodes.tfree : ∀ x0 x1, Encodes.Statement (.tfree x0 x1) :=
  fun _ _ => Encodes.of_fields _ (fun _ _ => nofun) (fun _ _ _ => nofun)
theorem Encodes.tqry : ∀ x0 x1 x2 x3, Encodes.Statement (.tqry x0 x1 x2 x3) :=
  fun _ _ _ _ => Encodes.of_fields _ (fun _ _ => nofun) (fun _ _ _ => nofun)
theorem Encodes.mma : ∀ x0 x1 x2 x3 x4 x5 x6, Encodes.Statement (.mma x0 x1 x2 x3 x4 x5 x6) :=
  fun _ _ _ _ _ _ _ => Encodes.of_fields _ (fun _ _ => nofun) (fun _ _ _ => nofun)
theorem Encodes.mzero : ∀ x0 x1, Encodes.Statement (.mzero x0 x1) :=
  fun _ _ => Encodes.of_fields _ (fun _ _ => nofun) (fun _ _ _ => nofun)
theorem Encodes.mload : ∀ x0 x1 x2 x3 x4, Encodes.Statement (.mload x0 x1 x2 x3 x4) :=
  fun _ _ _ _ _ => Encodes.of_fields _ (fun _ _ => nofun) (fun _ _ _ => nofun)
theorem Encodes.mstore : ∀ x0 x1 x2 x3 x4 x5, Encodes.Statement (.mstore x0 x1 x2 x3 x4 x5) :=
  fun _ _ _ _ _ _ => Encodes.of_fields _ (fun _ _ => nofun) (fun _ _ _ => nofun)
theorem Encodes.mcorr : ∀ x0 x1 x2 x3 x4 x5, Encodes.Statement (.mcorr x0 x1 x2 x3 x4 x5) :=
  fun _ _ _ _ _ _ => Encodes.of_fields _ (fun _ _ => nofun) (fun _ _ _ => nofun)
theorem Encodes.mstat : ∀ x0 x1 x2 x3, Encodes.Statement (.mstat x0 x1 x2 x3) :=
  fun _ _ _ _ => Encodes.of_fields _ (fun _ _ => nofun) (fun _ _ _ => nofun)
theorem Encodes.msig : ∀ x0 x1 x2, Encodes.Statement (.msig x0 x1 x2) :=
  fun _ _ _ => Encodes.of_fields _ (fun _ _ => nofun) (fun _ _ _ => nofun)
theorem Encodes.swfence : ∀ x0 x1, Encodes.Statement (.swfence x0 x1) :=
  fun _ _ => Encodes.of_fields _ (fun _ _ => nofun) (fun _ _ _ => nofun)
theorem Encodes.ld : ∀ x0, Encodes.Statement (.ld x0) :=
  fun _ => Encodes.of_fields _ (fun _ _ => nofun) (fun _ _ _ => nofun)
theorem Encodes.st : ∀ x0, Encodes.Statement (.st x0) :=
  fun _ => Encodes.of_fields _ (fun _ _ => nofun) (fun _ _ _ => nofun)
theorem Encodes.ldv : ∀ x0, Encodes.Statement (.ldv x0) :=
  fun _ => Encodes.of_fields _ (fun _ _ => nofun) (fun _ _ _ => nofun)
theorem Encodes.stv : ∀ x0, Encodes.Statement (.stv x0) :=
  fun _ => Encodes.of_fields _ (fun _ _ => nofun) (fun _ _ _ => nofun)
theorem Encodes.wait : ∀ x0 x1 x2, Encodes.Statement (.wait x0 x1 x2) :=
  fun _ _ _ => Encodes.of_fields _ (fun _ _ => nofun) (fun _ _ _ => nofun)
theorem Encodes.waitAll : ∀ x0, Encodes.Statement (.waitAll x0) :=
  fun _ => Encodes.of_fields _ (fun _ _ => nofun) (fun _ _ _ => nofun)
theorem Encodes.actrRead : ∀ x0 x1 x2, Encodes.Statement (.actrRead x0 x1 x2) :=
  fun _ _ _ => Encodes.of_fields _ (fun _ _ => nofun) (fun _ _ _ => nofun)
theorem Encodes.actrMask : ∀ x0 x1, Encodes.Statement (.actrMask x0 x1) :=
  fun _ _ => Encodes.of_fields _ (fun _ _ => nofun) (fun _ _ _ => nofun)
theorem Encodes.pref : ∀ x0 x1 x2 x3 x4 x5 x6, Encodes.Statement (.pref x0 x1 x2 x3 x4 x5 x6) :=
  fun _ _ _ _ _ _ _ => Encodes.of_fields _ (fun _ _ => nofun) (fun _ _ _ => nofun)
theorem Encodes.zfill : ∀ x0 x1 x2 x3 x4 x5 x6 x7 x8, Encodes.Statement (.zfill x0 x1 x2 x3 x4 x5 x6 x7 x8) :=
  fun _ _ _ _ _ _ _ _ _ => Encodes.of_fields _ (fun _ _ => nofun) (fun _ _ _ => nofun)
theorem Encodes.gwin : ∀ x0 x1 x2 x3, Encodes.Statement (.gwin x0 x1 x2 x3) :=
  fun _ _ _ _ => Encodes.of_fields _ (fun _ _ => nofun) (fun _ _ _ => nofun)
theorem Encodes.cpy : ∀ x0 x1 x2 x3, Encodes.Statement (.cpy x0 x1 x2 x3) :=
  fun _ _ _ _ => Encodes.of_fields _ (fun _ _ => nofun) (fun _ _ _ => nofun)
theorem Encodes.cpyt : ∀ x0 x1, Encodes.Statement (.cpyt x0 x1) :=
  fun _ _ => Encodes.of_fields _ (fun _ _ => nofun) (fun _ _ _ => nofun)
theorem Encodes.qfence : ∀ x0 x1, Encodes.Statement (.qfence x0 x1) :=
  fun _ _ => Encodes.of_fields _ (fun _ _ => nofun) (fun _ _ _ => nofun)
theorem Encodes.cstat : ∀ x0 x1 x2, Encodes.Statement (.cstat x0 x1 x2) :=
  fun _ _ _ => Encodes.of_fields _ (fun _ _ => nofun) (fun _ _ _ => nofun)
theorem Encodes.coll : ∀ x0 x1 x2 x3, Encodes.Statement (.coll x0 x1 x2 x3) :=
  fun _ _ _ _ => Encodes.of_fields _ (fun _ _ => nofun) (fun _ _ _ => nofun)
theorem Encodes.collwt : ∀ x0 x1 x2, Encodes.Statement (.collwt x0 x1 x2) :=
  fun _ _ _ => Encodes.of_fields _ (fun _ _ => nofun) (fun _ _ _ => nofun)
theorem Encodes.collwtTry : ∀ x0 x1 x2, Encodes.Statement (.collwtTry x0 x1 x2) :=
  fun _ _ _ => Encodes.of_fields _ (fun _ _ => nofun) (fun _ _ _ => nofun)
theorem Encodes.atom : ∀ x0, Encodes.Statement (.atom x0) :=
  fun _ => Encodes.of_fields _ (fun _ _ => nofun) (fun _ _ _ => nofun)
theorem Encodes.fence : ∀ x0 x1 x2, Encodes.Statement (.fence x0 x1 x2) :=
  fun _ _ _ => Encodes.of_fields _ (fun _ _ => nofun) (fun _ _ _ => nofun)
theorem Encodes.barInit : ∀ x0 x1 x2, Encodes.Statement (.barInit x0 x1 x2) :=
  fun _ _ _ => Encodes.of_fields _ (fun _ _ => nofun) (fun _ _ _ => nofun)
theorem Encodes.barArrive : ∀ x0 x1 x2, Encodes.Statement (.barArrive x0 x1 x2) :=
  fun _ _ _ => Encodes.of_fields _ (fun _ _ => nofun) (fun _ _ _ => nofun)
theorem Encodes.barArriveNw : ∀ x0 x1 x2, Encodes.Statement (.barArriveNw x0 x1 x2) :=
  fun _ _ _ => Encodes.of_fields _ (fun _ _ => nofun) (fun _ _ _ => nofun)
theorem Encodes.barArriveDefer : ∀ x0 x1 x2 x3, Encodes.Statement (.barArriveDefer x0 x1 x2 x3) :=
  fun _ _ _ _ => Encodes.of_fields _ (fun _ _ => nofun) (fun _ _ _ => nofun)
theorem Encodes.barWait : ∀ x0 x1 x2, Encodes.Statement (.barWait x0 x1 x2) :=
  fun _ _ _ => Encodes.of_fields _ (fun _ _ => nofun) (fun _ _ _ => nofun)
theorem Encodes.barStat : ∀ x0 x1 x2, Encodes.Statement (.barStat x0 x1 x2) :=
  fun _ _ _ => Encodes.of_fields _ (fun _ _ => nofun) (fun _ _ _ => nofun)
theorem Encodes.barStatExp : ∀ x0 x1 x2, Encodes.Statement (.barStatExp x0 x1 x2) :=
  fun _ _ _ => Encodes.of_fields _ (fun _ _ => nofun) (fun _ _ _ => nofun)
theorem Encodes.qopDef : ∀ x0 x1 x2 x3, Encodes.Statement (.qopDef x0 x1 x2 x3) :=
  fun _ _ _ _ => Encodes.of_fields _ (fun _ _ => nofun) (fun _ _ _ => nofun)
theorem Encodes.qopPush : ∀ x0 x1 x2 x3, Encodes.Statement (.qopPush x0 x1 x2 x3) :=
  fun _ _ _ _ => Encodes.of_fields _ (fun _ _ => nofun) (fun _ _ _ => nofun)
theorem Encodes.qopPop : ∀ x0 x1 x2, Encodes.Statement (.qopPop x0 x1 x2) :=
  fun _ _ _ => Encodes.of_fields _ (fun _ _ => nofun) (fun _ _ _ => nofun)
theorem Encodes.qopTrypush : ∀ x0 x1 x2 x3 x4, Encodes.Statement (.qopTrypush x0 x1 x2 x3 x4) :=
  fun _ _ _ _ _ => Encodes.of_fields _ (fun _ _ => nofun) (fun _ _ _ => nofun)
theorem Encodes.qopTrypop : ∀ x0 x1 x2, Encodes.Statement (.qopTrypop x0 x1 x2) :=
  fun _ _ _ => Encodes.of_fields _ (fun _ _ => nofun) (fun _ _ _ => nofun)
theorem Encodes.qopStat : ∀ x0 x1 x2, Encodes.Statement (.qopStat x0 x1 x2) :=
  fun _ _ _ => Encodes.of_fields _ (fun _ _ => nofun) (fun _ _ _ => nofun)
theorem Encodes.qopStatCfg : ∀ x0 x1 x2, Encodes.Statement (.qopStatCfg x0 x1 x2) :=
  fun _ _ _ => Encodes.of_fields _ (fun _ _ => nofun) (fun _ _ _ => nofun)
theorem Encodes.evw : ∀ x0 x1 x2, Encodes.Statement (.evw x0 x1 x2) :=
  fun _ _ _ => Encodes.of_fields _ (fun _ _ => nofun) (fun _ _ _ => nofun)
theorem Encodes.evwTry : ∀ x0 x1 x2 x3, Encodes.Statement (.evwTry x0 x1 x2 x3) :=
  fun _ _ _ _ => Encodes.of_fields _ (fun _ _ => nofun) (fun _ _ _ => nofun)
theorem Encodes.evwStat : ∀ x0 x1 x2, Encodes.Statement (.evwStat x0 x1 x2) :=
  fun _ _ _ => Encodes.of_fields _ (fun _ _ => nofun) (fun _ _ _ => nofun)
theorem Encodes.evwClr : ∀ x0 x1 x2, Encodes.Statement (.evwClr x0 x1 x2) :=
  fun _ _ _ => Encodes.of_fields _ (fun _ _ => nofun) (fun _ _ _ => nofun)
theorem Encodes.spawn : ∀ x0 x1 x2 x3, Encodes.Statement (.spawn x0 x1 x2 x3) :=
  fun _ _ _ _ => Encodes.of_fields _ (fun _ _ => nofun) (fun _ _ _ => nofun)
theorem Encodes.spawnTry : ∀ x0 x1 x2 x3 x4, Encodes.Statement (.spawnTry x0 x1 x2 x3 x4) :=
  fun _ _ _ _ _ => Encodes.of_fields _ (fun _ _ => nofun) (fun _ _ _ => nofun)
theorem Encodes.launch : ∀ x0 x1 x2 x3, Encodes.Statement (.launch x0 x1 x2 x3) :=
  fun _ _ _ _ => Encodes.of_fields _ (fun _ _ => nofun) (fun _ _ _ => nofun)
theorem Encodes.dbell : ∀ x0 x1 x2 x3 x4, Encodes.Statement (.dbell x0 x1 x2 x3 x4) :=
  fun _ _ _ _ _ => Encodes.of_fields _ (fun _ _ => nofun) (fun _ _ _ => nofun)
theorem Encodes.loadComplete : ∀ x0, Encodes.Statement (.loadComplete x0) :=
  fun _ => Encodes.of_fields _ (fun _ _ => nofun) (fun _ _ _ => nofun)
theorem Encodes.storeComplete : ∀ x0, Encodes.Statement (.storeComplete x0) :=
  fun _ => Encodes.of_fields _ (fun _ _ => nofun) (fun _ _ _ => nofun)
theorem Encodes.storeBufferWriteback : ∀ x0 x1, Encodes.Statement (.storeBufferWriteback x0 x1) :=
  fun _ _ => Encodes.of_fields _ (fun _ _ => nofun) (fun _ _ _ => nofun)
theorem Encodes.remoteSAccess : ∀ x0, Encodes.Statement (.remoteSAccess x0) :=
  fun _ => Encodes.of_fields _ (fun _ _ => nofun) (fun _ _ _ => nofun)
theorem Encodes.asyncFault : ∀ x0, Encodes.Statement (.asyncFault x0) :=
  fun _ => Encodes.of_fields _ (fun _ _ => nofun) (fun _ _ _ => nofun)
theorem Encodes.atomicPerform : ∀ x0, Encodes.Statement (.atomicPerform x0) :=
  fun _ => Encodes.of_fields _ (fun _ _ => nofun) (fun _ _ _ => nofun)
theorem Encodes.engineOpStart : ∀ x0, Encodes.Statement (.engineOpStart x0) :=
  fun _ => Encodes.of_fields _ (fun _ _ => nofun) (fun _ _ _ => nofun)
theorem Encodes.engineOpComplete : ∀ x0, Encodes.Statement (.engineOpComplete x0) :=
  fun _ => Encodes.of_fields _ (fun _ _ => nofun) (fun _ _ _ => nofun)
theorem Encodes.copyComplete : ∀ x0, Encodes.Statement (.copyComplete x0) :=
  fun _ => Encodes.of_fields _ (fun _ _ => nofun) (fun _ _ _ => nofun)
theorem Encodes.copyPageFault : ∀ x0, Encodes.Statement (.copyPageFault x0) :=
  fun _ => Encodes.of_fields _ (fun _ _ => nofun) (fun _ _ _ => nofun)
theorem Encodes.copyResume : ∀ x0, Encodes.Statement (.copyResume x0) :=
  fun _ => Encodes.of_fields _ (fun _ _ => nofun) (fun _ _ _ => nofun)
theorem Encodes.deferredArrival : ∀ x0 x1, Encodes.Statement (.deferredArrival x0 x1) :=
  fun _ _ => Encodes.of_fields _ (fun _ _ => nofun) (fun _ _ _ => nofun)
theorem Encodes.barrierWaiterRelease : ∀ x0, Encodes.Statement (.barrierWaiterRelease x0) :=
  fun _ => Encodes.of_fields _ (fun _ _ => nofun) (fun _ _ _ => nofun)
theorem Encodes.collStep : ∀ x0 x1 x2, Encodes.Statement (.collStep x0 x1 x2) :=
  fun _ _ _ => Encodes.of_fields _ (fun _ _ => nofun) (fun _ _ _ => nofun)
theorem Encodes.collStepFail : ∀ x0 x1 x2, Encodes.Statement (.collStepFail x0 x1 x2) :=
  fun _ _ _ => Encodes.of_fields _ (fun _ _ => nofun) (fun _ _ _ => nofun)
theorem Encodes.collTimeout : ∀ x0 x1 x2, Encodes.Statement (.collTimeout x0 x1 x2) :=
  fun _ _ _ => Encodes.of_fields _ (fun _ _ => nofun) (fun _ _ _ => nofun)
theorem Encodes.collComplete : ∀ x0 x1, Encodes.Statement (.collComplete x0 x1) :=
  fun _ _ => Encodes.of_fields _ (fun _ _ => nofun) (fun _ _ _ => nofun)
theorem Encodes.groupDiscard : ∀ x0, Encodes.Statement (.groupDiscard x0) :=
  fun _ => Encodes.of_fields _ (fun _ _ => nofun) (fun _ _ _ => nofun)
theorem Encodes.recordResume : ∀ x0, Encodes.Statement (.recordResume x0) :=
  fun _ => Encodes.of_fields _ (fun _ _ => nofun) (fun _ _ _ => nofun)
theorem Encodes.eventWrite : ∀ x0 x1, Encodes.Statement (.eventWrite x0 x1) :=
  fun _ _ => Encodes.of_fields _ (fun _ _ => nofun) (fun _ _ _ => nofun)
theorem Encodes.evwWaiterRelease : ∀ x0, Encodes.Statement (.evwWaiterRelease x0) :=
  fun _ => Encodes.of_fields _ (fun _ _ => nofun) (fun _ _ _ => nofun)
theorem Encodes.schedulerStep : Encodes.Statement .schedulerStep := Encodes.of_fields _ (fun _ _ => nofun) (fun _ _ _ => nofun)
theorem Encodes.forwardProgressExpiry : ∀ x0, Encodes.Statement (.forwardProgressExpiry x0) :=
  fun _ => Encodes.of_fields _ (fun _ _ => nofun) (fun _ _ _ => nofun)
theorem Encodes.gangSwapOut : ∀ x0, Encodes.Statement (.gangSwapOut x0) :=
  fun _ => Encodes.of_fields _ (fun _ _ => nofun) (fun _ _ _ => nofun)
theorem Encodes.gangSwapIn : ∀ x0 x1 x2, Encodes.Statement (.gangSwapIn x0 x1 x2) :=
  fun _ _ _ => Encodes.of_fields _ (fun _ _ => nofun) (fun _ _ _ => nofun)
theorem Encodes.gridTakeUp : ∀ x0, Encodes.Statement (.gridTakeUp x0) :=
  fun _ => Encodes.of_fields _ (fun _ _ => nofun) (fun _ _ _ => nofun)
theorem Encodes.gridCompletion : ∀ x0, Encodes.Statement (.gridCompletion x0) :=
  fun _ => Encodes.of_fields _ (fun _ _ => nofun) (fun _ _ _ => nofun)
theorem Encodes.termination : ∀ x0 x1, Encodes.Statement (.termination x0 x1) :=
  fun _ _ => Encodes.of_fields _ (fun _ _ => nofun) (fun _ _ _ => nofun)
theorem Encodes.workQueueTake : ∀ x0, Encodes.Statement (.workQueueTake x0) :=
  fun _ => Encodes.of_fields _ (fun _ _ => nofun) (fun _ _ _ => nofun)
theorem Encodes.kick : ∀ x0, Encodes.Statement (.kick x0) :=
  fun _ => Encodes.of_fields _ (fun _ _ => nofun) (fun _ _ _ => nofun)
theorem Encodes.queueReread : ∀ x0, Encodes.Statement (.queueReread x0) :=
  fun _ => Encodes.of_fields _ (fun _ _ => nofun) (fun _ _ _ => nofun)
theorem Encodes.depPacketRelease : ∀ x0, Encodes.Statement (.depPacketRelease x0) :=
  fun _ => Encodes.of_fields _ (fun _ _ => nofun) (fun _ _ _ => nofun)
theorem Encodes.queueMap : ∀ x0, Encodes.Statement (.queueMap x0) :=
  fun _ => Encodes.of_fields _ (fun _ _ => nofun) (fun _ _ _ => nofun)
theorem Encodes.queueIdleExpiry : ∀ x0, Encodes.Statement (.queueIdleExpiry x0) :=
  fun _ => Encodes.of_fields _ (fun _ _ => nofun) (fun _ _ _ => nofun)
theorem Encodes.faultRecordEnqueue : ∀ x0, Encodes.Statement (.faultRecordEnqueue x0) :=
  fun _ => Encodes.of_fields _ (fun _ _ => nofun) (fun _ _ _ => nofun)
theorem Encodes.pageFaultService : ∀ x0 x1, Encodes.Statement (.pageFaultService x0 x1) :=
  fun _ _ => Encodes.of_fields _ (fun _ _ => nofun) (fun _ _ _ => nofun)
theorem Encodes.tlbInvalidate : ∀ x0 x1, Encodes.Statement (.tlbInvalidate x0 x1) :=
  fun _ _ => Encodes.of_fields _ (fun _ _ => nofun) (fun _ _ _ => nofun)
theorem Encodes.debugRelease : ∀ x0 x1, Encodes.Statement (.debugRelease x0 x1) :=
  fun _ _ => Encodes.of_fields _ (fun _ _ => nofun) (fun _ _ _ => nofun)
theorem Encodes.firmwareStop : ∀ x0, Encodes.Statement (.firmwareStop x0) :=
  fun _ => Encodes.of_fields _ (fun _ _ => nofun) (fun _ _ _ => nofun)
theorem Encodes.debugRegisterWrite : ∀ x0 x1 x2, Encodes.Statement (.debugRegisterWrite x0 x1 x2) :=
  fun _ _ _ => Encodes.of_fields _ (fun _ _ => nofun) (fun _ _ _ => nofun)
theorem Encodes.illegalStateCheck : ∀ x0, Encodes.Statement (.illegalStateCheck x0) :=
  fun _ => Encodes.of_fields _ (fun _ _ => nofun) (fun _ _ _ => nofun)
theorem Encodes.clusterDrainResume : ∀ x0 x1, Encodes.Statement (.clusterDrainResume x0 x1) :=
  fun _ _ => Encodes.of_fields _ (fun _ _ => nofun) (fun _ _ _ => nofun)
theorem Encodes.packageSchedulerIllegal : Encodes.Statement .packageSchedulerIllegal := Encodes.of_fields _ (fun _ _ => nofun) (fun _ _ _ => nofun)
theorem Encodes.refreshSlot : ∀ x0, Encodes.Statement (.refreshSlot x0) :=
  fun _ => Encodes.of_fields _ (fun _ _ => nofun) (fun _ _ _ => nofun)
theorem Encodes.refreshEnd : ∀ x0, Encodes.Statement (.refreshEnd x0) :=
  fun _ => Encodes.of_fields _ (fun _ _ => nofun) (fun _ _ _ => nofun)
theorem Encodes.hbmAccess : ∀ x0 x1 x2, Encodes.Statement (.hbmAccess x0 x1 x2) :=
  fun _ _ _ => Encodes.of_fields _ (fun _ _ => nofun) (fun _ _ _ => nofun)
theorem Encodes.stackCriticalTemp : ∀ x0, Encodes.Statement (.stackCriticalTemp x0) :=
  fun _ => Encodes.of_fields _ (fun _ _ => nofun) (fun _ _ _ => nofun)
theorem Encodes.stackResume : ∀ x0, Encodes.Statement (.stackResume x0) :=
  fun _ => Encodes.of_fields _ (fun _ _ => nofun) (fun _ _ _ => nofun)
theorem Encodes.memoryStallEvent : ∀ x0, Encodes.Statement (.memoryStallEvent x0) :=
  fun _ => Encodes.of_fields _ (fun _ _ => nofun) (fun _ _ _ => nofun)
theorem Encodes.thojanFlowControl : ∀ x0 x1, Encodes.Statement (.thojanFlowControl x0 x1) :=
  fun _ _ => Encodes.of_fields _ (fun _ _ => nofun) (fun _ _ _ => nofun)
theorem Encodes.flitReceive : ∀ x0, Encodes.Statement (.flitReceive x0) :=
  fun _ => Encodes.of_fields _ (fun _ _ => nofun) (fun _ _ _ => nofun)
theorem Encodes.linkRetrain : ∀ x0 x1, Encodes.Statement (.linkRetrain x0 x1) :=
  fun _ _ => Encodes.of_fields _ (fun _ _ => nofun) (fun _ _ _ => nofun)
theorem Encodes.stackLinkTagFail : ∀ x0 x1, Encodes.Statement (.stackLinkTagFail x0 x1) :=
  fun _ _ => Encodes.of_fields _ (fun _ _ => nofun) (fun _ _ _ => nofun)
theorem Encodes.keySwitch : ∀ x0, Encodes.Statement (.keySwitch x0) :=
  fun _ => Encodes.of_fields _ (fun _ _ => nofun) (fun _ _ _ => nofun)
theorem Encodes.keySlotRetire : ∀ x0, Encodes.Statement (.keySlotRetire x0) :=
  fun _ => Encodes.of_fields _ (fun _ _ => nofun) (fun _ _ _ => nofun)
theorem Encodes.stackOutOfService : ∀ x0, Encodes.Statement (.stackOutOfService x0) :=
  fun _ => Encodes.of_fields _ (fun _ _ => nofun) (fun _ _ _ => nofun)
theorem Encodes.endpointMemoryRequest : ∀ x0, Encodes.Statement (.endpointMemoryRequest x0) :=
  fun _ => Encodes.of_fields _ (fun _ _ => nofun) (fun _ _ _ => nofun)
theorem Encodes.endpointAtomicop : ∀ x0 x1 x2 x3 x4 x5 x6 x7, Encodes.Statement (.endpointAtomicop x0 x1 x2 x3 x4 x5 x6 x7) :=
  fun _ _ _ _ _ _ _ _ => Encodes.of_fields _ (fun _ _ => nofun) (fun _ _ _ => nofun)
theorem Encodes.translationRequest : ∀ x0 x1 x2, Encodes.Statement (.translationRequest x0 x1 x2) :=
  fun _ _ _ => Encodes.of_fields _ (fun _ _ => nofun) (fun _ _ _ => nofun)
theorem Encodes.pageRequest : ∀ x0 x1 x2 x3 x4, Encodes.Statement (.pageRequest x0 x1 x2 x3 x4) :=
  fun _ _ _ _ _ => Encodes.of_fields _ (fun _ _ => nofun) (fun _ _ _ => nofun)
theorem Encodes.pageRequestGroupResponse : ∀ x0 x1 x2, Encodes.Statement (.pageRequestGroupResponse x0 x1 x2) :=
  fun _ _ _ => Encodes.of_fields _ (fun _ _ => nofun) (fun _ _ _ => nofun)
theorem Encodes.atsInvalidate : ∀ x0 x1, Encodes.Statement (.atsInvalidate x0 x1) :=
  fun _ _ => Encodes.of_fields _ (fun _ _ => nofun) (fun _ _ _ => nofun)
theorem Encodes.invalidateCompletion : ∀ x0, Encodes.Statement (.invalidateCompletion x0) :=
  fun _ => Encodes.of_fields _ (fun _ _ => nofun) (fun _ _ _ => nofun)
theorem Encodes.invalidateTimeout : ∀ x0, Encodes.Statement (.invalidateTimeout x0) :=
  fun _ => Encodes.of_fields _ (fun _ _ => nofun) (fun _ _ _ => nofun)
theorem Encodes.flrComplete : ∀ x0, Encodes.Statement (.flrComplete x0) :=
  fun _ => Encodes.of_fields _ (fun _ _ => nofun) (fun _ _ _ => nofun)
theorem Encodes.endpointCompletion : ∀ x0 x1 x2 x3, Encodes.Statement (.endpointCompletion x0 x1 x2 x3) :=
  fun _ _ _ _ => Encodes.of_fields _ (fun _ _ => nofun) (fun _ _ _ => nofun)
theorem Encodes.completionTimeout : ∀ x0 x1, Encodes.Statement (.completionTimeout x0 x1) :=
  fun _ _ => Encodes.of_fields _ (fun _ _ => nofun) (fun _ _ _ => nofun)
theorem Encodes.tailstockSend : ∀ x0, Encodes.Statement (.tailstockSend x0) :=
  fun _ => Encodes.of_fields _ (fun _ _ => nofun) (fun _ _ _ => nofun)
theorem Encodes.portDown : ∀ x0, Encodes.Statement (.portDown x0) :=
  fun _ => Encodes.of_fields _ (fun _ _ => nofun) (fun _ _ _ => nofun)
theorem Encodes.sandingPass : ∀ x0 x1 x2 x3 x4 x5, Encodes.Statement (.sandingPass x0 x1 x2 x3 x4 x5) :=
  fun _ _ _ _ _ _ => Encodes.of_fields _ (fun _ _ => nofun) (fun _ _ _ => nofun)
theorem Encodes.caliperReplay : ∀ x0 x1, Encodes.Statement (.caliperReplay x0 x1) :=
  fun _ _ => Encodes.of_fields _ (fun _ _ => nofun) (fun _ _ _ => nofun)
theorem Encodes.caliperVerdict : ∀ x0, Encodes.Statement (.caliperVerdict x0) :=
  fun _ => Encodes.of_fields _ (fun _ _ => nofun) (fun _ _ _ => nofun)
theorem Encodes.caliperTimeout : ∀ x0, Encodes.Statement (.caliperTimeout x0) :=
  fun _ => Encodes.of_fields _ (fun _ _ => nofun) (fun _ _ _ => nofun)
theorem Encodes.powerLimitStep : ∀ x0, Encodes.Statement (.powerLimitStep x0) :=
  fun _ => Encodes.of_fields _ (fun _ _ => nofun) (fun _ _ _ => nofun)
theorem Encodes.dieCriticalTemp : ∀ x0, Encodes.Statement (.dieCriticalTemp x0) :=
  fun _ => Encodes.of_fields _ (fun _ _ => nofun) (fun _ _ _ => nofun)
theorem Encodes.dieTempResume : ∀ x0, Encodes.Statement (.dieTempResume x0) :=
  fun _ => Encodes.of_fields _ (fun _ _ => nofun) (fun _ _ _ => nofun)
theorem Encodes.chuck0Read : Encodes.Statement .chuck0Read := Encodes.of_fields _ (fun _ _ => nofun) (fun _ _ _ => nofun)
theorem Encodes.registerWrite : ∀ x0 x1, Encodes.Statement (.registerWrite x0 x1) :=
  fun _ _ => Encodes.of_fields _ (fun _ _ => nofun) (fun _ _ _ => nofun)
theorem Encodes.moduleReset : ∀ x0 x1 x2, Encodes.Statement (.moduleReset x0 x1 x2) :=
  fun _ _ _ => Encodes.of_fields _ (fun _ _ => nofun) (fun _ _ _ => nofun)
theorem Encodes.managementMessage : ∀ x0 x1 x2, Encodes.Statement (.managementMessage x0 x1 x2) :=
  fun _ _ _ => Encodes.of_fields _ (fun _ _ => nofun) (fun _ _ _ => nofun)
theorem Encodes.sessionIdleTimeout : ∀ x0, Encodes.Statement (.sessionIdleTimeout x0) :=
  fun _ => Encodes.of_fields _ (fun _ _ => nofun) (fun _ _ _ => nofun)
theorem Encodes.hello : ∀ x0 x1, Encodes.Statement (.hello x0 x1) :=
  fun _ _ => Encodes.of_fields _ (fun _ _ => nofun) (fun _ _ _ => nofun)
theorem Encodes.auth : ∀ x0 x1 x2, Encodes.Statement (.auth x0 x1 x2) :=
  fun _ _ _ => Encodes.of_fields _ (fun _ _ => nofun) (fun _ _ _ => nofun)
theorem Encodes.cert : Encodes.Statement .cert := Encodes.of_fields _ (fun _ _ => nofun) (fun _ _ _ => nofun)
theorem Encodes.operatorSet : ∀ x0 x1, Encodes.Statement (.operatorSet x0 x1) :=
  fun _ _ => Encodes.of_fields _ (fun _ _ => nofun) (fun _ _ _ => nofun)
theorem Encodes.evidence : ∀ x0 x1, Encodes.Statement (.evidence x0 x1) :=
  fun _ _ => Encodes.of_fields _ (fun _ _ => nofun) (fun _ _ _ => nofun)
theorem Encodes.measure : ∀ x0 x1 x2, Encodes.Statement (.measure x0 x1 x2) :=
  fun _ _ _ => Encodes.of_fields _ (fun _ _ => nofun) (fun _ _ _ => nofun)
theorem Encodes.receiptCheck : ∀ x0 x1, Encodes.Statement (.receiptCheck x0 x1) :=
  fun _ _ => Encodes.of_fields _ (fun _ _ => nofun) (fun _ _ _ => nofun)
theorem Encodes.ownerRegister : ∀ x0 x1 x2, Encodes.Statement (.ownerRegister x0 x1 x2) :=
  fun _ _ _ => Encodes.of_fields _ (fun _ _ => nofun) (fun _ _ _ => nofun)
theorem Encodes.ownerInstall : ∀ x0 x1, Encodes.Statement (.ownerInstall x0 x1) :=
  fun _ _ => Encodes.of_fields _ (fun _ _ => nofun) (fun _ _ _ => nofun)
theorem Encodes.ownerErase : ∀ x0 x1, Encodes.Statement (.ownerErase x0 x1) :=
  fun _ _ => Encodes.of_fields _ (fun _ _ => nofun) (fun _ _ _ => nofun)
theorem Encodes.contextCreate : ∀ x0 x1 x2 x3 x4 x5 x6, Encodes.Statement (.contextCreate x0 x1 x2 x3 x4 x5 x6) :=
  fun _ _ _ _ _ _ _ => Encodes.of_fields _ (fun _ _ => nofun) (fun _ _ _ => nofun)
theorem Encodes.contextDestroy : ∀ x0 x1, Encodes.Statement (.contextDestroy x0 x1) :=
  fun _ _ => Encodes.of_fields _ (fun _ _ => nofun) (fun _ _ _ => nofun)
theorem Encodes.map : ∀ x0 x1 x2, Encodes.Statement (.map x0 x1 x2) :=
  fun _ _ _ => Encodes.of_fields _ (fun _ _ => nofun) (fun _ _ _ => nofun)
theorem Encodes.channelBind : ∀ x0 x1 x2, Encodes.Statement (.channelBind x0 x1 x2) :=
  fun _ _ _ => Encodes.of_fields _ (fun _ _ => nofun) (fun _ _ _ => nofun)
theorem Encodes.channelRetire : ∀ x0 x1, Encodes.Statement (.channelRetire x0 x1) :=
  fun _ _ => Encodes.of_fields _ (fun _ _ => nofun) (fun _ _ _ => nofun)
theorem Encodes.eventBind : ∀ x0 x1 x2, Encodes.Statement (.eventBind x0 x1 x2) :=
  fun _ _ _ => Encodes.of_fields _ (fun _ _ => nofun) (fun _ _ _ => nofun)
theorem Encodes.wqBind : ∀ x0 x1 x2 x3, Encodes.Statement (.wqBind x0 x1 x2 x3) :=
  fun _ _ _ _ => Encodes.of_fields _ (fun _ _ => nofun) (fun _ _ _ => nofun)
theorem Encodes.queueCreate : ∀ x0 x1 x2, Encodes.Statement (.queueCreate x0 x1 x2) :=
  fun _ _ _ => Encodes.of_fields _ (fun _ _ => nofun) (fun _ _ _ => nofun)
theorem Encodes.powerSet : ∀ x0 x1, Encodes.Statement (.powerSet x0 x1) :=
  fun _ _ => Encodes.of_fields _ (fun _ _ => nofun) (fun _ _ _ => nofun)
theorem Encodes.caliperSet : ∀ x0 x1, Encodes.Statement (.caliperSet x0 x1) :=
  fun _ _ => Encodes.of_fields _ (fun _ _ => nofun) (fun _ _ _ => nofun)
theorem Encodes.outOfService : ∀ x0 x1, Encodes.Statement (.outOfService x0 x1) :=
  fun _ _ => Encodes.of_fields _ (fun _ _ => nofun) (fun _ _ _ => nofun)
theorem Encodes.logRead : ∀ x0 x1, Encodes.Statement (.logRead x0 x1) :=
  fun _ _ => Encodes.of_fields _ (fun _ _ => nofun) (fun _ _ _ => nofun)
theorem Encodes.reportRead : ∀ x0, Encodes.Statement (.reportRead x0) :=
  fun _ => Encodes.of_fields _ (fun _ _ => nofun) (fun _ _ _ => nofun)
theorem Encodes.imageWrite : ∀ x0 x1, Encodes.Statement (.imageWrite x0 x1) :=
  fun _ _ => Encodes.of_fields _ (fun _ _ => nofun) (fun _ _ _ => nofun)
theorem Encodes.reset : ∀ x0, Encodes.Statement (.reset x0) :=
  fun _ => Encodes.of_fields _ (fun _ _ => nofun) (fun _ _ _ => nofun)
theorem Encodes.unknownCommand : ∀ x0 x1, Encodes.Statement (.unknownCommand x0 x1) :=
  fun _ _ => Encodes.of_fields _ (fun _ _ => nofun) (fun _ _ _ => nofun)
theorem Encodes.systemCoreAccess : ∀ x0, Encodes.Statement (.systemCoreAccess x0) :=
  fun _ => Encodes.of_fields _ (fun _ _ => nofun) (fun _ _ _ => nofun)
theorem Encodes.firmwarePreEmption : ∀ x0, Encodes.Statement (.firmwarePreEmption x0) :=
  fun _ => Encodes.of_fields _ (fun _ _ => nofun) (fun _ _ _ => nofun)
theorem Encodes.sysreqServiceComplete : ∀ x0, Encodes.Statement (.sysreqServiceComplete x0) :=
  fun _ => Encodes.of_fields _ (fun _ _ => nofun) (fun _ _ _ => nofun)
theorem Encodes.powerLoss : Encodes.Statement .powerLoss := Encodes.of_fields _ (fun _ _ => nofun) (fun _ _ _ => nofun)
theorem Encodes.endpointUnsupportedRequest : ∀ x0 x1, Encodes.Statement (.endpointUnsupportedRequest x0 x1) :=
  fun _ _ => Encodes.of_fields _ (fun _ _ => nofun) (fun _ _ _ => nofun)
theorem Encodes.intxMessage : ∀ x0, Encodes.Statement (.intxMessage x0) :=
  fun _ => Encodes.of_fields _ (fun _ _ => nofun) (fun _ _ _ => nofun)
theorem Encodes.i3cDynamicAddressAssignment : ∀ x0, Encodes.Statement (.i3cDynamicAddressAssignment x0) :=
  fun _ => Encodes.of_fields _ (fun _ _ => nofun) (fun _ _ _ => nofun)
theorem Encodes.mctpEndpointIdAssignment : ∀ x0, Encodes.Statement (.mctpEndpointIdAssignment x0) :=
  fun _ => Encodes.of_fields _ (fun _ _ => nofun) (fun _ _ _ => nofun)

end Sys2Proof.Laws
end

