-- ==== Sys2Proof/Laws/State.lean ====
section
/-! SUPPORT. What each update of the state and of a group leaves as it was: one lemma per field. -/

namespace Sys2Proof.Machine

@[simp] theorem State.setGroup_teams (s : State) (k : Nat) (g : Group) : (s.setGroup k g).teams = s.teams := rfl
@[simp] theorem State.setGroup_gangs (s : State) (k : Nat) (g : Group) : (s.setGroup k g).gangs = s.gangs := rfl
@[simp] theorem State.setGroup_grids (s : State) (k : Nat) (g : Group) : (s.setGroup k g).grids = s.grids := rfl
@[simp] theorem State.setGroup_ctxs (s : State) (k : Nat) (g : Group) : (s.setGroup k g).ctxs = s.ctxs := rfl
@[simp] theorem State.setGroup_cores (s : State) (k : Nat) (g : Group) : (s.setGroup k g).cores = s.cores := rfl
@[simp] theorem State.setGroup_laneWords (s : State) (k : Nat) (g : Group) : (s.setGroup k g).laneWords = s.laneWords := rfl
@[simp] theorem State.setGroup_spad (s : State) (k : Nat) (g : Group) : (s.setGroup k g).spad = s.spad := rfl
@[simp] theorem State.setGroup_spadBad (s : State) (k : Nat) (g : Group) : (s.setGroup k g).spadBad = s.spadBad := rfl
@[simp] theorem State.setGroup_tlbs (s : State) (k : Nat) (g : Group) : (s.setGroup k g).tlbs = s.tlbs := rfl
@[simp] theorem State.setGroup_ops (s : State) (k : Nat) (g : Group) : (s.setGroup k g).ops = s.ops := rfl
@[simp] theorem State.setGroup_urgentLoads (s : State) (k : Nat) (g : Group) : (s.setGroup k g).urgentLoads = s.urgentLoads := rfl
@[simp] theorem State.setGroup_copies (s : State) (k : Nat) (g : Group) : (s.setGroup k g).copies = s.copies := rfl
@[simp] theorem State.setGroup_colls (s : State) (k : Nat) (g : Group) : (s.setGroup k g).colls = s.colls := rfl
@[simp] theorem State.setGroup_samples (s : State) (k : Nat) (g : Group) : (s.setGroup k g).samples = s.samples := rfl
@[simp] theorem State.setGroup_icache (s : State) (k : Nat) (g : Group) : (s.setGroup k g).icache = s.icache := rfl
@[simp] theorem State.setGroup_calCfg (s : State) (k : Nat) (g : Group) : (s.setGroup k g).calCfg = s.calCfg := rfl
@[simp] theorem State.setGroup_lastDrain (s : State) (k : Nat) (g : Group) : (s.setGroup k g).lastDrain = s.lastDrain := rfl
@[simp] theorem State.setGroup_phys (s : State) (k : Nat) (g : Group) : (s.setGroup k g).phys = s.phys := rfl
@[simp] theorem State.setGroup_physBad (s : State) (k : Nat) (g : Group) : (s.setGroup k g).physBad = s.physBad := rfl
@[simp] theorem State.setGroup_lineKey (s : State) (k : Nat) (g : Group) : (s.setGroup k g).lineKey = s.lineKey := rfl
@[simp] theorem State.setGroup_ownerKeys (s : State) (k : Nat) (g : Group) : (s.setGroup k g).ownerKeys = s.ownerKeys := rfl
@[simp] theorem State.setGroup_pchs (s : State) (k : Nat) (g : Group) : (s.setGroup k g).pchs = s.pchs := rfl
@[simp] theorem State.setGroup_hbmStacks (s : State) (k : Nat) (g : Group) : (s.setGroup k g).hbmStacks = s.hbmStacks := rfl
@[simp] theorem State.setGroup_sandSeq (s : State) (k : Nat) (g : Group) : (s.setGroup k g).sandSeq = s.sandSeq := rfl
@[simp] theorem State.setGroup_events (s : State) (k : Nat) (g : Group) : (s.setGroup k g).events = s.events := rfl
@[simp] theorem State.setGroup_workQueues (s : State) (k : Nat) (g : Group) : (s.setGroup k g).workQueues = s.workQueues := rfl
@[simp] theorem State.setGroup_userQueues (s : State) (k : Nat) (g : Group) : (s.setGroup k g).userQueues = s.userQueues := rfl
@[simp] theorem State.setGroup_slots (s : State) (k : Nat) (g : Group) : (s.setGroup k g).slots = s.slots := rfl
@[simp] theorem State.setGroup_pendingIdx (s : State) (k : Nat) (g : Group) : (s.setGroup k g).pendingIdx = s.pendingIdx := rfl
@[simp] theorem State.setGroup_fwScan (s : State) (k : Nat) (g : Group) : (s.setGroup k g).fwScan = s.fwScan := rfl
@[simp] theorem State.setGroup_faultQueue (s : State) (k : Nat) (g : Group) : (s.setGroup k g).faultQueue = s.faultQueue := rfl
@[simp] theorem State.setGroup_errorLog (s : State) (k : Nat) (g : Group) : (s.setGroup k g).errorLog = s.errorLog := rfl
@[simp] theorem State.setGroup_errorOver (s : State) (k : Nat) (g : Group) : (s.setGroup k g).errorOver = s.errorOver := rfl
@[simp] theorem State.setGroup_gridOwners (s : State) (k : Nat) (g : Group) : (s.setGroup k g).gridOwners = s.gridOwners := rfl
@[simp] theorem State.setGroup_ioLog (s : State) (k : Nat) (g : Group) : (s.setGroup k g).ioLog = s.ioLog := rfl
@[simp] theorem State.setGroup_ioDropped (s : State) (k : Nat) (g : Group) : (s.setGroup k g).ioDropped = s.ioDropped := rfl
@[simp] theorem State.setGroup_aerLog (s : State) (k : Nat) (g : Group) : (s.setGroup k g).aerLog = s.aerLog := rfl
@[simp] theorem State.setGroup_reports (s : State) (k : Nat) (g : Group) : (s.setGroup k g).reports = s.reports := rfl
@[simp] theorem State.setGroup_sysreqQueue (s : State) (k : Nat) (g : Group) : (s.setGroup k g).sysreqQueue = s.sysreqQueue := rfl
@[simp] theorem State.setGroup_tails (s : State) (k : Nat) (g : Group) : (s.setGroup k g).tails = s.tails := rfl
@[simp] theorem State.setGroup_outbox (s : State) (k : Nat) (g : Group) : (s.setGroup k g).outbox = s.outbox := rfl
@[simp] theorem State.setGroup_channels (s : State) (k : Nat) (g : Group) : (s.setGroup k g).channels = s.channels := rfl
@[simp] theorem State.setGroup_peerReads (s : State) (k : Nat) (g : Group) : (s.setGroup k g).peerReads = s.peerReads := rfl
@[simp] theorem State.setGroup_pageReqs (s : State) (k : Nat) (g : Group) : (s.setGroup k g).pageReqs = s.pageReqs := rfl
@[simp] theorem State.setGroup_portDown (s : State) (k : Nat) (g : Group) : (s.setGroup k g).portDown = s.portDown := rfl
@[simp] theorem State.setGroup_portCfg (s : State) (k : Nat) (g : Group) : (s.setGroup k g).portCfg = s.portCfg := rfl
@[simp] theorem State.setGroup_portSpd (s : State) (k : Nat) (g : Group) : (s.setGroup k g).portSpd = s.portSpd := rfl
@[simp] theorem State.setGroup_hdm (s : State) (k : Nat) (g : Group) : (s.setGroup k g).hdm = s.hdm := rfl
@[simp] theorem State.setGroup_bars (s : State) (k : Nat) (g : Group) : (s.setGroup k g).bars = s.bars := rfl
@[simp] theorem State.setGroup_bridges (s : State) (k : Nat) (g : Group) : (s.setGroup k g).bridges = s.bridges := rfl
@[simp] theorem State.setGroup_ports (s : State) (k : Nat) (g : Group) : (s.setGroup k g).ports = s.ports := rfl
@[simp] theorem State.setGroup_linkNum (s : State) (k : Nat) (g : Group) : (s.setGroup k g).linkNum = s.linkNum := rfl
@[simp] theorem State.setGroup_seenFlits (s : State) (k : Nat) (g : Group) : (s.setGroup k g).seenFlits = s.seenFlits := rfl
@[simp] theorem State.setGroup_asks (s : State) (k : Nat) (g : Group) : (s.setGroup k g).asks = s.asks := rfl
@[simp] theorem State.setGroup_schedcfg (s : State) (k : Nat) (g : Group) : (s.setGroup k g).schedcfg = s.schedcfg := rfl
@[simp] theorem State.setGroup_chuck (s : State) (k : Nat) (g : Group) : (s.setGroup k g).chuck = s.chuck := rfl
@[simp] theorem State.setGroup_chuckLatch (s : State) (k : Nat) (g : Group) : (s.setGroup k g).chuckLatch = s.chuckLatch := rfl
@[simp] theorem State.setGroup_placementStop (s : State) (k : Nat) (g : Group) : (s.setGroup k g).placementStop = s.placementStop := rfl
@[simp] theorem State.setGroup_nextGrid (s : State) (k : Nat) (g : Group) : (s.setGroup k g).nextGrid = s.nextGrid := rfl
@[simp] theorem State.setGroup_nextTicket (s : State) (k : Nat) (g : Group) : (s.setGroup k g).nextTicket = s.nextTicket := rfl
@[simp] theorem State.setGroup_powerCfg (s : State) (k : Nat) (g : Group) : (s.setGroup k g).powerCfg = s.powerCfg := rfl
@[simp] theorem State.setGroup_freq (s : State) (k : Nat) (g : Group) : (s.setGroup k g).freq = s.freq := rfl
@[simp] theorem State.setGroup_critical (s : State) (k : Nat) (g : Group) : (s.setGroup k g).critical = s.critical := rfl
@[simp] theorem State.setGroup_cycle (s : State) (k : Nat) (g : Group) : (s.setGroup k g).cycle = s.cycle := rfl
@[simp] theorem State.setGroup_time (s : State) (k : Nat) (g : Group) : (s.setGroup k g).time = s.time := rfl
@[simp] theorem State.setGroup_tableNext (s : State) (k : Nat) (g : Group) : (s.setGroup k g).tableNext = s.tableNext := rfl
@[simp] theorem State.setGroup_lrWords (s : State) (k : Nat) (g : Group) : (s.setGroup k g).lrWords = s.lrWords := rfl
@[simp] theorem State.setGroup_pagedOut (s : State) (k : Nat) (g : Group) : (s.setGroup k g).pagedOut = s.pagedOut := rfl
@[simp] theorem State.setGroup_records (s : State) (k : Nat) (g : Group) : (s.setGroup k g).records = s.records := rfl
@[simp] theorem State.setGroup_waitClock (s : State) (k : Nat) (g : Group) : (s.setGroup k g).waitClock = s.waitClock := rfl
@[simp] theorem State.setGroup_mrs (s : State) (k : Nat) (g : Group) : (s.setGroup k g).mrs = s.mrs := rfl
@[simp] theorem State.setGroup_partition (s : State) (k : Nat) (g : Group) : (s.setGroup k g).partition = s.partition := rfl
@[simp] theorem State.setGroup_slotB (s : State) (k : Nat) (g : Group) : (s.setGroup k g).slotB = s.slotB := rfl
@[simp] theorem State.setGroup_images (s : State) (k : Nat) (g : Group) : (s.setGroup k g).images = s.images := rfl
@[simp] theorem State.setGroup_boots (s : State) (k : Nat) (g : Group) : (s.setGroup k g).boots = s.boots := rfl
@[simp] theorem State.setGroup_operatorKey (s : State) (k : Nat) (g : Group) : (s.setGroup k g).operatorKey = s.operatorKey := rfl
@[simp] theorem State.setGroup_ownerPub (s : State) (k : Nat) (g : Group) : (s.setGroup k g).ownerPub = s.ownerPub := rfl
@[simp] theorem State.setGroup_nextLeaf (s : State) (k : Nat) (g : Group) : (s.setGroup k g).nextLeaf = s.nextLeaf := rfl
@[simp] theorem State.setGroup_retired (s : State) (k : Nat) (g : Group) : (s.setGroup k g).retired = s.retired := rfl
@[simp] theorem State.setGroup_sessions (s : State) (k : Nat) (g : Group) : (s.setGroup k g).sessions = s.sessions := rfl
@[simp] theorem State.setGroup_i3cAddr (s : State) (k : Nat) (g : Group) : (s.setGroup k g).i3cAddr = s.i3cAddr := rfl
@[simp] theorem State.setGroup_mctpEid (s : State) (k : Nat) (g : Group) : (s.setGroup k g).mctpEid = s.mctpEid := rfl
@[simp] theorem State.setGroup_booted (s : State) (k : Nat) (g : Group) : (s.setGroup k g).booted = s.booted := rfl
@[simp] theorem State.setGroup_bootStep (s : State) (k : Nat) (g : Group) : (s.setGroup k g).bootStep = s.bootStep := rfl
@[simp] theorem State.setGroup_powered (s : State) (k : Nat) (g : Group) : (s.setGroup k g).powered = s.powered := rfl
@[simp] theorem State.setGroup_agenda (s : State) (k : Nat) (g : Group) : (s.setGroup k g).agenda = s.agenda := rfl
@[simp] theorem State.setGroup_turn (s : State) (k : Nat) (g : Group) : (s.setGroup k g).turn = s.turn := rfl
@[simp] theorem State.setGroup_cur (s : State) (k : Nat) (g : Group) : (s.setGroup k g).cur = s.cur := rfl
@[simp] theorem State.setGroup_fresh (s : State) (k : Nat) (g : Group) : (s.setGroup k g).fresh = s.fresh := rfl
@[simp] theorem State.setGroup_nextId (s : State) (k : Nat) (g : Group) : (s.setGroup k g).nextId = s.nextId := rfl

@[simp] theorem State.modGroup_teams (s : State) (k : Nat) (f : Group → Group) : (s.modGroup k f).teams = s.teams := rfl
@[simp] theorem State.modGroup_gangs (s : State) (k : Nat) (f : Group → Group) : (s.modGroup k f).gangs = s.gangs := rfl
@[simp] theorem State.modGroup_grids (s : State) (k : Nat) (f : Group → Group) : (s.modGroup k f).grids = s.grids := rfl
@[simp] theorem State.modGroup_ctxs (s : State) (k : Nat) (f : Group → Group) : (s.modGroup k f).ctxs = s.ctxs := rfl
@[simp] theorem State.modGroup_cores (s : State) (k : Nat) (f : Group → Group) : (s.modGroup k f).cores = s.cores := rfl
@[simp] theorem State.modGroup_laneWords (s : State) (k : Nat) (f : Group → Group) : (s.modGroup k f).laneWords = s.laneWords := rfl
@[simp] theorem State.modGroup_spad (s : State) (k : Nat) (f : Group → Group) : (s.modGroup k f).spad = s.spad := rfl
@[simp] theorem State.modGroup_spadBad (s : State) (k : Nat) (f : Group → Group) : (s.modGroup k f).spadBad = s.spadBad := rfl
@[simp] theorem State.modGroup_tlbs (s : State) (k : Nat) (f : Group → Group) : (s.modGroup k f).tlbs = s.tlbs := rfl
@[simp] theorem State.modGroup_ops (s : State) (k : Nat) (f : Group → Group) : (s.modGroup k f).ops = s.ops := rfl
@[simp] theorem State.modGroup_urgentLoads (s : State) (k : Nat) (f : Group → Group) : (s.modGroup k f).urgentLoads = s.urgentLoads := rfl
@[simp] theorem State.modGroup_copies (s : State) (k : Nat) (f : Group → Group) : (s.modGroup k f).copies = s.copies := rfl
@[simp] theorem State.modGroup_colls (s : State) (k : Nat) (f : Group → Group) : (s.modGroup k f).colls = s.colls := rfl
@[simp] theorem State.modGroup_samples (s : State) (k : Nat) (f : Group → Group) : (s.modGroup k f).samples = s.samples := rfl
@[simp] theorem State.modGroup_icache (s : State) (k : Nat) (f : Group → Group) : (s.modGroup k f).icache = s.icache := rfl
@[simp] theorem State.modGroup_calCfg (s : State) (k : Nat) (f : Group → Group) : (s.modGroup k f).calCfg = s.calCfg := rfl
@[simp] theorem State.modGroup_lastDrain (s : State) (k : Nat) (f : Group → Group) : (s.modGroup k f).lastDrain = s.lastDrain := rfl
@[simp] theorem State.modGroup_phys (s : State) (k : Nat) (f : Group → Group) : (s.modGroup k f).phys = s.phys := rfl
@[simp] theorem State.modGroup_physBad (s : State) (k : Nat) (f : Group → Group) : (s.modGroup k f).physBad = s.physBad := rfl
@[simp] theorem State.modGroup_lineKey (s : State) (k : Nat) (f : Group → Group) : (s.modGroup k f).lineKey = s.lineKey := rfl
@[simp] theorem State.modGroup_ownerKeys (s : State) (k : Nat) (f : Group → Group) : (s.modGroup k f).ownerKeys = s.ownerKeys := rfl
@[simp] theorem State.modGroup_pchs (s : State) (k : Nat) (f : Group → Group) : (s.modGroup k f).pchs = s.pchs := rfl
@[simp] theorem State.modGroup_hbmStacks (s : State) (k : Nat) (f : Group → Group) : (s.modGroup k f).hbmStacks = s.hbmStacks := rfl
@[simp] theorem State.modGroup_sandSeq (s : State) (k : Nat) (f : Group → Group) : (s.modGroup k f).sandSeq = s.sandSeq := rfl
@[simp] theorem State.modGroup_events (s : State) (k : Nat) (f : Group → Group) : (s.modGroup k f).events = s.events := rfl
@[simp] theorem State.modGroup_workQueues (s : State) (k : Nat) (f : Group → Group) : (s.modGroup k f).workQueues = s.workQueues := rfl
@[simp] theorem State.modGroup_userQueues (s : State) (k : Nat) (f : Group → Group) : (s.modGroup k f).userQueues = s.userQueues := rfl
@[simp] theorem State.modGroup_slots (s : State) (k : Nat) (f : Group → Group) : (s.modGroup k f).slots = s.slots := rfl
@[simp] theorem State.modGroup_pendingIdx (s : State) (k : Nat) (f : Group → Group) : (s.modGroup k f).pendingIdx = s.pendingIdx := rfl
@[simp] theorem State.modGroup_fwScan (s : State) (k : Nat) (f : Group → Group) : (s.modGroup k f).fwScan = s.fwScan := rfl
@[simp] theorem State.modGroup_faultQueue (s : State) (k : Nat) (f : Group → Group) : (s.modGroup k f).faultQueue = s.faultQueue := rfl
@[simp] theorem State.modGroup_errorLog (s : State) (k : Nat) (f : Group → Group) : (s.modGroup k f).errorLog = s.errorLog := rfl
@[simp] theorem State.modGroup_errorOver (s : State) (k : Nat) (f : Group → Group) : (s.modGroup k f).errorOver = s.errorOver := rfl
@[simp] theorem State.modGroup_gridOwners (s : State) (k : Nat) (f : Group → Group) : (s.modGroup k f).gridOwners = s.gridOwners := rfl
@[simp] theorem State.modGroup_ioLog (s : State) (k : Nat) (f : Group → Group) : (s.modGroup k f).ioLog = s.ioLog := rfl
@[simp] theorem State.modGroup_ioDropped (s : State) (k : Nat) (f : Group → Group) : (s.modGroup k f).ioDropped = s.ioDropped := rfl
@[simp] theorem State.modGroup_aerLog (s : State) (k : Nat) (f : Group → Group) : (s.modGroup k f).aerLog = s.aerLog := rfl
@[simp] theorem State.modGroup_reports (s : State) (k : Nat) (f : Group → Group) : (s.modGroup k f).reports = s.reports := rfl
@[simp] theorem State.modGroup_sysreqQueue (s : State) (k : Nat) (f : Group → Group) : (s.modGroup k f).sysreqQueue = s.sysreqQueue := rfl
@[simp] theorem State.modGroup_tails (s : State) (k : Nat) (f : Group → Group) : (s.modGroup k f).tails = s.tails := rfl
@[simp] theorem State.modGroup_outbox (s : State) (k : Nat) (f : Group → Group) : (s.modGroup k f).outbox = s.outbox := rfl
@[simp] theorem State.modGroup_channels (s : State) (k : Nat) (f : Group → Group) : (s.modGroup k f).channels = s.channels := rfl
@[simp] theorem State.modGroup_peerReads (s : State) (k : Nat) (f : Group → Group) : (s.modGroup k f).peerReads = s.peerReads := rfl
@[simp] theorem State.modGroup_pageReqs (s : State) (k : Nat) (f : Group → Group) : (s.modGroup k f).pageReqs = s.pageReqs := rfl
@[simp] theorem State.modGroup_portDown (s : State) (k : Nat) (f : Group → Group) : (s.modGroup k f).portDown = s.portDown := rfl
@[simp] theorem State.modGroup_portCfg (s : State) (k : Nat) (f : Group → Group) : (s.modGroup k f).portCfg = s.portCfg := rfl
@[simp] theorem State.modGroup_portSpd (s : State) (k : Nat) (f : Group → Group) : (s.modGroup k f).portSpd = s.portSpd := rfl
@[simp] theorem State.modGroup_hdm (s : State) (k : Nat) (f : Group → Group) : (s.modGroup k f).hdm = s.hdm := rfl
@[simp] theorem State.modGroup_bars (s : State) (k : Nat) (f : Group → Group) : (s.modGroup k f).bars = s.bars := rfl
@[simp] theorem State.modGroup_bridges (s : State) (k : Nat) (f : Group → Group) : (s.modGroup k f).bridges = s.bridges := rfl
@[simp] theorem State.modGroup_ports (s : State) (k : Nat) (f : Group → Group) : (s.modGroup k f).ports = s.ports := rfl
@[simp] theorem State.modGroup_linkNum (s : State) (k : Nat) (f : Group → Group) : (s.modGroup k f).linkNum = s.linkNum := rfl
@[simp] theorem State.modGroup_seenFlits (s : State) (k : Nat) (f : Group → Group) : (s.modGroup k f).seenFlits = s.seenFlits := rfl
@[simp] theorem State.modGroup_asks (s : State) (k : Nat) (f : Group → Group) : (s.modGroup k f).asks = s.asks := rfl
@[simp] theorem State.modGroup_schedcfg (s : State) (k : Nat) (f : Group → Group) : (s.modGroup k f).schedcfg = s.schedcfg := rfl
@[simp] theorem State.modGroup_chuck (s : State) (k : Nat) (f : Group → Group) : (s.modGroup k f).chuck = s.chuck := rfl
@[simp] theorem State.modGroup_chuckLatch (s : State) (k : Nat) (f : Group → Group) : (s.modGroup k f).chuckLatch = s.chuckLatch := rfl
@[simp] theorem State.modGroup_placementStop (s : State) (k : Nat) (f : Group → Group) : (s.modGroup k f).placementStop = s.placementStop := rfl
@[simp] theorem State.modGroup_nextGrid (s : State) (k : Nat) (f : Group → Group) : (s.modGroup k f).nextGrid = s.nextGrid := rfl
@[simp] theorem State.modGroup_nextTicket (s : State) (k : Nat) (f : Group → Group) : (s.modGroup k f).nextTicket = s.nextTicket := rfl
@[simp] theorem State.modGroup_powerCfg (s : State) (k : Nat) (f : Group → Group) : (s.modGroup k f).powerCfg = s.powerCfg := rfl
@[simp] theorem State.modGroup_freq (s : State) (k : Nat) (f : Group → Group) : (s.modGroup k f).freq = s.freq := rfl
@[simp] theorem State.modGroup_critical (s : State) (k : Nat) (f : Group → Group) : (s.modGroup k f).critical = s.critical := rfl
@[simp] theorem State.modGroup_cycle (s : State) (k : Nat) (f : Group → Group) : (s.modGroup k f).cycle = s.cycle := rfl
@[simp] theorem State.modGroup_time (s : State) (k : Nat) (f : Group → Group) : (s.modGroup k f).time = s.time := rfl
@[simp] theorem State.modGroup_tableNext (s : State) (k : Nat) (f : Group → Group) : (s.modGroup k f).tableNext = s.tableNext := rfl
@[simp] theorem State.modGroup_lrWords (s : State) (k : Nat) (f : Group → Group) : (s.modGroup k f).lrWords = s.lrWords := rfl
@[simp] theorem State.modGroup_pagedOut (s : State) (k : Nat) (f : Group → Group) : (s.modGroup k f).pagedOut = s.pagedOut := rfl
@[simp] theorem State.modGroup_records (s : State) (k : Nat) (f : Group → Group) : (s.modGroup k f).records = s.records := rfl
@[simp] theorem State.modGroup_waitClock (s : State) (k : Nat) (f : Group → Group) : (s.modGroup k f).waitClock = s.waitClock := rfl
@[simp] theorem State.modGroup_mrs (s : State) (k : Nat) (f : Group → Group) : (s.modGroup k f).mrs = s.mrs := rfl
@[simp] theorem State.modGroup_partition (s : State) (k : Nat) (f : Group → Group) : (s.modGroup k f).partition = s.partition := rfl
@[simp] theorem State.modGroup_slotB (s : State) (k : Nat) (f : Group → Group) : (s.modGroup k f).slotB = s.slotB := rfl
@[simp] theorem State.modGroup_images (s : State) (k : Nat) (f : Group → Group) : (s.modGroup k f).images = s.images := rfl
@[simp] theorem State.modGroup_boots (s : State) (k : Nat) (f : Group → Group) : (s.modGroup k f).boots = s.boots := rfl
@[simp] theorem State.modGroup_operatorKey (s : State) (k : Nat) (f : Group → Group) : (s.modGroup k f).operatorKey = s.operatorKey := rfl
@[simp] theorem State.modGroup_ownerPub (s : State) (k : Nat) (f : Group → Group) : (s.modGroup k f).ownerPub = s.ownerPub := rfl
@[simp] theorem State.modGroup_nextLeaf (s : State) (k : Nat) (f : Group → Group) : (s.modGroup k f).nextLeaf = s.nextLeaf := rfl
@[simp] theorem State.modGroup_retired (s : State) (k : Nat) (f : Group → Group) : (s.modGroup k f).retired = s.retired := rfl
@[simp] theorem State.modGroup_sessions (s : State) (k : Nat) (f : Group → Group) : (s.modGroup k f).sessions = s.sessions := rfl
@[simp] theorem State.modGroup_i3cAddr (s : State) (k : Nat) (f : Group → Group) : (s.modGroup k f).i3cAddr = s.i3cAddr := rfl
@[simp] theorem State.modGroup_mctpEid (s : State) (k : Nat) (f : Group → Group) : (s.modGroup k f).mctpEid = s.mctpEid := rfl
@[simp] theorem State.modGroup_booted (s : State) (k : Nat) (f : Group → Group) : (s.modGroup k f).booted = s.booted := rfl
@[simp] theorem State.modGroup_bootStep (s : State) (k : Nat) (f : Group → Group) : (s.modGroup k f).bootStep = s.bootStep := rfl
@[simp] theorem State.modGroup_powered (s : State) (k : Nat) (f : Group → Group) : (s.modGroup k f).powered = s.powered := rfl
@[simp] theorem State.modGroup_agenda (s : State) (k : Nat) (f : Group → Group) : (s.modGroup k f).agenda = s.agenda := rfl
@[simp] theorem State.modGroup_turn (s : State) (k : Nat) (f : Group → Group) : (s.modGroup k f).turn = s.turn := rfl
@[simp] theorem State.modGroup_cur (s : State) (k : Nat) (f : Group → Group) : (s.modGroup k f).cur = s.cur := rfl
@[simp] theorem State.modGroup_fresh (s : State) (k : Nat) (f : Group → Group) : (s.modGroup k f).fresh = s.fresh := rfl
@[simp] theorem State.modGroup_nextId (s : State) (k : Nat) (f : Group → Group) : (s.modGroup k f).nextId = s.nextId := rfl

@[simp] theorem State.setTeam_groups (s : State) (k : Nat) (x : Team) : (s.setTeam k x).groups = s.groups := rfl
@[simp] theorem State.setTeam_gangs (s : State) (k : Nat) (x : Team) : (s.setTeam k x).gangs = s.gangs := rfl
@[simp] theorem State.setTeam_grids (s : State) (k : Nat) (x : Team) : (s.setTeam k x).grids = s.grids := rfl
@[simp] theorem State.setTeam_ctxs (s : State) (k : Nat) (x : Team) : (s.setTeam k x).ctxs = s.ctxs := rfl
@[simp] theorem State.setTeam_cores (s : State) (k : Nat) (x : Team) : (s.setTeam k x).cores = s.cores := rfl
@[simp] theorem State.setTeam_laneWords (s : State) (k : Nat) (x : Team) : (s.setTeam k x).laneWords = s.laneWords := rfl
@[simp] theorem State.setTeam_spad (s : State) (k : Nat) (x : Team) : (s.setTeam k x).spad = s.spad := rfl
@[simp] theorem State.setTeam_spadBad (s : State) (k : Nat) (x : Team) : (s.setTeam k x).spadBad = s.spadBad := rfl
@[simp] theorem State.setTeam_tlbs (s : State) (k : Nat) (x : Team) : (s.setTeam k x).tlbs = s.tlbs := rfl
@[simp] theorem State.setTeam_ops (s : State) (k : Nat) (x : Team) : (s.setTeam k x).ops = s.ops := rfl
@[simp] theorem State.setTeam_urgentLoads (s : State) (k : Nat) (x : Team) : (s.setTeam k x).urgentLoads = s.urgentLoads := rfl
@[simp] theorem State.setTeam_copies (s : State) (k : Nat) (x : Team) : (s.setTeam k x).copies = s.copies := rfl
@[simp] theorem State.setTeam_colls (s : State) (k : Nat) (x : Team) : (s.setTeam k x).colls = s.colls := rfl
@[simp] theorem State.setTeam_samples (s : State) (k : Nat) (x : Team) : (s.setTeam k x).samples = s.samples := rfl
@[simp] theorem State.setTeam_icache (s : State) (k : Nat) (x : Team) : (s.setTeam k x).icache = s.icache := rfl
@[simp] theorem State.setTeam_calCfg (s : State) (k : Nat) (x : Team) : (s.setTeam k x).calCfg = s.calCfg := rfl
@[simp] theorem State.setTeam_lastDrain (s : State) (k : Nat) (x : Team) : (s.setTeam k x).lastDrain = s.lastDrain := rfl
@[simp] theorem State.setTeam_phys (s : State) (k : Nat) (x : Team) : (s.setTeam k x).phys = s.phys := rfl
@[simp] theorem State.setTeam_physBad (s : State) (k : Nat) (x : Team) : (s.setTeam k x).physBad = s.physBad := rfl
@[simp] theorem State.setTeam_lineKey (s : State) (k : Nat) (x : Team) : (s.setTeam k x).lineKey = s.lineKey := rfl
@[simp] theorem State.setTeam_ownerKeys (s : State) (k : Nat) (x : Team) : (s.setTeam k x).ownerKeys = s.ownerKeys := rfl
@[simp] theorem State.setTeam_pchs (s : State) (k : Nat) (x : Team) : (s.setTeam k x).pchs = s.pchs := rfl
@[simp] theorem State.setTeam_hbmStacks (s : State) (k : Nat) (x : Team) : (s.setTeam k x).hbmStacks = s.hbmStacks := rfl
@[simp] theorem State.setTeam_sandSeq (s : State) (k : Nat) (x : Team) : (s.setTeam k x).sandSeq = s.sandSeq := rfl
@[simp] theorem State.setTeam_events (s : State) (k : Nat) (x : Team) : (s.setTeam k x).events = s.events := rfl
@[simp] theorem State.setTeam_workQueues (s : State) (k : Nat) (x : Team) : (s.setTeam k x).workQueues = s.workQueues := rfl
@[simp] theorem State.setTeam_userQueues (s : State) (k : Nat) (x : Team) : (s.setTeam k x).userQueues = s.userQueues := rfl
@[simp] theorem State.setTeam_slots (s : State) (k : Nat) (x : Team) : (s.setTeam k x).slots = s.slots := rfl
@[simp] theorem State.setTeam_pendingIdx (s : State) (k : Nat) (x : Team) : (s.setTeam k x).pendingIdx = s.pendingIdx := rfl
@[simp] theorem State.setTeam_fwScan (s : State) (k : Nat) (x : Team) : (s.setTeam k x).fwScan = s.fwScan := rfl
@[simp] theorem State.setTeam_faultQueue (s : State) (k : Nat) (x : Team) : (s.setTeam k x).faultQueue = s.faultQueue := rfl
@[simp] theorem State.setTeam_errorLog (s : State) (k : Nat) (x : Team) : (s.setTeam k x).errorLog = s.errorLog := rfl
@[simp] theorem State.setTeam_errorOver (s : State) (k : Nat) (x : Team) : (s.setTeam k x).errorOver = s.errorOver := rfl
@[simp] theorem State.setTeam_gridOwners (s : State) (k : Nat) (x : Team) : (s.setTeam k x).gridOwners = s.gridOwners := rfl
@[simp] theorem State.setTeam_ioLog (s : State) (k : Nat) (x : Team) : (s.setTeam k x).ioLog = s.ioLog := rfl
@[simp] theorem State.setTeam_ioDropped (s : State) (k : Nat) (x : Team) : (s.setTeam k x).ioDropped = s.ioDropped := rfl
@[simp] theorem State.setTeam_aerLog (s : State) (k : Nat) (x : Team) : (s.setTeam k x).aerLog = s.aerLog := rfl
@[simp] theorem State.setTeam_reports (s : State) (k : Nat) (x : Team) : (s.setTeam k x).reports = s.reports := rfl
@[simp] theorem State.setTeam_sysreqQueue (s : State) (k : Nat) (x : Team) : (s.setTeam k x).sysreqQueue = s.sysreqQueue := rfl
@[simp] theorem State.setTeam_tails (s : State) (k : Nat) (x : Team) : (s.setTeam k x).tails = s.tails := rfl
@[simp] theorem State.setTeam_outbox (s : State) (k : Nat) (x : Team) : (s.setTeam k x).outbox = s.outbox := rfl
@[simp] theorem State.setTeam_channels (s : State) (k : Nat) (x : Team) : (s.setTeam k x).channels = s.channels := rfl
@[simp] theorem State.setTeam_peerReads (s : State) (k : Nat) (x : Team) : (s.setTeam k x).peerReads = s.peerReads := rfl
@[simp] theorem State.setTeam_pageReqs (s : State) (k : Nat) (x : Team) : (s.setTeam k x).pageReqs = s.pageReqs := rfl
@[simp] theorem State.setTeam_portDown (s : State) (k : Nat) (x : Team) : (s.setTeam k x).portDown = s.portDown := rfl
@[simp] theorem State.setTeam_portCfg (s : State) (k : Nat) (x : Team) : (s.setTeam k x).portCfg = s.portCfg := rfl
@[simp] theorem State.setTeam_portSpd (s : State) (k : Nat) (x : Team) : (s.setTeam k x).portSpd = s.portSpd := rfl
@[simp] theorem State.setTeam_hdm (s : State) (k : Nat) (x : Team) : (s.setTeam k x).hdm = s.hdm := rfl
@[simp] theorem State.setTeam_bars (s : State) (k : Nat) (x : Team) : (s.setTeam k x).bars = s.bars := rfl
@[simp] theorem State.setTeam_bridges (s : State) (k : Nat) (x : Team) : (s.setTeam k x).bridges = s.bridges := rfl
@[simp] theorem State.setTeam_ports (s : State) (k : Nat) (x : Team) : (s.setTeam k x).ports = s.ports := rfl
@[simp] theorem State.setTeam_linkNum (s : State) (k : Nat) (x : Team) : (s.setTeam k x).linkNum = s.linkNum := rfl
@[simp] theorem State.setTeam_seenFlits (s : State) (k : Nat) (x : Team) : (s.setTeam k x).seenFlits = s.seenFlits := rfl
@[simp] theorem State.setTeam_asks (s : State) (k : Nat) (x : Team) : (s.setTeam k x).asks = s.asks := rfl
@[simp] theorem State.setTeam_schedcfg (s : State) (k : Nat) (x : Team) : (s.setTeam k x).schedcfg = s.schedcfg := rfl
@[simp] theorem State.setTeam_chuck (s : State) (k : Nat) (x : Team) : (s.setTeam k x).chuck = s.chuck := rfl
@[simp] theorem State.setTeam_chuckLatch (s : State) (k : Nat) (x : Team) : (s.setTeam k x).chuckLatch = s.chuckLatch := rfl
@[simp] theorem State.setTeam_placementStop (s : State) (k : Nat) (x : Team) : (s.setTeam k x).placementStop = s.placementStop := rfl
@[simp] theorem State.setTeam_nextGrid (s : State) (k : Nat) (x : Team) : (s.setTeam k x).nextGrid = s.nextGrid := rfl
@[simp] theorem State.setTeam_nextTicket (s : State) (k : Nat) (x : Team) : (s.setTeam k x).nextTicket = s.nextTicket := rfl
@[simp] theorem State.setTeam_powerCfg (s : State) (k : Nat) (x : Team) : (s.setTeam k x).powerCfg = s.powerCfg := rfl
@[simp] theorem State.setTeam_freq (s : State) (k : Nat) (x : Team) : (s.setTeam k x).freq = s.freq := rfl
@[simp] theorem State.setTeam_critical (s : State) (k : Nat) (x : Team) : (s.setTeam k x).critical = s.critical := rfl
@[simp] theorem State.setTeam_cycle (s : State) (k : Nat) (x : Team) : (s.setTeam k x).cycle = s.cycle := rfl
@[simp] theorem State.setTeam_time (s : State) (k : Nat) (x : Team) : (s.setTeam k x).time = s.time := rfl
@[simp] theorem State.setTeam_tableNext (s : State) (k : Nat) (x : Team) : (s.setTeam k x).tableNext = s.tableNext := rfl
@[simp] theorem State.setTeam_lrWords (s : State) (k : Nat) (x : Team) : (s.setTeam k x).lrWords = s.lrWords := rfl
@[simp] theorem State.setTeam_pagedOut (s : State) (k : Nat) (x : Team) : (s.setTeam k x).pagedOut = s.pagedOut := rfl
@[simp] theorem State.setTeam_records (s : State) (k : Nat) (x : Team) : (s.setTeam k x).records = s.records := rfl
@[simp] theorem State.setTeam_waitClock (s : State) (k : Nat) (x : Team) : (s.setTeam k x).waitClock = s.waitClock := rfl
@[simp] theorem State.setTeam_mrs (s : State) (k : Nat) (x : Team) : (s.setTeam k x).mrs = s.mrs := rfl
@[simp] theorem State.setTeam_partition (s : State) (k : Nat) (x : Team) : (s.setTeam k x).partition = s.partition := rfl
@[simp] theorem State.setTeam_slotB (s : State) (k : Nat) (x : Team) : (s.setTeam k x).slotB = s.slotB := rfl
@[simp] theorem State.setTeam_images (s : State) (k : Nat) (x : Team) : (s.setTeam k x).images = s.images := rfl
@[simp] theorem State.setTeam_boots (s : State) (k : Nat) (x : Team) : (s.setTeam k x).boots = s.boots := rfl
@[simp] theorem State.setTeam_operatorKey (s : State) (k : Nat) (x : Team) : (s.setTeam k x).operatorKey = s.operatorKey := rfl
@[simp] theorem State.setTeam_ownerPub (s : State) (k : Nat) (x : Team) : (s.setTeam k x).ownerPub = s.ownerPub := rfl
@[simp] theorem State.setTeam_nextLeaf (s : State) (k : Nat) (x : Team) : (s.setTeam k x).nextLeaf = s.nextLeaf := rfl
@[simp] theorem State.setTeam_retired (s : State) (k : Nat) (x : Team) : (s.setTeam k x).retired = s.retired := rfl
@[simp] theorem State.setTeam_sessions (s : State) (k : Nat) (x : Team) : (s.setTeam k x).sessions = s.sessions := rfl
@[simp] theorem State.setTeam_i3cAddr (s : State) (k : Nat) (x : Team) : (s.setTeam k x).i3cAddr = s.i3cAddr := rfl
@[simp] theorem State.setTeam_mctpEid (s : State) (k : Nat) (x : Team) : (s.setTeam k x).mctpEid = s.mctpEid := rfl
@[simp] theorem State.setTeam_booted (s : State) (k : Nat) (x : Team) : (s.setTeam k x).booted = s.booted := rfl
@[simp] theorem State.setTeam_bootStep (s : State) (k : Nat) (x : Team) : (s.setTeam k x).bootStep = s.bootStep := rfl
@[simp] theorem State.setTeam_powered (s : State) (k : Nat) (x : Team) : (s.setTeam k x).powered = s.powered := rfl
@[simp] theorem State.setTeam_agenda (s : State) (k : Nat) (x : Team) : (s.setTeam k x).agenda = s.agenda := rfl
@[simp] theorem State.setTeam_turn (s : State) (k : Nat) (x : Team) : (s.setTeam k x).turn = s.turn := rfl
@[simp] theorem State.setTeam_cur (s : State) (k : Nat) (x : Team) : (s.setTeam k x).cur = s.cur := rfl
@[simp] theorem State.setTeam_fresh (s : State) (k : Nat) (x : Team) : (s.setTeam k x).fresh = s.fresh := rfl
@[simp] theorem State.setTeam_nextId (s : State) (k : Nat) (x : Team) : (s.setTeam k x).nextId = s.nextId := rfl

@[simp] theorem State.setGang_groups (s : State) (k : Nat) (x : Gang) : (s.setGang k x).groups = s.groups := rfl
@[simp] theorem State.setGang_teams (s : State) (k : Nat) (x : Gang) : (s.setGang k x).teams = s.teams := rfl
@[simp] theorem State.setGang_grids (s : State) (k : Nat) (x : Gang) : (s.setGang k x).grids = s.grids := rfl
@[simp] theorem State.setGang_ctxs (s : State) (k : Nat) (x : Gang) : (s.setGang k x).ctxs = s.ctxs := rfl
@[simp] theorem State.setGang_cores (s : State) (k : Nat) (x : Gang) : (s.setGang k x).cores = s.cores := rfl
@[simp] theorem State.setGang_laneWords (s : State) (k : Nat) (x : Gang) : (s.setGang k x).laneWords = s.laneWords := rfl
@[simp] theorem State.setGang_spad (s : State) (k : Nat) (x : Gang) : (s.setGang k x).spad = s.spad := rfl
@[simp] theorem State.setGang_spadBad (s : State) (k : Nat) (x : Gang) : (s.setGang k x).spadBad = s.spadBad := rfl
@[simp] theorem State.setGang_tlbs (s : State) (k : Nat) (x : Gang) : (s.setGang k x).tlbs = s.tlbs := rfl
@[simp] theorem State.setGang_ops (s : State) (k : Nat) (x : Gang) : (s.setGang k x).ops = s.ops := rfl
@[simp] theorem State.setGang_urgentLoads (s : State) (k : Nat) (x : Gang) : (s.setGang k x).urgentLoads = s.urgentLoads := rfl
@[simp] theorem State.setGang_copies (s : State) (k : Nat) (x : Gang) : (s.setGang k x).copies = s.copies := rfl
@[simp] theorem State.setGang_colls (s : State) (k : Nat) (x : Gang) : (s.setGang k x).colls = s.colls := rfl
@[simp] theorem State.setGang_samples (s : State) (k : Nat) (x : Gang) : (s.setGang k x).samples = s.samples := rfl
@[simp] theorem State.setGang_icache (s : State) (k : Nat) (x : Gang) : (s.setGang k x).icache = s.icache := rfl
@[simp] theorem State.setGang_calCfg (s : State) (k : Nat) (x : Gang) : (s.setGang k x).calCfg = s.calCfg := rfl
@[simp] theorem State.setGang_lastDrain (s : State) (k : Nat) (x : Gang) : (s.setGang k x).lastDrain = s.lastDrain := rfl
@[simp] theorem State.setGang_phys (s : State) (k : Nat) (x : Gang) : (s.setGang k x).phys = s.phys := rfl
@[simp] theorem State.setGang_physBad (s : State) (k : Nat) (x : Gang) : (s.setGang k x).physBad = s.physBad := rfl
@[simp] theorem State.setGang_lineKey (s : State) (k : Nat) (x : Gang) : (s.setGang k x).lineKey = s.lineKey := rfl
@[simp] theorem State.setGang_ownerKeys (s : State) (k : Nat) (x : Gang) : (s.setGang k x).ownerKeys = s.ownerKeys := rfl
@[simp] theorem State.setGang_pchs (s : State) (k : Nat) (x : Gang) : (s.setGang k x).pchs = s.pchs := rfl
@[simp] theorem State.setGang_hbmStacks (s : State) (k : Nat) (x : Gang) : (s.setGang k x).hbmStacks = s.hbmStacks := rfl
@[simp] theorem State.setGang_sandSeq (s : State) (k : Nat) (x : Gang) : (s.setGang k x).sandSeq = s.sandSeq := rfl
@[simp] theorem State.setGang_events (s : State) (k : Nat) (x : Gang) : (s.setGang k x).events = s.events := rfl
@[simp] theorem State.setGang_workQueues (s : State) (k : Nat) (x : Gang) : (s.setGang k x).workQueues = s.workQueues := rfl
@[simp] theorem State.setGang_userQueues (s : State) (k : Nat) (x : Gang) : (s.setGang k x).userQueues = s.userQueues := rfl
@[simp] theorem State.setGang_slots (s : State) (k : Nat) (x : Gang) : (s.setGang k x).slots = s.slots := rfl
@[simp] theorem State.setGang_pendingIdx (s : State) (k : Nat) (x : Gang) : (s.setGang k x).pendingIdx = s.pendingIdx := rfl
@[simp] theorem State.setGang_fwScan (s : State) (k : Nat) (x : Gang) : (s.setGang k x).fwScan = s.fwScan := rfl
@[simp] theorem State.setGang_faultQueue (s : State) (k : Nat) (x : Gang) : (s.setGang k x).faultQueue = s.faultQueue := rfl
@[simp] theorem State.setGang_errorLog (s : State) (k : Nat) (x : Gang) : (s.setGang k x).errorLog = s.errorLog := rfl
@[simp] theorem State.setGang_errorOver (s : State) (k : Nat) (x : Gang) : (s.setGang k x).errorOver = s.errorOver := rfl
@[simp] theorem State.setGang_gridOwners (s : State) (k : Nat) (x : Gang) : (s.setGang k x).gridOwners = s.gridOwners := rfl
@[simp] theorem State.setGang_ioLog (s : State) (k : Nat) (x : Gang) : (s.setGang k x).ioLog = s.ioLog := rfl
@[simp] theorem State.setGang_ioDropped (s : State) (k : Nat) (x : Gang) : (s.setGang k x).ioDropped = s.ioDropped := rfl
@[simp] theorem State.setGang_aerLog (s : State) (k : Nat) (x : Gang) : (s.setGang k x).aerLog = s.aerLog := rfl
@[simp] theorem State.setGang_reports (s : State) (k : Nat) (x : Gang) : (s.setGang k x).reports = s.reports := rfl
@[simp] theorem State.setGang_sysreqQueue (s : State) (k : Nat) (x : Gang) : (s.setGang k x).sysreqQueue = s.sysreqQueue := rfl
@[simp] theorem State.setGang_tails (s : State) (k : Nat) (x : Gang) : (s.setGang k x).tails = s.tails := rfl
@[simp] theorem State.setGang_outbox (s : State) (k : Nat) (x : Gang) : (s.setGang k x).outbox = s.outbox := rfl
@[simp] theorem State.setGang_channels (s : State) (k : Nat) (x : Gang) : (s.setGang k x).channels = s.channels := rfl
@[simp] theorem State.setGang_peerReads (s : State) (k : Nat) (x : Gang) : (s.setGang k x).peerReads = s.peerReads := rfl
@[simp] theorem State.setGang_pageReqs (s : State) (k : Nat) (x : Gang) : (s.setGang k x).pageReqs = s.pageReqs := rfl
@[simp] theorem State.setGang_portDown (s : State) (k : Nat) (x : Gang) : (s.setGang k x).portDown = s.portDown := rfl
@[simp] theorem State.setGang_portCfg (s : State) (k : Nat) (x : Gang) : (s.setGang k x).portCfg = s.portCfg := rfl
@[simp] theorem State.setGang_portSpd (s : State) (k : Nat) (x : Gang) : (s.setGang k x).portSpd = s.portSpd := rfl
@[simp] theorem State.setGang_hdm (s : State) (k : Nat) (x : Gang) : (s.setGang k x).hdm = s.hdm := rfl
@[simp] theorem State.setGang_bars (s : State) (k : Nat) (x : Gang) : (s.setGang k x).bars = s.bars := rfl
@[simp] theorem State.setGang_bridges (s : State) (k : Nat) (x : Gang) : (s.setGang k x).bridges = s.bridges := rfl
@[simp] theorem State.setGang_ports (s : State) (k : Nat) (x : Gang) : (s.setGang k x).ports = s.ports := rfl
@[simp] theorem State.setGang_linkNum (s : State) (k : Nat) (x : Gang) : (s.setGang k x).linkNum = s.linkNum := rfl
@[simp] theorem State.setGang_seenFlits (s : State) (k : Nat) (x : Gang) : (s.setGang k x).seenFlits = s.seenFlits := rfl
@[simp] theorem State.setGang_asks (s : State) (k : Nat) (x : Gang) : (s.setGang k x).asks = s.asks := rfl
@[simp] theorem State.setGang_schedcfg (s : State) (k : Nat) (x : Gang) : (s.setGang k x).schedcfg = s.schedcfg := rfl
@[simp] theorem State.setGang_chuck (s : State) (k : Nat) (x : Gang) : (s.setGang k x).chuck = s.chuck := rfl
@[simp] theorem State.setGang_chuckLatch (s : State) (k : Nat) (x : Gang) : (s.setGang k x).chuckLatch = s.chuckLatch := rfl
@[simp] theorem State.setGang_placementStop (s : State) (k : Nat) (x : Gang) : (s.setGang k x).placementStop = s.placementStop := rfl
@[simp] theorem State.setGang_nextGrid (s : State) (k : Nat) (x : Gang) : (s.setGang k x).nextGrid = s.nextGrid := rfl
@[simp] theorem State.setGang_nextTicket (s : State) (k : Nat) (x : Gang) : (s.setGang k x).nextTicket = s.nextTicket := rfl
@[simp] theorem State.setGang_powerCfg (s : State) (k : Nat) (x : Gang) : (s.setGang k x).powerCfg = s.powerCfg := rfl
@[simp] theorem State.setGang_freq (s : State) (k : Nat) (x : Gang) : (s.setGang k x).freq = s.freq := rfl
@[simp] theorem State.setGang_critical (s : State) (k : Nat) (x : Gang) : (s.setGang k x).critical = s.critical := rfl
@[simp] theorem State.setGang_cycle (s : State) (k : Nat) (x : Gang) : (s.setGang k x).cycle = s.cycle := rfl
@[simp] theorem State.setGang_time (s : State) (k : Nat) (x : Gang) : (s.setGang k x).time = s.time := rfl
@[simp] theorem State.setGang_tableNext (s : State) (k : Nat) (x : Gang) : (s.setGang k x).tableNext = s.tableNext := rfl
@[simp] theorem State.setGang_lrWords (s : State) (k : Nat) (x : Gang) : (s.setGang k x).lrWords = s.lrWords := rfl
@[simp] theorem State.setGang_pagedOut (s : State) (k : Nat) (x : Gang) : (s.setGang k x).pagedOut = s.pagedOut := rfl
@[simp] theorem State.setGang_records (s : State) (k : Nat) (x : Gang) : (s.setGang k x).records = s.records := rfl
@[simp] theorem State.setGang_waitClock (s : State) (k : Nat) (x : Gang) : (s.setGang k x).waitClock = s.waitClock := rfl
@[simp] theorem State.setGang_mrs (s : State) (k : Nat) (x : Gang) : (s.setGang k x).mrs = s.mrs := rfl
@[simp] theorem State.setGang_partition (s : State) (k : Nat) (x : Gang) : (s.setGang k x).partition = s.partition := rfl
@[simp] theorem State.setGang_slotB (s : State) (k : Nat) (x : Gang) : (s.setGang k x).slotB = s.slotB := rfl
@[simp] theorem State.setGang_images (s : State) (k : Nat) (x : Gang) : (s.setGang k x).images = s.images := rfl
@[simp] theorem State.setGang_boots (s : State) (k : Nat) (x : Gang) : (s.setGang k x).boots = s.boots := rfl
@[simp] theorem State.setGang_operatorKey (s : State) (k : Nat) (x : Gang) : (s.setGang k x).operatorKey = s.operatorKey := rfl
@[simp] theorem State.setGang_ownerPub (s : State) (k : Nat) (x : Gang) : (s.setGang k x).ownerPub = s.ownerPub := rfl
@[simp] theorem State.setGang_nextLeaf (s : State) (k : Nat) (x : Gang) : (s.setGang k x).nextLeaf = s.nextLeaf := rfl
@[simp] theorem State.setGang_retired (s : State) (k : Nat) (x : Gang) : (s.setGang k x).retired = s.retired := rfl
@[simp] theorem State.setGang_sessions (s : State) (k : Nat) (x : Gang) : (s.setGang k x).sessions = s.sessions := rfl
@[simp] theorem State.setGang_i3cAddr (s : State) (k : Nat) (x : Gang) : (s.setGang k x).i3cAddr = s.i3cAddr := rfl
@[simp] theorem State.setGang_mctpEid (s : State) (k : Nat) (x : Gang) : (s.setGang k x).mctpEid = s.mctpEid := rfl
@[simp] theorem State.setGang_booted (s : State) (k : Nat) (x : Gang) : (s.setGang k x).booted = s.booted := rfl
@[simp] theorem State.setGang_bootStep (s : State) (k : Nat) (x : Gang) : (s.setGang k x).bootStep = s.bootStep := rfl
@[simp] theorem State.setGang_powered (s : State) (k : Nat) (x : Gang) : (s.setGang k x).powered = s.powered := rfl
@[simp] theorem State.setGang_agenda (s : State) (k : Nat) (x : Gang) : (s.setGang k x).agenda = s.agenda := rfl
@[simp] theorem State.setGang_turn (s : State) (k : Nat) (x : Gang) : (s.setGang k x).turn = s.turn := rfl
@[simp] theorem State.setGang_cur (s : State) (k : Nat) (x : Gang) : (s.setGang k x).cur = s.cur := rfl
@[simp] theorem State.setGang_fresh (s : State) (k : Nat) (x : Gang) : (s.setGang k x).fresh = s.fresh := rfl
@[simp] theorem State.setGang_nextId (s : State) (k : Nat) (x : Gang) : (s.setGang k x).nextId = s.nextId := rfl

@[simp] theorem State.setGrid_groups (s : State) (k : Nat) (x : Grid) : (s.setGrid k x).groups = s.groups := rfl
@[simp] theorem State.setGrid_teams (s : State) (k : Nat) (x : Grid) : (s.setGrid k x).teams = s.teams := rfl
@[simp] theorem State.setGrid_gangs (s : State) (k : Nat) (x : Grid) : (s.setGrid k x).gangs = s.gangs := rfl
@[simp] theorem State.setGrid_ctxs (s : State) (k : Nat) (x : Grid) : (s.setGrid k x).ctxs = s.ctxs := rfl
@[simp] theorem State.setGrid_cores (s : State) (k : Nat) (x : Grid) : (s.setGrid k x).cores = s.cores := rfl
@[simp] theorem State.setGrid_laneWords (s : State) (k : Nat) (x : Grid) : (s.setGrid k x).laneWords = s.laneWords := rfl
@[simp] theorem State.setGrid_spad (s : State) (k : Nat) (x : Grid) : (s.setGrid k x).spad = s.spad := rfl
@[simp] theorem State.setGrid_spadBad (s : State) (k : Nat) (x : Grid) : (s.setGrid k x).spadBad = s.spadBad := rfl
@[simp] theorem State.setGrid_tlbs (s : State) (k : Nat) (x : Grid) : (s.setGrid k x).tlbs = s.tlbs := rfl
@[simp] theorem State.setGrid_ops (s : State) (k : Nat) (x : Grid) : (s.setGrid k x).ops = s.ops := rfl
@[simp] theorem State.setGrid_urgentLoads (s : State) (k : Nat) (x : Grid) : (s.setGrid k x).urgentLoads = s.urgentLoads := rfl
@[simp] theorem State.setGrid_copies (s : State) (k : Nat) (x : Grid) : (s.setGrid k x).copies = s.copies := rfl
@[simp] theorem State.setGrid_colls (s : State) (k : Nat) (x : Grid) : (s.setGrid k x).colls = s.colls := rfl
@[simp] theorem State.setGrid_samples (s : State) (k : Nat) (x : Grid) : (s.setGrid k x).samples = s.samples := rfl
@[simp] theorem State.setGrid_icache (s : State) (k : Nat) (x : Grid) : (s.setGrid k x).icache = s.icache := rfl
@[simp] theorem State.setGrid_calCfg (s : State) (k : Nat) (x : Grid) : (s.setGrid k x).calCfg = s.calCfg := rfl
@[simp] theorem State.setGrid_lastDrain (s : State) (k : Nat) (x : Grid) : (s.setGrid k x).lastDrain = s.lastDrain := rfl
@[simp] theorem State.setGrid_phys (s : State) (k : Nat) (x : Grid) : (s.setGrid k x).phys = s.phys := rfl
@[simp] theorem State.setGrid_physBad (s : State) (k : Nat) (x : Grid) : (s.setGrid k x).physBad = s.physBad := rfl
@[simp] theorem State.setGrid_lineKey (s : State) (k : Nat) (x : Grid) : (s.setGrid k x).lineKey = s.lineKey := rfl
@[simp] theorem State.setGrid_ownerKeys (s : State) (k : Nat) (x : Grid) : (s.setGrid k x).ownerKeys = s.ownerKeys := rfl
@[simp] theorem State.setGrid_pchs (s : State) (k : Nat) (x : Grid) : (s.setGrid k x).pchs = s.pchs := rfl
@[simp] theorem State.setGrid_hbmStacks (s : State) (k : Nat) (x : Grid) : (s.setGrid k x).hbmStacks = s.hbmStacks := rfl
@[simp] theorem State.setGrid_sandSeq (s : State) (k : Nat) (x : Grid) : (s.setGrid k x).sandSeq = s.sandSeq := rfl
@[simp] theorem State.setGrid_events (s : State) (k : Nat) (x : Grid) : (s.setGrid k x).events = s.events := rfl
@[simp] theorem State.setGrid_workQueues (s : State) (k : Nat) (x : Grid) : (s.setGrid k x).workQueues = s.workQueues := rfl
@[simp] theorem State.setGrid_userQueues (s : State) (k : Nat) (x : Grid) : (s.setGrid k x).userQueues = s.userQueues := rfl
@[simp] theorem State.setGrid_slots (s : State) (k : Nat) (x : Grid) : (s.setGrid k x).slots = s.slots := rfl
@[simp] theorem State.setGrid_pendingIdx (s : State) (k : Nat) (x : Grid) : (s.setGrid k x).pendingIdx = s.pendingIdx := rfl
@[simp] theorem State.setGrid_fwScan (s : State) (k : Nat) (x : Grid) : (s.setGrid k x).fwScan = s.fwScan := rfl
@[simp] theorem State.setGrid_faultQueue (s : State) (k : Nat) (x : Grid) : (s.setGrid k x).faultQueue = s.faultQueue := rfl
@[simp] theorem State.setGrid_errorLog (s : State) (k : Nat) (x : Grid) : (s.setGrid k x).errorLog = s.errorLog := rfl
@[simp] theorem State.setGrid_errorOver (s : State) (k : Nat) (x : Grid) : (s.setGrid k x).errorOver = s.errorOver := rfl
@[simp] theorem State.setGrid_gridOwners (s : State) (k : Nat) (x : Grid) : (s.setGrid k x).gridOwners = s.gridOwners := rfl
@[simp] theorem State.setGrid_ioLog (s : State) (k : Nat) (x : Grid) : (s.setGrid k x).ioLog = s.ioLog := rfl
@[simp] theorem State.setGrid_ioDropped (s : State) (k : Nat) (x : Grid) : (s.setGrid k x).ioDropped = s.ioDropped := rfl
@[simp] theorem State.setGrid_aerLog (s : State) (k : Nat) (x : Grid) : (s.setGrid k x).aerLog = s.aerLog := rfl
@[simp] theorem State.setGrid_reports (s : State) (k : Nat) (x : Grid) : (s.setGrid k x).reports = s.reports := rfl
@[simp] theorem State.setGrid_sysreqQueue (s : State) (k : Nat) (x : Grid) : (s.setGrid k x).sysreqQueue = s.sysreqQueue := rfl
@[simp] theorem State.setGrid_tails (s : State) (k : Nat) (x : Grid) : (s.setGrid k x).tails = s.tails := rfl
@[simp] theorem State.setGrid_outbox (s : State) (k : Nat) (x : Grid) : (s.setGrid k x).outbox = s.outbox := rfl
@[simp] theorem State.setGrid_channels (s : State) (k : Nat) (x : Grid) : (s.setGrid k x).channels = s.channels := rfl
@[simp] theorem State.setGrid_peerReads (s : State) (k : Nat) (x : Grid) : (s.setGrid k x).peerReads = s.peerReads := rfl
@[simp] theorem State.setGrid_pageReqs (s : State) (k : Nat) (x : Grid) : (s.setGrid k x).pageReqs = s.pageReqs := rfl
@[simp] theorem State.setGrid_portDown (s : State) (k : Nat) (x : Grid) : (s.setGrid k x).portDown = s.portDown := rfl
@[simp] theorem State.setGrid_portCfg (s : State) (k : Nat) (x : Grid) : (s.setGrid k x).portCfg = s.portCfg := rfl
@[simp] theorem State.setGrid_portSpd (s : State) (k : Nat) (x : Grid) : (s.setGrid k x).portSpd = s.portSpd := rfl
@[simp] theorem State.setGrid_hdm (s : State) (k : Nat) (x : Grid) : (s.setGrid k x).hdm = s.hdm := rfl
@[simp] theorem State.setGrid_bars (s : State) (k : Nat) (x : Grid) : (s.setGrid k x).bars = s.bars := rfl
@[simp] theorem State.setGrid_bridges (s : State) (k : Nat) (x : Grid) : (s.setGrid k x).bridges = s.bridges := rfl
@[simp] theorem State.setGrid_ports (s : State) (k : Nat) (x : Grid) : (s.setGrid k x).ports = s.ports := rfl
@[simp] theorem State.setGrid_linkNum (s : State) (k : Nat) (x : Grid) : (s.setGrid k x).linkNum = s.linkNum := rfl
@[simp] theorem State.setGrid_seenFlits (s : State) (k : Nat) (x : Grid) : (s.setGrid k x).seenFlits = s.seenFlits := rfl
@[simp] theorem State.setGrid_asks (s : State) (k : Nat) (x : Grid) : (s.setGrid k x).asks = s.asks := rfl
@[simp] theorem State.setGrid_schedcfg (s : State) (k : Nat) (x : Grid) : (s.setGrid k x).schedcfg = s.schedcfg := rfl
@[simp] theorem State.setGrid_chuck (s : State) (k : Nat) (x : Grid) : (s.setGrid k x).chuck = s.chuck := rfl
@[simp] theorem State.setGrid_chuckLatch (s : State) (k : Nat) (x : Grid) : (s.setGrid k x).chuckLatch = s.chuckLatch := rfl
@[simp] theorem State.setGrid_placementStop (s : State) (k : Nat) (x : Grid) : (s.setGrid k x).placementStop = s.placementStop := rfl
@[simp] theorem State.setGrid_nextGrid (s : State) (k : Nat) (x : Grid) : (s.setGrid k x).nextGrid = s.nextGrid := rfl
@[simp] theorem State.setGrid_nextTicket (s : State) (k : Nat) (x : Grid) : (s.setGrid k x).nextTicket = s.nextTicket := rfl
@[simp] theorem State.setGrid_powerCfg (s : State) (k : Nat) (x : Grid) : (s.setGrid k x).powerCfg = s.powerCfg := rfl
@[simp] theorem State.setGrid_freq (s : State) (k : Nat) (x : Grid) : (s.setGrid k x).freq = s.freq := rfl
@[simp] theorem State.setGrid_critical (s : State) (k : Nat) (x : Grid) : (s.setGrid k x).critical = s.critical := rfl
@[simp] theorem State.setGrid_cycle (s : State) (k : Nat) (x : Grid) : (s.setGrid k x).cycle = s.cycle := rfl
@[simp] theorem State.setGrid_time (s : State) (k : Nat) (x : Grid) : (s.setGrid k x).time = s.time := rfl
@[simp] theorem State.setGrid_tableNext (s : State) (k : Nat) (x : Grid) : (s.setGrid k x).tableNext = s.tableNext := rfl
@[simp] theorem State.setGrid_lrWords (s : State) (k : Nat) (x : Grid) : (s.setGrid k x).lrWords = s.lrWords := rfl
@[simp] theorem State.setGrid_pagedOut (s : State) (k : Nat) (x : Grid) : (s.setGrid k x).pagedOut = s.pagedOut := rfl
@[simp] theorem State.setGrid_records (s : State) (k : Nat) (x : Grid) : (s.setGrid k x).records = s.records := rfl
@[simp] theorem State.setGrid_waitClock (s : State) (k : Nat) (x : Grid) : (s.setGrid k x).waitClock = s.waitClock := rfl
@[simp] theorem State.setGrid_mrs (s : State) (k : Nat) (x : Grid) : (s.setGrid k x).mrs = s.mrs := rfl
@[simp] theorem State.setGrid_partition (s : State) (k : Nat) (x : Grid) : (s.setGrid k x).partition = s.partition := rfl
@[simp] theorem State.setGrid_slotB (s : State) (k : Nat) (x : Grid) : (s.setGrid k x).slotB = s.slotB := rfl
@[simp] theorem State.setGrid_images (s : State) (k : Nat) (x : Grid) : (s.setGrid k x).images = s.images := rfl
@[simp] theorem State.setGrid_boots (s : State) (k : Nat) (x : Grid) : (s.setGrid k x).boots = s.boots := rfl
@[simp] theorem State.setGrid_operatorKey (s : State) (k : Nat) (x : Grid) : (s.setGrid k x).operatorKey = s.operatorKey := rfl
@[simp] theorem State.setGrid_ownerPub (s : State) (k : Nat) (x : Grid) : (s.setGrid k x).ownerPub = s.ownerPub := rfl
@[simp] theorem State.setGrid_nextLeaf (s : State) (k : Nat) (x : Grid) : (s.setGrid k x).nextLeaf = s.nextLeaf := rfl
@[simp] theorem State.setGrid_retired (s : State) (k : Nat) (x : Grid) : (s.setGrid k x).retired = s.retired := rfl
@[simp] theorem State.setGrid_sessions (s : State) (k : Nat) (x : Grid) : (s.setGrid k x).sessions = s.sessions := rfl
@[simp] theorem State.setGrid_i3cAddr (s : State) (k : Nat) (x : Grid) : (s.setGrid k x).i3cAddr = s.i3cAddr := rfl
@[simp] theorem State.setGrid_mctpEid (s : State) (k : Nat) (x : Grid) : (s.setGrid k x).mctpEid = s.mctpEid := rfl
@[simp] theorem State.setGrid_booted (s : State) (k : Nat) (x : Grid) : (s.setGrid k x).booted = s.booted := rfl
@[simp] theorem State.setGrid_bootStep (s : State) (k : Nat) (x : Grid) : (s.setGrid k x).bootStep = s.bootStep := rfl
@[simp] theorem State.setGrid_powered (s : State) (k : Nat) (x : Grid) : (s.setGrid k x).powered = s.powered := rfl
@[simp] theorem State.setGrid_agenda (s : State) (k : Nat) (x : Grid) : (s.setGrid k x).agenda = s.agenda := rfl
@[simp] theorem State.setGrid_turn (s : State) (k : Nat) (x : Grid) : (s.setGrid k x).turn = s.turn := rfl
@[simp] theorem State.setGrid_cur (s : State) (k : Nat) (x : Grid) : (s.setGrid k x).cur = s.cur := rfl
@[simp] theorem State.setGrid_fresh (s : State) (k : Nat) (x : Grid) : (s.setGrid k x).fresh = s.fresh := rfl
@[simp] theorem State.setGrid_nextId (s : State) (k : Nat) (x : Grid) : (s.setGrid k x).nextId = s.nextId := rfl

@[simp] theorem State.setCtx_groups (s : State) (k : Nat) (x : Ctx) : (s.setCtx k x).groups = s.groups := rfl
@[simp] theorem State.setCtx_teams (s : State) (k : Nat) (x : Ctx) : (s.setCtx k x).teams = s.teams := rfl
@[simp] theorem State.setCtx_gangs (s : State) (k : Nat) (x : Ctx) : (s.setCtx k x).gangs = s.gangs := rfl
@[simp] theorem State.setCtx_grids (s : State) (k : Nat) (x : Ctx) : (s.setCtx k x).grids = s.grids := rfl
@[simp] theorem State.setCtx_cores (s : State) (k : Nat) (x : Ctx) : (s.setCtx k x).cores = s.cores := rfl
@[simp] theorem State.setCtx_laneWords (s : State) (k : Nat) (x : Ctx) : (s.setCtx k x).laneWords = s.laneWords := rfl
@[simp] theorem State.setCtx_spad (s : State) (k : Nat) (x : Ctx) : (s.setCtx k x).spad = s.spad := rfl
@[simp] theorem State.setCtx_spadBad (s : State) (k : Nat) (x : Ctx) : (s.setCtx k x).spadBad = s.spadBad := rfl
@[simp] theorem State.setCtx_tlbs (s : State) (k : Nat) (x : Ctx) : (s.setCtx k x).tlbs = s.tlbs := rfl
@[simp] theorem State.setCtx_ops (s : State) (k : Nat) (x : Ctx) : (s.setCtx k x).ops = s.ops := rfl
@[simp] theorem State.setCtx_urgentLoads (s : State) (k : Nat) (x : Ctx) : (s.setCtx k x).urgentLoads = s.urgentLoads := rfl
@[simp] theorem State.setCtx_copies (s : State) (k : Nat) (x : Ctx) : (s.setCtx k x).copies = s.copies := rfl
@[simp] theorem State.setCtx_colls (s : State) (k : Nat) (x : Ctx) : (s.setCtx k x).colls = s.colls := rfl
@[simp] theorem State.setCtx_samples (s : State) (k : Nat) (x : Ctx) : (s.setCtx k x).samples = s.samples := rfl
@[simp] theorem State.setCtx_icache (s : State) (k : Nat) (x : Ctx) : (s.setCtx k x).icache = s.icache := rfl
@[simp] theorem State.setCtx_calCfg (s : State) (k : Nat) (x : Ctx) : (s.setCtx k x).calCfg = s.calCfg := rfl
@[simp] theorem State.setCtx_lastDrain (s : State) (k : Nat) (x : Ctx) : (s.setCtx k x).lastDrain = s.lastDrain := rfl
@[simp] theorem State.setCtx_phys (s : State) (k : Nat) (x : Ctx) : (s.setCtx k x).phys = s.phys := rfl
@[simp] theorem State.setCtx_physBad (s : State) (k : Nat) (x : Ctx) : (s.setCtx k x).physBad = s.physBad := rfl
@[simp] theorem State.setCtx_lineKey (s : State) (k : Nat) (x : Ctx) : (s.setCtx k x).lineKey = s.lineKey := rfl
@[simp] theorem State.setCtx_ownerKeys (s : State) (k : Nat) (x : Ctx) : (s.setCtx k x).ownerKeys = s.ownerKeys := rfl
@[simp] theorem State.setCtx_pchs (s : State) (k : Nat) (x : Ctx) : (s.setCtx k x).pchs = s.pchs := rfl
@[simp] theorem State.setCtx_hbmStacks (s : State) (k : Nat) (x : Ctx) : (s.setCtx k x).hbmStacks = s.hbmStacks := rfl
@[simp] theorem State.setCtx_sandSeq (s : State) (k : Nat) (x : Ctx) : (s.setCtx k x).sandSeq = s.sandSeq := rfl
@[simp] theorem State.setCtx_events (s : State) (k : Nat) (x : Ctx) : (s.setCtx k x).events = s.events := rfl
@[simp] theorem State.setCtx_workQueues (s : State) (k : Nat) (x : Ctx) : (s.setCtx k x).workQueues = s.workQueues := rfl
@[simp] theorem State.setCtx_userQueues (s : State) (k : Nat) (x : Ctx) : (s.setCtx k x).userQueues = s.userQueues := rfl
@[simp] theorem State.setCtx_slots (s : State) (k : Nat) (x : Ctx) : (s.setCtx k x).slots = s.slots := rfl
@[simp] theorem State.setCtx_pendingIdx (s : State) (k : Nat) (x : Ctx) : (s.setCtx k x).pendingIdx = s.pendingIdx := rfl
@[simp] theorem State.setCtx_fwScan (s : State) (k : Nat) (x : Ctx) : (s.setCtx k x).fwScan = s.fwScan := rfl
@[simp] theorem State.setCtx_faultQueue (s : State) (k : Nat) (x : Ctx) : (s.setCtx k x).faultQueue = s.faultQueue := rfl
@[simp] theorem State.setCtx_errorLog (s : State) (k : Nat) (x : Ctx) : (s.setCtx k x).errorLog = s.errorLog := rfl
@[simp] theorem State.setCtx_errorOver (s : State) (k : Nat) (x : Ctx) : (s.setCtx k x).errorOver = s.errorOver := rfl
@[simp] theorem State.setCtx_gridOwners (s : State) (k : Nat) (x : Ctx) : (s.setCtx k x).gridOwners = s.gridOwners := rfl
@[simp] theorem State.setCtx_ioLog (s : State) (k : Nat) (x : Ctx) : (s.setCtx k x).ioLog = s.ioLog := rfl
@[simp] theorem State.setCtx_ioDropped (s : State) (k : Nat) (x : Ctx) : (s.setCtx k x).ioDropped = s.ioDropped := rfl
@[simp] theorem State.setCtx_aerLog (s : State) (k : Nat) (x : Ctx) : (s.setCtx k x).aerLog = s.aerLog := rfl
@[simp] theorem State.setCtx_reports (s : State) (k : Nat) (x : Ctx) : (s.setCtx k x).reports = s.reports := rfl
@[simp] theorem State.setCtx_sysreqQueue (s : State) (k : Nat) (x : Ctx) : (s.setCtx k x).sysreqQueue = s.sysreqQueue := rfl
@[simp] theorem State.setCtx_tails (s : State) (k : Nat) (x : Ctx) : (s.setCtx k x).tails = s.tails := rfl
@[simp] theorem State.setCtx_outbox (s : State) (k : Nat) (x : Ctx) : (s.setCtx k x).outbox = s.outbox := rfl
@[simp] theorem State.setCtx_channels (s : State) (k : Nat) (x : Ctx) : (s.setCtx k x).channels = s.channels := rfl
@[simp] theorem State.setCtx_peerReads (s : State) (k : Nat) (x : Ctx) : (s.setCtx k x).peerReads = s.peerReads := rfl
@[simp] theorem State.setCtx_pageReqs (s : State) (k : Nat) (x : Ctx) : (s.setCtx k x).pageReqs = s.pageReqs := rfl
@[simp] theorem State.setCtx_portDown (s : State) (k : Nat) (x : Ctx) : (s.setCtx k x).portDown = s.portDown := rfl
@[simp] theorem State.setCtx_portCfg (s : State) (k : Nat) (x : Ctx) : (s.setCtx k x).portCfg = s.portCfg := rfl
@[simp] theorem State.setCtx_portSpd (s : State) (k : Nat) (x : Ctx) : (s.setCtx k x).portSpd = s.portSpd := rfl
@[simp] theorem State.setCtx_hdm (s : State) (k : Nat) (x : Ctx) : (s.setCtx k x).hdm = s.hdm := rfl
@[simp] theorem State.setCtx_bars (s : State) (k : Nat) (x : Ctx) : (s.setCtx k x).bars = s.bars := rfl
@[simp] theorem State.setCtx_bridges (s : State) (k : Nat) (x : Ctx) : (s.setCtx k x).bridges = s.bridges := rfl
@[simp] theorem State.setCtx_ports (s : State) (k : Nat) (x : Ctx) : (s.setCtx k x).ports = s.ports := rfl
@[simp] theorem State.setCtx_linkNum (s : State) (k : Nat) (x : Ctx) : (s.setCtx k x).linkNum = s.linkNum := rfl
@[simp] theorem State.setCtx_seenFlits (s : State) (k : Nat) (x : Ctx) : (s.setCtx k x).seenFlits = s.seenFlits := rfl
@[simp] theorem State.setCtx_asks (s : State) (k : Nat) (x : Ctx) : (s.setCtx k x).asks = s.asks := rfl
@[simp] theorem State.setCtx_schedcfg (s : State) (k : Nat) (x : Ctx) : (s.setCtx k x).schedcfg = s.schedcfg := rfl
@[simp] theorem State.setCtx_chuck (s : State) (k : Nat) (x : Ctx) : (s.setCtx k x).chuck = s.chuck := rfl
@[simp] theorem State.setCtx_chuckLatch (s : State) (k : Nat) (x : Ctx) : (s.setCtx k x).chuckLatch = s.chuckLatch := rfl
@[simp] theorem State.setCtx_placementStop (s : State) (k : Nat) (x : Ctx) : (s.setCtx k x).placementStop = s.placementStop := rfl
@[simp] theorem State.setCtx_nextGrid (s : State) (k : Nat) (x : Ctx) : (s.setCtx k x).nextGrid = s.nextGrid := rfl
@[simp] theorem State.setCtx_nextTicket (s : State) (k : Nat) (x : Ctx) : (s.setCtx k x).nextTicket = s.nextTicket := rfl
@[simp] theorem State.setCtx_powerCfg (s : State) (k : Nat) (x : Ctx) : (s.setCtx k x).powerCfg = s.powerCfg := rfl
@[simp] theorem State.setCtx_freq (s : State) (k : Nat) (x : Ctx) : (s.setCtx k x).freq = s.freq := rfl
@[simp] theorem State.setCtx_critical (s : State) (k : Nat) (x : Ctx) : (s.setCtx k x).critical = s.critical := rfl
@[simp] theorem State.setCtx_cycle (s : State) (k : Nat) (x : Ctx) : (s.setCtx k x).cycle = s.cycle := rfl
@[simp] theorem State.setCtx_time (s : State) (k : Nat) (x : Ctx) : (s.setCtx k x).time = s.time := rfl
@[simp] theorem State.setCtx_tableNext (s : State) (k : Nat) (x : Ctx) : (s.setCtx k x).tableNext = s.tableNext := rfl
@[simp] theorem State.setCtx_lrWords (s : State) (k : Nat) (x : Ctx) : (s.setCtx k x).lrWords = s.lrWords := rfl
@[simp] theorem State.setCtx_pagedOut (s : State) (k : Nat) (x : Ctx) : (s.setCtx k x).pagedOut = s.pagedOut := rfl
@[simp] theorem State.setCtx_records (s : State) (k : Nat) (x : Ctx) : (s.setCtx k x).records = s.records := rfl
@[simp] theorem State.setCtx_waitClock (s : State) (k : Nat) (x : Ctx) : (s.setCtx k x).waitClock = s.waitClock := rfl
@[simp] theorem State.setCtx_mrs (s : State) (k : Nat) (x : Ctx) : (s.setCtx k x).mrs = s.mrs := rfl
@[simp] theorem State.setCtx_partition (s : State) (k : Nat) (x : Ctx) : (s.setCtx k x).partition = s.partition := rfl
@[simp] theorem State.setCtx_slotB (s : State) (k : Nat) (x : Ctx) : (s.setCtx k x).slotB = s.slotB := rfl
@[simp] theorem State.setCtx_images (s : State) (k : Nat) (x : Ctx) : (s.setCtx k x).images = s.images := rfl
@[simp] theorem State.setCtx_boots (s : State) (k : Nat) (x : Ctx) : (s.setCtx k x).boots = s.boots := rfl
@[simp] theorem State.setCtx_operatorKey (s : State) (k : Nat) (x : Ctx) : (s.setCtx k x).operatorKey = s.operatorKey := rfl
@[simp] theorem State.setCtx_ownerPub (s : State) (k : Nat) (x : Ctx) : (s.setCtx k x).ownerPub = s.ownerPub := rfl
@[simp] theorem State.setCtx_nextLeaf (s : State) (k : Nat) (x : Ctx) : (s.setCtx k x).nextLeaf = s.nextLeaf := rfl
@[simp] theorem State.setCtx_retired (s : State) (k : Nat) (x : Ctx) : (s.setCtx k x).retired = s.retired := rfl
@[simp] theorem State.setCtx_sessions (s : State) (k : Nat) (x : Ctx) : (s.setCtx k x).sessions = s.sessions := rfl
@[simp] theorem State.setCtx_i3cAddr (s : State) (k : Nat) (x : Ctx) : (s.setCtx k x).i3cAddr = s.i3cAddr := rfl
@[simp] theorem State.setCtx_mctpEid (s : State) (k : Nat) (x : Ctx) : (s.setCtx k x).mctpEid = s.mctpEid := rfl
@[simp] theorem State.setCtx_booted (s : State) (k : Nat) (x : Ctx) : (s.setCtx k x).booted = s.booted := rfl
@[simp] theorem State.setCtx_bootStep (s : State) (k : Nat) (x : Ctx) : (s.setCtx k x).bootStep = s.bootStep := rfl
@[simp] theorem State.setCtx_powered (s : State) (k : Nat) (x : Ctx) : (s.setCtx k x).powered = s.powered := rfl
@[simp] theorem State.setCtx_agenda (s : State) (k : Nat) (x : Ctx) : (s.setCtx k x).agenda = s.agenda := rfl
@[simp] theorem State.setCtx_turn (s : State) (k : Nat) (x : Ctx) : (s.setCtx k x).turn = s.turn := rfl
@[simp] theorem State.setCtx_cur (s : State) (k : Nat) (x : Ctx) : (s.setCtx k x).cur = s.cur := rfl
@[simp] theorem State.setCtx_fresh (s : State) (k : Nat) (x : Ctx) : (s.setCtx k x).fresh = s.fresh := rfl
@[simp] theorem State.setCtx_nextId (s : State) (k : Nat) (x : Ctx) : (s.setCtx k x).nextId = s.nextId := rfl

@[simp] theorem State.setCore_groups (s : State) (k : Nat) (x : CoreSt) : (s.setCore k x).groups = s.groups := rfl
@[simp] theorem State.setCore_teams (s : State) (k : Nat) (x : CoreSt) : (s.setCore k x).teams = s.teams := rfl
@[simp] theorem State.setCore_gangs (s : State) (k : Nat) (x : CoreSt) : (s.setCore k x).gangs = s.gangs := rfl
@[simp] theorem State.setCore_grids (s : State) (k : Nat) (x : CoreSt) : (s.setCore k x).grids = s.grids := rfl
@[simp] theorem State.setCore_ctxs (s : State) (k : Nat) (x : CoreSt) : (s.setCore k x).ctxs = s.ctxs := rfl
@[simp] theorem State.setCore_laneWords (s : State) (k : Nat) (x : CoreSt) : (s.setCore k x).laneWords = s.laneWords := rfl
@[simp] theorem State.setCore_spad (s : State) (k : Nat) (x : CoreSt) : (s.setCore k x).spad = s.spad := rfl
@[simp] theorem State.setCore_spadBad (s : State) (k : Nat) (x : CoreSt) : (s.setCore k x).spadBad = s.spadBad := rfl
@[simp] theorem State.setCore_tlbs (s : State) (k : Nat) (x : CoreSt) : (s.setCore k x).tlbs = s.tlbs := rfl
@[simp] theorem State.setCore_ops (s : State) (k : Nat) (x : CoreSt) : (s.setCore k x).ops = s.ops := rfl
@[simp] theorem State.setCore_urgentLoads (s : State) (k : Nat) (x : CoreSt) : (s.setCore k x).urgentLoads = s.urgentLoads := rfl
@[simp] theorem State.setCore_copies (s : State) (k : Nat) (x : CoreSt) : (s.setCore k x).copies = s.copies := rfl
@[simp] theorem State.setCore_colls (s : State) (k : Nat) (x : CoreSt) : (s.setCore k x).colls = s.colls := rfl
@[simp] theorem State.setCore_samples (s : State) (k : Nat) (x : CoreSt) : (s.setCore k x).samples = s.samples := rfl
@[simp] theorem State.setCore_icache (s : State) (k : Nat) (x : CoreSt) : (s.setCore k x).icache = s.icache := rfl
@[simp] theorem State.setCore_calCfg (s : State) (k : Nat) (x : CoreSt) : (s.setCore k x).calCfg = s.calCfg := rfl
@[simp] theorem State.setCore_lastDrain (s : State) (k : Nat) (x : CoreSt) : (s.setCore k x).lastDrain = s.lastDrain := rfl
@[simp] theorem State.setCore_phys (s : State) (k : Nat) (x : CoreSt) : (s.setCore k x).phys = s.phys := rfl
@[simp] theorem State.setCore_physBad (s : State) (k : Nat) (x : CoreSt) : (s.setCore k x).physBad = s.physBad := rfl
@[simp] theorem State.setCore_lineKey (s : State) (k : Nat) (x : CoreSt) : (s.setCore k x).lineKey = s.lineKey := rfl
@[simp] theorem State.setCore_ownerKeys (s : State) (k : Nat) (x : CoreSt) : (s.setCore k x).ownerKeys = s.ownerKeys := rfl
@[simp] theorem State.setCore_pchs (s : State) (k : Nat) (x : CoreSt) : (s.setCore k x).pchs = s.pchs := rfl
@[simp] theorem State.setCore_hbmStacks (s : State) (k : Nat) (x : CoreSt) : (s.setCore k x).hbmStacks = s.hbmStacks := rfl
@[simp] theorem State.setCore_sandSeq (s : State) (k : Nat) (x : CoreSt) : (s.setCore k x).sandSeq = s.sandSeq := rfl
@[simp] theorem State.setCore_events (s : State) (k : Nat) (x : CoreSt) : (s.setCore k x).events = s.events := rfl
@[simp] theorem State.setCore_workQueues (s : State) (k : Nat) (x : CoreSt) : (s.setCore k x).workQueues = s.workQueues := rfl
@[simp] theorem State.setCore_userQueues (s : State) (k : Nat) (x : CoreSt) : (s.setCore k x).userQueues = s.userQueues := rfl
@[simp] theorem State.setCore_slots (s : State) (k : Nat) (x : CoreSt) : (s.setCore k x).slots = s.slots := rfl
@[simp] theorem State.setCore_pendingIdx (s : State) (k : Nat) (x : CoreSt) : (s.setCore k x).pendingIdx = s.pendingIdx := rfl
@[simp] theorem State.setCore_fwScan (s : State) (k : Nat) (x : CoreSt) : (s.setCore k x).fwScan = s.fwScan := rfl
@[simp] theorem State.setCore_faultQueue (s : State) (k : Nat) (x : CoreSt) : (s.setCore k x).faultQueue = s.faultQueue := rfl
@[simp] theorem State.setCore_errorLog (s : State) (k : Nat) (x : CoreSt) : (s.setCore k x).errorLog = s.errorLog := rfl
@[simp] theorem State.setCore_errorOver (s : State) (k : Nat) (x : CoreSt) : (s.setCore k x).errorOver = s.errorOver := rfl
@[simp] theorem State.setCore_gridOwners (s : State) (k : Nat) (x : CoreSt) : (s.setCore k x).gridOwners = s.gridOwners := rfl
@[simp] theorem State.setCore_ioLog (s : State) (k : Nat) (x : CoreSt) : (s.setCore k x).ioLog = s.ioLog := rfl
@[simp] theorem State.setCore_ioDropped (s : State) (k : Nat) (x : CoreSt) : (s.setCore k x).ioDropped = s.ioDropped := rfl
@[simp] theorem State.setCore_aerLog (s : State) (k : Nat) (x : CoreSt) : (s.setCore k x).aerLog = s.aerLog := rfl
@[simp] theorem State.setCore_reports (s : State) (k : Nat) (x : CoreSt) : (s.setCore k x).reports = s.reports := rfl
@[simp] theorem State.setCore_sysreqQueue (s : State) (k : Nat) (x : CoreSt) : (s.setCore k x).sysreqQueue = s.sysreqQueue := rfl
@[simp] theorem State.setCore_tails (s : State) (k : Nat) (x : CoreSt) : (s.setCore k x).tails = s.tails := rfl
@[simp] theorem State.setCore_outbox (s : State) (k : Nat) (x : CoreSt) : (s.setCore k x).outbox = s.outbox := rfl
@[simp] theorem State.setCore_channels (s : State) (k : Nat) (x : CoreSt) : (s.setCore k x).channels = s.channels := rfl
@[simp] theorem State.setCore_peerReads (s : State) (k : Nat) (x : CoreSt) : (s.setCore k x).peerReads = s.peerReads := rfl
@[simp] theorem State.setCore_pageReqs (s : State) (k : Nat) (x : CoreSt) : (s.setCore k x).pageReqs = s.pageReqs := rfl
@[simp] theorem State.setCore_portDown (s : State) (k : Nat) (x : CoreSt) : (s.setCore k x).portDown = s.portDown := rfl
@[simp] theorem State.setCore_portCfg (s : State) (k : Nat) (x : CoreSt) : (s.setCore k x).portCfg = s.portCfg := rfl
@[simp] theorem State.setCore_portSpd (s : State) (k : Nat) (x : CoreSt) : (s.setCore k x).portSpd = s.portSpd := rfl
@[simp] theorem State.setCore_hdm (s : State) (k : Nat) (x : CoreSt) : (s.setCore k x).hdm = s.hdm := rfl
@[simp] theorem State.setCore_bars (s : State) (k : Nat) (x : CoreSt) : (s.setCore k x).bars = s.bars := rfl
@[simp] theorem State.setCore_bridges (s : State) (k : Nat) (x : CoreSt) : (s.setCore k x).bridges = s.bridges := rfl
@[simp] theorem State.setCore_ports (s : State) (k : Nat) (x : CoreSt) : (s.setCore k x).ports = s.ports := rfl
@[simp] theorem State.setCore_linkNum (s : State) (k : Nat) (x : CoreSt) : (s.setCore k x).linkNum = s.linkNum := rfl
@[simp] theorem State.setCore_seenFlits (s : State) (k : Nat) (x : CoreSt) : (s.setCore k x).seenFlits = s.seenFlits := rfl
@[simp] theorem State.setCore_asks (s : State) (k : Nat) (x : CoreSt) : (s.setCore k x).asks = s.asks := rfl
@[simp] theorem State.setCore_schedcfg (s : State) (k : Nat) (x : CoreSt) : (s.setCore k x).schedcfg = s.schedcfg := rfl
@[simp] theorem State.setCore_chuck (s : State) (k : Nat) (x : CoreSt) : (s.setCore k x).chuck = s.chuck := rfl
@[simp] theorem State.setCore_chuckLatch (s : State) (k : Nat) (x : CoreSt) : (s.setCore k x).chuckLatch = s.chuckLatch := rfl
@[simp] theorem State.setCore_placementStop (s : State) (k : Nat) (x : CoreSt) : (s.setCore k x).placementStop = s.placementStop := rfl
@[simp] theorem State.setCore_nextGrid (s : State) (k : Nat) (x : CoreSt) : (s.setCore k x).nextGrid = s.nextGrid := rfl
@[simp] theorem State.setCore_nextTicket (s : State) (k : Nat) (x : CoreSt) : (s.setCore k x).nextTicket = s.nextTicket := rfl
@[simp] theorem State.setCore_powerCfg (s : State) (k : Nat) (x : CoreSt) : (s.setCore k x).powerCfg = s.powerCfg := rfl
@[simp] theorem State.setCore_freq (s : State) (k : Nat) (x : CoreSt) : (s.setCore k x).freq = s.freq := rfl
@[simp] theorem State.setCore_critical (s : State) (k : Nat) (x : CoreSt) : (s.setCore k x).critical = s.critical := rfl
@[simp] theorem State.setCore_cycle (s : State) (k : Nat) (x : CoreSt) : (s.setCore k x).cycle = s.cycle := rfl
@[simp] theorem State.setCore_time (s : State) (k : Nat) (x : CoreSt) : (s.setCore k x).time = s.time := rfl
@[simp] theorem State.setCore_tableNext (s : State) (k : Nat) (x : CoreSt) : (s.setCore k x).tableNext = s.tableNext := rfl
@[simp] theorem State.setCore_lrWords (s : State) (k : Nat) (x : CoreSt) : (s.setCore k x).lrWords = s.lrWords := rfl
@[simp] theorem State.setCore_pagedOut (s : State) (k : Nat) (x : CoreSt) : (s.setCore k x).pagedOut = s.pagedOut := rfl
@[simp] theorem State.setCore_records (s : State) (k : Nat) (x : CoreSt) : (s.setCore k x).records = s.records := rfl
@[simp] theorem State.setCore_waitClock (s : State) (k : Nat) (x : CoreSt) : (s.setCore k x).waitClock = s.waitClock := rfl
@[simp] theorem State.setCore_mrs (s : State) (k : Nat) (x : CoreSt) : (s.setCore k x).mrs = s.mrs := rfl
@[simp] theorem State.setCore_partition (s : State) (k : Nat) (x : CoreSt) : (s.setCore k x).partition = s.partition := rfl
@[simp] theorem State.setCore_slotB (s : State) (k : Nat) (x : CoreSt) : (s.setCore k x).slotB = s.slotB := rfl
@[simp] theorem State.setCore_images (s : State) (k : Nat) (x : CoreSt) : (s.setCore k x).images = s.images := rfl
@[simp] theorem State.setCore_boots (s : State) (k : Nat) (x : CoreSt) : (s.setCore k x).boots = s.boots := rfl
@[simp] theorem State.setCore_operatorKey (s : State) (k : Nat) (x : CoreSt) : (s.setCore k x).operatorKey = s.operatorKey := rfl
@[simp] theorem State.setCore_ownerPub (s : State) (k : Nat) (x : CoreSt) : (s.setCore k x).ownerPub = s.ownerPub := rfl
@[simp] theorem State.setCore_nextLeaf (s : State) (k : Nat) (x : CoreSt) : (s.setCore k x).nextLeaf = s.nextLeaf := rfl
@[simp] theorem State.setCore_retired (s : State) (k : Nat) (x : CoreSt) : (s.setCore k x).retired = s.retired := rfl
@[simp] theorem State.setCore_sessions (s : State) (k : Nat) (x : CoreSt) : (s.setCore k x).sessions = s.sessions := rfl
@[simp] theorem State.setCore_i3cAddr (s : State) (k : Nat) (x : CoreSt) : (s.setCore k x).i3cAddr = s.i3cAddr := rfl
@[simp] theorem State.setCore_mctpEid (s : State) (k : Nat) (x : CoreSt) : (s.setCore k x).mctpEid = s.mctpEid := rfl
@[simp] theorem State.setCore_booted (s : State) (k : Nat) (x : CoreSt) : (s.setCore k x).booted = s.booted := rfl
@[simp] theorem State.setCore_bootStep (s : State) (k : Nat) (x : CoreSt) : (s.setCore k x).bootStep = s.bootStep := rfl
@[simp] theorem State.setCore_powered (s : State) (k : Nat) (x : CoreSt) : (s.setCore k x).powered = s.powered := rfl
@[simp] theorem State.setCore_agenda (s : State) (k : Nat) (x : CoreSt) : (s.setCore k x).agenda = s.agenda := rfl
@[simp] theorem State.setCore_turn (s : State) (k : Nat) (x : CoreSt) : (s.setCore k x).turn = s.turn := rfl
@[simp] theorem State.setCore_cur (s : State) (k : Nat) (x : CoreSt) : (s.setCore k x).cur = s.cur := rfl
@[simp] theorem State.setCore_fresh (s : State) (k : Nat) (x : CoreSt) : (s.setCore k x).fresh = s.fresh := rfl
@[simp] theorem State.setCore_nextId (s : State) (k : Nat) (x : CoreSt) : (s.setCore k x).nextId = s.nextId := rfl

@[simp] theorem State.send_groups (s : State) (m : OutMsg) : (s.send m).groups = s.groups := rfl
@[simp] theorem State.send_teams (s : State) (m : OutMsg) : (s.send m).teams = s.teams := rfl
@[simp] theorem State.send_gangs (s : State) (m : OutMsg) : (s.send m).gangs = s.gangs := rfl
@[simp] theorem State.send_grids (s : State) (m : OutMsg) : (s.send m).grids = s.grids := rfl
@[simp] theorem State.send_ctxs (s : State) (m : OutMsg) : (s.send m).ctxs = s.ctxs := rfl
@[simp] theorem State.send_cores (s : State) (m : OutMsg) : (s.send m).cores = s.cores := rfl
@[simp] theorem State.send_laneWords (s : State) (m : OutMsg) : (s.send m).laneWords = s.laneWords := rfl
@[simp] theorem State.send_spad (s : State) (m : OutMsg) : (s.send m).spad = s.spad := rfl
@[simp] theorem State.send_spadBad (s : State) (m : OutMsg) : (s.send m).spadBad = s.spadBad := rfl
@[simp] theorem State.send_tlbs (s : State) (m : OutMsg) : (s.send m).tlbs = s.tlbs := rfl
@[simp] theorem State.send_ops (s : State) (m : OutMsg) : (s.send m).ops = s.ops := rfl
@[simp] theorem State.send_urgentLoads (s : State) (m : OutMsg) : (s.send m).urgentLoads = s.urgentLoads := rfl
@[simp] theorem State.send_copies (s : State) (m : OutMsg) : (s.send m).copies = s.copies := rfl
@[simp] theorem State.send_colls (s : State) (m : OutMsg) : (s.send m).colls = s.colls := rfl
@[simp] theorem State.send_samples (s : State) (m : OutMsg) : (s.send m).samples = s.samples := rfl
@[simp] theorem State.send_icache (s : State) (m : OutMsg) : (s.send m).icache = s.icache := rfl
@[simp] theorem State.send_calCfg (s : State) (m : OutMsg) : (s.send m).calCfg = s.calCfg := rfl
@[simp] theorem State.send_lastDrain (s : State) (m : OutMsg) : (s.send m).lastDrain = s.lastDrain := rfl
@[simp] theorem State.send_phys (s : State) (m : OutMsg) : (s.send m).phys = s.phys := rfl
@[simp] theorem State.send_physBad (s : State) (m : OutMsg) : (s.send m).physBad = s.physBad := rfl
@[simp] theorem State.send_lineKey (s : State) (m : OutMsg) : (s.send m).lineKey = s.lineKey := rfl
@[simp] theorem State.send_ownerKeys (s : State) (m : OutMsg) : (s.send m).ownerKeys = s.ownerKeys := rfl
@[simp] theorem State.send_pchs (s : State) (m : OutMsg) : (s.send m).pchs = s.pchs := rfl
@[simp] theorem State.send_hbmStacks (s : State) (m : OutMsg) : (s.send m).hbmStacks = s.hbmStacks := rfl
@[simp] theorem State.send_sandSeq (s : State) (m : OutMsg) : (s.send m).sandSeq = s.sandSeq := rfl
@[simp] theorem State.send_events (s : State) (m : OutMsg) : (s.send m).events = s.events := rfl
@[simp] theorem State.send_workQueues (s : State) (m : OutMsg) : (s.send m).workQueues = s.workQueues := rfl
@[simp] theorem State.send_userQueues (s : State) (m : OutMsg) : (s.send m).userQueues = s.userQueues := rfl
@[simp] theorem State.send_slots (s : State) (m : OutMsg) : (s.send m).slots = s.slots := rfl
@[simp] theorem State.send_pendingIdx (s : State) (m : OutMsg) : (s.send m).pendingIdx = s.pendingIdx := rfl
@[simp] theorem State.send_fwScan (s : State) (m : OutMsg) : (s.send m).fwScan = s.fwScan := rfl
@[simp] theorem State.send_faultQueue (s : State) (m : OutMsg) : (s.send m).faultQueue = s.faultQueue := rfl
@[simp] theorem State.send_errorLog (s : State) (m : OutMsg) : (s.send m).errorLog = s.errorLog := rfl
@[simp] theorem State.send_errorOver (s : State) (m : OutMsg) : (s.send m).errorOver = s.errorOver := rfl
@[simp] theorem State.send_gridOwners (s : State) (m : OutMsg) : (s.send m).gridOwners = s.gridOwners := rfl
@[simp] theorem State.send_ioLog (s : State) (m : OutMsg) : (s.send m).ioLog = s.ioLog := rfl
@[simp] theorem State.send_ioDropped (s : State) (m : OutMsg) : (s.send m).ioDropped = s.ioDropped := rfl
@[simp] theorem State.send_aerLog (s : State) (m : OutMsg) : (s.send m).aerLog = s.aerLog := rfl
@[simp] theorem State.send_reports (s : State) (m : OutMsg) : (s.send m).reports = s.reports := rfl
@[simp] theorem State.send_sysreqQueue (s : State) (m : OutMsg) : (s.send m).sysreqQueue = s.sysreqQueue := rfl
@[simp] theorem State.send_tails (s : State) (m : OutMsg) : (s.send m).tails = s.tails := rfl
@[simp] theorem State.send_channels (s : State) (m : OutMsg) : (s.send m).channels = s.channels := rfl
@[simp] theorem State.send_peerReads (s : State) (m : OutMsg) : (s.send m).peerReads = s.peerReads := rfl
@[simp] theorem State.send_pageReqs (s : State) (m : OutMsg) : (s.send m).pageReqs = s.pageReqs := rfl
@[simp] theorem State.send_portDown (s : State) (m : OutMsg) : (s.send m).portDown = s.portDown := rfl
@[simp] theorem State.send_portCfg (s : State) (m : OutMsg) : (s.send m).portCfg = s.portCfg := rfl
@[simp] theorem State.send_portSpd (s : State) (m : OutMsg) : (s.send m).portSpd = s.portSpd := rfl
@[simp] theorem State.send_hdm (s : State) (m : OutMsg) : (s.send m).hdm = s.hdm := rfl
@[simp] theorem State.send_bars (s : State) (m : OutMsg) : (s.send m).bars = s.bars := rfl
@[simp] theorem State.send_bridges (s : State) (m : OutMsg) : (s.send m).bridges = s.bridges := rfl
@[simp] theorem State.send_ports (s : State) (m : OutMsg) : (s.send m).ports = s.ports := rfl
@[simp] theorem State.send_linkNum (s : State) (m : OutMsg) : (s.send m).linkNum = s.linkNum := rfl
@[simp] theorem State.send_seenFlits (s : State) (m : OutMsg) : (s.send m).seenFlits = s.seenFlits := rfl
@[simp] theorem State.send_asks (s : State) (m : OutMsg) : (s.send m).asks = s.asks := rfl
@[simp] theorem State.send_schedcfg (s : State) (m : OutMsg) : (s.send m).schedcfg = s.schedcfg := rfl
@[simp] theorem State.send_chuck (s : State) (m : OutMsg) : (s.send m).chuck = s.chuck := rfl
@[simp] theorem State.send_chuckLatch (s : State) (m : OutMsg) : (s.send m).chuckLatch = s.chuckLatch := rfl
@[simp] theorem State.send_placementStop (s : State) (m : OutMsg) : (s.send m).placementStop = s.placementStop := rfl
@[simp] theorem State.send_nextGrid (s : State) (m : OutMsg) : (s.send m).nextGrid = s.nextGrid := rfl
@[simp] theorem State.send_nextTicket (s : State) (m : OutMsg) : (s.send m).nextTicket = s.nextTicket := rfl
@[simp] theorem State.send_powerCfg (s : State) (m : OutMsg) : (s.send m).powerCfg = s.powerCfg := rfl
@[simp] theorem State.send_freq (s : State) (m : OutMsg) : (s.send m).freq = s.freq := rfl
@[simp] theorem State.send_critical (s : State) (m : OutMsg) : (s.send m).critical = s.critical := rfl
@[simp] theorem State.send_cycle (s : State) (m : OutMsg) : (s.send m).cycle = s.cycle := rfl
@[simp] theorem State.send_time (s : State) (m : OutMsg) : (s.send m).time = s.time := rfl
@[simp] theorem State.send_tableNext (s : State) (m : OutMsg) : (s.send m).tableNext = s.tableNext := rfl
@[simp] theorem State.send_lrWords (s : State) (m : OutMsg) : (s.send m).lrWords = s.lrWords := rfl
@[simp] theorem State.send_pagedOut (s : State) (m : OutMsg) : (s.send m).pagedOut = s.pagedOut := rfl
@[simp] theorem State.send_records (s : State) (m : OutMsg) : (s.send m).records = s.records := rfl
@[simp] theorem State.send_waitClock (s : State) (m : OutMsg) : (s.send m).waitClock = s.waitClock := rfl
@[simp] theorem State.send_mrs (s : State) (m : OutMsg) : (s.send m).mrs = s.mrs := rfl
@[simp] theorem State.send_partition (s : State) (m : OutMsg) : (s.send m).partition = s.partition := rfl
@[simp] theorem State.send_slotB (s : State) (m : OutMsg) : (s.send m).slotB = s.slotB := rfl
@[simp] theorem State.send_images (s : State) (m : OutMsg) : (s.send m).images = s.images := rfl
@[simp] theorem State.send_boots (s : State) (m : OutMsg) : (s.send m).boots = s.boots := rfl
@[simp] theorem State.send_operatorKey (s : State) (m : OutMsg) : (s.send m).operatorKey = s.operatorKey := rfl
@[simp] theorem State.send_ownerPub (s : State) (m : OutMsg) : (s.send m).ownerPub = s.ownerPub := rfl
@[simp] theorem State.send_nextLeaf (s : State) (m : OutMsg) : (s.send m).nextLeaf = s.nextLeaf := rfl
@[simp] theorem State.send_retired (s : State) (m : OutMsg) : (s.send m).retired = s.retired := rfl
@[simp] theorem State.send_sessions (s : State) (m : OutMsg) : (s.send m).sessions = s.sessions := rfl
@[simp] theorem State.send_i3cAddr (s : State) (m : OutMsg) : (s.send m).i3cAddr = s.i3cAddr := rfl
@[simp] theorem State.send_mctpEid (s : State) (m : OutMsg) : (s.send m).mctpEid = s.mctpEid := rfl
@[simp] theorem State.send_booted (s : State) (m : OutMsg) : (s.send m).booted = s.booted := rfl
@[simp] theorem State.send_bootStep (s : State) (m : OutMsg) : (s.send m).bootStep = s.bootStep := rfl
@[simp] theorem State.send_powered (s : State) (m : OutMsg) : (s.send m).powered = s.powered := rfl
@[simp] theorem State.send_agenda (s : State) (m : OutMsg) : (s.send m).agenda = s.agenda := rfl
@[simp] theorem State.send_turn (s : State) (m : OutMsg) : (s.send m).turn = s.turn := rfl
@[simp] theorem State.send_cur (s : State) (m : OutMsg) : (s.send m).cur = s.cur := rfl
@[simp] theorem State.send_fresh (s : State) (m : OutMsg) : (s.send m).fresh = s.fresh := rfl
@[simp] theorem State.send_nextId (s : State) (m : OutMsg) : (s.send m).nextId = s.nextId := rfl

@[simp] theorem State.setEvent_groups (s : State) (e : Nat) (b : EventBar) : (s.setEvent e b).groups = s.groups := rfl
@[simp] theorem State.setEvent_teams (s : State) (e : Nat) (b : EventBar) : (s.setEvent e b).teams = s.teams := rfl
@[simp] theorem State.setEvent_gangs (s : State) (e : Nat) (b : EventBar) : (s.setEvent e b).gangs = s.gangs := rfl
@[simp] theorem State.setEvent_grids (s : State) (e : Nat) (b : EventBar) : (s.setEvent e b).grids = s.grids := rfl
@[simp] theorem State.setEvent_ctxs (s : State) (e : Nat) (b : EventBar) : (s.setEvent e b).ctxs = s.ctxs := rfl
@[simp] theorem State.setEvent_cores (s : State) (e : Nat) (b : EventBar) : (s.setEvent e b).cores = s.cores := rfl
@[simp] theorem State.setEvent_laneWords (s : State) (e : Nat) (b : EventBar) : (s.setEvent e b).laneWords = s.laneWords := rfl
@[simp] theorem State.setEvent_spad (s : State) (e : Nat) (b : EventBar) : (s.setEvent e b).spad = s.spad := rfl
@[simp] theorem State.setEvent_spadBad (s : State) (e : Nat) (b : EventBar) : (s.setEvent e b).spadBad = s.spadBad := rfl
@[simp] theorem State.setEvent_tlbs (s : State) (e : Nat) (b : EventBar) : (s.setEvent e b).tlbs = s.tlbs := rfl
@[simp] theorem State.setEvent_ops (s : State) (e : Nat) (b : EventBar) : (s.setEvent e b).ops = s.ops := rfl
@[simp] theorem State.setEvent_urgentLoads (s : State) (e : Nat) (b : EventBar) : (s.setEvent e b).urgentLoads = s.urgentLoads := rfl
@[simp] theorem State.setEvent_copies (s : State) (e : Nat) (b : EventBar) : (s.setEvent e b).copies = s.copies := rfl
@[simp] theorem State.setEvent_colls (s : State) (e : Nat) (b : EventBar) : (s.setEvent e b).colls = s.colls := rfl
@[simp] theorem State.setEvent_samples (s : State) (e : Nat) (b : EventBar) : (s.setEvent e b).samples = s.samples := rfl
@[simp] theorem State.setEvent_icache (s : State) (e : Nat) (b : EventBar) : (s.setEvent e b).icache = s.icache := rfl
@[simp] theorem State.setEvent_calCfg (s : State) (e : Nat) (b : EventBar) : (s.setEvent e b).calCfg = s.calCfg := rfl
@[simp] theorem State.setEvent_lastDrain (s : State) (e : Nat) (b : EventBar) : (s.setEvent e b).lastDrain = s.lastDrain := rfl
@[simp] theorem State.setEvent_phys (s : State) (e : Nat) (b : EventBar) : (s.setEvent e b).phys = s.phys := rfl
@[simp] theorem State.setEvent_physBad (s : State) (e : Nat) (b : EventBar) : (s.setEvent e b).physBad = s.physBad := rfl
@[simp] theorem State.setEvent_lineKey (s : State) (e : Nat) (b : EventBar) : (s.setEvent e b).lineKey = s.lineKey := rfl
@[simp] theorem State.setEvent_ownerKeys (s : State) (e : Nat) (b : EventBar) : (s.setEvent e b).ownerKeys = s.ownerKeys := rfl
@[simp] theorem State.setEvent_pchs (s : State) (e : Nat) (b : EventBar) : (s.setEvent e b).pchs = s.pchs := rfl
@[simp] theorem State.setEvent_hbmStacks (s : State) (e : Nat) (b : EventBar) : (s.setEvent e b).hbmStacks = s.hbmStacks := rfl
@[simp] theorem State.setEvent_sandSeq (s : State) (e : Nat) (b : EventBar) : (s.setEvent e b).sandSeq = s.sandSeq := rfl
@[simp] theorem State.setEvent_workQueues (s : State) (e : Nat) (b : EventBar) : (s.setEvent e b).workQueues = s.workQueues := rfl
@[simp] theorem State.setEvent_userQueues (s : State) (e : Nat) (b : EventBar) : (s.setEvent e b).userQueues = s.userQueues := rfl
@[simp] theorem State.setEvent_slots (s : State) (e : Nat) (b : EventBar) : (s.setEvent e b).slots = s.slots := rfl
@[simp] theorem State.setEvent_pendingIdx (s : State) (e : Nat) (b : EventBar) : (s.setEvent e b).pendingIdx = s.pendingIdx := rfl
@[simp] theorem State.setEvent_fwScan (s : State) (e : Nat) (b : EventBar) : (s.setEvent e b).fwScan = s.fwScan := rfl
@[simp] theorem State.setEvent_faultQueue (s : State) (e : Nat) (b : EventBar) : (s.setEvent e b).faultQueue = s.faultQueue := rfl
@[simp] theorem State.setEvent_errorLog (s : State) (e : Nat) (b : EventBar) : (s.setEvent e b).errorLog = s.errorLog := rfl
@[simp] theorem State.setEvent_errorOver (s : State) (e : Nat) (b : EventBar) : (s.setEvent e b).errorOver = s.errorOver := rfl
@[simp] theorem State.setEvent_gridOwners (s : State) (e : Nat) (b : EventBar) : (s.setEvent e b).gridOwners = s.gridOwners := rfl
@[simp] theorem State.setEvent_ioLog (s : State) (e : Nat) (b : EventBar) : (s.setEvent e b).ioLog = s.ioLog := rfl
@[simp] theorem State.setEvent_ioDropped (s : State) (e : Nat) (b : EventBar) : (s.setEvent e b).ioDropped = s.ioDropped := rfl
@[simp] theorem State.setEvent_aerLog (s : State) (e : Nat) (b : EventBar) : (s.setEvent e b).aerLog = s.aerLog := rfl
@[simp] theorem State.setEvent_reports (s : State) (e : Nat) (b : EventBar) : (s.setEvent e b).reports = s.reports := rfl
@[simp] theorem State.setEvent_sysreqQueue (s : State) (e : Nat) (b : EventBar) : (s.setEvent e b).sysreqQueue = s.sysreqQueue := rfl
@[simp] theorem State.setEvent_tails (s : State) (e : Nat) (b : EventBar) : (s.setEvent e b).tails = s.tails := rfl
@[simp] theorem State.setEvent_outbox (s : State) (e : Nat) (b : EventBar) : (s.setEvent e b).outbox = s.outbox := rfl
@[simp] theorem State.setEvent_channels (s : State) (e : Nat) (b : EventBar) : (s.setEvent e b).channels = s.channels := rfl
@[simp] theorem State.setEvent_peerReads (s : State) (e : Nat) (b : EventBar) : (s.setEvent e b).peerReads = s.peerReads := rfl
@[simp] theorem State.setEvent_pageReqs (s : State) (e : Nat) (b : EventBar) : (s.setEvent e b).pageReqs = s.pageReqs := rfl
@[simp] theorem State.setEvent_portDown (s : State) (e : Nat) (b : EventBar) : (s.setEvent e b).portDown = s.portDown := rfl
@[simp] theorem State.setEvent_portCfg (s : State) (e : Nat) (b : EventBar) : (s.setEvent e b).portCfg = s.portCfg := rfl
@[simp] theorem State.setEvent_portSpd (s : State) (e : Nat) (b : EventBar) : (s.setEvent e b).portSpd = s.portSpd := rfl
@[simp] theorem State.setEvent_hdm (s : State) (e : Nat) (b : EventBar) : (s.setEvent e b).hdm = s.hdm := rfl
@[simp] theorem State.setEvent_bars (s : State) (e : Nat) (b : EventBar) : (s.setEvent e b).bars = s.bars := rfl
@[simp] theorem State.setEvent_bridges (s : State) (e : Nat) (b : EventBar) : (s.setEvent e b).bridges = s.bridges := rfl
@[simp] theorem State.setEvent_ports (s : State) (e : Nat) (b : EventBar) : (s.setEvent e b).ports = s.ports := rfl
@[simp] theorem State.setEvent_linkNum (s : State) (e : Nat) (b : EventBar) : (s.setEvent e b).linkNum = s.linkNum := rfl
@[simp] theorem State.setEvent_seenFlits (s : State) (e : Nat) (b : EventBar) : (s.setEvent e b).seenFlits = s.seenFlits := rfl
@[simp] theorem State.setEvent_asks (s : State) (e : Nat) (b : EventBar) : (s.setEvent e b).asks = s.asks := rfl
@[simp] theorem State.setEvent_schedcfg (s : State) (e : Nat) (b : EventBar) : (s.setEvent e b).schedcfg = s.schedcfg := rfl
@[simp] theorem State.setEvent_chuck (s : State) (e : Nat) (b : EventBar) : (s.setEvent e b).chuck = s.chuck := rfl
@[simp] theorem State.setEvent_chuckLatch (s : State) (e : Nat) (b : EventBar) : (s.setEvent e b).chuckLatch = s.chuckLatch := rfl
@[simp] theorem State.setEvent_placementStop (s : State) (e : Nat) (b : EventBar) : (s.setEvent e b).placementStop = s.placementStop := rfl
@[simp] theorem State.setEvent_nextGrid (s : State) (e : Nat) (b : EventBar) : (s.setEvent e b).nextGrid = s.nextGrid := rfl
@[simp] theorem State.setEvent_nextTicket (s : State) (e : Nat) (b : EventBar) : (s.setEvent e b).nextTicket = s.nextTicket := rfl
@[simp] theorem State.setEvent_powerCfg (s : State) (e : Nat) (b : EventBar) : (s.setEvent e b).powerCfg = s.powerCfg := rfl
@[simp] theorem State.setEvent_freq (s : State) (e : Nat) (b : EventBar) : (s.setEvent e b).freq = s.freq := rfl
@[simp] theorem State.setEvent_critical (s : State) (e : Nat) (b : EventBar) : (s.setEvent e b).critical = s.critical := rfl
@[simp] theorem State.setEvent_cycle (s : State) (e : Nat) (b : EventBar) : (s.setEvent e b).cycle = s.cycle := rfl
@[simp] theorem State.setEvent_time (s : State) (e : Nat) (b : EventBar) : (s.setEvent e b).time = s.time := rfl
@[simp] theorem State.setEvent_tableNext (s : State) (e : Nat) (b : EventBar) : (s.setEvent e b).tableNext = s.tableNext := rfl
@[simp] theorem State.setEvent_lrWords (s : State) (e : Nat) (b : EventBar) : (s.setEvent e b).lrWords = s.lrWords := rfl
@[simp] theorem State.setEvent_pagedOut (s : State) (e : Nat) (b : EventBar) : (s.setEvent e b).pagedOut = s.pagedOut := rfl
@[simp] theorem State.setEvent_records (s : State) (e : Nat) (b : EventBar) : (s.setEvent e b).records = s.records := rfl
@[simp] theorem State.setEvent_waitClock (s : State) (e : Nat) (b : EventBar) : (s.setEvent e b).waitClock = s.waitClock := rfl
@[simp] theorem State.setEvent_mrs (s : State) (e : Nat) (b : EventBar) : (s.setEvent e b).mrs = s.mrs := rfl
@[simp] theorem State.setEvent_partition (s : State) (e : Nat) (b : EventBar) : (s.setEvent e b).partition = s.partition := rfl
@[simp] theorem State.setEvent_slotB (s : State) (e : Nat) (b : EventBar) : (s.setEvent e b).slotB = s.slotB := rfl
@[simp] theorem State.setEvent_images (s : State) (e : Nat) (b : EventBar) : (s.setEvent e b).images = s.images := rfl
@[simp] theorem State.setEvent_boots (s : State) (e : Nat) (b : EventBar) : (s.setEvent e b).boots = s.boots := rfl
@[simp] theorem State.setEvent_operatorKey (s : State) (e : Nat) (b : EventBar) : (s.setEvent e b).operatorKey = s.operatorKey := rfl
@[simp] theorem State.setEvent_ownerPub (s : State) (e : Nat) (b : EventBar) : (s.setEvent e b).ownerPub = s.ownerPub := rfl
@[simp] theorem State.setEvent_nextLeaf (s : State) (e : Nat) (b : EventBar) : (s.setEvent e b).nextLeaf = s.nextLeaf := rfl
@[simp] theorem State.setEvent_retired (s : State) (e : Nat) (b : EventBar) : (s.setEvent e b).retired = s.retired := rfl
@[simp] theorem State.setEvent_sessions (s : State) (e : Nat) (b : EventBar) : (s.setEvent e b).sessions = s.sessions := rfl
@[simp] theorem State.setEvent_i3cAddr (s : State) (e : Nat) (b : EventBar) : (s.setEvent e b).i3cAddr = s.i3cAddr := rfl
@[simp] theorem State.setEvent_mctpEid (s : State) (e : Nat) (b : EventBar) : (s.setEvent e b).mctpEid = s.mctpEid := rfl
@[simp] theorem State.setEvent_booted (s : State) (e : Nat) (b : EventBar) : (s.setEvent e b).booted = s.booted := rfl
@[simp] theorem State.setEvent_bootStep (s : State) (e : Nat) (b : EventBar) : (s.setEvent e b).bootStep = s.bootStep := rfl
@[simp] theorem State.setEvent_powered (s : State) (e : Nat) (b : EventBar) : (s.setEvent e b).powered = s.powered := rfl
@[simp] theorem State.setEvent_agenda (s : State) (e : Nat) (b : EventBar) : (s.setEvent e b).agenda = s.agenda := rfl
@[simp] theorem State.setEvent_turn (s : State) (e : Nat) (b : EventBar) : (s.setEvent e b).turn = s.turn := rfl
@[simp] theorem State.setEvent_cur (s : State) (e : Nat) (b : EventBar) : (s.setEvent e b).cur = s.cur := rfl
@[simp] theorem State.setEvent_fresh (s : State) (e : Nat) (b : EventBar) : (s.setEvent e b).fresh = s.fresh := rfl
@[simp] theorem State.setEvent_nextId (s : State) (e : Nat) (b : EventBar) : (s.setEvent e b).nextId = s.nextId := rfl

@[simp] theorem State.tick_groups (s : State) (n : Nat) : (s.tick n).groups = s.groups := rfl
@[simp] theorem State.tick_teams (s : State) (n : Nat) : (s.tick n).teams = s.teams := rfl
@[simp] theorem State.tick_gangs (s : State) (n : Nat) : (s.tick n).gangs = s.gangs := rfl
@[simp] theorem State.tick_grids (s : State) (n : Nat) : (s.tick n).grids = s.grids := rfl
@[simp] theorem State.tick_ctxs (s : State) (n : Nat) : (s.tick n).ctxs = s.ctxs := rfl
@[simp] theorem State.tick_cores (s : State) (n : Nat) : (s.tick n).cores = s.cores := rfl
@[simp] theorem State.tick_laneWords (s : State) (n : Nat) : (s.tick n).laneWords = s.laneWords := rfl
@[simp] theorem State.tick_spad (s : State) (n : Nat) : (s.tick n).spad = s.spad := rfl
@[simp] theorem State.tick_spadBad (s : State) (n : Nat) : (s.tick n).spadBad = s.spadBad := rfl
@[simp] theorem State.tick_tlbs (s : State) (n : Nat) : (s.tick n).tlbs = s.tlbs := rfl
@[simp] theorem State.tick_ops (s : State) (n : Nat) : (s.tick n).ops = s.ops := rfl
@[simp] theorem State.tick_copies (s : State) (n : Nat) : (s.tick n).copies = s.copies := rfl
@[simp] theorem State.tick_colls (s : State) (n : Nat) : (s.tick n).colls = s.colls := rfl
@[simp] theorem State.tick_samples (s : State) (n : Nat) : (s.tick n).samples = s.samples := rfl
@[simp] theorem State.tick_icache (s : State) (n : Nat) : (s.tick n).icache = s.icache := rfl
@[simp] theorem State.tick_calCfg (s : State) (n : Nat) : (s.tick n).calCfg = s.calCfg := rfl
@[simp] theorem State.tick_lastDrain (s : State) (n : Nat) : (s.tick n).lastDrain = s.lastDrain := rfl
@[simp] theorem State.tick_phys (s : State) (n : Nat) : (s.tick n).phys = s.phys := rfl
@[simp] theorem State.tick_physBad (s : State) (n : Nat) : (s.tick n).physBad = s.physBad := rfl
@[simp] theorem State.tick_lineKey (s : State) (n : Nat) : (s.tick n).lineKey = s.lineKey := rfl
@[simp] theorem State.tick_ownerKeys (s : State) (n : Nat) : (s.tick n).ownerKeys = s.ownerKeys := rfl
@[simp] theorem State.tick_pchs (s : State) (n : Nat) : (s.tick n).pchs = s.pchs := rfl
@[simp] theorem State.tick_hbmStacks (s : State) (n : Nat) : (s.tick n).hbmStacks = s.hbmStacks := rfl
@[simp] theorem State.tick_sandSeq (s : State) (n : Nat) : (s.tick n).sandSeq = s.sandSeq := rfl
@[simp] theorem State.tick_events (s : State) (n : Nat) : (s.tick n).events = s.events := rfl
@[simp] theorem State.tick_workQueues (s : State) (n : Nat) : (s.tick n).workQueues = s.workQueues := rfl
@[simp] theorem State.tick_userQueues (s : State) (n : Nat) : (s.tick n).userQueues = s.userQueues := rfl
@[simp] theorem State.tick_slots (s : State) (n : Nat) : (s.tick n).slots = s.slots := rfl
@[simp] theorem State.tick_pendingIdx (s : State) (n : Nat) : (s.tick n).pendingIdx = s.pendingIdx := rfl
@[simp] theorem State.tick_fwScan (s : State) (n : Nat) : (s.tick n).fwScan = s.fwScan := rfl
@[simp] theorem State.tick_faultQueue (s : State) (n : Nat) : (s.tick n).faultQueue = s.faultQueue := rfl
@[simp] theorem State.tick_errorLog (s : State) (n : Nat) : (s.tick n).errorLog = s.errorLog := rfl
@[simp] theorem State.tick_errorOver (s : State) (n : Nat) : (s.tick n).errorOver = s.errorOver := rfl
@[simp] theorem State.tick_gridOwners (s : State) (n : Nat) : (s.tick n).gridOwners = s.gridOwners := rfl
@[simp] theorem State.tick_ioLog (s : State) (n : Nat) : (s.tick n).ioLog = s.ioLog := rfl
@[simp] theorem State.tick_ioDropped (s : State) (n : Nat) : (s.tick n).ioDropped = s.ioDropped := rfl
@[simp] theorem State.tick_aerLog (s : State) (n : Nat) : (s.tick n).aerLog = s.aerLog := rfl
@[simp] theorem State.tick_reports (s : State) (n : Nat) : (s.tick n).reports = s.reports := rfl
@[simp] theorem State.tick_sysreqQueue (s : State) (n : Nat) : (s.tick n).sysreqQueue = s.sysreqQueue := rfl
@[simp] theorem State.tick_tails (s : State) (n : Nat) : (s.tick n).tails = s.tails := rfl
@[simp] theorem State.tick_outbox (s : State) (n : Nat) : (s.tick n).outbox = s.outbox := rfl
@[simp] theorem State.tick_channels (s : State) (n : Nat) : (s.tick n).channels = s.channels := rfl
@[simp] theorem State.tick_peerReads (s : State) (n : Nat) : (s.tick n).peerReads = s.peerReads := rfl
@[simp] theorem State.tick_pageReqs (s : State) (n : Nat) : (s.tick n).pageReqs = s.pageReqs := rfl
@[simp] theorem State.tick_portDown (s : State) (n : Nat) : (s.tick n).portDown = s.portDown := rfl
@[simp] theorem State.tick_portCfg (s : State) (n : Nat) : (s.tick n).portCfg = s.portCfg := rfl
@[simp] theorem State.tick_portSpd (s : State) (n : Nat) : (s.tick n).portSpd = s.portSpd := rfl
@[simp] theorem State.tick_hdm (s : State) (n : Nat) : (s.tick n).hdm = s.hdm := rfl
@[simp] theorem State.tick_bars (s : State) (n : Nat) : (s.tick n).bars = s.bars := rfl
@[simp] theorem State.tick_bridges (s : State) (n : Nat) : (s.tick n).bridges = s.bridges := rfl
@[simp] theorem State.tick_ports (s : State) (n : Nat) : (s.tick n).ports = s.ports := rfl
@[simp] theorem State.tick_linkNum (s : State) (n : Nat) : (s.tick n).linkNum = s.linkNum := rfl
@[simp] theorem State.tick_seenFlits (s : State) (n : Nat) : (s.tick n).seenFlits = s.seenFlits := rfl
@[simp] theorem State.tick_asks (s : State) (n : Nat) : (s.tick n).asks = s.asks := rfl
@[simp] theorem State.tick_schedcfg (s : State) (n : Nat) : (s.tick n).schedcfg = s.schedcfg := rfl
@[simp] theorem State.tick_chuck (s : State) (n : Nat) : (s.tick n).chuck = s.chuck := rfl
@[simp] theorem State.tick_chuckLatch (s : State) (n : Nat) : (s.tick n).chuckLatch = s.chuckLatch := rfl
@[simp] theorem State.tick_placementStop (s : State) (n : Nat) : (s.tick n).placementStop = s.placementStop := rfl
@[simp] theorem State.tick_nextGrid (s : State) (n : Nat) : (s.tick n).nextGrid = s.nextGrid := rfl
@[simp] theorem State.tick_nextTicket (s : State) (n : Nat) : (s.tick n).nextTicket = s.nextTicket := rfl
@[simp] theorem State.tick_powerCfg (s : State) (n : Nat) : (s.tick n).powerCfg = s.powerCfg := rfl
@[simp] theorem State.tick_freq (s : State) (n : Nat) : (s.tick n).freq = s.freq := rfl
@[simp] theorem State.tick_critical (s : State) (n : Nat) : (s.tick n).critical = s.critical := rfl
@[simp] theorem State.tick_tableNext (s : State) (n : Nat) : (s.tick n).tableNext = s.tableNext := rfl
@[simp] theorem State.tick_lrWords (s : State) (n : Nat) : (s.tick n).lrWords = s.lrWords := rfl
@[simp] theorem State.tick_pagedOut (s : State) (n : Nat) : (s.tick n).pagedOut = s.pagedOut := rfl
@[simp] theorem State.tick_records (s : State) (n : Nat) : (s.tick n).records = s.records := rfl
@[simp] theorem State.tick_mrs (s : State) (n : Nat) : (s.tick n).mrs = s.mrs := rfl
@[simp] theorem State.tick_partition (s : State) (n : Nat) : (s.tick n).partition = s.partition := rfl
@[simp] theorem State.tick_slotB (s : State) (n : Nat) : (s.tick n).slotB = s.slotB := rfl
@[simp] theorem State.tick_images (s : State) (n : Nat) : (s.tick n).images = s.images := rfl
@[simp] theorem State.tick_boots (s : State) (n : Nat) : (s.tick n).boots = s.boots := rfl
@[simp] theorem State.tick_operatorKey (s : State) (n : Nat) : (s.tick n).operatorKey = s.operatorKey := rfl
@[simp] theorem State.tick_ownerPub (s : State) (n : Nat) : (s.tick n).ownerPub = s.ownerPub := rfl
@[simp] theorem State.tick_nextLeaf (s : State) (n : Nat) : (s.tick n).nextLeaf = s.nextLeaf := rfl
@[simp] theorem State.tick_retired (s : State) (n : Nat) : (s.tick n).retired = s.retired := rfl
@[simp] theorem State.tick_sessions (s : State) (n : Nat) : (s.tick n).sessions = s.sessions := rfl
@[simp] theorem State.tick_i3cAddr (s : State) (n : Nat) : (s.tick n).i3cAddr = s.i3cAddr := rfl
@[simp] theorem State.tick_mctpEid (s : State) (n : Nat) : (s.tick n).mctpEid = s.mctpEid := rfl
@[simp] theorem State.tick_booted (s : State) (n : Nat) : (s.tick n).booted = s.booted := rfl
@[simp] theorem State.tick_bootStep (s : State) (n : Nat) : (s.tick n).bootStep = s.bootStep := rfl
@[simp] theorem State.tick_powered (s : State) (n : Nat) : (s.tick n).powered = s.powered := rfl
@[simp] theorem State.tick_agenda (s : State) (n : Nat) : (s.tick n).agenda = s.agenda := rfl
@[simp] theorem State.tick_turn (s : State) (n : Nat) : (s.tick n).turn = s.turn := rfl
@[simp] theorem State.tick_cur (s : State) (n : Nat) : (s.tick n).cur = s.cur := rfl
@[simp] theorem State.tick_nextId (s : State) (n : Nat) : (s.tick n).nextId = s.nextId := rfl

@[simp] theorem Group.ws_pc (g : Group) (n : Nat) (x : Word) : (g.ws n x).pc = g.pc := rfl
@[simp] theorem Group.ws_v (g : Group) (n : Nat) (x : Word) : (g.ws n x).v = g.v := rfl
@[simp] theorem Group.ws_a (g : Group) (n : Nat) (x : Word) : (g.ws n x).a = g.a := rfl
@[simp] theorem Group.ws_vflags (g : Group) (n : Nat) (x : Word) : (g.ws n x).vflags = g.vflags := rfl
@[simp] theorem Group.ws_dead (g : Group) (n : Nat) (x : Word) : (g.ws n x).dead = g.dead := rfl
@[simp] theorem Group.ws_vregs (g : Group) (n : Nat) (x : Word) : (g.ws n x).vregs = g.vregs := rfl
@[simp] theorem Group.ws_sregs (g : Group) (n : Nat) (x : Word) : (g.ws n x).sregs = g.sregs := rfl
@[simp] theorem Group.ws_role (g : Group) (n : Nat) (x : Word) : (g.ws n x).role = g.role := rfl
@[simp] theorem Group.ws_core (g : Group) (n : Nat) (x : Word) : (g.ws n x).core = g.core := rfl
@[simp] theorem Group.ws_dp (g : Group) (n : Nat) (x : Word) : (g.ws n x).dp = g.dp := rfl
@[simp] theorem Group.ws_waitcyc (g : Group) (n : Nat) (x : Word) : (g.ws n x).waitcyc = g.waitcyc := rfl
@[simp] theorem Group.ws_waitFrom (g : Group) (n : Nat) (x : Word) : (g.ws n x).waitFrom = g.waitFrom := rfl
@[simp] theorem Group.ws_waitTest (g : Group) (n : Nat) (x : Word) : (g.ws n x).waitTest = g.waitTest := rfl
@[simp] theorem Group.ws_waitNext (g : Group) (n : Nat) (x : Word) : (g.ws n x).waitNext = g.waitNext := rfl
@[simp] theorem Group.ws_waitMet (g : Group) (n : Nat) (x : Word) : (g.ws n x).waitMet = g.waitMet := rfl
@[simp] theorem Group.ws_tpc (g : Group) (n : Nat) (x : Word) : (g.ws n x).tpc = g.tpc := rfl
@[simp] theorem Group.ws_tcause (g : Group) (n : Nat) (x : Word) : (g.ws n x).tcause = g.tcause := rfl
@[simp] theorem Group.ws_bpslot (g : Group) (n : Nat) (x : Word) : (g.ws n x).bpslot = g.bpslot := rfl
@[simp] theorem Group.ws_bpa (g : Group) (n : Nat) (x : Word) : (g.ws n x).bpa = g.bpa := rfl
@[simp] theorem Group.ws_bpd (g : Group) (n : Nat) (x : Word) : (g.ws n x).bpd = g.bpd := rfl
@[simp] theorem Group.ws_cont (g : Group) (n : Nat) (x : Word) : (g.ws n x).cont = g.cont := rfl
@[simp] theorem Group.ws_place (g : Group) (n : Nat) (x : Word) : (g.ws n x).place = g.place := rfl
@[simp] theorem Group.ws_hold (g : Group) (n : Nat) (x : Word) : (g.ws n x).hold = g.hold := rfl
@[simp] theorem Group.ws_rcd (g : Group) (n : Nat) (x : Word) : (g.ws n x).rcd = g.rcd := rfl
@[simp] theorem Group.ws_pairPending (g : Group) (n : Nat) (x : Word) : (g.ws n x).pairPending = g.pairPending := rfl
@[simp] theorem Group.ws_pairRegion (g : Group) (n : Nat) (x : Word) : (g.ws n x).pairRegion = g.pairRegion := rfl
@[simp] theorem Group.ws_yielding (g : Group) (n : Nat) (x : Word) : (g.ws n x).yielding = g.yielding := rfl
@[simp] theorem Group.ws_released (g : Group) (n : Nat) (x : Word) : (g.ws n x).released = g.released := rfl
@[simp] theorem Group.ws_waitOps (g : Group) (n : Nat) (x : Word) : (g.ws n x).waitOps = g.waitOps := rfl
@[simp] theorem Group.ws_rel (g : Group) (n : Nat) (x : Word) : (g.ws n x).rel = g.rel := rfl
@[simp] theorem Group.ws_fenceRel (g : Group) (n : Nat) (x : Word) : (g.ws n x).fenceRel = g.fenceRel := rfl
@[simp] theorem Group.ws_singleStep (g : Group) (n : Nat) (x : Word) : (g.ws n x).singleStep = g.singleStep := rfl
@[simp] theorem Group.ws_half1 (g : Group) (n : Nat) (x : Word) : (g.ws n x).half1 = g.half1 := rfl
@[simp] theorem Group.ws_bpSkip (g : Group) (n : Nat) (x : Word) : (g.ws n x).bpSkip = g.bpSkip := rfl
@[simp] theorem Group.ws_haltPending (g : Group) (n : Nat) (x : Word) : (g.ws n x).haltPending = g.haltPending := rfl
@[simp] theorem Group.ws_asyncFault (g : Group) (n : Nat) (x : Word) : (g.ws n x).asyncFault = g.asyncFault := rfl
@[simp] theorem Group.ws_scalarErr (g : Group) (n : Nat) (x : Word) : (g.ws n x).scalarErr = g.scalarErr := rfl
@[simp] theorem Group.ws_stopCause (g : Group) (n : Nat) (x : Word) : (g.ws n x).stopCause = g.stopCause := rfl
@[simp] theorem Group.ws_fwStop (g : Group) (n : Nat) (x : Word) : (g.ws n x).fwStop = g.fwStop := rfl
@[simp] theorem Group.ws_vBad (g : Group) (n : Nat) (x : Word) : (g.ws n x).vBad = g.vBad := rfl
@[simp] theorem Group.ws_aBad (g : Group) (n : Nat) (x : Word) : (g.ws n x).aBad = g.aBad := rfl
@[simp] theorem Group.ws_lastIssue (g : Group) (n : Nat) (x : Word) : (g.ws n x).lastIssue = g.lastIssue := rfl
@[simp] theorem Group.ws_urgent (g : Group) (n : Nat) (x : Word) : (g.ws n x).urgent = g.urgent := rfl
@[simp] theorem Group.ws_resumeOrder (g : Group) (n : Nat) (x : Word) : (g.ws n x).resumeOrder = g.resumeOrder := rfl
@[simp] theorem Group.ws_leftAt (g : Group) (n : Nat) (x : Word) : (g.ws n x).leftAt = g.leftAt := rfl
@[simp] theorem Group.ws_recRead (g : Group) (n : Nat) (x : Word) : (g.ws n x).recRead = g.recRead := rfl

@[simp] theorem Group.wp_pc (g : Group) (n : Nat) (x : DWord) : (g.wp n x).pc = g.pc := rfl
@[simp] theorem Group.wp_v (g : Group) (n : Nat) (x : DWord) : (g.wp n x).v = g.v := rfl
@[simp] theorem Group.wp_a (g : Group) (n : Nat) (x : DWord) : (g.wp n x).a = g.a := rfl
@[simp] theorem Group.wp_vflags (g : Group) (n : Nat) (x : DWord) : (g.wp n x).vflags = g.vflags := rfl
@[simp] theorem Group.wp_dead (g : Group) (n : Nat) (x : DWord) : (g.wp n x).dead = g.dead := rfl
@[simp] theorem Group.wp_vregs (g : Group) (n : Nat) (x : DWord) : (g.wp n x).vregs = g.vregs := rfl
@[simp] theorem Group.wp_sregs (g : Group) (n : Nat) (x : DWord) : (g.wp n x).sregs = g.sregs := rfl
@[simp] theorem Group.wp_role (g : Group) (n : Nat) (x : DWord) : (g.wp n x).role = g.role := rfl
@[simp] theorem Group.wp_core (g : Group) (n : Nat) (x : DWord) : (g.wp n x).core = g.core := rfl
@[simp] theorem Group.wp_dp (g : Group) (n : Nat) (x : DWord) : (g.wp n x).dp = g.dp := rfl
@[simp] theorem Group.wp_waitcyc (g : Group) (n : Nat) (x : DWord) : (g.wp n x).waitcyc = g.waitcyc := rfl
@[simp] theorem Group.wp_waitFrom (g : Group) (n : Nat) (x : DWord) : (g.wp n x).waitFrom = g.waitFrom := rfl
@[simp] theorem Group.wp_waitTest (g : Group) (n : Nat) (x : DWord) : (g.wp n x).waitTest = g.waitTest := rfl
@[simp] theorem Group.wp_waitNext (g : Group) (n : Nat) (x : DWord) : (g.wp n x).waitNext = g.waitNext := rfl
@[simp] theorem Group.wp_waitMet (g : Group) (n : Nat) (x : DWord) : (g.wp n x).waitMet = g.waitMet := rfl
@[simp] theorem Group.wp_tpc (g : Group) (n : Nat) (x : DWord) : (g.wp n x).tpc = g.tpc := rfl
@[simp] theorem Group.wp_tcause (g : Group) (n : Nat) (x : DWord) : (g.wp n x).tcause = g.tcause := rfl
@[simp] theorem Group.wp_bpslot (g : Group) (n : Nat) (x : DWord) : (g.wp n x).bpslot = g.bpslot := rfl
@[simp] theorem Group.wp_bpa (g : Group) (n : Nat) (x : DWord) : (g.wp n x).bpa = g.bpa := rfl
@[simp] theorem Group.wp_bpd (g : Group) (n : Nat) (x : DWord) : (g.wp n x).bpd = g.bpd := rfl
@[simp] theorem Group.wp_cont (g : Group) (n : Nat) (x : DWord) : (g.wp n x).cont = g.cont := rfl
@[simp] theorem Group.wp_place (g : Group) (n : Nat) (x : DWord) : (g.wp n x).place = g.place := rfl
@[simp] theorem Group.wp_hold (g : Group) (n : Nat) (x : DWord) : (g.wp n x).hold = g.hold := rfl
@[simp] theorem Group.wp_rcd (g : Group) (n : Nat) (x : DWord) : (g.wp n x).rcd = g.rcd := rfl
@[simp] theorem Group.wp_pairPending (g : Group) (n : Nat) (x : DWord) : (g.wp n x).pairPending = g.pairPending := rfl
@[simp] theorem Group.wp_pairRegion (g : Group) (n : Nat) (x : DWord) : (g.wp n x).pairRegion = g.pairRegion := rfl
@[simp] theorem Group.wp_yielding (g : Group) (n : Nat) (x : DWord) : (g.wp n x).yielding = g.yielding := rfl
@[simp] theorem Group.wp_released (g : Group) (n : Nat) (x : DWord) : (g.wp n x).released = g.released := rfl
@[simp] theorem Group.wp_waitOps (g : Group) (n : Nat) (x : DWord) : (g.wp n x).waitOps = g.waitOps := rfl
@[simp] theorem Group.wp_rel (g : Group) (n : Nat) (x : DWord) : (g.wp n x).rel = g.rel := rfl
@[simp] theorem Group.wp_fenceRel (g : Group) (n : Nat) (x : DWord) : (g.wp n x).fenceRel = g.fenceRel := rfl
@[simp] theorem Group.wp_singleStep (g : Group) (n : Nat) (x : DWord) : (g.wp n x).singleStep = g.singleStep := rfl
@[simp] theorem Group.wp_half1 (g : Group) (n : Nat) (x : DWord) : (g.wp n x).half1 = g.half1 := rfl
@[simp] theorem Group.wp_bpSkip (g : Group) (n : Nat) (x : DWord) : (g.wp n x).bpSkip = g.bpSkip := rfl
@[simp] theorem Group.wp_haltPending (g : Group) (n : Nat) (x : DWord) : (g.wp n x).haltPending = g.haltPending := rfl
@[simp] theorem Group.wp_asyncFault (g : Group) (n : Nat) (x : DWord) : (g.wp n x).asyncFault = g.asyncFault := rfl
@[simp] theorem Group.wp_scalarErr (g : Group) (n : Nat) (x : DWord) : (g.wp n x).scalarErr = g.scalarErr := rfl
@[simp] theorem Group.wp_stopCause (g : Group) (n : Nat) (x : DWord) : (g.wp n x).stopCause = g.stopCause := rfl
@[simp] theorem Group.wp_fwStop (g : Group) (n : Nat) (x : DWord) : (g.wp n x).fwStop = g.fwStop := rfl
@[simp] theorem Group.wp_vBad (g : Group) (n : Nat) (x : DWord) : (g.wp n x).vBad = g.vBad := rfl
@[simp] theorem Group.wp_aBad (g : Group) (n : Nat) (x : DWord) : (g.wp n x).aBad = g.aBad := rfl
@[simp] theorem Group.wp_lastIssue (g : Group) (n : Nat) (x : DWord) : (g.wp n x).lastIssue = g.lastIssue := rfl
@[simp] theorem Group.wp_urgent (g : Group) (n : Nat) (x : DWord) : (g.wp n x).urgent = g.urgent := rfl
@[simp] theorem Group.wp_resumeOrder (g : Group) (n : Nat) (x : DWord) : (g.wp n x).resumeOrder = g.resumeOrder := rfl
@[simp] theorem Group.wp_leftAt (g : Group) (n : Nat) (x : DWord) : (g.wp n x).leftAt = g.leftAt := rfl
@[simp] theorem Group.wp_recRead (g : Group) (n : Nat) (x : DWord) : (g.wp n x).recRead = g.recRead := rfl

@[simp] theorem Group.wt_pc (g : Group) (n : Nat) (x : BitVec 96) : (g.wt n x).pc = g.pc := rfl
@[simp] theorem Group.wt_v (g : Group) (n : Nat) (x : BitVec 96) : (g.wt n x).v = g.v := rfl
@[simp] theorem Group.wt_a (g : Group) (n : Nat) (x : BitVec 96) : (g.wt n x).a = g.a := rfl
@[simp] theorem Group.wt_vflags (g : Group) (n : Nat) (x : BitVec 96) : (g.wt n x).vflags = g.vflags := rfl
@[simp] theorem Group.wt_dead (g : Group) (n : Nat) (x : BitVec 96) : (g.wt n x).dead = g.dead := rfl
@[simp] theorem Group.wt_vregs (g : Group) (n : Nat) (x : BitVec 96) : (g.wt n x).vregs = g.vregs := rfl
@[simp] theorem Group.wt_sregs (g : Group) (n : Nat) (x : BitVec 96) : (g.wt n x).sregs = g.sregs := rfl
@[simp] theorem Group.wt_role (g : Group) (n : Nat) (x : BitVec 96) : (g.wt n x).role = g.role := rfl
@[simp] theorem Group.wt_core (g : Group) (n : Nat) (x : BitVec 96) : (g.wt n x).core = g.core := rfl
@[simp] theorem Group.wt_dp (g : Group) (n : Nat) (x : BitVec 96) : (g.wt n x).dp = g.dp := rfl
@[simp] theorem Group.wt_waitcyc (g : Group) (n : Nat) (x : BitVec 96) : (g.wt n x).waitcyc = g.waitcyc := rfl
@[simp] theorem Group.wt_waitFrom (g : Group) (n : Nat) (x : BitVec 96) : (g.wt n x).waitFrom = g.waitFrom := rfl
@[simp] theorem Group.wt_waitTest (g : Group) (n : Nat) (x : BitVec 96) : (g.wt n x).waitTest = g.waitTest := rfl
@[simp] theorem Group.wt_waitNext (g : Group) (n : Nat) (x : BitVec 96) : (g.wt n x).waitNext = g.waitNext := rfl
@[simp] theorem Group.wt_waitMet (g : Group) (n : Nat) (x : BitVec 96) : (g.wt n x).waitMet = g.waitMet := rfl
@[simp] theorem Group.wt_tpc (g : Group) (n : Nat) (x : BitVec 96) : (g.wt n x).tpc = g.tpc := rfl
@[simp] theorem Group.wt_tcause (g : Group) (n : Nat) (x : BitVec 96) : (g.wt n x).tcause = g.tcause := rfl
@[simp] theorem Group.wt_bpslot (g : Group) (n : Nat) (x : BitVec 96) : (g.wt n x).bpslot = g.bpslot := rfl
@[simp] theorem Group.wt_bpa (g : Group) (n : Nat) (x : BitVec 96) : (g.wt n x).bpa = g.bpa := rfl
@[simp] theorem Group.wt_bpd (g : Group) (n : Nat) (x : BitVec 96) : (g.wt n x).bpd = g.bpd := rfl
@[simp] theorem Group.wt_cont (g : Group) (n : Nat) (x : BitVec 96) : (g.wt n x).cont = g.cont := rfl
@[simp] theorem Group.wt_place (g : Group) (n : Nat) (x : BitVec 96) : (g.wt n x).place = g.place := rfl
@[simp] theorem Group.wt_hold (g : Group) (n : Nat) (x : BitVec 96) : (g.wt n x).hold = g.hold := rfl
@[simp] theorem Group.wt_rcd (g : Group) (n : Nat) (x : BitVec 96) : (g.wt n x).rcd = g.rcd := rfl
@[simp] theorem Group.wt_pairPending (g : Group) (n : Nat) (x : BitVec 96) : (g.wt n x).pairPending = g.pairPending := rfl
@[simp] theorem Group.wt_pairRegion (g : Group) (n : Nat) (x : BitVec 96) : (g.wt n x).pairRegion = g.pairRegion := rfl
@[simp] theorem Group.wt_yielding (g : Group) (n : Nat) (x : BitVec 96) : (g.wt n x).yielding = g.yielding := rfl
@[simp] theorem Group.wt_released (g : Group) (n : Nat) (x : BitVec 96) : (g.wt n x).released = g.released := rfl
@[simp] theorem Group.wt_waitOps (g : Group) (n : Nat) (x : BitVec 96) : (g.wt n x).waitOps = g.waitOps := rfl
@[simp] theorem Group.wt_rel (g : Group) (n : Nat) (x : BitVec 96) : (g.wt n x).rel = g.rel := rfl
@[simp] theorem Group.wt_fenceRel (g : Group) (n : Nat) (x : BitVec 96) : (g.wt n x).fenceRel = g.fenceRel := rfl
@[simp] theorem Group.wt_singleStep (g : Group) (n : Nat) (x : BitVec 96) : (g.wt n x).singleStep = g.singleStep := rfl
@[simp] theorem Group.wt_half1 (g : Group) (n : Nat) (x : BitVec 96) : (g.wt n x).half1 = g.half1 := rfl
@[simp] theorem Group.wt_bpSkip (g : Group) (n : Nat) (x : BitVec 96) : (g.wt n x).bpSkip = g.bpSkip := rfl
@[simp] theorem Group.wt_haltPending (g : Group) (n : Nat) (x : BitVec 96) : (g.wt n x).haltPending = g.haltPending := rfl
@[simp] theorem Group.wt_asyncFault (g : Group) (n : Nat) (x : BitVec 96) : (g.wt n x).asyncFault = g.asyncFault := rfl
@[simp] theorem Group.wt_scalarErr (g : Group) (n : Nat) (x : BitVec 96) : (g.wt n x).scalarErr = g.scalarErr := rfl
@[simp] theorem Group.wt_stopCause (g : Group) (n : Nat) (x : BitVec 96) : (g.wt n x).stopCause = g.stopCause := rfl
@[simp] theorem Group.wt_fwStop (g : Group) (n : Nat) (x : BitVec 96) : (g.wt n x).fwStop = g.fwStop := rfl
@[simp] theorem Group.wt_vBad (g : Group) (n : Nat) (x : BitVec 96) : (g.wt n x).vBad = g.vBad := rfl
@[simp] theorem Group.wt_aBad (g : Group) (n : Nat) (x : BitVec 96) : (g.wt n x).aBad = g.aBad := rfl
@[simp] theorem Group.wt_lastIssue (g : Group) (n : Nat) (x : BitVec 96) : (g.wt n x).lastIssue = g.lastIssue := rfl
@[simp] theorem Group.wt_urgent (g : Group) (n : Nat) (x : BitVec 96) : (g.wt n x).urgent = g.urgent := rfl
@[simp] theorem Group.wt_resumeOrder (g : Group) (n : Nat) (x : BitVec 96) : (g.wt n x).resumeOrder = g.resumeOrder := rfl
@[simp] theorem Group.wt_leftAt (g : Group) (n : Nat) (x : BitVec 96) : (g.wt n x).leftAt = g.leftAt := rfl
@[simp] theorem Group.wt_recRead (g : Group) (n : Nat) (x : BitVec 96) : (g.wt n x).recRead = g.recRead := rfl

@[simp] theorem Group.wv_pc (g : Group) (r l : Nat) (x : Word) : (g.wv r l x).pc = g.pc := rfl
@[simp] theorem Group.wv_s (g : Group) (r l : Nat) (x : Word) : (g.wv r l x).s = g.s := rfl
@[simp] theorem Group.wv_a (g : Group) (r l : Nat) (x : Word) : (g.wv r l x).a = g.a := rfl
@[simp] theorem Group.wv_vflags (g : Group) (r l : Nat) (x : Word) : (g.wv r l x).vflags = g.vflags := rfl
@[simp] theorem Group.wv_dead (g : Group) (r l : Nat) (x : Word) : (g.wv r l x).dead = g.dead := rfl
@[simp] theorem Group.wv_vregs (g : Group) (r l : Nat) (x : Word) : (g.wv r l x).vregs = g.vregs := rfl
@[simp] theorem Group.wv_sregs (g : Group) (r l : Nat) (x : Word) : (g.wv r l x).sregs = g.sregs := rfl
@[simp] theorem Group.wv_role (g : Group) (r l : Nat) (x : Word) : (g.wv r l x).role = g.role := rfl
@[simp] theorem Group.wv_core (g : Group) (r l : Nat) (x : Word) : (g.wv r l x).core = g.core := rfl
@[simp] theorem Group.wv_dp (g : Group) (r l : Nat) (x : Word) : (g.wv r l x).dp = g.dp := rfl
@[simp] theorem Group.wv_waitcyc (g : Group) (r l : Nat) (x : Word) : (g.wv r l x).waitcyc = g.waitcyc := rfl
@[simp] theorem Group.wv_waitFrom (g : Group) (r l : Nat) (x : Word) : (g.wv r l x).waitFrom = g.waitFrom := rfl
@[simp] theorem Group.wv_waitTest (g : Group) (r l : Nat) (x : Word) : (g.wv r l x).waitTest = g.waitTest := rfl
@[simp] theorem Group.wv_waitNext (g : Group) (r l : Nat) (x : Word) : (g.wv r l x).waitNext = g.waitNext := rfl
@[simp] theorem Group.wv_waitMet (g : Group) (r l : Nat) (x : Word) : (g.wv r l x).waitMet = g.waitMet := rfl
@[simp] theorem Group.wv_tpc (g : Group) (r l : Nat) (x : Word) : (g.wv r l x).tpc = g.tpc := rfl
@[simp] theorem Group.wv_tcause (g : Group) (r l : Nat) (x : Word) : (g.wv r l x).tcause = g.tcause := rfl
@[simp] theorem Group.wv_bpslot (g : Group) (r l : Nat) (x : Word) : (g.wv r l x).bpslot = g.bpslot := rfl
@[simp] theorem Group.wv_bpa (g : Group) (r l : Nat) (x : Word) : (g.wv r l x).bpa = g.bpa := rfl
@[simp] theorem Group.wv_bpd (g : Group) (r l : Nat) (x : Word) : (g.wv r l x).bpd = g.bpd := rfl
@[simp] theorem Group.wv_cont (g : Group) (r l : Nat) (x : Word) : (g.wv r l x).cont = g.cont := rfl
@[simp] theorem Group.wv_place (g : Group) (r l : Nat) (x : Word) : (g.wv r l x).place = g.place := rfl
@[simp] theorem Group.wv_hold (g : Group) (r l : Nat) (x : Word) : (g.wv r l x).hold = g.hold := rfl
@[simp] theorem Group.wv_rcd (g : Group) (r l : Nat) (x : Word) : (g.wv r l x).rcd = g.rcd := rfl
@[simp] theorem Group.wv_pairPending (g : Group) (r l : Nat) (x : Word) : (g.wv r l x).pairPending = g.pairPending := rfl
@[simp] theorem Group.wv_pairRegion (g : Group) (r l : Nat) (x : Word) : (g.wv r l x).pairRegion = g.pairRegion := rfl
@[simp] theorem Group.wv_yielding (g : Group) (r l : Nat) (x : Word) : (g.wv r l x).yielding = g.yielding := rfl
@[simp] theorem Group.wv_released (g : Group) (r l : Nat) (x : Word) : (g.wv r l x).released = g.released := rfl
@[simp] theorem Group.wv_waitOps (g : Group) (r l : Nat) (x : Word) : (g.wv r l x).waitOps = g.waitOps := rfl
@[simp] theorem Group.wv_rel (g : Group) (r l : Nat) (x : Word) : (g.wv r l x).rel = g.rel := rfl
@[simp] theorem Group.wv_fenceRel (g : Group) (r l : Nat) (x : Word) : (g.wv r l x).fenceRel = g.fenceRel := rfl
@[simp] theorem Group.wv_singleStep (g : Group) (r l : Nat) (x : Word) : (g.wv r l x).singleStep = g.singleStep := rfl
@[simp] theorem Group.wv_half1 (g : Group) (r l : Nat) (x : Word) : (g.wv r l x).half1 = g.half1 := rfl
@[simp] theorem Group.wv_bpSkip (g : Group) (r l : Nat) (x : Word) : (g.wv r l x).bpSkip = g.bpSkip := rfl
@[simp] theorem Group.wv_haltPending (g : Group) (r l : Nat) (x : Word) : (g.wv r l x).haltPending = g.haltPending := rfl
@[simp] theorem Group.wv_asyncFault (g : Group) (r l : Nat) (x : Word) : (g.wv r l x).asyncFault = g.asyncFault := rfl
@[simp] theorem Group.wv_scalarErr (g : Group) (r l : Nat) (x : Word) : (g.wv r l x).scalarErr = g.scalarErr := rfl
@[simp] theorem Group.wv_stopCause (g : Group) (r l : Nat) (x : Word) : (g.wv r l x).stopCause = g.stopCause := rfl
@[simp] theorem Group.wv_fwStop (g : Group) (r l : Nat) (x : Word) : (g.wv r l x).fwStop = g.fwStop := rfl
@[simp] theorem Group.wv_sBad (g : Group) (r l : Nat) (x : Word) : (g.wv r l x).sBad = g.sBad := rfl
@[simp] theorem Group.wv_aBad (g : Group) (r l : Nat) (x : Word) : (g.wv r l x).aBad = g.aBad := rfl
@[simp] theorem Group.wv_lastIssue (g : Group) (r l : Nat) (x : Word) : (g.wv r l x).lastIssue = g.lastIssue := rfl
@[simp] theorem Group.wv_urgent (g : Group) (r l : Nat) (x : Word) : (g.wv r l x).urgent = g.urgent := rfl
@[simp] theorem Group.wv_resumeOrder (g : Group) (r l : Nat) (x : Word) : (g.wv r l x).resumeOrder = g.resumeOrder := rfl
@[simp] theorem Group.wv_leftAt (g : Group) (r l : Nat) (x : Word) : (g.wv r l x).leftAt = g.leftAt := rfl
@[simp] theorem Group.wv_recRead (g : Group) (r l : Nat) (x : Word) : (g.wv r l x).recRead = g.recRead := rfl

@[simp] theorem Group.wa_pc (g : Group) (n x : Nat) : (g.wa n x).pc = g.pc := rfl
@[simp] theorem Group.wa_s (g : Group) (n x : Nat) : (g.wa n x).s = g.s := rfl
@[simp] theorem Group.wa_v (g : Group) (n x : Nat) : (g.wa n x).v = g.v := rfl
@[simp] theorem Group.wa_vflags (g : Group) (n x : Nat) : (g.wa n x).vflags = g.vflags := rfl
@[simp] theorem Group.wa_dead (g : Group) (n x : Nat) : (g.wa n x).dead = g.dead := rfl
@[simp] theorem Group.wa_vregs (g : Group) (n x : Nat) : (g.wa n x).vregs = g.vregs := rfl
@[simp] theorem Group.wa_sregs (g : Group) (n x : Nat) : (g.wa n x).sregs = g.sregs := rfl
@[simp] theorem Group.wa_role (g : Group) (n x : Nat) : (g.wa n x).role = g.role := rfl
@[simp] theorem Group.wa_core (g : Group) (n x : Nat) : (g.wa n x).core = g.core := rfl
@[simp] theorem Group.wa_dp (g : Group) (n x : Nat) : (g.wa n x).dp = g.dp := rfl
@[simp] theorem Group.wa_waitcyc (g : Group) (n x : Nat) : (g.wa n x).waitcyc = g.waitcyc := rfl
@[simp] theorem Group.wa_waitFrom (g : Group) (n x : Nat) : (g.wa n x).waitFrom = g.waitFrom := rfl
@[simp] theorem Group.wa_waitTest (g : Group) (n x : Nat) : (g.wa n x).waitTest = g.waitTest := rfl
@[simp] theorem Group.wa_waitNext (g : Group) (n x : Nat) : (g.wa n x).waitNext = g.waitNext := rfl
@[simp] theorem Group.wa_waitMet (g : Group) (n x : Nat) : (g.wa n x).waitMet = g.waitMet := rfl
@[simp] theorem Group.wa_tpc (g : Group) (n x : Nat) : (g.wa n x).tpc = g.tpc := rfl
@[simp] theorem Group.wa_tcause (g : Group) (n x : Nat) : (g.wa n x).tcause = g.tcause := rfl
@[simp] theorem Group.wa_bpslot (g : Group) (n x : Nat) : (g.wa n x).bpslot = g.bpslot := rfl
@[simp] theorem Group.wa_bpa (g : Group) (n x : Nat) : (g.wa n x).bpa = g.bpa := rfl
@[simp] theorem Group.wa_bpd (g : Group) (n x : Nat) : (g.wa n x).bpd = g.bpd := rfl
@[simp] theorem Group.wa_cont (g : Group) (n x : Nat) : (g.wa n x).cont = g.cont := rfl
@[simp] theorem Group.wa_place (g : Group) (n x : Nat) : (g.wa n x).place = g.place := rfl
@[simp] theorem Group.wa_hold (g : Group) (n x : Nat) : (g.wa n x).hold = g.hold := rfl
@[simp] theorem Group.wa_rcd (g : Group) (n x : Nat) : (g.wa n x).rcd = g.rcd := rfl
@[simp] theorem Group.wa_pairPending (g : Group) (n x : Nat) : (g.wa n x).pairPending = g.pairPending := rfl
@[simp] theorem Group.wa_pairRegion (g : Group) (n x : Nat) : (g.wa n x).pairRegion = g.pairRegion := rfl
@[simp] theorem Group.wa_yielding (g : Group) (n x : Nat) : (g.wa n x).yielding = g.yielding := rfl
@[simp] theorem Group.wa_released (g : Group) (n x : Nat) : (g.wa n x).released = g.released := rfl
@[simp] theorem Group.wa_waitOps (g : Group) (n x : Nat) : (g.wa n x).waitOps = g.waitOps := rfl
@[simp] theorem Group.wa_rel (g : Group) (n x : Nat) : (g.wa n x).rel = g.rel := rfl
@[simp] theorem Group.wa_fenceRel (g : Group) (n x : Nat) : (g.wa n x).fenceRel = g.fenceRel := rfl
@[simp] theorem Group.wa_singleStep (g : Group) (n x : Nat) : (g.wa n x).singleStep = g.singleStep := rfl
@[simp] theorem Group.wa_half1 (g : Group) (n x : Nat) : (g.wa n x).half1 = g.half1 := rfl
@[simp] theorem Group.wa_bpSkip (g : Group) (n x : Nat) : (g.wa n x).bpSkip = g.bpSkip := rfl
@[simp] theorem Group.wa_haltPending (g : Group) (n x : Nat) : (g.wa n x).haltPending = g.haltPending := rfl
@[simp] theorem Group.wa_asyncFault (g : Group) (n x : Nat) : (g.wa n x).asyncFault = g.asyncFault := rfl
@[simp] theorem Group.wa_scalarErr (g : Group) (n x : Nat) : (g.wa n x).scalarErr = g.scalarErr := rfl
@[simp] theorem Group.wa_stopCause (g : Group) (n x : Nat) : (g.wa n x).stopCause = g.stopCause := rfl
@[simp] theorem Group.wa_fwStop (g : Group) (n x : Nat) : (g.wa n x).fwStop = g.fwStop := rfl
@[simp] theorem Group.wa_vBad (g : Group) (n x : Nat) : (g.wa n x).vBad = g.vBad := rfl
@[simp] theorem Group.wa_sBad (g : Group) (n x : Nat) : (g.wa n x).sBad = g.sBad := rfl
@[simp] theorem Group.wa_aBad (g : Group) (n x : Nat) : (g.wa n x).aBad = g.aBad := rfl
@[simp] theorem Group.wa_lastIssue (g : Group) (n x : Nat) : (g.wa n x).lastIssue = g.lastIssue := rfl
@[simp] theorem Group.wa_urgent (g : Group) (n x : Nat) : (g.wa n x).urgent = g.urgent := rfl
@[simp] theorem Group.wa_resumeOrder (g : Group) (n x : Nat) : (g.wa n x).resumeOrder = g.resumeOrder := rfl
@[simp] theorem Group.wa_leftAt (g : Group) (n x : Nat) : (g.wa n x).leftAt = g.leftAt := rfl
@[simp] theorem Group.wa_recRead (g : Group) (n x : Nat) : (g.wa n x).recRead = g.recRead := rfl

@[simp] theorem Group.wf_pc (g : Group) (l : Nat) (x : Flags) : (g.wf l x).pc = g.pc := rfl
@[simp] theorem Group.wf_s (g : Group) (l : Nat) (x : Flags) : (g.wf l x).s = g.s := rfl
@[simp] theorem Group.wf_v (g : Group) (l : Nat) (x : Flags) : (g.wf l x).v = g.v := rfl
@[simp] theorem Group.wf_a (g : Group) (l : Nat) (x : Flags) : (g.wf l x).a = g.a := rfl
@[simp] theorem Group.wf_dead (g : Group) (l : Nat) (x : Flags) : (g.wf l x).dead = g.dead := rfl
@[simp] theorem Group.wf_vregs (g : Group) (l : Nat) (x : Flags) : (g.wf l x).vregs = g.vregs := rfl
@[simp] theorem Group.wf_sregs (g : Group) (l : Nat) (x : Flags) : (g.wf l x).sregs = g.sregs := rfl
@[simp] theorem Group.wf_role (g : Group) (l : Nat) (x : Flags) : (g.wf l x).role = g.role := rfl
@[simp] theorem Group.wf_core (g : Group) (l : Nat) (x : Flags) : (g.wf l x).core = g.core := rfl
@[simp] theorem Group.wf_dp (g : Group) (l : Nat) (x : Flags) : (g.wf l x).dp = g.dp := rfl
@[simp] theorem Group.wf_waitcyc (g : Group) (l : Nat) (x : Flags) : (g.wf l x).waitcyc = g.waitcyc := rfl
@[simp] theorem Group.wf_waitFrom (g : Group) (l : Nat) (x : Flags) : (g.wf l x).waitFrom = g.waitFrom := rfl
@[simp] theorem Group.wf_waitTest (g : Group) (l : Nat) (x : Flags) : (g.wf l x).waitTest = g.waitTest := rfl
@[simp] theorem Group.wf_waitNext (g : Group) (l : Nat) (x : Flags) : (g.wf l x).waitNext = g.waitNext := rfl
@[simp] theorem Group.wf_waitMet (g : Group) (l : Nat) (x : Flags) : (g.wf l x).waitMet = g.waitMet := rfl
@[simp] theorem Group.wf_tpc (g : Group) (l : Nat) (x : Flags) : (g.wf l x).tpc = g.tpc := rfl
@[simp] theorem Group.wf_tcause (g : Group) (l : Nat) (x : Flags) : (g.wf l x).tcause = g.tcause := rfl
@[simp] theorem Group.wf_bpslot (g : Group) (l : Nat) (x : Flags) : (g.wf l x).bpslot = g.bpslot := rfl
@[simp] theorem Group.wf_bpa (g : Group) (l : Nat) (x : Flags) : (g.wf l x).bpa = g.bpa := rfl
@[simp] theorem Group.wf_bpd (g : Group) (l : Nat) (x : Flags) : (g.wf l x).bpd = g.bpd := rfl
@[simp] theorem Group.wf_cont (g : Group) (l : Nat) (x : Flags) : (g.wf l x).cont = g.cont := rfl
@[simp] theorem Group.wf_place (g : Group) (l : Nat) (x : Flags) : (g.wf l x).place = g.place := rfl
@[simp] theorem Group.wf_hold (g : Group) (l : Nat) (x : Flags) : (g.wf l x).hold = g.hold := rfl
@[simp] theorem Group.wf_rcd (g : Group) (l : Nat) (x : Flags) : (g.wf l x).rcd = g.rcd := rfl
@[simp] theorem Group.wf_pairPending (g : Group) (l : Nat) (x : Flags) : (g.wf l x).pairPending = g.pairPending := rfl
@[simp] theorem Group.wf_pairRegion (g : Group) (l : Nat) (x : Flags) : (g.wf l x).pairRegion = g.pairRegion := rfl
@[simp] theorem Group.wf_yielding (g : Group) (l : Nat) (x : Flags) : (g.wf l x).yielding = g.yielding := rfl
@[simp] theorem Group.wf_released (g : Group) (l : Nat) (x : Flags) : (g.wf l x).released = g.released := rfl
@[simp] theorem Group.wf_waitOps (g : Group) (l : Nat) (x : Flags) : (g.wf l x).waitOps = g.waitOps := rfl
@[simp] theorem Group.wf_rel (g : Group) (l : Nat) (x : Flags) : (g.wf l x).rel = g.rel := rfl
@[simp] theorem Group.wf_fenceRel (g : Group) (l : Nat) (x : Flags) : (g.wf l x).fenceRel = g.fenceRel := rfl
@[simp] theorem Group.wf_singleStep (g : Group) (l : Nat) (x : Flags) : (g.wf l x).singleStep = g.singleStep := rfl
@[simp] theorem Group.wf_half1 (g : Group) (l : Nat) (x : Flags) : (g.wf l x).half1 = g.half1 := rfl
@[simp] theorem Group.wf_bpSkip (g : Group) (l : Nat) (x : Flags) : (g.wf l x).bpSkip = g.bpSkip := rfl
@[simp] theorem Group.wf_haltPending (g : Group) (l : Nat) (x : Flags) : (g.wf l x).haltPending = g.haltPending := rfl
@[simp] theorem Group.wf_asyncFault (g : Group) (l : Nat) (x : Flags) : (g.wf l x).asyncFault = g.asyncFault := rfl
@[simp] theorem Group.wf_scalarErr (g : Group) (l : Nat) (x : Flags) : (g.wf l x).scalarErr = g.scalarErr := rfl
@[simp] theorem Group.wf_stopCause (g : Group) (l : Nat) (x : Flags) : (g.wf l x).stopCause = g.stopCause := rfl
@[simp] theorem Group.wf_fwStop (g : Group) (l : Nat) (x : Flags) : (g.wf l x).fwStop = g.fwStop := rfl
@[simp] theorem Group.wf_vBad (g : Group) (l : Nat) (x : Flags) : (g.wf l x).vBad = g.vBad := rfl
@[simp] theorem Group.wf_sBad (g : Group) (l : Nat) (x : Flags) : (g.wf l x).sBad = g.sBad := rfl
@[simp] theorem Group.wf_aBad (g : Group) (l : Nat) (x : Flags) : (g.wf l x).aBad = g.aBad := rfl
@[simp] theorem Group.wf_lastIssue (g : Group) (l : Nat) (x : Flags) : (g.wf l x).lastIssue = g.lastIssue := rfl
@[simp] theorem Group.wf_urgent (g : Group) (l : Nat) (x : Flags) : (g.wf l x).urgent = g.urgent := rfl
@[simp] theorem Group.wf_resumeOrder (g : Group) (l : Nat) (x : Flags) : (g.wf l x).resumeOrder = g.resumeOrder := rfl
@[simp] theorem Group.wf_leftAt (g : Group) (l : Nat) (x : Flags) : (g.wf l x).leftAt = g.leftAt := rfl
@[simp] theorem Group.wf_recRead (g : Group) (l : Nat) (x : Flags) : (g.wf l x).recRead = g.recRead := rfl

@[simp] theorem State.setPhys_groups (s : State) (o : BitVec 8) (k : Nat) (bs : List Byte) : (s.setPhys o k bs).groups = s.groups := by rw [State.setPhys_eta]
@[simp] theorem State.setPhys_teams (s : State) (o : BitVec 8) (k : Nat) (bs : List Byte) : (s.setPhys o k bs).teams = s.teams := by rw [State.setPhys_eta]
@[simp] theorem State.setPhys_gangs (s : State) (o : BitVec 8) (k : Nat) (bs : List Byte) : (s.setPhys o k bs).gangs = s.gangs := by rw [State.setPhys_eta]
@[simp] theorem State.setPhys_grids (s : State) (o : BitVec 8) (k : Nat) (bs : List Byte) : (s.setPhys o k bs).grids = s.grids := by rw [State.setPhys_eta]
@[simp] theorem State.setPhys_ctxs (s : State) (o : BitVec 8) (k : Nat) (bs : List Byte) : (s.setPhys o k bs).ctxs = s.ctxs := by rw [State.setPhys_eta]
@[simp] theorem State.setPhys_cores (s : State) (o : BitVec 8) (k : Nat) (bs : List Byte) : (s.setPhys o k bs).cores = s.cores := by rw [State.setPhys_eta]
@[simp] theorem State.setPhys_laneWords (s : State) (o : BitVec 8) (k : Nat) (bs : List Byte) : (s.setPhys o k bs).laneWords = s.laneWords := by rw [State.setPhys_eta]
@[simp] theorem State.setPhys_spad (s : State) (o : BitVec 8) (k : Nat) (bs : List Byte) : (s.setPhys o k bs).spad = s.spad := by rw [State.setPhys_eta]
@[simp] theorem State.setPhys_spadBad (s : State) (o : BitVec 8) (k : Nat) (bs : List Byte) : (s.setPhys o k bs).spadBad = s.spadBad := by rw [State.setPhys_eta]
@[simp] theorem State.setPhys_tlbs (s : State) (o : BitVec 8) (k : Nat) (bs : List Byte) : (s.setPhys o k bs).tlbs = s.tlbs := by rw [State.setPhys_eta]
@[simp] theorem State.setPhys_ops (s : State) (o : BitVec 8) (k : Nat) (bs : List Byte) : (s.setPhys o k bs).ops = s.ops := by rw [State.setPhys_eta]
@[simp] theorem State.setPhys_urgentLoads (s : State) (o : BitVec 8) (k : Nat) (bs : List Byte) : (s.setPhys o k bs).urgentLoads = s.urgentLoads := by rw [State.setPhys_eta]
@[simp] theorem State.setPhys_copies (s : State) (o : BitVec 8) (k : Nat) (bs : List Byte) : (s.setPhys o k bs).copies = s.copies := by rw [State.setPhys_eta]
@[simp] theorem State.setPhys_colls (s : State) (o : BitVec 8) (k : Nat) (bs : List Byte) : (s.setPhys o k bs).colls = s.colls := by rw [State.setPhys_eta]
@[simp] theorem State.setPhys_samples (s : State) (o : BitVec 8) (k : Nat) (bs : List Byte) : (s.setPhys o k bs).samples = s.samples := by rw [State.setPhys_eta]
@[simp] theorem State.setPhys_icache (s : State) (o : BitVec 8) (k : Nat) (bs : List Byte) : (s.setPhys o k bs).icache = s.icache := by rw [State.setPhys_eta]
@[simp] theorem State.setPhys_calCfg (s : State) (o : BitVec 8) (k : Nat) (bs : List Byte) : (s.setPhys o k bs).calCfg = s.calCfg := by rw [State.setPhys_eta]
@[simp] theorem State.setPhys_lastDrain (s : State) (o : BitVec 8) (k : Nat) (bs : List Byte) : (s.setPhys o k bs).lastDrain = s.lastDrain := by rw [State.setPhys_eta]
@[simp] theorem State.setPhys_ownerKeys (s : State) (o : BitVec 8) (k : Nat) (bs : List Byte) : (s.setPhys o k bs).ownerKeys = s.ownerKeys := by rw [State.setPhys_eta]
@[simp] theorem State.setPhys_pchs (s : State) (o : BitVec 8) (k : Nat) (bs : List Byte) : (s.setPhys o k bs).pchs = s.pchs := by rw [State.setPhys_eta]
@[simp] theorem State.setPhys_hbmStacks (s : State) (o : BitVec 8) (k : Nat) (bs : List Byte) : (s.setPhys o k bs).hbmStacks = s.hbmStacks := by rw [State.setPhys_eta]
@[simp] theorem State.setPhys_sandSeq (s : State) (o : BitVec 8) (k : Nat) (bs : List Byte) : (s.setPhys o k bs).sandSeq = s.sandSeq := by rw [State.setPhys_eta]
@[simp] theorem State.setPhys_events (s : State) (o : BitVec 8) (k : Nat) (bs : List Byte) : (s.setPhys o k bs).events = s.events := by rw [State.setPhys_eta]
@[simp] theorem State.setPhys_workQueues (s : State) (o : BitVec 8) (k : Nat) (bs : List Byte) : (s.setPhys o k bs).workQueues = s.workQueues := by rw [State.setPhys_eta]
@[simp] theorem State.setPhys_userQueues (s : State) (o : BitVec 8) (k : Nat) (bs : List Byte) : (s.setPhys o k bs).userQueues = s.userQueues := by rw [State.setPhys_eta]
@[simp] theorem State.setPhys_slots (s : State) (o : BitVec 8) (k : Nat) (bs : List Byte) : (s.setPhys o k bs).slots = s.slots := by rw [State.setPhys_eta]
@[simp] theorem State.setPhys_pendingIdx (s : State) (o : BitVec 8) (k : Nat) (bs : List Byte) : (s.setPhys o k bs).pendingIdx = s.pendingIdx := by rw [State.setPhys_eta]
@[simp] theorem State.setPhys_fwScan (s : State) (o : BitVec 8) (k : Nat) (bs : List Byte) : (s.setPhys o k bs).fwScan = s.fwScan := by rw [State.setPhys_eta]
@[simp] theorem State.setPhys_faultQueue (s : State) (o : BitVec 8) (k : Nat) (bs : List Byte) : (s.setPhys o k bs).faultQueue = s.faultQueue := by rw [State.setPhys_eta]
@[simp] theorem State.setPhys_errorLog (s : State) (o : BitVec 8) (k : Nat) (bs : List Byte) : (s.setPhys o k bs).errorLog = s.errorLog := by rw [State.setPhys_eta]
@[simp] theorem State.setPhys_errorOver (s : State) (o : BitVec 8) (k : Nat) (bs : List Byte) : (s.setPhys o k bs).errorOver = s.errorOver := by rw [State.setPhys_eta]
@[simp] theorem State.setPhys_gridOwners (s : State) (o : BitVec 8) (k : Nat) (bs : List Byte) : (s.setPhys o k bs).gridOwners = s.gridOwners := by rw [State.setPhys_eta]
@[simp] theorem State.setPhys_ioLog (s : State) (o : BitVec 8) (k : Nat) (bs : List Byte) : (s.setPhys o k bs).ioLog = s.ioLog := by rw [State.setPhys_eta]
@[simp] theorem State.setPhys_ioDropped (s : State) (o : BitVec 8) (k : Nat) (bs : List Byte) : (s.setPhys o k bs).ioDropped = s.ioDropped := by rw [State.setPhys_eta]
@[simp] theorem State.setPhys_aerLog (s : State) (o : BitVec 8) (k : Nat) (bs : List Byte) : (s.setPhys o k bs).aerLog = s.aerLog := by rw [State.setPhys_eta]
@[simp] theorem State.setPhys_reports (s : State) (o : BitVec 8) (k : Nat) (bs : List Byte) : (s.setPhys o k bs).reports = s.reports := by rw [State.setPhys_eta]
@[simp] theorem State.setPhys_sysreqQueue (s : State) (o : BitVec 8) (k : Nat) (bs : List Byte) : (s.setPhys o k bs).sysreqQueue = s.sysreqQueue := by rw [State.setPhys_eta]
@[simp] theorem State.setPhys_tails (s : State) (o : BitVec 8) (k : Nat) (bs : List Byte) : (s.setPhys o k bs).tails = s.tails := by rw [State.setPhys_eta]
@[simp] theorem State.setPhys_outbox (s : State) (o : BitVec 8) (k : Nat) (bs : List Byte) : (s.setPhys o k bs).outbox = s.outbox := by rw [State.setPhys_eta]
@[simp] theorem State.setPhys_channels (s : State) (o : BitVec 8) (k : Nat) (bs : List Byte) : (s.setPhys o k bs).channels = s.channels := by rw [State.setPhys_eta]
@[simp] theorem State.setPhys_peerReads (s : State) (o : BitVec 8) (k : Nat) (bs : List Byte) : (s.setPhys o k bs).peerReads = s.peerReads := by rw [State.setPhys_eta]
@[simp] theorem State.setPhys_pageReqs (s : State) (o : BitVec 8) (k : Nat) (bs : List Byte) : (s.setPhys o k bs).pageReqs = s.pageReqs := by rw [State.setPhys_eta]
@[simp] theorem State.setPhys_portDown (s : State) (o : BitVec 8) (k : Nat) (bs : List Byte) : (s.setPhys o k bs).portDown = s.portDown := by rw [State.setPhys_eta]
@[simp] theorem State.setPhys_portCfg (s : State) (o : BitVec 8) (k : Nat) (bs : List Byte) : (s.setPhys o k bs).portCfg = s.portCfg := by rw [State.setPhys_eta]
@[simp] theorem State.setPhys_portSpd (s : State) (o : BitVec 8) (k : Nat) (bs : List Byte) : (s.setPhys o k bs).portSpd = s.portSpd := by rw [State.setPhys_eta]
@[simp] theorem State.setPhys_hdm (s : State) (o : BitVec 8) (k : Nat) (bs : List Byte) : (s.setPhys o k bs).hdm = s.hdm := by rw [State.setPhys_eta]
@[simp] theorem State.setPhys_bars (s : State) (o : BitVec 8) (k : Nat) (bs : List Byte) : (s.setPhys o k bs).bars = s.bars := by rw [State.setPhys_eta]
@[simp] theorem State.setPhys_bridges (s : State) (o : BitVec 8) (k : Nat) (bs : List Byte) : (s.setPhys o k bs).bridges = s.bridges := by rw [State.setPhys_eta]
@[simp] theorem State.setPhys_ports (s : State) (o : BitVec 8) (k : Nat) (bs : List Byte) : (s.setPhys o k bs).ports = s.ports := by rw [State.setPhys_eta]
@[simp] theorem State.setPhys_linkNum (s : State) (o : BitVec 8) (k : Nat) (bs : List Byte) : (s.setPhys o k bs).linkNum = s.linkNum := by rw [State.setPhys_eta]
@[simp] theorem State.setPhys_seenFlits (s : State) (o : BitVec 8) (k : Nat) (bs : List Byte) : (s.setPhys o k bs).seenFlits = s.seenFlits := by rw [State.setPhys_eta]
@[simp] theorem State.setPhys_asks (s : State) (o : BitVec 8) (k : Nat) (bs : List Byte) : (s.setPhys o k bs).asks = s.asks := by rw [State.setPhys_eta]
@[simp] theorem State.setPhys_schedcfg (s : State) (o : BitVec 8) (k : Nat) (bs : List Byte) : (s.setPhys o k bs).schedcfg = s.schedcfg := by rw [State.setPhys_eta]
@[simp] theorem State.setPhys_chuck (s : State) (o : BitVec 8) (k : Nat) (bs : List Byte) : (s.setPhys o k bs).chuck = s.chuck := by rw [State.setPhys_eta]
@[simp] theorem State.setPhys_chuckLatch (s : State) (o : BitVec 8) (k : Nat) (bs : List Byte) : (s.setPhys o k bs).chuckLatch = s.chuckLatch := by rw [State.setPhys_eta]
@[simp] theorem State.setPhys_placementStop (s : State) (o : BitVec 8) (k : Nat) (bs : List Byte) : (s.setPhys o k bs).placementStop = s.placementStop := by rw [State.setPhys_eta]
@[simp] theorem State.setPhys_nextGrid (s : State) (o : BitVec 8) (k : Nat) (bs : List Byte) : (s.setPhys o k bs).nextGrid = s.nextGrid := by rw [State.setPhys_eta]
@[simp] theorem State.setPhys_nextTicket (s : State) (o : BitVec 8) (k : Nat) (bs : List Byte) : (s.setPhys o k bs).nextTicket = s.nextTicket := by rw [State.setPhys_eta]
@[simp] theorem State.setPhys_powerCfg (s : State) (o : BitVec 8) (k : Nat) (bs : List Byte) : (s.setPhys o k bs).powerCfg = s.powerCfg := by rw [State.setPhys_eta]
@[simp] theorem State.setPhys_freq (s : State) (o : BitVec 8) (k : Nat) (bs : List Byte) : (s.setPhys o k bs).freq = s.freq := by rw [State.setPhys_eta]
@[simp] theorem State.setPhys_critical (s : State) (o : BitVec 8) (k : Nat) (bs : List Byte) : (s.setPhys o k bs).critical = s.critical := by rw [State.setPhys_eta]
@[simp] theorem State.setPhys_cycle (s : State) (o : BitVec 8) (k : Nat) (bs : List Byte) : (s.setPhys o k bs).cycle = s.cycle := by rw [State.setPhys_eta]
@[simp] theorem State.setPhys_time (s : State) (o : BitVec 8) (k : Nat) (bs : List Byte) : (s.setPhys o k bs).time = s.time := by rw [State.setPhys_eta]
@[simp] theorem State.setPhys_tableNext (s : State) (o : BitVec 8) (k : Nat) (bs : List Byte) : (s.setPhys o k bs).tableNext = s.tableNext := by rw [State.setPhys_eta]
@[simp] theorem State.setPhys_pagedOut (s : State) (o : BitVec 8) (k : Nat) (bs : List Byte) : (s.setPhys o k bs).pagedOut = s.pagedOut := by rw [State.setPhys_eta]
@[simp] theorem State.setPhys_records (s : State) (o : BitVec 8) (k : Nat) (bs : List Byte) : (s.setPhys o k bs).records = s.records := by rw [State.setPhys_eta]
@[simp] theorem State.setPhys_waitClock (s : State) (o : BitVec 8) (k : Nat) (bs : List Byte) : (s.setPhys o k bs).waitClock = s.waitClock := by rw [State.setPhys_eta]
@[simp] theorem State.setPhys_mrs (s : State) (o : BitVec 8) (k : Nat) (bs : List Byte) : (s.setPhys o k bs).mrs = s.mrs := by rw [State.setPhys_eta]
@[simp] theorem State.setPhys_partition (s : State) (o : BitVec 8) (k : Nat) (bs : List Byte) : (s.setPhys o k bs).partition = s.partition := by rw [State.setPhys_eta]
@[simp] theorem State.setPhys_slotB (s : State) (o : BitVec 8) (k : Nat) (bs : List Byte) : (s.setPhys o k bs).slotB = s.slotB := by rw [State.setPhys_eta]
@[simp] theorem State.setPhys_images (s : State) (o : BitVec 8) (k : Nat) (bs : List Byte) : (s.setPhys o k bs).images = s.images := by rw [State.setPhys_eta]
@[simp] theorem State.setPhys_boots (s : State) (o : BitVec 8) (k : Nat) (bs : List Byte) : (s.setPhys o k bs).boots = s.boots := by rw [State.setPhys_eta]
@[simp] theorem State.setPhys_operatorKey (s : State) (o : BitVec 8) (k : Nat) (bs : List Byte) : (s.setPhys o k bs).operatorKey = s.operatorKey := by rw [State.setPhys_eta]
@[simp] theorem State.setPhys_ownerPub (s : State) (o : BitVec 8) (k : Nat) (bs : List Byte) : (s.setPhys o k bs).ownerPub = s.ownerPub := by rw [State.setPhys_eta]
@[simp] theorem State.setPhys_nextLeaf (s : State) (o : BitVec 8) (k : Nat) (bs : List Byte) : (s.setPhys o k bs).nextLeaf = s.nextLeaf := by rw [State.setPhys_eta]
@[simp] theorem State.setPhys_retired (s : State) (o : BitVec 8) (k : Nat) (bs : List Byte) : (s.setPhys o k bs).retired = s.retired := by rw [State.setPhys_eta]
@[simp] theorem State.setPhys_sessions (s : State) (o : BitVec 8) (k : Nat) (bs : List Byte) : (s.setPhys o k bs).sessions = s.sessions := by rw [State.setPhys_eta]
@[simp] theorem State.setPhys_i3cAddr (s : State) (o : BitVec 8) (k : Nat) (bs : List Byte) : (s.setPhys o k bs).i3cAddr = s.i3cAddr := by rw [State.setPhys_eta]
@[simp] theorem State.setPhys_mctpEid (s : State) (o : BitVec 8) (k : Nat) (bs : List Byte) : (s.setPhys o k bs).mctpEid = s.mctpEid := by rw [State.setPhys_eta]
@[simp] theorem State.setPhys_booted (s : State) (o : BitVec 8) (k : Nat) (bs : List Byte) : (s.setPhys o k bs).booted = s.booted := by rw [State.setPhys_eta]
@[simp] theorem State.setPhys_bootStep (s : State) (o : BitVec 8) (k : Nat) (bs : List Byte) : (s.setPhys o k bs).bootStep = s.bootStep := by rw [State.setPhys_eta]
@[simp] theorem State.setPhys_powered (s : State) (o : BitVec 8) (k : Nat) (bs : List Byte) : (s.setPhys o k bs).powered = s.powered := by rw [State.setPhys_eta]
@[simp] theorem State.setPhys_agenda (s : State) (o : BitVec 8) (k : Nat) (bs : List Byte) : (s.setPhys o k bs).agenda = s.agenda := by rw [State.setPhys_eta]
@[simp] theorem State.setPhys_turn (s : State) (o : BitVec 8) (k : Nat) (bs : List Byte) : (s.setPhys o k bs).turn = s.turn := by rw [State.setPhys_eta]
@[simp] theorem State.setPhys_cur (s : State) (o : BitVec 8) (k : Nat) (bs : List Byte) : (s.setPhys o k bs).cur = s.cur := by rw [State.setPhys_eta]
@[simp] theorem State.setPhys_fresh (s : State) (o : BitVec 8) (k : Nat) (bs : List Byte) : (s.setPhys o k bs).fresh = s.fresh := by rw [State.setPhys_eta]
@[simp] theorem State.setPhys_nextId (s : State) (o : BitVec 8) (k : Nat) (bs : List Byte) : (s.setPhys o k bs).nextId = s.nextId := by rw [State.setPhys_eta]

@[simp] theorem State.setSpad_groups (s : State) (k : Nat) (bs : List Byte) : (s.setSpad k bs).groups = s.groups := by rw [State.setSpad_eta]
@[simp] theorem State.setSpad_teams (s : State) (k : Nat) (bs : List Byte) : (s.setSpad k bs).teams = s.teams := by rw [State.setSpad_eta]
@[simp] theorem State.setSpad_gangs (s : State) (k : Nat) (bs : List Byte) : (s.setSpad k bs).gangs = s.gangs := by rw [State.setSpad_eta]
@[simp] theorem State.setSpad_grids (s : State) (k : Nat) (bs : List Byte) : (s.setSpad k bs).grids = s.grids := by rw [State.setSpad_eta]
@[simp] theorem State.setSpad_ctxs (s : State) (k : Nat) (bs : List Byte) : (s.setSpad k bs).ctxs = s.ctxs := by rw [State.setSpad_eta]
@[simp] theorem State.setSpad_cores (s : State) (k : Nat) (bs : List Byte) : (s.setSpad k bs).cores = s.cores := by rw [State.setSpad_eta]
@[simp] theorem State.setSpad_laneWords (s : State) (k : Nat) (bs : List Byte) : (s.setSpad k bs).laneWords = s.laneWords := by rw [State.setSpad_eta]
@[simp] theorem State.setSpad_tlbs (s : State) (k : Nat) (bs : List Byte) : (s.setSpad k bs).tlbs = s.tlbs := by rw [State.setSpad_eta]
@[simp] theorem State.setSpad_ops (s : State) (k : Nat) (bs : List Byte) : (s.setSpad k bs).ops = s.ops := by rw [State.setSpad_eta]
@[simp] theorem State.setSpad_urgentLoads (s : State) (k : Nat) (bs : List Byte) : (s.setSpad k bs).urgentLoads = s.urgentLoads := by rw [State.setSpad_eta]
@[simp] theorem State.setSpad_copies (s : State) (k : Nat) (bs : List Byte) : (s.setSpad k bs).copies = s.copies := by rw [State.setSpad_eta]
@[simp] theorem State.setSpad_colls (s : State) (k : Nat) (bs : List Byte) : (s.setSpad k bs).colls = s.colls := by rw [State.setSpad_eta]
@[simp] theorem State.setSpad_samples (s : State) (k : Nat) (bs : List Byte) : (s.setSpad k bs).samples = s.samples := by rw [State.setSpad_eta]
@[simp] theorem State.setSpad_icache (s : State) (k : Nat) (bs : List Byte) : (s.setSpad k bs).icache = s.icache := by rw [State.setSpad_eta]
@[simp] theorem State.setSpad_calCfg (s : State) (k : Nat) (bs : List Byte) : (s.setSpad k bs).calCfg = s.calCfg := by rw [State.setSpad_eta]
@[simp] theorem State.setSpad_lastDrain (s : State) (k : Nat) (bs : List Byte) : (s.setSpad k bs).lastDrain = s.lastDrain := by rw [State.setSpad_eta]
@[simp] theorem State.setSpad_phys (s : State) (k : Nat) (bs : List Byte) : (s.setSpad k bs).phys = s.phys := by rw [State.setSpad_eta]
@[simp] theorem State.setSpad_physBad (s : State) (k : Nat) (bs : List Byte) : (s.setSpad k bs).physBad = s.physBad := by rw [State.setSpad_eta]
@[simp] theorem State.setSpad_lineKey (s : State) (k : Nat) (bs : List Byte) : (s.setSpad k bs).lineKey = s.lineKey := by rw [State.setSpad_eta]
@[simp] theorem State.setSpad_ownerKeys (s : State) (k : Nat) (bs : List Byte) : (s.setSpad k bs).ownerKeys = s.ownerKeys := by rw [State.setSpad_eta]
@[simp] theorem State.setSpad_pchs (s : State) (k : Nat) (bs : List Byte) : (s.setSpad k bs).pchs = s.pchs := by rw [State.setSpad_eta]
@[simp] theorem State.setSpad_hbmStacks (s : State) (k : Nat) (bs : List Byte) : (s.setSpad k bs).hbmStacks = s.hbmStacks := by rw [State.setSpad_eta]
@[simp] theorem State.setSpad_sandSeq (s : State) (k : Nat) (bs : List Byte) : (s.setSpad k bs).sandSeq = s.sandSeq := by rw [State.setSpad_eta]
@[simp] theorem State.setSpad_events (s : State) (k : Nat) (bs : List Byte) : (s.setSpad k bs).events = s.events := by rw [State.setSpad_eta]
@[simp] theorem State.setSpad_workQueues (s : State) (k : Nat) (bs : List Byte) : (s.setSpad k bs).workQueues = s.workQueues := by rw [State.setSpad_eta]
@[simp] theorem State.setSpad_userQueues (s : State) (k : Nat) (bs : List Byte) : (s.setSpad k bs).userQueues = s.userQueues := by rw [State.setSpad_eta]
@[simp] theorem State.setSpad_slots (s : State) (k : Nat) (bs : List Byte) : (s.setSpad k bs).slots = s.slots := by rw [State.setSpad_eta]
@[simp] theorem State.setSpad_pendingIdx (s : State) (k : Nat) (bs : List Byte) : (s.setSpad k bs).pendingIdx = s.pendingIdx := by rw [State.setSpad_eta]
@[simp] theorem State.setSpad_fwScan (s : State) (k : Nat) (bs : List Byte) : (s.setSpad k bs).fwScan = s.fwScan := by rw [State.setSpad_eta]
@[simp] theorem State.setSpad_faultQueue (s : State) (k : Nat) (bs : List Byte) : (s.setSpad k bs).faultQueue = s.faultQueue := by rw [State.setSpad_eta]
@[simp] theorem State.setSpad_errorLog (s : State) (k : Nat) (bs : List Byte) : (s.setSpad k bs).errorLog = s.errorLog := by rw [State.setSpad_eta]
@[simp] theorem State.setSpad_errorOver (s : State) (k : Nat) (bs : List Byte) : (s.setSpad k bs).errorOver = s.errorOver := by rw [State.setSpad_eta]
@[simp] theorem State.setSpad_gridOwners (s : State) (k : Nat) (bs : List Byte) : (s.setSpad k bs).gridOwners = s.gridOwners := by rw [State.setSpad_eta]
@[simp] theorem State.setSpad_ioLog (s : State) (k : Nat) (bs : List Byte) : (s.setSpad k bs).ioLog = s.ioLog := by rw [State.setSpad_eta]
@[simp] theorem State.setSpad_ioDropped (s : State) (k : Nat) (bs : List Byte) : (s.setSpad k bs).ioDropped = s.ioDropped := by rw [State.setSpad_eta]
@[simp] theorem State.setSpad_aerLog (s : State) (k : Nat) (bs : List Byte) : (s.setSpad k bs).aerLog = s.aerLog := by rw [State.setSpad_eta]
@[simp] theorem State.setSpad_reports (s : State) (k : Nat) (bs : List Byte) : (s.setSpad k bs).reports = s.reports := by rw [State.setSpad_eta]
@[simp] theorem State.setSpad_sysreqQueue (s : State) (k : Nat) (bs : List Byte) : (s.setSpad k bs).sysreqQueue = s.sysreqQueue := by rw [State.setSpad_eta]
@[simp] theorem State.setSpad_tails (s : State) (k : Nat) (bs : List Byte) : (s.setSpad k bs).tails = s.tails := by rw [State.setSpad_eta]
@[simp] theorem State.setSpad_outbox (s : State) (k : Nat) (bs : List Byte) : (s.setSpad k bs).outbox = s.outbox := by rw [State.setSpad_eta]
@[simp] theorem State.setSpad_channels (s : State) (k : Nat) (bs : List Byte) : (s.setSpad k bs).channels = s.channels := by rw [State.setSpad_eta]
@[simp] theorem State.setSpad_peerReads (s : State) (k : Nat) (bs : List Byte) : (s.setSpad k bs).peerReads = s.peerReads := by rw [State.setSpad_eta]
@[simp] theorem State.setSpad_pageReqs (s : State) (k : Nat) (bs : List Byte) : (s.setSpad k bs).pageReqs = s.pageReqs := by rw [State.setSpad_eta]
@[simp] theorem State.setSpad_portDown (s : State) (k : Nat) (bs : List Byte) : (s.setSpad k bs).portDown = s.portDown := by rw [State.setSpad_eta]
@[simp] theorem State.setSpad_portCfg (s : State) (k : Nat) (bs : List Byte) : (s.setSpad k bs).portCfg = s.portCfg := by rw [State.setSpad_eta]
@[simp] theorem State.setSpad_portSpd (s : State) (k : Nat) (bs : List Byte) : (s.setSpad k bs).portSpd = s.portSpd := by rw [State.setSpad_eta]
@[simp] theorem State.setSpad_hdm (s : State) (k : Nat) (bs : List Byte) : (s.setSpad k bs).hdm = s.hdm := by rw [State.setSpad_eta]
@[simp] theorem State.setSpad_bars (s : State) (k : Nat) (bs : List Byte) : (s.setSpad k bs).bars = s.bars := by rw [State.setSpad_eta]
@[simp] theorem State.setSpad_bridges (s : State) (k : Nat) (bs : List Byte) : (s.setSpad k bs).bridges = s.bridges := by rw [State.setSpad_eta]
@[simp] theorem State.setSpad_ports (s : State) (k : Nat) (bs : List Byte) : (s.setSpad k bs).ports = s.ports := by rw [State.setSpad_eta]
@[simp] theorem State.setSpad_linkNum (s : State) (k : Nat) (bs : List Byte) : (s.setSpad k bs).linkNum = s.linkNum := by rw [State.setSpad_eta]
@[simp] theorem State.setSpad_seenFlits (s : State) (k : Nat) (bs : List Byte) : (s.setSpad k bs).seenFlits = s.seenFlits := by rw [State.setSpad_eta]
@[simp] theorem State.setSpad_asks (s : State) (k : Nat) (bs : List Byte) : (s.setSpad k bs).asks = s.asks := by rw [State.setSpad_eta]
@[simp] theorem State.setSpad_schedcfg (s : State) (k : Nat) (bs : List Byte) : (s.setSpad k bs).schedcfg = s.schedcfg := by rw [State.setSpad_eta]
@[simp] theorem State.setSpad_chuck (s : State) (k : Nat) (bs : List Byte) : (s.setSpad k bs).chuck = s.chuck := by rw [State.setSpad_eta]
@[simp] theorem State.setSpad_chuckLatch (s : State) (k : Nat) (bs : List Byte) : (s.setSpad k bs).chuckLatch = s.chuckLatch := by rw [State.setSpad_eta]
@[simp] theorem State.setSpad_placementStop (s : State) (k : Nat) (bs : List Byte) : (s.setSpad k bs).placementStop = s.placementStop := by rw [State.setSpad_eta]
@[simp] theorem State.setSpad_nextGrid (s : State) (k : Nat) (bs : List Byte) : (s.setSpad k bs).nextGrid = s.nextGrid := by rw [State.setSpad_eta]
@[simp] theorem State.setSpad_nextTicket (s : State) (k : Nat) (bs : List Byte) : (s.setSpad k bs).nextTicket = s.nextTicket := by rw [State.setSpad_eta]
@[simp] theorem State.setSpad_powerCfg (s : State) (k : Nat) (bs : List Byte) : (s.setSpad k bs).powerCfg = s.powerCfg := by rw [State.setSpad_eta]
@[simp] theorem State.setSpad_freq (s : State) (k : Nat) (bs : List Byte) : (s.setSpad k bs).freq = s.freq := by rw [State.setSpad_eta]
@[simp] theorem State.setSpad_critical (s : State) (k : Nat) (bs : List Byte) : (s.setSpad k bs).critical = s.critical := by rw [State.setSpad_eta]
@[simp] theorem State.setSpad_cycle (s : State) (k : Nat) (bs : List Byte) : (s.setSpad k bs).cycle = s.cycle := by rw [State.setSpad_eta]
@[simp] theorem State.setSpad_time (s : State) (k : Nat) (bs : List Byte) : (s.setSpad k bs).time = s.time := by rw [State.setSpad_eta]
@[simp] theorem State.setSpad_tableNext (s : State) (k : Nat) (bs : List Byte) : (s.setSpad k bs).tableNext = s.tableNext := by rw [State.setSpad_eta]
@[simp] theorem State.setSpad_lrWords (s : State) (k : Nat) (bs : List Byte) : (s.setSpad k bs).lrWords = s.lrWords := by rw [State.setSpad_eta]
@[simp] theorem State.setSpad_pagedOut (s : State) (k : Nat) (bs : List Byte) : (s.setSpad k bs).pagedOut = s.pagedOut := by rw [State.setSpad_eta]
@[simp] theorem State.setSpad_records (s : State) (k : Nat) (bs : List Byte) : (s.setSpad k bs).records = s.records := by rw [State.setSpad_eta]
@[simp] theorem State.setSpad_waitClock (s : State) (k : Nat) (bs : List Byte) : (s.setSpad k bs).waitClock = s.waitClock := by rw [State.setSpad_eta]
@[simp] theorem State.setSpad_mrs (s : State) (k : Nat) (bs : List Byte) : (s.setSpad k bs).mrs = s.mrs := by rw [State.setSpad_eta]
@[simp] theorem State.setSpad_partition (s : State) (k : Nat) (bs : List Byte) : (s.setSpad k bs).partition = s.partition := by rw [State.setSpad_eta]
@[simp] theorem State.setSpad_slotB (s : State) (k : Nat) (bs : List Byte) : (s.setSpad k bs).slotB = s.slotB := by rw [State.setSpad_eta]
@[simp] theorem State.setSpad_images (s : State) (k : Nat) (bs : List Byte) : (s.setSpad k bs).images = s.images := by rw [State.setSpad_eta]
@[simp] theorem State.setSpad_boots (s : State) (k : Nat) (bs : List Byte) : (s.setSpad k bs).boots = s.boots := by rw [State.setSpad_eta]
@[simp] theorem State.setSpad_operatorKey (s : State) (k : Nat) (bs : List Byte) : (s.setSpad k bs).operatorKey = s.operatorKey := by rw [State.setSpad_eta]
@[simp] theorem State.setSpad_ownerPub (s : State) (k : Nat) (bs : List Byte) : (s.setSpad k bs).ownerPub = s.ownerPub := by rw [State.setSpad_eta]
@[simp] theorem State.setSpad_nextLeaf (s : State) (k : Nat) (bs : List Byte) : (s.setSpad k bs).nextLeaf = s.nextLeaf := by rw [State.setSpad_eta]
@[simp] theorem State.setSpad_retired (s : State) (k : Nat) (bs : List Byte) : (s.setSpad k bs).retired = s.retired := by rw [State.setSpad_eta]
@[simp] theorem State.setSpad_sessions (s : State) (k : Nat) (bs : List Byte) : (s.setSpad k bs).sessions = s.sessions := by rw [State.setSpad_eta]
@[simp] theorem State.setSpad_i3cAddr (s : State) (k : Nat) (bs : List Byte) : (s.setSpad k bs).i3cAddr = s.i3cAddr := by rw [State.setSpad_eta]
@[simp] theorem State.setSpad_mctpEid (s : State) (k : Nat) (bs : List Byte) : (s.setSpad k bs).mctpEid = s.mctpEid := by rw [State.setSpad_eta]
@[simp] theorem State.setSpad_booted (s : State) (k : Nat) (bs : List Byte) : (s.setSpad k bs).booted = s.booted := by rw [State.setSpad_eta]
@[simp] theorem State.setSpad_bootStep (s : State) (k : Nat) (bs : List Byte) : (s.setSpad k bs).bootStep = s.bootStep := by rw [State.setSpad_eta]
@[simp] theorem State.setSpad_powered (s : State) (k : Nat) (bs : List Byte) : (s.setSpad k bs).powered = s.powered := by rw [State.setSpad_eta]
@[simp] theorem State.setSpad_agenda (s : State) (k : Nat) (bs : List Byte) : (s.setSpad k bs).agenda = s.agenda := by rw [State.setSpad_eta]
@[simp] theorem State.setSpad_turn (s : State) (k : Nat) (bs : List Byte) : (s.setSpad k bs).turn = s.turn := by rw [State.setSpad_eta]
@[simp] theorem State.setSpad_cur (s : State) (k : Nat) (bs : List Byte) : (s.setSpad k bs).cur = s.cur := by rw [State.setSpad_eta]
@[simp] theorem State.setSpad_fresh (s : State) (k : Nat) (bs : List Byte) : (s.setSpad k bs).fresh = s.fresh := by rw [State.setSpad_eta]
@[simp] theorem State.setSpad_nextId (s : State) (k : Nat) (bs : List Byte) : (s.setSpad k bs).nextId = s.nextId := by rw [State.setSpad_eta]

end Sys2Proof.Machine
end

