-- ==== Sys2Proof/Laws/Traps.lean ====
section
/-! SUPPORT. What a discard, a system fault and a wait may change of the module. -/

namespace Sys2Proof.Machine
theorem State.pushFault_eta (s : State) (c : Nat) (r : List Byte) :
    s.pushFault c r = { s with
      faultQueue := (s.pushFault c r).faultQueue, cores := (s.pushFault c r).cores, nextId := (s.pushFault c r).nextId } := by
  unfold State.pushFault; split <;> rfl
theorem State.errorRec_eta (s : State) (core dp group grid : Nat) (pc addr : DWord) (loc source lane : Nat) (dead : Bool) :
    s.errorRec core dp group grid pc addr loc source lane dead = { s with
      errorLog := (s.errorRec core dp group grid pc addr loc source lane dead).errorLog
      errorOver := (s.errorRec core dp group grid pc addr loc source lane dead).errorOver
      ctxs := (s.errorRec core dp group grid pc addr loc source lane dead).ctxs } := by
  unfold State.errorRec State.passError; simp only []; split
  · split <;> rfl
  · rfl

/-- A fold of error records changes the error log and the contexts' error areas alone. -/
theorem State.foldl_groupError_eta (f : Nat → Bool) (k : Nat) (g : Group) (l : List Nat) (s : State) :
    ∃ a b c, l.foldl (fun s L => if f L then s.groupError k g 0 0 9 L true else s) s =
      { s with errorLog := a, errorOver := b, ctxs := c } := by
  induction l generalizing s with
  | nil => exact ⟨_, _, _, rfl⟩
  | cons x l ih =>
    rw [List.foldl_cons]
    split
    · obtain ⟨a, b, c, h⟩ := ih (s.groupError k g 0 0 9 x true)
      rw [h]; unfold State.groupError; rw [State.errorRec_eta]; exact ⟨_, _, _, rfl⟩
    · exact ih s

/-- Writing a record changes the record areas alone. -/
theorem State.saveRecord_eta (s : State) (k : Nat) : s.saveRecord k = { s with records := (s.saveRecord k).records } := by
  unfold State.saveRecord; split
  · rfl
  · split <;> rfl

/-- A gang that retires changes its entry alone. -/
theorem State.settle_eta (s : State) (x : Nat) : s.settle x = { s with gangs := (s.settle x).gangs } := by
  unfold State.settle; split
  · rfl
  · split <;> rfl

/-- What a discard may change of the module: the group's own entry, its waiting places and operations, its record, and the logs. -/
def State.DiscardShape (s t : State) (k : Nat) : Prop :=
  (∃ h, t.groups = s.groups.insert k h) ∧ t = { s with
    groups := t.groups, teams := t.teams, gangs := t.gangs, cores := t.cores, ops := t.ops, events := t.events, nextId := t.nextId,
    errorLog := t.errorLog, errorOver := t.errorOver, ctxs := t.ctxs, records := t.records, faultQueue := t.faultQueue }

theorem State.endGroup_shape (s : State) (k : Nat) (g : Group) : s.DiscardShape (s.endGroup k g) k := by
  unfold State.endGroup; simp only []; rw [State.settle_eta]; exact ⟨⟨_, rfl⟩, rfl⟩

theorem State.discardTo_shape (s : State) (k : Nat) (g : Group) (c : Nat) (w : WaitOn) (p : Place) :
    s.DiscardShape (s.discardTo k g c w p) k := by
  unfold State.discardTo; simp only []; rw [State.saveRecord_eta]
  split
  · exact ⟨⟨_, rfl⟩, rfl⟩
  · obtain ⟨a, b, c, h⟩ := State.foldl_groupError_eta
      (fun L => (g.savable (s.liveSet k g g.cont.live)).live L != g.live L) k (g.savable (s.liveSet k g g.cont.live)) (List.range 96)
      ((s.unwait k).abandon k (g.savable (s.liveSet k g g.cont.live)).cont.mark)
    rw [h]
    exact ⟨⟨_, rfl⟩, rfl⟩

theorem State.pushFault_shape {s t : State} {k : Nat} (h : s.DiscardShape t k) (c : Nat) (r : List Byte) :
    s.DiscardShape (t.pushFault c r) k := by
  obtain ⟨⟨g, h1⟩, h2⟩ := h
  rw [State.pushFault_eta]
  exact ⟨⟨g, h1⟩, congrArg (fun y : State => { y with
    faultQueue := (t.pushFault c r).faultQueue, cores := (t.pushFault c r).cores, nextId := (t.pushFault c r).nextId }) h2⟩

/-- A discard after an error record is a discard. -/
theorem State.DiscardShape.of_error {s s' t : State} {k : Nat} {a : List (List Byte)} {b : Nat} {c : SMap Ctx}
    (h : s'.DiscardShape t k) (e : s' = { s with errorLog := a, errorOver := b, ctxs := c }) : s.DiscardShape t k := by
  subst e; exact h

/-- What a discard may change of the module (R25, R309, R342). -/
theorem State.discard_shape (s : State) (k : Nat) (g : Group) (c : Nat) (w : WaitOn) (p : Place) :
    s.DiscardShape (s.discard k g c w p) k := by
  unfold State.discard
  split
  · exact State.endGroup_shape s k g
  · simp only []
    split
    · exact State.pushFault_shape (State.DiscardShape.of_error (State.discardTo_shape _ k g 6 .none .parked)
        (State.errorRec_eta s ..)) _ _
    · exact State.discardTo_shape s k g c w p

/-- What taking a system fault may change of the module (R340). -/
theorem State.systemFault_shape (s : State) (k : Nat) (g : Group) (f : FaultInfo) : s.DiscardShape (s.systemFault k g f) k :=
  State.pushFault_shape (State.discard_shape s k g _ .none .parked) _ _

/-- A word that waits leaves everything as it was but the time and its group's hold. -/
theorem State.wait_eta (s : State) (k : Nat) (g : Group) : s.wait k g = { s with
    groups := s.groups.insert k { g with hold := .waiting }
    cycle := (s.wait k g).cycle, time := (s.wait k g).time, waitClock := (s.wait k g).waitClock, fresh := s.fresh + 1,
    urgentLoads := (s.wait k g).urgentLoads } := rfl

end Sys2Proof.Machine
end

