-- ==== Sys2Proof/Tests/Slice0.lean ====
section
/-! SUPPORT. The tests: ill-formed terms that are refused, words of the manual that decode to the instructions they stand for, one
step of some instructions with the result the manual gives, and for each statement that has hypotheses states that meet them. -/

open Sys2Proof Sys2Proof.Machine

set_option maxRecDepth 100000

namespace Sys2Proof.Tests

/-! ### States to test on -/

/-- One group is resident; REGION 0 stands after the word to be issued. -/
def base : State := { State.reset.placeWords (0x0D00000000000000 * 2 ^ 64) with cur := groupKey 1 0 0 0, turn := .any }

/-- The group that issues in `base`. -/
def base.g : Group := (base.group? base.cur).getD ({} : Group)

/-- `i` is well formed and ready in `s`, decided. -/
def readyIn (s : State) (i : Instr) : Bool :=
  Instr.fieldsOk i && Instr.codesOk i && match s.group? s.cur with
  | some g => g.place = .resident && (s.stops s.cur g i).isNone && !s.mustWait s.cur g i
  | none => false

/-- What `readyIn` decides. -/
theorem readyIn_ready {s : State} {i : Instr} (h : readyIn s i = true) : WellFormed i ∧ ∃ g, s.Ready g i := by
  unfold readyIn at h
  split at h
  · rename_i g hg
    simp only [Bool.and_eq_true, decide_eq_true_eq, Bool.not_eq_true', Option.isNone_iff_eq_none] at h
    exact ⟨h.1, g, hg, h.2.1.1, h.2.1.2, h.2.2⟩
  · simp at h

/-- The issuing group made another. -/
def withGroup (f : Group → Group) (s : State := base) : State := s.modGroup s.cur f

/-- `i` is ready in `s`, and `p` holds of the issuing group. -/
def readyAnd (s : State) (i : Instr) (p : Group → Bool) : Bool :=
  readyIn s i && ((s.group? s.cur).map p).getD false

/-- Whether a taken branch `i` of the issuing group passes what may stop it before its target is looked at. -/
def reads (s : State) (i : Instr) : Bool :=
  match s.group? s.cur with
  | some g => g.place = .resident && Instr.sourcesOk g.vregs g.sregs i && !g.readsError i && !s.mustWait s.cur g i
  | none => false

def D : Operand := .s 20
def A : Operand := .s 24
def B : Operand := .s 28
def X : Ext := ⟨0, none⟩
def sb : SBin := ⟨false, D, A, B, X⟩
def sb64 : SBin := ⟨true, D, A, .int 35, X⟩
def vo1 : VOps := ⟨false, .v 1, .v 2, .v 0, .v 0, X⟩
def vo : VOps := ⟨false, .v 1, .v 2, .v 3, .v 0, X⟩
def vo3 : VOps := ⟨false, .v 1, .v 2, .v 3, .v 4, X⟩

theorem test_ready_scalar : ([.sadd .wrap sb, .sadd .sat sb64, .sadd .usat sb, .ssub .wrap sb64, .ssub .sat sb, .ssub .usat sb,
    .smul .lo sb, .smul .hi sb64, .smul .hiu sb, .sdiv true false sb, .sdiv true true sb64, .sdiv false false sb,
    .sdiv false true sb, .sand true sb, .sor false sb64, .sxor true sb, .smin false sb, .smin true sb64, .smax false sb,
    .smax true sb, .sshl sb, .sshr false sb64, .sshr true sb, .scmp .eq sb, .scmp .ne sb64, .scmp .lt sb, .scmp .le sb,
    .scmp .gt sb, .scmp .ge sb, .scmp .ltu sb, .scmp .leu sb, .scmp .gtu sb, .scmp .geu sb64, .ssel (.int 33) sb,
    .ssel (.int 32) sb64] : List Instr).all (readyIn base) = true := by decide

theorem test_ready_sbit : ([.sbit .popc false D A X, .sbit .clz true D A X, .sbit .ctz false D A X, .sbit .brev true D A X,
    .sbit .bswap false D A X, .sbit (.bfeU B (.int 36)) false D A X, .sbit (.bfeI B (.int 36)) true D A X,
    .sbit (.bfi B (.int 36)) false D A X] : List Instr).all (readyIn base) = true := by decide

theorem test_ready_moves : ([.nop none, .smov D (.word A X), .smov D (.w64 A X), .smov D (.f32 A X), .smov D (.f32 (.int 35) X),
    .smov D (.special 0x01 none), .smov D (.special 0x0F none), .smovToSpecial 0x0F A none,
    .smovToSpecial 0x10 A none] : List Instr).all (readyIn base) = true := by decide

theorem test_ready_control : ([.br (.int 33) X, .brc .z false A (.int 33) X, .brc .nz true A (.int 33) X,
    .brc .ltz false A (.int 33) X, .brc .gez false A (.int 33) X, .brc .gtz false A (.int 33) X, .brc .lez false A (.int 33) X,
    .brm .any A (.int 33) X, .brm .none A (.int 33) X, .brm .all A (.int 33) X, .brm .nall A (.int 33) X,
    .call D (.offset (.int 33)) X, .call D (.reg A) X, .jmp (.reg A) none, .jmp .tpc none, .loop D (.int 33) X,
    .emop (.set A) (some D) X, .emop (.and A) none X, .emop (.andn A) none X, .emop (.or A) none X, .emop (.els A) none X,
    .emop .live none X, .maskop (.and A B) D X, .maskop (.or A B) D X, .maskop (.xor A B) D X, .maskop (.andn A B) D X,
    .maskop (.not A) D X, .maskop (.mov A) D X, .maskop (.live A) D X, .maskop (.range (.int 32) (.int 48)) D X, .maskop (.popc A) D X,
    .maskop (.first A) D X, .maskop (.last A) D X] : List Instr).all (readyIn base) = true := by decide

theorem test_ready_vector : ([.vadd ⟨false, false, false⟩ vo, .vsub ⟨true, true, true⟩ vo, .vmul false vo, .vmulh true vo,
    .vmad .wrap vo3, .vmad (.sat false) vo3, .vdiv true false vo, .vand true vo, .vor false vo, .vxor false vo, .vshl false vo,
    .vshr false true vo, .vmin false false vo, .vmax true true vo, .vmov vo1, .vfadd .f32 .rne vo, .vfsub .f16x2 .rtz vo,
    .vfmul .bf16x2 .rne vo, .vfma .f32 true false .rup vo3, .vfmin .f32 true vo, .vfmax .f32 false vo, .vfdiv .rne vo,
    .vfsqrt .rne vo1, .vsf .rcp vo1, .vclass .f32 vo1, .vbfe .u vo3, .vbit .popc vo1, .vdot4 .ss false vo3,
    .vrnd .f32 .rne vo1] : List Instr).all (readyIn base) = true := by decide


def mf (sp : Space) (size : Size) (sem : Sem := .plain) (scope : Scope := .group) : MemF :=
  ⟨sp, size, D, A, .int 32, sem, scope, false, .normal, 0, 0, none⟩
def mv (sp : Space) (size : Size) (b : Operand := .v 3) : MemF :=
  ⟨sp, size, .v 8, A, b, .plain, .group, false, .normal, 0, 0, none⟩
def at' (op : AtomOp) (ret scalar : Bool) : AtomF :=
  ⟨scalar, op, if ret || op = .cas then (if scalar then D else .v 1) else .v 0, A, if scalar then B else .v 2,
   if scalar then .s 32 else .v 3, 0, .rlx, .team, .g, ret, false, none⟩
def cf : CopyF := ⟨A, B, .int 33, 2, .team, false, 1, none⟩
def cft : CopyF := ⟨A, B, .s 32, 2, .team, false, 1, none⟩
/-- As `base`, with 4096 bytes of scratch for the team. -/
def scratch : State := base.setTeam (teamOf base.cur) { base.team base.cur with scratch := 4096 }

theorem test_ready_conversions : ([.cvt .f32f16 vo1, .cvt8 .f32e4m3 vo1, .pack .h16 vo, .unpack .u16 vo1,
    .qgdec false .rne vo3, .qgenc false vo3, .qgscl vo, .cvtsat .i8i32 vo1] : List Instr).all (readyIn base) = true := by decide

theorem test_ready_masks_flags : ([.vcmp .lt false D (.v 1) (.v 2) X, .vsel (.v 1) (.v 2) (.v 3) D X, .vfcmp .un D (.v 1) (.v 2) X,
    .vflag (.read D 1) none, .vflag (.readclr D 1) none, .vflag (.clr 1) none, .vflag (.set 1) none,
    .vflag (.get (.v 1)) none, .vflag (.put (.v 1)) none] : List Instr).all (readyIn base) = true := by decide

theorem test_ready_crosslane : ([.shfl .idx (.v 1) (.v 2) (.v 3) X, .shfl .up (.v 1) (.v 2) (.int 33) X, .shfl .down (.v 1) (.v 2) (.v 3) X,
    .shfl .xor (.v 1) (.v 2) (.v 3) X, .shfl .rot (.v 1) (.v 2) (.v 3) X, .bcast (.lane (.int 35)) (.v 1) (.v 2) X,
    .bcast .first (.v 1) (.v 2) X, .bcast .last (.v 1) (.v 2) X, .bcastS D (.v 2) (.int 35) X,
    .red (.scan .add) false D (.v 2) X, .red (.scan (.fadd .rne)) false D (.v 2) X, .red .amax true (.v 1) (.v 2) X,
    .scan .add false (.v 1) (.v 2) X, .scan (.max true) true (.v 1) (.v 2) X, .vote .any D (.v 2) X, .vote .all D (.v 2) X,
    .vote .ballot D (.v 2) X, .vote .popc D (.v 2) X, .vote .uni D (.v 2) X, .compact false (.v 1) (.v 2) A X,
    .compact true (.v 1) (.v 2) A X, .lmap .beat (.v 1) X, .lmap .phys (.v 1) X, .lmap (.lane A B) D X, .lnstat .live D none,
    .lnstat .nlive D none, .lnstat .nbeats D none, .lnstat .good D none, .lnstat .peak D none] : List Instr).all (readyIn base) = true := by
  decide

theorem test_ready_memory : ([.sld (mf .g .w), .sst (mf .s .dw), .ld (mv .g .w), .ld (mv .l .i8), .st (mv .g .w), .ldv (mv .l .w (.v 0)),
    .stv (mv .g .w (.v 0)), .sld (mf .g .u8 .acquire .team), .sst (mf .g .w .release .gang), .wait 0 0 none, .waitAll none,
    .actrRead D 0 none, .actrMask D none, .pref false A B false .normal 0 none, .zfill .l A B .plain .group .normal 0 0 none,
    .gwin D A B none, .fence .ar .system none, .fence .acq .team none, .fence .rel .core none,
    .fence .all .system none] : List Instr).all (readyIn base) = true := by decide

theorem test_ready_sync : ([.atom (at' .add true false), .atom (at' .cas true true), .atom (at' .fadd false false),
    .barInit ⟨false, 1⟩ (.int 34) none, .barArrive D ⟨false, 1⟩ none, .barArriveNw D ⟨true, 7⟩ none,
    .barArriveDefer D ⟨false, 1⟩ 2 none, .barWait ⟨false, 1⟩ A none, .barStat D ⟨false, 0⟩ none, .barStatExp D ⟨true, 3⟩ none,
    .qopDef 3 A B none, .qopPush 3 A B none, .qopPop D 3 none, .qopTrypush D 3 A B none, .qopTrypop D 3 none, .qopStat D 3 none,
    .qopStatCfg D 3 none, .evw 5 A none, .evwTry D 5 A none, .evwStat D 5 none, .evwClr D 5 none,
    .spawn false A B none, .spawnTry true D A B none, .launch false D A none, .dbell false true A B X] : List Instr).all (readyIn base) = true := by
  decide

theorem test_ready_copies : ([.cpy .l .g false cf, .cpyt (some A) cft, .cpyt none cft, .qfence 1 none, .cstat (.infl 1) D none, .cstat .mask D none,
    .cstat .pool D none, .coll false A 1 none, .collwt D 1 none, .collwtTry D 1 none, .tdef false D A B X, .tfree A X,
    .tqry (.word 3) D A none, .tqry .cur D A none, .swfence (.h A) X, .swfence (.h2 A B) X, .swfence .all X] : List Instr).all (readyIn base) = true := by
  decide

theorem test_ready_system : ([.region 0 none, .yieldBar ⟨false, 1⟩ A none, .yieldEv 5 A none, .trap 3 none, .brk 9 none,
    .sysreq 7 D A none, .exit none, .exitAbort A none] : List Instr).all (readyIn base) = true := by decide

/-! ### Words of the manual, decoded -/

/-- The instruction the decoder reads from a word without a literal. -/
def dec (w : Nat) : Option Instr := decodeTableWord 64 w

/-- Scalar and control words (R93, R94, R95, R102, R103, R105, R109; the examples of R341 and R273). -/
theorem test_decode_scalar : dec 0 = some (.nop none) ∧ dec 0x008E0C000000000D = some (.smov (.s 6) (.special 0x0D none)) ∧
    dec 0x01062D16D4000000 = some (.sadd .wrap ⟨true, .s 22, .s 22, .int 40, X⟩) ∧ dec 0x0B00011600000000 = some (.jmp (.reg (.s 22)) none) ∧
    dec 0x0A04017DD1000000 = some (.brm .none (.s 125) (.int 34) X) ∧ dec 0x09800103CE800000 = some (.brc .z false (.s 3) (.int 29) X) ∧
    dec 0x0C46311400000000 = some (.emop (.and (.s 20)) (some (.s 24)) X) ∧ dec 0x0C10011800000000 = some (.emop (.els (.s 24)) none X) ∧
    dec 0x0C00011800000000 = some (.emop (.set (.s 24)) none X) := by decide

/-- Region, yield and system words (R304, R310, R346 to R348, R371, R319). -/
theorem test_decode_system : dec 0x0D00000000000005 = some (.region 5 none) ∧ dec 0x0D8001A000000000 = some (.yieldBar ⟨false, 0⟩ (.int 32) none) ∧
    dec 0x0F80000000000000 = some (.exit none) ∧ dec 0x0F84010800000000 = some (.exitAbort (.s 8) none) ∧
    dec 0x0F02150400000001 = some (.sysreq 1 (.s 10) (.s 4) none) ∧ dec 0x0E80000000000000 = some (.brk 0 none) ∧
    dec 0x3F88010684000000 = some (.dbell false true (.s 6) (.s 8) X) ∧ dec 0x3F061D0C00000000 = some (.launch true (.s 14) (.s 12) none) := by decide

/-- Vector and conversion words (R121, R126, R130, R134, R79). -/
theorem test_decode_vector : dec 0x10801008D0800000 = some (.vsub ⟨false, false, false⟩ ⟨false, .v 8, .v 8, .int 33, .v 0, X⟩) ∧
    dec 0x1900080100800000 = some (.vfmul .f32 .rne ⟨false, .v 4, .v 1, .v 1, .v 0, X⟩) ∧
    dec 0x1B0A2805E1000000 = some (.vfcmp .lt (.s 20) (.v 5) (.fp 2) X) ∧ dec 0x17000DA1D0450000 = some (.vsel (.v 6) (.int 33) (.int 32) (.s 20) X) ∧
    dec 0x178003D000000000 = some (.vmov ⟨false, .v 1, .special 0, .v 0, .v 0, X⟩) ∧
    dec 0x20000A0200000000 = some (.cvt (.f32i32 .rne) ⟨false, .v 5, .v 2, .v 0, .v 0, X⟩) := by decide

/-- Cross-lane, matrix and tensor words (R144, R146, R150, R173, R176). -/
theorem test_decode_crosslane : dec 0x2502140100000000 = some (.red (.scan .add) false (.s 10) (.v 1) X) ∧
    dec 0x260A280200000000 = some (.vote .ballot (.s 20) (.v 2) X) ∧ dec 0x28021304D8800000 = some (.tdef false (.s 9) (.s 4) (.int 49) X) ∧
    dec 0x2980010884E84400 = some (.mma false (.s 8) (.s 9) (.int 33) 1 0 none) := by decide

/-- Memory, copy and synchronisation words (R207, R212, R220, R243, R273, R277, R280, R299). -/
theorem test_decode_memory : dec 0x3050110A01010400 = some (.ld ⟨.l, .w, .v 8, .s 10, .v 2, .plain, .group, true, .normal, 1, 0, none⟩) ∧
    dec 0x08160904D0000000 = some (.sld ⟨.g, .dw, .s 4, .s 4, .int 32, .plain, .group, false, .normal, 0, 0, none⟩) ∧
    dec 0x089A2104D0000010 = some (.sst ⟨.g, .qw, .s 16, .s 4, .int 32, .plain, .group, false, .normal, 0, 16, none⟩) ∧
    dec 0x3200000000000000 = some (.wait 0 0 none) ∧ dec 0x3D06060000000000 = some (.barArrive (.s 3) ⟨false, 0⟩ none) ∧
    dec 0x3D840108D0000000 = some (.qopPush 0 (.s 8) (.int 32) none) ∧ dec 0x3D8A140000000001 = some (.qopPop (.s 10) 1 none) ∧
    dec 0x3E0001A200000003 = some (.evw 3 (.int 34) none) ∧ dec 0x3C88000000000010 = some (.fence .rel .team none) ∧
    dec 0x3C8C000000000080 = some (.fence .all .system none) := by decide

/-- CPY.L.G.NC on queue 1 (R243), and the sweep of R47 with its word. -/
theorem test_decode_cpy : dec 0x3840010A82690009 = some (.cpy .l .g false ⟨.s 10, .s 4, .int 36, 0, .group, true, 1, none⟩) := by decide
theorem test_decode_sweep : decode 0xC0A0600600000000 0x1842150B86000000 =
    .ok (.sweep ⟨40, 384, 384, 0, 0⟩ (.fadd .f32 .rne) ⟨true, .s 10, .s 11, .s 12, .v 0, X⟩) := by decide

/-- Words that are refused, each by its name: a field of NOP that is not 0 (R93), an unknown OPC (R40), a P word whose halves write one
register (R46), a sweep of no iterations (R47). -/
theorem test_decode_refuses : decode 1 0 = .error .illegalInstruction ∧ decode 0x3FFFFFFFFFFFFFFF 0 = .error .illegalInstruction ∧
    decode 0x401008D0C02007C3 0 = .error .illegalPairing ∧ decode 0xC000000000000000 0x1842150B86000000 = .error .illegalSweep := by decide

/-! ### Terms that are not well formed -/

/-- Fields that no description admits: one term for each check of `Instr.fieldsOk`. -/
theorem test_fields_refused : ([.pWord ⟨.vmov, 1, .v 2, .v 3⟩ ⟨.vaddI32, 4, .v 5, .v 6⟩,
    .vadd ⟨false, false, false⟩ vo3, .vmov vo, .vadd ⟨false, false, false⟩ { vo with x := ⟨1, none⟩ }, .qgdec false .rne { vo3 with x := ⟨512, none⟩ },
    .sweep ⟨0, 0, 0, 0, 0⟩ .mov { vo1 with scr := true }, .sweep ⟨1, 2, 0, 0, 0⟩ .mov ⟨true, .s 20, .v 2, .v 0, .v 0, X⟩,
    .sweep ⟨1, 4, 0, 0, 0⟩ .mov { vo1 with scr := true }, .sweep ⟨1, 0, 0, 0, 0⟩ .mov vo1,
    .sweep ⟨1, 0, 0, 0, 0⟩ .mov ⟨true, .s 20, .v 2, .v 0, .v 0, ⟨0, some 1⟩⟩,
    .st (mf .g .w .acquire), .ld (mf .g .w .release), .ld (mf .g .w .plain .team), .ld { mf .l .w with hint := .keep },
    .st (mf .g .i8), .ldv (mv .g .w), .pref false A B true .normal 0 none, .zfill .g A B .acquire .group .normal 0 0 none,
    .zfill .l A B .plain .group .keep 0 0 none, .atom { at' .add false false with d := .v 1 }, .atom { at' .incw true false with w64 := true },
    .cpy .l .g false { cf with nc := true }, .smov D (.word A ⟨1, none⟩), .sadd .wrap ⟨false, D, A, B, ⟨1, none⟩⟩, .br (.int 33) ⟨1, none⟩,
    .sbit .popc false D A ⟨1, none⟩,
    .completionTimeout 0 96, .debugRegisterWrite 0 (.vreg 0 96) 0, .storeBufferWriteback 448 0, .engineOpStart 448, .tailstockSend 5,
    .clusterDrainResume 56 true, .stackResume 8, .linkRetrain 64 true, .flitReceive ⟨64, 0, true, 0, 0, .idle⟩, .queueReread 32,
    .registerWrite (.portcfg 4) 0] : List Instr).all (fun i => !Instr.fieldsOk i) = true := by decide

/-- Operand codes that no description admits: a reserved code, a code of another class, an odd pair, a register span past the end, a
gang barrier that does not exist, a special register that does not. -/
theorem test_codes_refused : ([.sadd .wrap ⟨false, D, .reserved 0x1FF, B, X⟩, .sadd .wrap ⟨false, .v 1, A, B, X⟩, .sadd .wrap ⟨false, D, .v 1, B, X⟩,
    .sadd .wrap ⟨true, .s 21, A, B, X⟩, .maskop (.not A) (.s 127) X, .barWait ⟨true, 8⟩ A none, .smov D (.special 0 none),
    .smovToSpecial 0x0E A none, .vadd ⟨false, false, false⟩ { vo with d := .s 20 },
    .cpyt none cf] : List Instr).all (fun i => !Instr.codesOk i) = true := by decide

/-! ### States that meet the hypotheses of the statements: scalar, control, regions, traps -/

/-- ScalarBitOperations: a field of 4 bits at position 4 of 0xF0, and the whole register at position 0. -/
theorem test_hyp_fields : (∀ i, (0xF#32).getLsbD i = (decide (i < 4) && (0xF0#32).getLsbD (4 + i))) ∧
    (∀ i, (0#32).getLsbD i = (decide (i < 32) && decide (0 < 0) && (0xF0#32).getLsbD (4 + min i (0 - 1)))) ∧
    (∀ i, (0xF0#32).getLsbD i = if 0 ≤ i ∧ i < 0 + 32 then (0xF0#32).getLsbD (i - 0) else (1#32).getLsbD i) ∧
    4 = min ((4#32).toNat % 128) (32 - (4#32).toNat % 32) ∧ 32 = min ((127#32).toNat % 128) (32 - (0#32).toNat % 32) := by
  refine ⟨fun i => ?_, fun i => ?_, fun i => ?_, by decide, by decide⟩
  · by_cases h : i < 4
    · interval_cases i <;> decide
    · rw [decide_eq_false h, Bool.false_and]
      by_cases h' : i < 32
      · interval_cases i <;> decide
      · exact BitVec.getLsbD_of_ge _ _ (by omega)
  · simp
  · by_cases h : i < 32
    · simp [h]
    · simp [h, BitVec.getLsbD_of_ge, show 32 ≤ i by omega]

/-- A branch to the word after it, which is its literal. -/
def literal : State := { State.reset.placeWords (2 ^ 64 + 0x89000000F1000000) with cur := groupKey 1 0 0 0, turn := .any }

/-- BranchesGoToTheirTargets: good targets by offset, by register and by TPC, a LOOP that ends and one that goes on. -/
theorem test_hyp_good_targets : base.GoodTarget (base.g.pc + 8 * base.uni64 base.cur base.g X (.int 33)) ∧
    base.GoodTarget ((base.g.wp 24 0x200008).rp 24) ∧ base.GoodTarget (base.uni64 base.cur (base.g.wp 24 0x200008) X A) ∧
    readyIn (withGroup (fun g => g.wp 24 0x200008)) (.call D (.reg A) X) = true ∧ readyAnd (withGroup (fun g => g.wp 24 0x200008)) (.jmp (.reg A) none) (fun g => g.rp 24 = 0x200008) = true ∧
    readyAnd (withGroup (fun g => { g with tpc := 0x200008 })) (.jmp .tpc none) (fun g => g.tpc = 0x200008) = true ∧
    readyAnd (withGroup (fun g => g.ws 20 1)) (.loop D (.int 33) X) (fun g => g.rs 20 = 1) = true ∧
    readyAnd base (.loop D (.int 33) X) (fun g => g.rs 20 ≠ 1) = true := by
  unfold State.GoodTarget; decide

/-- … and bad ones: a literal word, a register and TPC that are no multiple of 8. -/
theorem test_hyp_bad_targets : reads literal (.br .lit ⟨0, some 1⟩) = true ∧
    ¬ literal.GoodTarget (base.g.pc + 8 * literal.uni64 literal.cur base.g ⟨0, some 1⟩ .lit) ∧ ¬ base.GoodTarget 0x200004 ∧ ¬ base.GoodTarget 1 ∧
    reads (withGroup (fun g => { g with tpc := 1 })) (.jmp .tpc none) = true ∧ ¬ base.GoodTarget (base.uni64 base.cur (base.g.wp 24 0x200004) X A) ∧
    reads (withGroup (fun g => g.wp 24 0x200004)) (.call D (.reg A) X) = true ∧
    reads (withGroup (fun g => g.wp 24 0x200004)) (.jmp (.reg A) none) = true ∧
    literal.badBranch literal.cur base.g (.br .lit ⟨0, some 1⟩) = some 0x200008 ∧ base.badBranch base.cur base.g (.br (.int 33) X) = none := by
  unfold State.GoodTarget; decide

/-- MaskOperations: the triples RANGE writes at the ends of its range. -/
theorem test_hyp_range : (∀ i, (BitVec.allOnes 96).getLsbD i = (decide (i < 96) && decide (0 ≤ i) && decide (i < 96))) ∧
    (∀ i, (0 : BitVec 96).getLsbD i = (decide (i < 96) && decide (96 ≤ i) && decide (i < 0))) := by
  refine ⟨fun i => ?_, fun i => ?_⟩
  · rw [BitVec.getLsbD_allOnes]; simp
  · simp

/-- The group has yielded in the word before on what `y` says. -/
def yielded (y : WaitOn) (s : State := base) : State := withGroup (fun g => { g with yielding := y, pairPending := true }) s

/-- An operation of the issuing group in flight. -/
def inFlight (k : OpKind) (s : State := base) : State :=
  s.withOp { group := s.cur, ctx := 1, core := 0, kind := k, space := .l, scope := .group, size := .w, vec := false, reg := 20, counter := 0,
             pc := 0x200000, elems := [{ lane := 127, addr := 0, n := 4, todo := [0] }] }

/-- RegionsAndYields: REGION and both YIELDs, each branch of the condition. -/
theorem test_hyp_regions : ((base.kernel base.cur).live[0]? = some ({} : LiveSet) ∧ base.regionOk base.cur base.g 0 = true ∧ base.outstanding base.cur = false ∧
    base.g.yielding = .none) ∧
    readyIn (inFlight .load) (.region 0 none) = true ∧ (inFlight .load).outstanding base.cur = true ∧
    readyIn (yielded (.bar false 1 false)) (.region 0 none) = true ∧ (base.bar base.cur false 1).phase = false ∧
    readyIn (yielded (.bar true 7 true)) (.region 0 none) = true ∧ (base.bar base.cur true 7).phase ≠ true ∧
    readyIn (yielded (.event 255 65535)) (.region 0 none) = true ∧ (base.event 255).count < 65535 ∧
    readyIn (yielded (.event 0 0)) (.region 0 none) = true ∧
    readyIn (yielded (.event 5 1) (base.setEvent 5 { count := 1 })) (.region 0 none) = true ∧
    ((base.setEvent 5 { count := 1 }).event 5).waiters = [] ∧ 1 ≤ ((base.setEvent 5 { count := 1 }).event 5).count ∧
    readyIn (base.setEvent 5 { ctx := some (base.ctxOf base.cur) }) (.yieldEv 5 (.int 32) none) = true ∧
    ((base.setEvent 5 { ctx := some (base.ctxOf base.cur) }).event 5).ctx = some (base.ctxOf base.cur) ∧
    readyIn base (.yieldBar ⟨true, 7⟩ (.int 33) none) = true ∧ (base.grid base.cur).terminating = false ∧ base.g.sBad = [] := by decide

/-- IssueChecksAreMadeInOrder: words that each check stops, and one that waits. -/
theorem test_hyp_issue : base.commitOk base.cur base.g (.tfree A X) = true ∧
    (State.reset.placeWords 0).commitOk base.cur base.g (.tfree A X) = false ∧
    (Instr.opnds (.sadd .wrap ⟨false, .s 127, .v 0, A, X⟩)).all (Opnd.declared base.g.vregs base.g.sregs) = true ∧
    Instr.codesOk (.sadd .wrap ⟨false, .s 20, .v 0, A, X⟩) = false ∧
    (Instr.writes (.sadd .wrap ⟨false, .s 0, A, A, X⟩)).any (base.liveSet base.cur base.g none).meets = true ∧
    (Instr.klass (.mzero 0 none)).all (Klass.admits 3) = false ∧
    ({ base.g with sBad := [24] } : Group).readsError (.sadd .wrap sb) = true ∧
    ({ base.g with aBad := [15] } : Group).readsError (.waitAll none) = true ∧ base.badBranch base.cur base.g (.sadd .wrap sb) = none ∧
    (inFlight .load).mustWait base.cur { base.g with waitOps := [base.nextId] } (.nop none) = false ∧
    (inFlight .load).mustWait base.cur { base.g with waitOps := [base.nextId] } (.sst (mf .l .w)) = true := by
  decide

/-! ### Traps, the end of a group, vector values -/

/-- The kernel of the issuing group, changed. -/
def withKernel (f : Kernel → Kernel) (s : State := base) : State :=
  { s with grids := s.grids.modify (gridOf s.cur) (fun g => { g with kernel := g.kernel.map f }) }
/-- … with its trap handler 4 words into the code. -/
def handler : State := withKernel (fun k => { k with trapoff := 4 })
/-- The context of the issuing group, changed. -/
def withCtx (f : Ctx → Ctx) (s : State := base) : State := s.setCtx (s.ctxOf s.cur) (f (s.ctx (s.ctxOf s.cur)))

/-- UserTrapsEnterTheHandler: with a handler and without, debugged and not. -/
theorem test_hyp_traps : readyIn handler (.trap 63 none) = true ∧ ((handler.kernel base.cur).trapoff ≠ 0xFFFFFFFF) ∧
    ((base.kernel base.cur).trapoff = 0xFFFFFFFF) ∧ readyIn base (.brk 255 none) = true ∧ (base.ctx (base.ctxOf base.cur)).debugged = false ∧
    readyIn (withCtx (fun c => { c with debugged := true })) (.brk 0 none) = true ∧
    ((withCtx (fun c => { c with debugged := true })).ctx (base.ctxOf base.cur)).debugged = true := by decide

/-- SystemFaultsParkTheGroup: the fault queue with room and full; a grid that terminates and one that does not, a group whose live-ins can
be saved and one with a live-in that cannot. -/
theorem test_hyp_fault_queue : base.faultQueue.length < 1024 ∧ (∀ c ∈ base.cores, c.2.faultWait = []) ∧
    1024 ≤ ({ base with faultQueue := List.replicate 1024 [] } : State).faultQueue.length := ⟨by decide, by decide, by simp⟩
theorem test_hyp_savable : (base.grid base.cur).terminating = false ∧ base.unsavable base.cur base.g = false ∧
    ((base.setGrid 1 { base.grid base.cur with terminating := true }).grid base.cur).terminating = true ∧
    base.unsavable base.cur { base.g with sBad := [9] } = true := by decide

/-- SysreqAndExit: nothing outstanding, nothing to wait for, room for the request; the group is the last of its gang. -/
theorem test_hyp_exit : base.releaseWait base.cur base.g .system = none ∧ base.sysreqQueue.length < 64 ∧ SMap.Sorted base.groups ∧
    base.outstanding base.cur = false ∧ (base.grids.find? (gridOf base.cur)).isSome = true ∧ (base.grid base.cur).terminating = false ∧
    (∀ e ∈ base.groups, gangOf e.1 = gangOf base.cur → e.1 ≠ base.cur → e.2.place = .gone) ∧ base.copies = [] ∧
    (∀ c ∈ base.cores, c.2.engine = []) ∧ (base.gang base.cur).place = .placed := by decide

/-- LaneInstructionsWriteTheirLanes: a word without an uncorrectable source, and one of which lane 0 dies. -/
theorem test_hyp_lanes : base.g.vBad = [] ∧ base.g.part 0 = true ∧ base.g.part 95 = true ∧
    readyAnd (withGroup (fun g => { g with vBad := [192] })) (.vadd ⟨false, false, false⟩ vo)
      (fun g => g.part 0 && (laneReads (.add ⟨false, false, false⟩) vo).any (fun r => g.vBad.contains (r * 96))) = true ∧
    Instr.lane? (.vadd ⟨false, false, false⟩ vo) = some (.add ⟨false, false, false⟩, vo) := by decide

/-- FloatingResultsAreRounded: finite sources whose results reach the ends of the range. -/
theorem test_hyp_rounding : finiteF32 0x7F7FFFFF = true ∧ finiteF32 0x80000001 = true ∧ finiteF32 0 = true ∧
    (unitsF32 0x7F7FFFFF + unitsF32 0).natAbs = maxUnitsF32 ∧ (unitsF32 0xFF7FFFFF - unitsF32 0).natAbs = maxUnitsF32 ∧
    (unitsF32 0x7F7FFFFF * unitsF32 0x3F800000).natAbs = maxUnitsF32 * 2 ^ 149 ∧ unitsF32 0x3F800000 ≠ 0 ∧
    (unitsF32 0x7F7FFFFF * 2 ^ 149).natAbs = maxUnitsF32 * (unitsF32 0x3F800000).natAbs ∧ 0 ≤ unitsF32 0 ∧
    (qgImage 15 * (255 : Nat) * unitsF32 0x3F800000).natAbs ≤ maxUnitsF32 * 7905 := by decide

/-- FloatingSpecialValues: NaNs, quiet and signalling, and sources of each sign. -/
theorem test_hyp_special : nanF32 0x7FC00000 = true ∧ nanF32 0x7F800001 = true ∧ signalF32 0x7F800001 = true ∧ nanF32 0x7F800000 = false ∧
    finiteF32 0x80000001 = true ∧ unitsF32 0x80000001 ≠ 0 ∧ unitsF32 0x80000001 < 0 := by decide

/-- ConversionLaneValues: each source class, a block code and a scale, and the count of steps of QGSCL at the tie. -/
theorem test_hyp_conversions : (0x7BFF : Word).toNat % 32768 < 31744 ∧ nanF32 ((0xFF80 : Word) <<< 16) = false ∧ (0x7E : Word).toNat % 128 ≠ 127 ∧
    nanF32 0x7FC00000 = true ∧ finiteF32 0x3F800000 = true ∧ 0 < unitsF32 0x3F800000 ∧ (255 : Word).toNat % 256 ≠ 0 ∧
    (2 * 255 - 1 : Int) * unitsF32 0x3F800000 ≤ 510 * (unitsF32 0x3F800000).natAbs ∧
    510 * (unitsF32 0x3F800000).natAbs < (2 * 255 + 1 : Int) * unitsF32 0x3F800000 := by decide

/-- PairedAndPackedHalves: a P word that is ready. -/
theorem test_hyp_pword : readyAnd base (.pWord ⟨.vaddI32, 4, .v 9, .v 10⟩ ⟨.vmulI32, 6, .v 4, .int 35⟩)
    (fun g => decide (g.half1 = false ∧ g.vBad = [])) = true := by decide

/-- Any choice of lanes is a mask. -/
theorem exists_mask (p : Nat → Bool) : ∃ m : BitVec 96, ∀ L, m.getLsbD L = (decide (L < 96) && p L) :=
  ⟨BitVec.ofFnLE (fun i : Fin 96 => p i), fun L => by
    by_cases h : L < 96
    · simp [h]
    · simp [h, BitVec.getLsbD_of_ge _ _ (Nat.le_of_not_lt h)]⟩

/-- VectorComparesSelectsAndFlags: the results of a comparison that holds in no lane, in every lane and in lane 95 only. -/
theorem test_hyp_compares : (∃ m : BitVec 96, ∀ L, m.getLsbD L = (decide (L < 96) && base.g.part L && decide ((0 : Int) < 0))) ∧
    (∃ m : BitVec 96, ∀ L, m.getLsbD L = (decide (L < 96) && base.g.part L && fcond .un (.nan false) (.inf true))) ∧
    (∃ m : BitVec 96, ∀ L, m.getLsbD L = (decide (L < 96) && base.g.part L && decide (base.g.rf L &&& 0x7F ≠ 0))) := by
  refine ⟨?_, ?_, ?_⟩ <;> simp only [Bool.and_assoc] <;> exact exists_mask _

/-- ShufflesAndBroadcasts, ReductionsAndScans, VotesCompactionAndLaneStatus: no mark is set, the first and the last participating
lane, and the logical lane of physical lane 0 in beat 0. -/
theorem test_hyp_crosslane : base.g.vBad = [] ∧ base.g.part 0 = true ∧ (∀ j, j < 95 + 1 → 95 < j → base.g.part j = false) ∧
    0 < base.goodOf base.g ∧ 0 / base.goodOf base.g = 0 ∧ (goodLanes (base.laneWord base.g.core base.g.dp)).getD (0 % base.goodOf base.g) 0 = 0 ∧
    (∃ m : BitVec 96, ∀ L, m.getLsbD L = (decide (L ∈ (List.range 96).filter (fun L => base.g.part L)) && decide ((0 : Word) ≠ 0))) := by
  refine ⟨by decide, by decide, ?_, by decide, by decide, by decide, ?_⟩
  · intro j h h'; omega
  · exact ⟨0, by simp⟩

/-- The team of the issuing group with 49,152 bytes of scratch. -/
def scratchK (s : State := base) : State := s.setTeam (teamOf s.cur) { s.team s.cur with scratch := 49152 }
def sw : SweepPrefix := ⟨2, 384, 384, 0, 0⟩
def swo : VOps := ⟨false, .s 20, .s 24, .v 3, .v 0, X⟩

/-- SweepsRunTheirIterations: two iterations over segments inside the allocation, and a word with SCR. -/
theorem test_hyp_sweeps : readyIn scratchK (.sweep sw (.add ⟨false, false, false⟩) { swo with scr := true }) = true ∧
    readyIn scratchK (.vadd ⟨false, false, false⟩ { swo with scr := true }) = true ∧
    Instr.lane? (.vadd ⟨false, false, false⟩ { swo with scr := true }) = some (.add ⟨false, false, false⟩, { swo with scr := true }) ∧
    (scratchK.segments base.g sw (.add ⟨false, false, false⟩) swo).all (fun x => (List.range 2).all (fun n =>
      decide ((x.1 + (n : Int) * x.2) % 4 = 0 ∧ 0 ≤ x.1 + (n : Int) * x.2 ∧
        x.1 + (n : Int) * x.2 + 384 ≤ (scratchK.team base.cur).scratch))) = true ∧
    base.spadBad = [] := by decide

/-! ### Loads, stores, synchronisation -/

/-- AccessesAreCheckedAndIssued: an access without an element, one that passes the checks, one that fails the first. -/
theorem test_hyp_access : (∃ els, scratch.IsAccess base.g (.sld (mf .l .w)) (mf .l .w) false true els ∧ els ≠ [] ∧
      readyIn scratch (.sld (mf .l .w)) = true ∧ scratch.accessFault base.cur base.g .l 4 4 els = none ∧
      scratch.accessHold base.cur base.g .l false .group els = none ∧ base.g.vBad = []) ∧
    (∃ els, base.IsAccess base.g (.stv (mv .g .dw (.v 0))) (mv .g .dw (.v 0)) true false els ∧ els ≠ [] ∧
      readyIn base (.stv (mv .g .dw (.v 0))) = true ∧ base.accessFault base.cur base.g .g 8 8 els = none ∧
      base.accessHold base.cur base.g .g false .group els = none ∧ base.bufferFull base.cur base.g els = false) ∧
    (∃ els, base.IsAccess base.g (.sst (mf .l .w)) (mf .l .w) false false els ∧ base.accessFault base.cur base.g .l 4 4 els ≠ none) ∧
    (∃ els, (withGroup (fun g => g.wt 125 0)).IsAccess (base.g.wt 125 0) (.ld (mv .g .w)) (mv .g .w) true true els ∧ els = []) :=
  ⟨⟨_, Or.inl ⟨rfl, rfl, rfl, rfl⟩, by decide, by decide, by decide, by decide, by decide⟩,
   ⟨_, Or.inr (Or.inr (Or.inr (Or.inr (Or.inr ⟨rfl, rfl, rfl, rfl⟩)))), by decide, by decide, by decide, by decide, by decide⟩,
   ⟨_, Or.inr (Or.inl ⟨rfl, rfl, rfl, rfl⟩), by decide⟩,
   ⟨_, Or.inr (Or.inr (Or.inl ⟨rfl, rfl, rfl, rfl⟩)), by decide⟩⟩

/-- … and the ends of each check's range: alignment, the G space, the S form, the gang's members, the allocation. -/
theorem test_hyp_checks : (2 ^ 57 - 4 : Int) < 2 ^ 57 ∧ (2 ^ 57 - 4 : Int) % 4 = 0 ∧
    (scratch.team base.cur).scratch = 4096 ∧ (4092 : Int) + 4 ≤ (scratch.team base.cur).scratch ∧
    (0x01F0000000000000 : Int) ≤ 0x01F0000000000000 + (447 * 524288 + 393212 : Int) ∧
    scratch.accessFault base.cur base.g .l 4 4 [(127, 4092)] = none ∧
    scratch.accessFault base.cur base.g .l 4 4 [(3, 4096), (5, -4)] = some { cause := 8, detail := 1, lane := 3, addr := scratch.faultAddr base.cur .l 4096, pc := base.g.pc } ∧
    scratch.accessFault base.cur base.g .s 4 4 [(127, 0x01F0000000000000 + 524288)] =
      some { cause := 9, lane := 127, addr := 0x01F0000000080000, pc := base.g.pc } ∧
    scratch.accessFault base.cur base.g .s 4 4 [(127, 0x01F0000000000000 + 448 * 524288)] =
      some { cause := 8, lane := 127, addr := 0x01F000000E000000, pc := base.g.pc } ∧
    base.accessFault base.cur base.g .g 4 4 [(0, 2 ^ 57 - 4)] = none := by decide

/-- WaitsAndFences: counters that have gone down and one that has not, reads pending and none, nothing outstanding. -/
theorem test_hyp_waits : base.g.ra 15 ≤ 0 ∧ base.g.waitFrom = none ∧ (∀ j, j < 16 → base.g.ra j = 0) ∧
    readyAnd (withGroup (fun g => { g with waitFrom := some 0 })) (.wait 3 0 none) (fun g => g.waitFrom = some 0) = true ∧
    readyAnd (withGroup (fun g => g.wa 3 1)) (.wait 3 0 none) (fun g => decide (¬ g.ra 3 ≤ 0)) = true ∧
    readyAnd (withGroup (fun g => g.wa 15 1)) (.waitAll none) (fun g => decide (g.ra 15 ≠ 0)) = true ∧
    base.readsPending base.cur = false ∧ (inFlight .load).readsPending base.cur = true ∧ readyIn (inFlight .load) (.fence .acq .team none) = true ∧
    readyIn (inFlight .load) (.fence .all .group none) = true ∧ (inFlight .load).outstanding base.cur = true ∧ base.g.rel = none ∧
    base.releaseWait base.cur base.g .system = none ∧ Scope.narrow .group = true ∧ base.outstanding base.cur = false := by decide

theorem test_hyp_actr : ∃ m : Word, ∀ j, m.getLsbD j = (decide (j < 16) && decide (base.g.ra j ≠ 0)) :=
  ⟨0, fun j => by simp [show ∀ j, base.g.ra j = 0 from fun _ => rfl]⟩

/-- 65,536 bytes of scratch. -/
def scratch64K : State := base.setTeam (teamOf base.cur) { base.team base.cur with scratch := 65536 }

/-- PrefetchZfillAndGangWindow: a prefetch below 2^57, one line and none of zeros, a member and an offset in the window and out of it. -/
theorem test_hyp_zfill : readyIn scratch64K (.zfill .l (.int 32) (.s 28) .plain .group .normal 0 0 none) = true ∧
    readyAnd (withGroup (fun g => g.ws 28 64) scratch64K) (.zfill .l (.int 32) (.s 28) .plain .group .normal 0 0 none)
      (fun g => decide ((g.rs 28).toNat = 64 * 1)) = true ∧
    scratch64K.accessFault base.cur base.g .l 64 64 [(127, 0)] = none ∧ scratch64K.accessFault base.cur base.g .l 64 64 [(127, 65472)] = none ∧
    scratch64K.accessHold base.cur base.g .l false .group [(127, 0)] = none ∧
    (base.ctx (base.ctxOf base.cur)).debugged = false ∧ base.bufferFull base.cur base.g [(127, 0)] = false ∧
    0 < scratch64K.gangSize base.cur ∧ scratch64K.gangSize base.cur ≤ 1 ∧ (65535 : Nat) < (scratch64K.team base.cur).scratch ∧
    (base.team base.cur).scratch ≤ 0 ∧ ((base.uni64 base.cur base.g X A).toNat + (0 : Int)) % 2 ^ 64 < 2 ^ 57 := by decide

def el (a : DWord) (n : Nat := 4) : Elem := { lane := 127, addr := a, n := n, todo := [0] }
def op (k : OpKind) (sp : Space) (e : Elem) (scope : Scope := .group) (core : Nat := 0) : Op :=
  { group := base.cur, ctx := base.ctxOf base.cur, core := core, kind := k, space := sp, scope := scope, size := .w, vec := false, reg := 20,
    counter := 0, pc := 0x200000, elems := [e] }
def stEl (a : DWord) : Elem := { lane := 127, addr := a, n := 4, data := [1, 2, 3, 4] }
/-- The scratchpad address of byte 0 of core 0, and a G address. -/
def sp0 : DWord := 0x01F0000000000000
def gAddr : DWord := 0x300000

/-- Whether the one element of the operation may be performed. -/
def performs (o : Op) (e : Elem) (remote : Bool) : Bool :=
  decide (o.elems = [e] ∧ o.abandoned = false ∧ o.faulted = false ∧ e.performed = false ∧ e.sent = false ∧ Op.remote o e = remote ∧
    (scratch.withOp o).ops.find? scratch.nextId = some o ∧ e.entered = none) && !(scratch.withOp o).blocked scratch.nextId o 0 e
theorem performs_iff {o : Op} {e : Elem} {r : Bool} (h : performs o e r = true) : (scratch.withOp o).Performs scratch.nextId o e r := by
  simp only [performs, Bool.and_eq_true, decide_eq_true_eq, Bool.not_eq_true'] at h
  exact ⟨h.1.2.2.2.2.2.2.1, h.1.1, h.1.2.1, h.1.2.2.1, h.1.2.2.2.1, h.1.2.2.2.2.1, h.1.2.2.2.2.2.2.2, h.1.2.2.2.2.2.1, h.2⟩

/-- The home of the element of an operation is memory, and its stack serves. -/
def home (o : Op) (e : Elem) (p : Nat → Pte → Bool) (s : State := scratch) : Bool :=
  match s.elemReach o e with
  | .ok (key, l) => decide (destOf key = .memory) && !s.stackHeld key && !s.stackLost key && (s.heldAt key).isEmpty && p key l
  | .error _ => false
/-- A page of the second GiB of G space, on an SO leaf. -/
def so : State := scratch.setPhys 0 0x102008 (leBytes 8 0x000000004000041F)

/-- LoadsReadAndDeliver: a load of the scratchpad and of memory to perform, and the last word of one to deliver. -/
theorem test_hyp_loads : performs (op .load .l (el sp0)) (el sp0) false = true ∧ performs (op .load .g (el gAddr)) (el gAddr) false = true ∧
    home (op .load .g (el gAddr)) (el gAddr) (fun _ _ => true) = true ∧ (el sp0).todo ≠ [] ∧
    ((scratch.withOp (op .load .l { el sp0 with performed := true })).group? base.cur).isSome = true ∧ base.g.rcd = none ∧ base.g.aBad = [] := by
  decide

/-- StoresWriteTheirBytes: stores to the scratchpad, near and remote, to memory at a wide scope and at a narrow one, and an entry of a
store buffer to write back. -/
theorem test_hyp_stores : performs (op .store .l (stEl sp0)) (stEl sp0) false = true ∧
    performs (op .store .s (stEl sp0) .gang 1) (stEl sp0) true = true ∧
    (scratch.memberOn base.cur (sCore sp0.toNat)).isSome = true ∧ (scratch.team base.cur).holds (sOff sp0.toNat) 4 = true ∧
    performs (op .store .g (stEl gAddr) .system) (stEl gAddr) false = true ∧ (stEl gAddr).data.length = (stEl gAddr).n ∧
    home (op .store .g (stEl gAddr)) (stEl gAddr) (fun key p => decide (p.kind ≠ 1 ∧ p.kind ≠ 2) && scratch.bufferRoom 0 (key / 64) &&
      decide (key % 64 + 4 ≤ 64) && (op .store .g (stEl gAddr)).atEntry p.kind && !(op .store .g (stEl gAddr) .system).atEntry p.kind) = true ∧
    home (op .store .g (stEl 0x40000000)) (stEl 0x40000000) (fun key p => decide (p.kind = 1) &&
      (List.range 4).all (fun i => decide (so.lineKey.getD ((key + i) / 64) 0 = p.owner ∧ destOf (key + i) = .memory))) so = true ∧
    (scratch.core 0).storeBuf = [] ∧ Scope.narrow .group = true ∧ Scope.narrow .system = false := by decide

theorem test_hyp_writeback : (({ id := 0, line := 0x4000, owner := 0, bytes := [(0, 1), (63, 2)], ops := [], groups := [] } : BufLine).bytes.all
      (fun b => decide (b.1 < 64)) && decide (SMap.Sorted ([(0, 1), (63, 2)] : SMap Byte)) && decide (base.lineKey.getD 0x4000 0 = 0) &&
      !base.stackHeld (0x4000 * 64) && !base.stackLost (0x4000 * 64) && (base.heldAt (0x4000 * 64)).isEmpty &&
      (List.range 64).all (fun i => decide (destOf (0x4000 * 64 + i) = .memory))) = true := by decide

/-- AtomicsUpdateTheirElement: an ATOM that is ready and whose element passes; its element to perform in scratchpad and in memory. -/
theorem test_hyp_atomics : readyIn base (.atom (at' .add true true)) = true ∧
    base.accessFault base.cur base.g .g 4 4 [(127, 0x300000)] = none ∧ base.outstanding base.cur = false ∧
    base.accessHold base.cur base.g .g false .team [(127, 0x300000)] = none ∧ base.atomTranslate base.cur base.g .g [(127, 0x300000)] = none ∧
    readyAnd (withGroup (fun g => g.wt 125 0)) (.atom (at' .add true false)) (fun g => g.lanes = []) = true ∧
    performs (op (.atomic .add true) .l (el sp0)) (el sp0) false = true ∧
    performs (op (.atomic .cas false) .g { stEl gAddr with cmp := [0, 0, 0, 0] }) { stEl gAddr with cmp := [0, 0, 0, 0] } false = true ∧
    leNat (stEl gAddr).data < 2 ^ (8 * 4) ∧ base.spadMarked 0 4 = false ∧ base.physBad = [] ∧
    home (op (.atomic .cas false) .g (stEl gAddr)) (stEl gAddr) (fun key p => (List.range 4).all (fun i => decide (scratch.lineKey.getD ((key + i) / 64) 0 = p.owner ∧
      destOf (key + i) = .memory))) = true := by decide

/-- A barrier of the team of the issuing group. -/
def withBar (b : Bar) (gang : Bool := false) (s : State := base) : State := s.setBar s.cur gang 1 b
def B1 : BarRef := ⟨false, 1⟩
/-- A copy of the issuing group. -/
def cp (f : Copy → Copy := id) : Copy :=
  f { core := 0, ctx := base.ctxOf base.cur, team := teamOf base.cur, group := base.cur, queue := 2, dst := .l, src := .l, scope := .group,
      counter := some 3, pc := 0x200000, after := [], moves := [{ bytes := [{}, {}, {}, {}], left := [] }] }
def withCopy (c : Copy) (s : State := base) : State := { s with nextId := s.nextId + 1, copies := s.copies.insert s.nextId c }

/-- BarrierInstructions: expected counts at the ends of their range and out of it, the last arrival and one before it, waiters
left of the phase before, both parities. -/
theorem test_hyp_barriers : (base.uni32 base.cur base.g X (.int 33)).toNat = 1 ∧ (base.uni32 base.cur base.g X (.int 32)).toNat = 0 ∧
    readyAnd (withGroup (fun g => g.ws 24 4096)) (.barInit B1 A none) (fun g => (g.rs 24).toNat = 4096) = true ∧
    readyAnd (withGroup (fun g => g.ws 24 4097)) (.barInit B1 A none) (fun g => decide (4096 < (g.rs 24).toNat)) = true ∧
    readyIn (withBar { expect := 2 }) (.barArrive D B1 none) = true ∧ (withBar { expect := 2 }).bar base.cur false 1 = { expect := 2 } ∧
    readyIn (withBar { expect := 4096, count := 4095 } true) (.barArriveNw D ⟨true, 1⟩ none) = true ∧
    ((withBar { expect := 4096, count := 4095 } true).bar base.cur true 1).count + 1 = 4096 ∧
    (withBar { expect := 2 } true).releaseWait base.cur base.g .gang = none ∧ base.boundCopies base.cur 2 = [] ∧
    (base.team base.cur).deferred = [] ∧
    readyIn (withBar { wpend := [5] }) (.barArrive D B1 none) = true ∧ ((withBar { wpend := [5] }).bar base.cur false 1).wpend ≠ [] ∧
    readyIn (withBar { phase := true }) (.barWait B1 (.int 32) none) = true ∧
    ((withBar { phase := true }).bar base.cur false 1).phase ≠ (0 : Word).getLsbD 0 ∧
    readyIn base (.barWait B1 (.int 32) none) = true ∧ (base.bar base.cur false 1).phase = (0 : Word).getLsbD 0 := by decide

/-- … and the words BARSTAT reads: the count, the waiters, the phase. -/
theorem test_hyp_barstat : ∃ w : Word, w.extractLsb' 0 13 = BitVec.ofNat 13 4095 ∧ w.extractLsb' 13 9 = BitVec.ofNat 9 448 ∧
    w.extractLsb' 22 9 = BitVec.ofNat 9 1 ∧ w.getLsbD 31 = true := ⟨0x80780FFF, by decide⟩

/-- A record of the group, parked on `w`. -/
def rcd0 (w : WaitOn) (cause : Nat := 4) : Rec :=
  ⟨0x200000, BitVec.allOnes 96, 0, [], 0, 0, 0, 0, base.cur, some 0, cause, w, [], []⟩

/-- An arrival held whose copies are complete. -/
def held0 : Deferred := { group := base.cur, gang := false, idx := 1, copies := [], order := some 0 }

/-- BarriersReleaseTheirWaiters: a waiter of the phase, a released one in each of its places, arrivals held and ready. -/
theorem test_hyp_waiters : ((withGroup (fun g => { g with hold := .bar false 1 false 0x200008 })).group? base.cur).any
      (fun g => decide (g.hold = .bar false 1 false 0x200008 ∧ g.rcd = none ∧ g.place = .resident)) = true ∧
    ((withGroup (fun g => { g with place := .yielded, released := true, rcd := some (rcd0 (.bar false 1 false)) })).group? base.cur).any
      (fun g => decide (g.place = .yielded ∧ g.hold = .ready ∧ g.released = true ∧ g.rcd.isSome)) = true ∧
    readyIn (withCopy (cp (fun c => { c with queue := 2 }))) (.barArriveDefer D B1 2 none) = true ∧
    (withCopy (cp (fun c => { c with queue := 2 }))).boundCopies base.cur 2 ≠ [] ∧
    (base.deferredReady { group := base.cur, gang := false, idx := 1, copies := [], order := some 0 } = true) ∧
    ((withCopy cp).deferredReady { group := base.cur, gang := false, idx := 1, copies := [base.nextId], order := none } = false) ∧
    (withBar { expect := 2 }).bar base.cur false 1 = { expect := 2 } ∧ base.heldReady = [] ∧ SMap.Sorted base.teams ∧
    ((base.setTeam (teamOf base.cur) { base.team base.cur with deferred := [held0] }).teamAt (teamOf base.cur)).deferred[0]? = some held0 ∧
    teamOf held0.group = teamOf base.cur := by decide

/-- A queue of the team, over 64 bytes of its scratch. -/
def withQueue (x : Queue) (s : State := scratch) : State := s.setQueue s.cur 3 x
def q4 : Queue := { defd := true, base := 64, size := 4, pphase := true, cphase := true }

/-- QueueInstructions: definitions at the ends of their range; queues that are empty, part full, full and undefined. -/
theorem test_hyp_queues : readyAnd (withGroup (fun g => (g.ws 24 2048).ws 28 256) scratch) (.qopDef 3 A B none)
      (fun g => decide ((g.rs 24).toNat % 8 = 0 ∧ 1 ≤ (g.rs 28).toNat ∧ (g.rs 28).toNat ≤ 256 ∧ (g.rs 24).toNat + 8 * (g.rs 28).toNat ≤ 4096)) = true ∧
    readyIn (withQueue q4) (.qopPush 3 A B none) = true ∧ ((withQueue q4).queue base.cur 3) = q4 ∧ q4.count ≠ q4.size ∧
    readyIn (withQueue { q4 with count := 4 }) (.qopTrypush D 3 A B none) = true ∧
    ((withQueue { q4 with count := 4 }).queue base.cur 3).count = ((withQueue { q4 with count := 4 }).queue base.cur 3).size ∧
    readyIn (withQueue { q4 with count := 1, tail := 1 }) (.qopPop D 3 none) = true ∧
    readyIn (withQueue { q4 with count := 1, tail := 1 }) (.qopTrypop D 3 none) = true ∧
    readyIn (withQueue q4) (.qopTrypop D 3 none) = true ∧ q4.count = 0 ∧ q4.blocked = [] ∧ scratch.spadMarked 64 8 = false ∧
    readyIn scratch (.qopPush 3 A B none) = true ∧ (scratch.queue base.cur 3).defd = false := by decide

/-- EventBarriers: bound and unbound, a count that reaches and one that does not, saturation, a waiter to release. -/
theorem test_hyp_events :
    let ev (b : EventBar) : State := base.setEvent 5 b
    let c := base.ctxOf base.cur
    readyIn (ev { ctx := some c, count := 65535 }) (.evw 5 (.int 33) none) = true ∧
    ((ev { ctx := some c, count := 65535 }).event 5) = { ctx := some c, count := 65535 } ∧
    readyIn (ev { ctx := some c, waiters := [(7, 1)] }) (.evw 5 (.int 33) none) = true ∧
    readyIn (ev { ctx := some c }) (.evwTry D 5 (.int 33) none) = true ∧ (0 : Nat) < 1 ∧
    readyIn (ev { ctx := some c, ovf := true }) (.evwClr D 5 none) = true ∧ readyIn (ev { ctx := some c }) (.evwStat D 5 none) = true ∧
    readyIn base (.evw 5 (.int 33) none) = true ∧ (base.event 5).ctx ≠ some c ∧ base.ioLog.length < 1024 ∧
    ((withGroup (fun g => { g with hold := .evw 5 1 0x200008 })).group? base.cur).any
      (fun g => decide (g.place = .resident ∧ g.hold = .evw 5 1 0x200008)) = true ∧
    ((ev { ctx := some 9, waiters := [(base.cur, 1)], count := 1 }).event 5).ctx ≠ some (base.ctxOf base.cur) ∧
    ((ev { ctx := some c, waiters := [(base.cur, 2)], count := 1 }).event 5).count < 2 := by decide

/-- Bytes of zeros but for some. -/
def bytes (n : Nat) (l : List (Nat × Byte)) : List Byte := (List.range n).map (fun i => SMap.getD l i 0)
/-- The state with bytes at an offset of the team's scratch. -/
def put (off : Nat) (bs : List Byte) (s : State := scratch) : State := s.setSpad (s.lKey s.cur off) bs
/-- A read of the issuing group gives the bytes `bs`, decided. -/
def readsTo (s : State) (sp : Space) (a : Int) (bs : List Byte) : Bool :=
  match s.readAs s.cur ((s.group? s.cur).getD {}) sp a bs.length with
  | .ok x => decide (x = bs)
  | .error _ => false
theorem readsTo_ok {s : State} {sp : Space} {a : Int} {bs : List Byte} (h : readsTo s sp a bs = true) :
    s.readAs s.cur ((s.group? s.cur).getD {}) sp a bs.length = .ok bs := by
  unfold readsTo at h
  split at h
  · rename_i x hx; rw [hx, of_decide_eq_true h]
  · cases h
/-- A launch record of one gang. -/
def rec1 : List Byte := bytes 64 [(58, 1)]
/-- Work queue 255 of the group's context, with so many records. -/
def withWq (n : Nat) (s : State) : State :=
  { s with workQueues := s.workQueues.insert 255 { ctx := some (s.ctxOf s.cur), size := 1, recs := List.replicate n (1, parseLaunch rec1) } }

/-- … and the record is read once: now, or before the group began to wait. -/
theorem test_hyp_record_once (s : State) (g : Group) (bs : List Byte) (h : s.readAs s.cur g .l 0 64 = .ok bs) (hg : g.hold = .ready) :
    s.readOnce s.cur g .l 0 64 = .ok bs ∧ s.readOnce s.cur { g with hold := .waiting, recRead := some bs } .l 0 64 = .ok bs := by
  simp [State.readOnce, h, hg]

/-- GridLaunches: a whole record, a work queue with room and full, one of another context; a base that is not aligned, a record
that is malformed. -/
theorem test_hyp_launches : readyIn (put 0 rec1) (.launch true D (.int 32) none) = true ∧ base.baseIn base.g .l none (.int 32) % 64 = 0 ∧
    readsTo (put 0 rec1) .l 0 rec1 = true ∧ (parseLaunch rec1).malformed = false ∧ (parseLaunch rec1).dep = false ∧
    base.releaseWait base.cur base.g .package = none ∧ base.grids.length < 65536 ∧
    readyIn (withWq 0 (withGroup (fun g => g.ws 28 255) (put 0 rec1))) (.spawn true (.int 32) B none) = true ∧
    readyIn (withWq 1 (withGroup (fun g => g.ws 28 255) (put 0 rec1))) (.spawnTry true D (.int 32) B none) = true ∧
    (withWq 0 scratch).wqFull 255 = false ∧ (withWq 1 scratch).wqFull 255 = true ∧
    (scratch.workQueues.getD 255 {}).ctx ≠ some (base.ctxOf base.cur) ∧ base.baseIn base.g .l none (.int 33) % 64 ≠ 0 ∧
    readyIn base (.launch true D (.int 33) none) = true ∧ (parseLaunch (bytes 64 [])).malformed = true ∧
    base.nextGrid + 1 ≠ 0 ∧ base.grids.find? (base.nextGrid + 1).toNat = none := by decide

/-- A page of the endpoint window at 1 GiB of G space. -/
def ep : State := base.setPhys 0 0x102008 (leBytes 8 0x000E000000000A1F)
def epGroup (a : DWord) : State := withGroup (fun g => g.wp 24 a) ep

/-- A write held by a tailstock, and the module with every port running as an endpoint's. -/
def tail0 : Tail := { group := base.cur, core := 0, target := 2 * 2 ^ 52 + 0x000E000000000000, data := [1, 2, 3, 4], cover := base.covered base.cur base.g false, order := 7 }
def running (s : State := base) : State := { s with portCfg := (List.range 4).map (fun i => (i, 0x00000004)) }

/-- DoorbellsAndTailstocks: addresses in the window, in memory, past the end, misaligned; a write to send and one that waits. -/
theorem test_hyp_doorbells : readyAnd (epGroup 0x40000FF8) (.dbell true true A B X) (fun g => decide (g.rp 24 = 0x40000FF8)) = true ∧
    (match ep.translate 0 (base.ctxOf base.cur) 0x40000FF8 .store with
     | .ok (key, p) => decide (p.tier = 2 ∧ destOf key = .endpoint)
     | .error _ => false) = true ∧
    (match ep.translate 0 (base.ctxOf base.cur) 0x300000 .store with
     | .ok (_, p) => decide (p.tier ≠ 2)
     | .error _ => false) = true ∧
    readyIn (epGroup 0x0200000000000000) (.dbell false false A B X) = true ∧ readyIn (epGroup 0x40000FFC) (.dbell true false A B X) = true ∧
    0x40000FFC % 8 ≠ 0 ∧ ep.tails.getD 0 [] = [] ∧ ep.outstanding base.cur = false ∧
    base.relDone 0 (base.covered base.cur base.g false) = true ∧
    (inFlight .store).relDone 0 ((inFlight .store).covered base.cur base.g true) = false ∧ 15 ∉ base.portDown ∧
    ({ ep with tails := [(0, [tail0])] } : State).tailFirst tail0 = true ∧ base.portUp 0 = false ∧ running.portUp 15 = true := by decide

/-! ### The matrix engine, copies, collectives -/

/-- An I8 tensor of 64 lines of 64 elements at the start of the allocation, and its entry in generation 0. -/
def img8 : List Byte := bytes 64 [(24, 64), (28, 64), (32, 64), (44, 5)]
def ent8 : List Byte := img8.take 60 ++ leBytes 4 256
/-- An FP32 tensor of one element. -/
def ent32 : List Byte := bytes 64 [(24, 1), (28, 1), (32, 4), (61, 1)]
/-- As `scratch64K`, with 8 tiles and the tensors above at entries 7 and 8 (I8) and 4095 (FP32). -/
def mx : State :=
  let s := scratch64K.setTeam (teamOf base.cur) { scratch64K.team base.cur with acc := 8 }
  let c := base.ctxOf base.cur
  ((s.setEntry c 7 ent8).setEntry c 8 ent8).setEntry c 4095 ent32
def mxA (a b : Word) : State := withGroup (fun g => (g.ws 24 a).ws 28 b) mx

/-- TensorTableInstructions: an index in the table, at its end and past it, an entry that is valid and one that is not, an image that is
malformed, a base that is not aligned, handles that are current and stale. -/
theorem test_hyp_tensors : readyIn (put 0 img8 (withGroup (fun g => g.ws 28 4095) mx)) (.tdef false D (.int 32) B X) = true ∧
    readsTo (put 0 img8 mx) .l 0 img8 = true ∧ img8.length = 64 ∧ malformedImage img8 = false ∧
    (mx.entry (base.ctxOf base.cur) 4095).valid = true ∧ (mx.entry (base.ctxOf base.cur) 9).valid = false ∧
    readyAnd (withGroup (fun g => g.ws 28 4096) mx) (.tdef false D (.int 32) B X) (fun g => decide (4096 ≤ (g.rs 28).toNat)) = true ∧
    malformedImage (bytes 64 []) = true ∧ base.accBase base.cur base.g .l X (.int 33) % 64 ≠ 0 ∧ readyIn mx (.tdef false D (.int 33) B X) = true ∧
    readyIn (mxA 7 0) (.tfree A X) = true ∧ mx.current (base.ctxOf base.cur) 7 = true ∧ mx.current (base.ctxOf base.cur) 0x1007 = false ∧
    readyIn (mxA 0x1007 0) (.tfree A X) = true ∧ readyIn mx (.tqry (.word 15) D A none) = true ∧
    mx.hasEntry 0 0 7 = false ∧ ((mxA 7 0).useEntries 0 0 [7]).hasEntry 0 0 7 = true ∧ readyIn ((mxA 7 0).useEntries 0 0 [7]) (.tfree A X) = true ∧
    readyIn ((mxA 0x1007 0).useEntries 0 0 [7]) (.tqry .cur D A none) = true := by decide

/-- MatrixInstructions: all lanes and not all; handles current and stale; formats that MMA takes and one it does not; footprints inside;
a tile of which the engine still holds an instruction. -/
theorem test_hyp_matrix : readyIn (mxA 7 8) (.mma true A B (.int 33) 0 7 none) = true ∧
    (∀ L, L < 96 → base.g.live L = true → base.g.active L = true) ∧
    readyAnd (withGroup (fun g => g.wt 125 1) mx) (.mma true A B (.int 33) 0 7 none) (fun g => g.live 95 && !g.active 95) = true ∧
    (parseEntry ent8).space = 0 ∧ mmaClass (parseEntry ent8).fmt ≠ 0 ∧ mmaClass (parseEntry ent32).fmt = 0 ∧
    mx.entryBytes (base.ctxOf base.cur) 7 = ent8 ∧ mx.current (base.ctxOf base.cur) 8 = true ∧
    ((parseEntry ent8).footprint 0 1).all (fun r => decide (r.1 + r.2 ≤ (mx.team base.cur).scratch)) = true ∧
    readyIn mx (.mzero 7 none) = true ∧ readyIn (mxA 4095 0) (.mload A (.int 32) 0 0 none) = true ∧
    readyIn (mxA 4095 0) (.mstore .rne A (.int 32) 0 0 none) = true ∧ mx.current (base.ctxOf base.cur) 4095 = true ∧
    (parseEntry ent32).tileFit = true ∧
    ((parseEntry ent32).tileFootprint 0).all (fun r => decide (r.1 + r.2 ≤ (mx.team base.cur).scratch)) = true ∧
    readyIn mx (.mcorr true false D A 7 none) = true ∧ readyIn mx (.mstat true D 0 none) = true ∧ readyIn mx (.msig D 0 none) = true ∧
    mx.tileBusy base.cur 7 = false ∧ (mx.useEntries 0 0 [7, 8]).hasEntry 0 0 7 = true ∧ (mx.useEntries 0 0 [7, 8]).hasEntry 0 0 8 = true ∧
    readyIn ((mxA 7 8).useEntries 0 0 [7, 8]) (.mma true A B (.int 33) 0 7 none) = true ∧
    readyIn ((mxA 4095 0).useEntries 0 0 [4095]) (.mload A (.int 32) 0 0 none) = true ∧ readyIn mx (.swfence .all X) = true := by decide

/-- An operation at the head of the engine's queue. -/
def eop (kind : EngineKind) (started : Bool := true) (counter : Option Nat := none) : EngineOp :=
  { id := 0, group := base.cur, tile := 0, kind := kind, counter := counter, pc := 0x200000, started := started }
def withEngine (o : EngineOp) : State := mx.setCore 0 { mx.core 0 with engine := [o] }

/-- EngineRunsItsQueue, ByteMatrixProduct: operations of every kind, begun and not, on tensors of the kinds the statements take; an
instruction on a tile that waits for the engine. -/
theorem test_hyp_engine : ((withEngine (eop .mzero)).core 0).engine = [eop .mzero] ∧
    ((withEngine (eop (.mstore .rne ent32 0) false)).core 0).engine = [eop (.mstore .rne ent32 0) false] ∧
    (parseEntry ent32).tileFit = true ∧ (parseEntry ent32).tileElems 0 = [(0, 0)] ∧ 0 ∉ (mx.tile base.cur 0).bad ∧
    (match exec (.engineOpStart 0) (withEngine (eop (.mstore .rne ent32 0) false)) with
     | .next _ => true
     | _ => false) = true ∧
    (withEngine (eop .mzero)).tileBusy base.cur 0 = true ∧ readyIn (withEngine (eop .mzero)) (.mstat false D 0 none) = true ∧
    (parseEntry ent8).fmt = 5 ∧ (parseEntry ent8).kdim ≤ 64 ∧ handleIdx 7 ≠ handleIdx 8 ∧ mx.spadBad = [] ∧ mx.samples = [] ∧
    ((withEngine (eop (.mma true ent8 ent8 7 8 1))).core 0).opCache = [] ∧ base.g.rcd = none ∧
    ((withEngine (eop (.mma true ent8 ent8 7 8 1))).core 0).upset = [] ∧ (withEngine (eop .mzero false)).accessesBefore (eop .mzero false) = false ∧
    (inFlight .store).accessesBefore { eop .mzero false with id := base.nextId + 1 } = true := by decide

theorem test_hyp_snap : (∀ x, (eop .mzero).snap.getD x 0 = base.spadByte x) ∧
    bitAt ({ mx with calCfg := 0 } : State).calCfg.toNat 31 = false := ⟨fun _ => rfl, by decide⟩

/-- CopiesEnterThePool: lengths and strides that are multiples of 4 and one that is not, lengths at the ends of the range, entries of
one format and of two, handles current and stale, queues joined and none. -/
theorem test_hyp_copies : (base.uni32 base.cur base.g X (.int 36)).toNat % 4 = 0 ∧ (base.uni32 base.cur base.g X (.int 33)).toNat % 4 ≠ 0 ∧
    readyIn scratch (.cpy .l .l false { cf with c := .int 36 }) = true ∧ readyIn scratch (.cpy .l .l false cf) = true ∧
    readyAnd (withGroup (fun g => (g.ws 32 65536).ws 33 65536) scratch) (.cpy .g .g true cft)
      (fun g => decide ((g.rs 32).toNat = 65536 ∧ (g.rs 33).toNat = 65536)) = true ∧
    readyAnd (withGroup (fun g => g.ws 32 16777220) scratch) (.cpy .g .g false cft) (fun g => decide (16777216 < (g.rs 32).toNat)) = true ∧
    scratch.copyFault base.cur base.g (.l, byteAddrs .l [(0, 4)]) (.l, byteAddrs .l [(64, 4)]) = none ∧
    scratch.outstanding base.cur = false ∧ scratch.copies = [] ∧
    readyIn (mxA 4095 4095) (.cpyt none cft) = true ∧ mx.current (base.ctxOf base.cur) 4095 = true ∧ (mx.entry (base.ctxOf base.cur) 4095).space = 0 ∧
    (mx.entry (base.ctxOf base.cur) 4095).fmt ≠ 7 ∧ (mx.entry (base.ctxOf base.cur) 4095).fmt ≠ (mx.entry (base.ctxOf base.cur) 7).fmt ∧
    mx.copyFault base.cur base.g (.l, [0, 1, 2, 3]) (.l, readAddrs []) = none ∧
    readyIn mx (.cpyt none cft) = true ∧ mx.current (base.ctxOf base.cur) 0 = false ∧
    readyIn base (.qfence 0 none) = true ∧ readyIn base (.qfence 255 none) = true ∧
    base.releaseWait base.cur base.g .system = none ∧ so.onSO base.cur [(.g, [0x40000000])] = true ∧ so.onSO base.cur [(.g, [0x300000])] = false ∧
    (mx.entry 0 4095).misaligned = false ∧ ((mxA 4095 4095).useEntries 0 0 [4095, 4095]).hasEntry 0 0 4095 = true := by decide

/-- A copy with one unit to perform, and one that pauses. -/
def rd : Copy := cp (fun c => { c with moves := [{ bytes := [{ src := some sp0 }], left := [sp0 + 64] }] })
def wr : Copy := cp (fun c => { c with moves := [{ bytes := [{}, {}, {}, {}], left := [sp0 + 64] }] })
def pf : Copy := cp (fun c => { c with src := .g, moves := [{ bytes := [{ src := some 0x50000000 }], left := [sp0] }] })
def far : Copy := cp (fun c => { c with src := .g, moves := [{ bytes := [{ src := some 0x0200000000000000 }], left := [sp0] }] })
def units (c : Copy) : List CopyUnit := (withCopy c scratch).copyUnits base.nextId c

/-- CopiesReadWriteAndComplete: one unit that is ready, a read and a write; a copy that has written and is first; one behind another;
a unit that page-faults, one that cannot be made at all, and a paused copy whose page is there. -/
theorem test_hyp_copy_units : (units rd).filter ((withCopy rd scratch).unitReady base.nextId rd) = [.read [(0, 0, sp0)]] ∧
    (units wr).filter ((withCopy wr scratch).unitReady base.nextId wr) = [.write 0 (sp0 + 64)] ∧
    (∀ e ∈ scratch.teams, e.2.deferred = []) ∧
    units (cp) = [] ∧ (cp).moves.all (fun m => m.left.isEmpty) = true ∧ (withCopy cp scratch).copiesBefore base.nextId cp = [] ∧
    (cp).after = [] ∧ (cp).paused = none ∧ (cp).faulted = false ∧ (cp).badAddr = none ∧
    (withCopy cp (withCopy cp scratch)).copiesBefore (base.nextId + 1) cp ≠ [] ∧ (withCopy cp (withCopy cp scratch)).copyUnits (base.nextId + 1) cp = [] ∧
    units pf = [.read [(0, 0, 0x50000000)]] ∧ (withCopy pf scratch).unitLoc pf (.read [(0, 0, 0x50000000)]) = .error (7, 0) ∧
    (unitSpan [(0, 0, 0x50000000)]).1 = 0x50000000 ∧ units far = [.read [(0, 0, 0x0200000000000000)]] ∧
    (withCopy far scratch).unitLoc far (.read [(0, 0, 0x0200000000000000)]) = .error (8, 0) ∧
    (match scratch.translate 0 (base.ctxOf base.cur) 0x300000 .load with
     | .ok _ => true
     | .error _ => false) = true := by decide

/-- A G tensor of one FP32 element at 0x310000, and a collective descriptor: ALLREDUCE FSUM over so many members, of which this one has
the rank; RETRY 1, TIMEOUT 2. -/
def entG : List Byte := bytes 64 [(2, 0x31), (24, 1), (28, 1), (32, 4), (44, 16), (61, 1)]
def desc (nmem : Byte) (rank : Byte := 0) : List Byte :=
  bytes 64 [(0, 5), (4, 6), (10, 0x30), (16, rank), (18, nmem), (23, 1), (24, 1), (32, 2)]
/-- The bytes of the member word of core 0 of this package, whatever its number. -/
def mw (i : Nat) : Byte := (leBytes 4 (Config.packageNumber % 512 * 512)).getD i 0
def memberList : List Byte := [mw 0, mw 1, mw 2, mw 3]

/-- The descriptor in the scratch of the group's team, the entries at 5 and 6, the member list at 0x300000 of G space. -/
def cl (d : List Byte := desc 1) : State :=
  let c := base.ctxOf base.cur
  let s := put 0 d ((scratch.setEntry c 5 entG).setEntry c 6 entG)
  { s with phys := s.phys ++ [(0x300000, mw 0), (0x300001, mw 1), (0x300002, mw 2), (0x300003, mw 3)] }

theorem cl_translate : (cl).translate 0 0 0x300000 .load = .ok (0x300000, ⟨0x30001F⟩) := by
  have h : (match (cl).translate 0 0 0x300000 .load with
    | .ok (k, p) => decide (k = 0x300000 ∧ p = ⟨0x30001F⟩)
    | .error _ => false) = true := by decide
  split at h
  · rename_i k p hk; rw [hk]; simp only [decide_eq_true_eq] at h; rw [h.1, h.2]
  · cases h

theorem member_read : (cl).readWords base.cur base.g 0x300000 1 = .ok memberList := by
  have h : (cl).readAs base.cur base.g .g 0x300000 4 = .ok memberList := by
    have ha : (cl).accessFault base.cur base.g .g 4 1 [(127, 0x300000)] = none := rfl
    have ht : (cl).translate base.g.core ((cl).ctxOf base.cur) (Int.toNat 0x300000) .load = .ok (0x300000, ⟨0x30001F⟩) := cl_translate
    simp only [State.readAs, ha, ht]; rfl
  simp only [State.readWords, Nat.cast_ofNat, h]; rfl

theorem member_word : ∀ p : Fin 512, leNat (leBytes 4 (p * 512)) = p * 512 := by decide
theorem member_ok : membersOk memberList (parseColl (desc 1)) 0 = true := by
  have h : memberWord memberList 0 = Config.packageNumber % 512 * 512 :=
    member_word ⟨Config.packageNumber % 512, Nat.mod_lt _ (by decide)⟩
  simp only [membersOk, show (parseColl (desc 1)).nmem = 1 by decide, show (parseColl (desc 1)).rank = 0 by decide, List.range_one,
    List.map_cons, List.map_nil, h]
  have hp : Config.packageNumber % 512 < 512 := Nat.mod_lt _ (by decide)
  simp only [Bool.and_eq_true]
  exact ⟨⟨by simp; omega, by simp [List.eraseDups_cons]⟩, by simp⟩

/-- A part of a collective of two members: rank 0 here, pending in slot 1. -/
def part (f : Coll → Coll := id) : Coll :=
  f { ctx := base.ctxOf base.cur, core := 0, team := teamOf base.cur, slot := 1, rank := 0, desc := desc 2, members := memberList ++ [1, 0, 0, 0],
      src := entG, dst := entG, start := 0 }
def withPart (c : Coll) (s : State := scratch) : State :=
  { s.setTeam (teamOf s.cur) { s.team s.cur with colls := (s.team s.cur).colls.insert 1 { status := 0xFF, pending := some s.nextId } } with
    nextId := s.nextId + 1, colls := s.colls.insert s.nextId c, freq := 1, cycle := 100 }
def four : SMap Byte := [(0, 1), (1, 2), (2, 3), (3, 4)]

/-- CollectivesRunInTheirSlots: a descriptor that is well formed and read whole, malformed, not aligned, with a stale handle; slots free
and pending; parts that are ready and not; steps that may be retried and that may not; a member that is late. -/
theorem test_hyp_collectives : readyIn (cl) (.coll true (.int 32) 1 none) = true ∧ readsTo (cl) .l 0 (desc 1) = true ∧
    (parseColl (desc 1)).members % 4 = 0 ∧ (cl).current 0 5 = true ∧ (cl).current 0 6 = true ∧ (cl).entryBytes 0 5 = entG ∧
    (cl).outstanding base.cur = false ∧ ((cl).team base.cur).coll 1 = {} ∧
    base.accBase base.cur base.g .l X (.int 33) % 64 ≠ 0 ∧ readyIn base (.coll true (.int 33) 1 none) = true ∧
    scratch.current 0 5 = false ∧ (parseColl (desc 1)).malformed (parseEntry entG) (parseEntry ent8) memberList 0 = true ∧
    (((withPart part).team base.cur).coll 1).pending = some base.nextId ∧ readyIn (withPart part) (.collwt D 1 none) = true ∧
    ((withPart part).collOf (teamOf base.cur) 1).any (fun x => decide (x.1 = base.nextId ∧ x.2.team = teamOf base.cur ∧ x.2.slot = 1)) = true ∧ (part).ready = false ∧
    (part (fun c => { c with data := four, got := [(1, [0, 0, 0, 0])] })).ready = true ∧
    (∀ e, e < (parseColl (desc 2)).dstElems → e ∈ [0]) ∧
    1 ≠ (part).rank ∧ 1 ∈ (parseColl (desc 2)).needs ∧ (part).got.find? 1 = none ∧
    (part).tries.getD 1 0 < (parseColl (desc 2)).retry ∧ (parseColl (desc 2)).retry ≤ (part (fun c => { c with tries := [(1, 1)] })).tries.getD 1 0 ∧
    (parseColl (desc 2)).timeout ≠ 0 ∧ (∀ e ∈ (withPart part).colls, e.2.rank ≠ 1) ∧
    (part).start + (parseColl (desc 2)).timeout * (withPart part).freq ≤ (withPart part).cycle ∧
    (parseColl (desc 2)).agrees (parseColl (desc 2 1)) = true ∧ (part (fun c => { c with rank := 1, desc := desc 2 1, data := four })).allRead = true ∧
    (part).matches (part (fun c => { c with rank := 1, desc := desc 2 1, data := four })) = true := by
  have hm : (part).matches (part (fun c => { c with rank := 1, desc := desc 2 1, data := four })) = true := by
    simp [Coll.matches, Coll.akin, sameList, part]; decide
  refine ⟨?_, ?_, ?_, ?_, ?_, ?_, ?_, ?_, ?_, ?_, ?_, ?_, ?_, ?_, ?_, ?_, ?_, ?_, ?_, ?_, ?_, ?_, ?_, ?_, ?_, ?_, ?_, ?_, hm⟩ <;> decide

/-- … the members' list is as the rules have it, and rank 1 is of this package where its word says so. -/
theorem test_hyp_members : (parseColl (desc 1)).malformed (parseEntry entG) (parseEntry entG) memberList 0 = false ∧
    memberPkg (memberList ++ memberList) 1 = Config.packageNumber % 512 := by
  constructor
  · simp only [CollDesc.malformed, member_ok]; decide
  · have h : memberWord (memberList ++ memberList) 1 = Config.packageNumber % 512 * 512 :=
      member_word ⟨Config.packageNumber % 512, Nat.mod_lt _ (by decide)⟩
    have hp : Config.packageNumber % 512 < 512 := Nat.mod_lt _ (by decide)
    simp only [memberPkg, h, bitsAt]; omega

/-- … and the entries held; a part that is not stuck, one whose collective failed by timeout, and a part of it that came late enough. -/
theorem test_hyp_coll_fails : ((cl).useEntries 0 0 [5, 6]).hasEntry 0 0 5 = true ∧ (cl).hasEntry 0 0 5 = false ∧
    ({ (part) with start := 0 }).start + (parseColl (desc 2)).timeout * (withPart part).freq ≤ (withPart part).cycle := by decide
theorem test_hyp_coll_stuck (s : State) (id : Nat) (c : Coll) (h : s.colls = [(id, c)]) (x : Option (Nat × Nat)) (hf : c.failed = x) :
    s.collFailed c = x ∧ (x = none → (parseColl c.desc).agrees (parseColl c.desc) = true → s.collStuck id c = none) := by
  have hc : s.collFailed c = x := by cases x <;> simp [State.collFailed, h, Coll.matches, Coll.akin, sameList, hf]
  refine ⟨hc, fun hx ha => ?_⟩
  simp [State.collStuck, hc, hx, State.collClash, h, ha]
theorem test_hyp_coll_agrees : (parseColl (desc 2)).agrees (parseColl (desc 2)) = true := by decide

/-- … and a sum of floats that is no NaN. -/
theorem test_hyp_sums : (fp32.decode (fAdd fp32 .rne (fp32.decode 0x3F800000) (fp32.decode 0x40000000)).1).isNan = false := by decide

/-! ### Groups between their words, gangs, grids, queues -/

/-- The issuing group as `p` says. -/
def groupIs (s : State) (p : Group → Bool) : Bool := (s.group? base.cur).any p
/-- The group with a record that is queued for resumption. -/
def queued (s : State := base) : State := withGroup (fun g => { g with place := .queued, rcd := some (rcd0 .none) }) s
/-- … of a team that stays on its core. -/
def anchored : State := withKernel (fun k => { k with scratch := 64 }) queued
/-- Where it may resume. -/
def places (s : State) : List (Nat × Nat) := s.resumePlaces base.cur ((s.group? base.cur).getD {})

/-- PendingEventsAreTakenAtBoundaries: a fault, and discards of each kind, at a boundary and inside a pair or a SYSREQ; a record with no
place, one place and several places to resume in. -/
theorem test_hyp_events_pending : groupIs base (fun g => decide (g.scalarErr = none ∧ g.place = .resident ∧ g.pairPending = false ∧
      g.hold = .ready ∧ g.asyncFault = none ∧ g.haltPending = none ∧ g.fwStop = false ∧ g.vBad = [])) = true ∧
    groupIs (withGroup (fun g => { g with asyncFault := some { cause := 7, pc := 0 } })) (fun g => g.asyncFault.isSome) = true ∧
    groupIs (withGroup (fun g => { g with stopCause := some 7 })) (fun g => g.stopCause = some 7) = true ∧
    groupIs (withGroup (fun g => { g with stopCause := some 1, pairPending := true })) (fun g => g.stopCause = some 1 && g.pairPending) = true ∧
    ((base.setGrid 1 { base.grid base.cur with terminating := true }).grid base.cur).terminating = true ∧
    (base.grid base.cur).terminating = false ∧
    groupIs (withGroup (fun g => { g with hold := .sysreq 0 0 0 0 })) (fun g => g.hold = .sysreq 0 0 0 0) = true ∧
    places (anchored.setCore 0 { oos := [0, 1, 2, 3] }) = [] ∧ places (anchored.setCore 0 { oos := [0, 1, 3] }) = [(0, 2)] ∧
    (0, 0) ∈ places queued ∧ (447, 3) ∈ places queued ∧
    groupIs (withGroup (fun g => { g with hold := .halted, stopCause := some 1 })) (fun g => decide (g.hold = .halted) && g.stopCause.any (· ≠ 7)) = true ∧
    base.unsavable base.cur base.g = false ∧ base.unsavable base.cur { base.g with sBad := [0] } = true := by decide

/-- … and a datapath for the record in its own core. -/
theorem test_hyp_resume : (anchored.gang base.cur).place = .placed ∧ (anchored.grid base.cur).terminating = false ∧
    (anchored.team base.cur).core < 448 ∧ (anchored.core (anchored.team base.cur).core).drained = false ∧
    (∀ o ∈ anchored.ops, o.2.group = base.cur → o.2.kind = .load) ∧
    anchored.ahead base.cur (anchored.team base.cur).core ((anchored.group? base.cur).getD {}) = false ∧
    (∃ l ∈ anchored.dpLoads (anchored.team base.cur).core (teamOf base.cur), l.groups < 8 ∧ l.mine < 4 ∧ l.regs + base.g.vregs ≤ 512) ∧
    anchored.floats base.cur = false := by decide

/-- The group parked, its record in the fault queue. -/
def parked : State :=
  let s := withGroup (fun g => { g with place := .parked, rcd := some (rcd0 .none 3) })
  { s with faultQueue := [faultBytes s base.cur base.g { cause := 7, pc := 0x200000, addr := 0x40000000 }] }

/-- FirmwareServesGroups: records that wait; parked groups with and without a record in the queue; services; a halted group; debugged and not;
a translation that a TLB holds. -/
theorem test_hyp_firmware : ((base.setCore 3 { faultWait := [(4, [1])] }).core 3).faultWait = [(4, [1])] ∧ base.faultQueue.length < 1024 ∧
    (∀ c ∈ (base.setCore 3 { faultWait := [(4, [1])] }).cores, ∀ x ∈ c.2.faultWait, 4 ≤ x.1) ∧
    (∃ c ∈ ((base.setCore 3 { faultWait := [(4, [1])] }).setCore 9 { faultWait := [(2, [2])] }).cores, ∃ x ∈ c.2.faultWait, x.1 < 4) ∧
    groupIs parked (fun g => decide (g.place = .parked) && g.rcd.any (fun r => r.cause = 3)) = true ∧
    (parked.faultQueue.find? (parked.recordOfGroup base.cur)).any (fun b => natAt b 24 8 = 0x40000000) = true ∧
    (parked.ctx 0).demand 0x40000000 = false ∧ Pte.malformed ⟨0x1F⟩ 2 = false ∧ Pte.windowOk ⟨0x1F⟩ = true ∧
    Pte.owner ⟨0x1F⟩ = (parked.ctx 0).owner ∧ parked.retired = [] ∧
    (({ parked with faultQueue := [] } : State).changeLeaf 0 0x40000000 2 0x1F).any (fun t => (t.walk 0 0x40000000).isOk) = true ∧
    (({ parked with faultQueue := [] } : State).changeLeaf 0 0x80000000 2 0x1F).any (fun t => !(t.walk 0 0x40000000).isOk) = true ∧
    ({ base with sysreqQueue := [base.cur] } : State).sysreqQueue.contains base.cur = true ∧ (base.event 255).ctx ≠ some (base.ctxOf base.cur) ∧
    ((base.setEvent 255 { ctx := some 0 }).event 255).ctx = some (base.ctxOf base.cur) ∧
    groupIs (withGroup (fun g => { g with hold := .halted })) (fun g => decide (g.hold = .halted) && decide (255 < g.vregs) && g.live 95) = true ∧
    base.atomsUse 0 (99 * 65536) 65536 = false ∧
    (scratch.withOp (op (.atomic .add true) .g { el 0x630000 with leaf := some 0x1F })).atomsUse 0 (99 * 65536) 65536 = true ∧
    base.pagedOut = [] ∧
    ({ base with tlbs := [(tlbKey 0 0 99, 0x1F)] } : State).tlbs.find? (tlbKey 0 0 99) = some 0x1F ∧
    (∀ e ∈ base.cores, e.2.storeBuf = []) := by decide

/-- A second gang of the grid, which waits. -/
def waiting : State := base.setGang (gangOf base.cur + 1) { dispatched := 0 }
/-- … and needs more scratch than a core has; no gang is on the cores. -/
def full : State := { withKernel (fun k => { k with scratch := 400000 }) waiting with teams := [], groups := [] }
def gx : Nat := gangOf base.cur + 1

/-- SchedulerPlacesGangs: nothing waits; a gang that fits; one that fits nowhere but has cores to reserve. -/
theorem test_hyp_scheduler : base.placementStop = false ∧ base.chuck = none ∧ base.waitOrder = [] ∧ SMap.Sorted waiting.gangs ∧
    waiting.waitOrder = [gx] ∧ (waiting.gangs.getD gx {}).place = .waiting ∧ (waiting.findRect gx []).isSome = true ∧
    waiting.nextTicket ∉ waiting.gangs.map (fun e => e.2.ticket) ∧ base.waits (gangOf base.cur) = false ∧
    State.waitOrder { ({ base with chuck := some { gang := gangOf base.cur, die := 0, origin := 0, since := 0 } } : State) with chuck := none } = [] := by decide

theorem no_base (s : State) (c : Nat) : s.freeBases c 400000 = [] := by
  simp only [State.freeBases, List.filter_eq_nil_iff]
  intro b _; simp

theorem full_kernel : (full.kernel (gx * 256)).scratch = 400000 ∧ (full.kernel (gx * 256)).w = 1 ∧ (full.kernel (gx * 256)).h = 1 := by decide

theorem no_rect : full.findRect gx [] = none := by
  have ht (m c : Nat) : full.teamFits gx m c = false := by simp [State.teamFits, full_kernel.1, no_base]
  simp only [State.findRect, List.find?_eq_none]
  intro r _
  simp [State.misfits, State.rectCores, ht, full_kernel.2.1, full_kernel.2.2]

theorem some_rect (s : State) (x : Nat) (hw : (s.kernel (x * 256)).w = 1) (hh : (s.kernel (x * 256)).h = 1) :
    (s.reserveRect x).isSome = true := by
  have h (f : Nat × Nat → Nat) : ∀ (l : List (Nat × Nat)) (b : Nat × Nat), (l.foldl (fun (best : Option (Nat × Nat)) r =>
      match best with
      | none => some r
      | some b => if f r < f b then some r else best) (some b)).isSome = true := by
    intro l
    induction l with
    | nil => intro b; rfl
    | cons a l ih => intro b; simp only [List.foldl_cons]; split <;> exact ih _
  obtain ⟨a, l, hl⟩ : ∃ a l, rectangles 1 1 = a :: l := ⟨_, _, rfl⟩
  simp only [State.reserveRect, hw, hh, hl, List.foldl_cons]
  exact h _ l a

/-- … and a gang that no rectangle holds. -/
theorem test_hyp_reserve : full.waitOrder = [gx] ∧ full.findRect gx [] = none ∧ (full.reserveRect gx).isSome = true ∧ full.teams = [] :=
  ⟨by decide, no_rect, some_rect full gx full_kernel.2.1 full_kernel.2.2, rfl⟩

/-- Two gangs wait that no rectangle holds, and the later one has the chuck. -/
def full2 : State := { full.setGang (gx + 1) { full.gangs.getD gx {} with place := .waiting } with
  chuck := some { gang := gx + 1, die := 0, origin := 0, since := 0 } }

theorem full2_kernel (x : Nat) (h : x = gx ∨ x = gx + 1) :
    (full2.kernel (x * 256)).scratch = 400000 ∧ (full2.kernel (x * 256)).w = 1 ∧ (full2.kernel (x * 256)).h = 1 := by
  rcases h with rfl | rfl <;> decide

theorem no_rect2 (x : Nat) (h : x = gx ∨ x = gx + 1) (held : List Nat) : full2.findRect x held = none := by
  have hk := full2_kernel x h
  have ht (m c : Nat) : full2.teamFits x m c = false := by simp [State.teamFits, hk.1, no_base]
  simp only [State.findRect, List.find?_eq_none]
  intro r _
  simp [State.misfits, State.rectCores, ht, hk.2.1, hk.2.2]

theorem test_hyp_chuck_moves : full2.waitOrder = [gx, gx + 1] ∧ gx ≠ gx + 1 ∧ full2.findRect gx [] = none ∧
    (full2.reserveRect gx).isSome = true ∧ (∀ held, full2.findRect (gx + 1) held = none) ∧ full2.teams = [] :=
  have hk := full2_kernel gx (.inl rfl)
  ⟨by decide, by decide, no_rect2 gx (.inl rfl) [], some_rect full2 gx hk.2.1 hk.2.2, no_rect2 _ (.inr rfl), rfl⟩

/-- The gang of the issuing group somewhere else. -/
def withGang (p : GangPlace) (s : State := base) : State := s.setGang (gangOf s.cur) { s.gang s.cur with place := p }
def gi : Nat := gangOf base.cur
/-- As `withGang`, with no group resident. -/
def away (p : GangPlace) : State := withGang p { scratch with groups := [] }

/-- GangsAreSwapped: a gang that may be swapped out and one that may not, one that returns, one that is placed; a core whose count has
expired while a gang waits, and one whose has not. -/
theorem test_hyp_swaps : (away (.swapping 1)).gangs.find? gi = some ((away (.swapping 1)).gang base.cur) ∧ (away (.swapping 1)).swapReady gi = true ∧
    (withGang (.swapping 2)).swapReady gi = false ∧ (scratch.members gi).map (·.1) = [gi * 16] ∧
    (scratch.team base.cur).base + (scratch.team base.cur).scratch ≤ 524288 ∧ (scratch.team base.cur).base % 4 = 0 ∧
    ((away .returning).gang base.cur).place = .returning ∧ ((away .returning).gang base.cur).image = [] ∧ (base.gang base.cur).place = .placed ∧
    base.gangWaits = false ∧ waiting.gangWaits = true ∧
    2 ^ (waiting.schedcfg.toNat % 32) ≤ ({ waiting with waitClock := 2 ^ 20 } : State).waitClock - (waiting.core 0).fpMark ∧
    (waiting.qualifying 0).length = 1 ∧ waiting.waitClock - (waiting.core 0).fpMark < 2 ^ (waiting.schedcfg.toNat % 32) := by decide

/-- A kernel descriptor at 0x300000 of G space, its team descriptor at 0x310000, one live set without registers at 0x320000. -/
def kdesc : List Byte := bytes 64 [(2, 0x20), (10, 0x32), (18, 0x31), (24, 0xFF), (25, 0xFF), (26, 0xFF), (27, 0xFF), (28, 1)]
def kd : State := (base.setPhys 0 0x300000 kdesc).setPhys 0 0x310000 (bytes 64 [(4, 1), (5, 0x10), (6, 1), (16, 4), (17, 8)])
def newGr (f : Grid → Grid := id) : Grid := f { ctx := 0, lr := { kdesc := 0x300000, ngangs := 2 } }

/-- GridsBeginAndEnd: grids to be taken up that succeed and fail, done and not done, with a completion address and without, terminating
and not; a work queue with a record. -/
theorem test_hyp_grids : (match kd.readKernel newGr with
      | .ok (k, _) => decide (k.roles = [0] ∧ k.live = [{}])
      | .error _ => false) = true ∧
    (match base.readKernel newGr with
     | .ok _ => 0
     | .error c => c) = 0x0802 ∧ (newGr).kernel = none ∧ (newGr).code = none ∧
    (base.grid base.cur).kernel.isSome = true ∧ (withGang .retired).gridDone 1 ((withGang .retired).grid base.cur) = true ∧
    ((withGang .retired).grid base.cur).lr.evt = false ∧ ((withGang .retired).grid base.cur).lr.doneaddr = 0 ∧
    (match kd.translate rootTlb 0 0x310000 .store with
     | .ok (key, _) => !kd.stackLost key && (List.range 8).all (fun i => destOf (key + i) = .memory)
     | .error _ => false) = true ∧
    (withGang .retired).gridDone 1 { (withGang .retired).grid base.cur with lr := { doneaddr := 0x310000 } } = true ∧
    base.gridDone 1 (base.grid base.cur) = false ∧ (base.grid base.cur).terminating = false ∧ SMap.Sorted base.groups ∧
    (waiting.gangs.find? gx).any (fun g => decide (g.place = .waiting)) = true ∧
    ((withWq 1 base).workQueues.find? 255).any (fun w => decide (w.ctx = some 0 ∧ w.recs.length = 1)) = true ∧
    (∀ e ∈ base.groups, e.1 / 16777216 = 1 → e.2.hold ≠ .halted) ∧
    parked.groups.map (·.1) = [base.cur] ∧ parked.faultQueue.all (parked.recordOfGroup base.cur) = true ∧
    groupIs (withGroup (fun g => { g with hold := .halted }) parked) (fun g => decide (g.hold = .halted)) = true := by decide

/-- User queue 9 with its ring at 0x300000, doorbell index 4095, in slot 31. -/
def uq : UserQueue := { ring := 0x300000, ctx := 0, dbidx := 4095 }
def slot (h : HwSlot) (s : State := base) : State := { s with userQueues := [(9, uq)], slots := [(31, h)] }
def scan : HwSlot := { queue := some 9, scanning := true, rereads := 2 }
/-- A packet at the ring's start: valid in phase 1, with DEP or without. -/
def packet (dep : Bool) : List Byte := bytes 64 [(56, if dep then 8 else 0), (58, 1), (63, 0x80)]
def ring (dep : Bool) : State := base.setPhys 0 0x300000 (packet dep)
def head (s : State) : LaunchRec := parseLaunch (s.getPhys 0 0x300000 64)

/-- UserQueuesAreScanned: kicks with no slot and with one; packets that are valid, valid with DEP while the queue is busy, and not valid;
queues that are pending, with a slot and with none; a slot that has been idle. -/
theorem test_hyp_user_queues : base.slots.all (fun e => (base.slotQueue e.2).isNone) = true ∧ 4095 ∉ base.pendingIdx ∧
    (slot { queue := some 9 }).slots.find? 31 = some { queue := some 9 } ∧ (slot { queue := some 9 }).userQueues.find? 9 = some uq ∧
    uq.dbidx = (0xFFF#12).toNat ∧
    (match (slot scan).translate rootTlb 0 0x300000 .load with
     | .ok (key, p) => decide (key = 0x300000 ∧ p.owner = 0)
     | .error _ => false) = true ∧
    (head (ring false)).valid = scan.xphase ∧ (head (ring false)).dep = false ∧ (head (ring true)).dep = true ∧ (head base).valid ≠ scan.xphase ∧
    (slot scan).queueBusy 9 = false ∧ ((slot scan).setGrid 7 { source := .userQueue 9 }).queueBusy 9 = true ∧
    1 < scan.rereads ∧ { scan with rereads := 1, fromKick := true }.rereads ≤ 1 ∧
    ({ slot {} with pendingIdx := [4095], ctxs := [(0, { quota := [31] })] } : State).pendingQueue 9 uq = true ∧
    ({ slot {} with ctxs := [(0, { quota := [31] })] } : State).slotFor uq = some (31, {}) ∧ (slot {}).slotFor uq = none ∧
    100 * ({ base with cycle := 330000 } : State).freq ≤ 330000 - ({ queue := some 8 } : HwSlot).idleSince ∧
    ({ slot { queue := some 8 } with pendingIdx := [4095] } : State).pendingOrder = [9] ∧
    (slot { queue := some 8 } { base with cycle := 330000 }).slots.getD 31 {} = { queue := some 8 } ∧ SMap.Sorted (slot scan).userQueues ∧
    (∀ e ∈ (slot scan).userQueues, e.2.dbidx = (0xFFF#12).toNat → e.1 = 9) := by decide

/-- IllegalStatesDrainTheCluster: a first drain, a second one within a second, a drain that is over and one that is not. -/
theorem test_hyp_drains : base.lastDrain.find? (clusterOf 447) = none ∧
    ({ base with lastDrain := [(clusterOf 447, 0)] } : State).lastDrain.find? (clusterOf 447) = some 0 ∧ base.cycle - 0 ≤ 1000000 * base.freq ∧
    ({ (base.setCore 447 { drained := true }) with cycle := 4000 } : State).drainOver (clusterOf 447) = true ∧ base.drainOver 0 = false := by decide

/-- ControllersAndLinks: banks that serve and are refreshed, with an allowance and without; stacks in service, in self-refresh, lost;
ports in every state, and flits that are good, bad and out of order. -/
theorem test_hyp_controllers : (base.pch 65535).allBank = false ∧ 15 ∉ (base.pch 65535).refreshing ∧ (base.stack 0).selfRefresh = false ∧
    (base.stack 7).oos = false ∧ (base.stack 7).heldSince = none ∧ (base.stack 7).replays = 0 ∧ (base.stack 7).slot = false ∧
    ((base.stack 7).key false).live = true ∧ ((base.stack 7).key true).live = false ∧ ((base.stack 7).key false).down < 2147483648 ∧
    ((base.setStack 7 { key0 := ⟨true, 2147483648, 0⟩ }).stack 7).slot = false ∧
    2147483648 ≤ (((base.setStack 7 { key0 := ⟨true, 2147483648, 0⟩ }).stack 7).key false).down ∧
    (((base.setStack 7 { key0 := ⟨true, 2147483648, 0⟩, key1 := ⟨true, 0, 0⟩ }).stack 7).key true).live = true ∧
    base.slotUsed 7 true = false ∧ (base.setPch 458755 { queue := [(5, 9, true)] }).slotUsed 7 true = true ∧
    ((base.setStack 7 { selfRefresh := true, heldSince := some 0 }).stack 7) = { selfRefresh := true, heldSince := some 0 } ∧
    0 + 2000 * base.freq < ({ base with cycle := 6600001 } : State).cycle ∧ base.cycle ≤ 0 + 2000 * base.freq ∧
    ((base.setPch 3 { allBank := true }).pch 3).allBank = true ∧
    base.bankServed { served := [(0, 0)] } 0 = true ∧ base.bankServed {} 0 = false ∧ ({ allowance := [(0, 0)] } : PseudoCh).allowance.getD 0 8 = 0 ∧
    (base.port 63).oos = false ∧ (base.port 63).retraining = false ∧ (base.port 63).replays < 8 ∧
    ((base.setPort 63 { replays := 8, retrained := true }).port 63) = { replays := 8, retrained := true } ∧
    ((base.setPort 63 { retraining := true }).port 63).retraining = true ∧
    0 = (base.port 63).expected ∧ destOf 0x300000 = .memory ∧ base.stackLost 0x300000 = false ∧ (7, 3) ∉ base.seenFlits ∧
    (7, 3) ∈ ({ base with seenFlits := [(7, 3)] } : State).seenFlits ∧
    (base.port 63).tx = [] ∧ (base.port 63).replay.length ≤ 64 ∧ ((base.setPch 3 { queue := [(5, 9, false)] }).pch 3).queue = [] ++ [(5, 9, false)] ∧
    (∃ r ∈ ({ queue := [(5, 9, false)] } : PseudoCh).queue, r.1 = 5) ∧ ({ queue := [(5, 9, false)] } : PseudoCh).allowance.getD 5 8 = 8 ∧
    (let p : Port := { replay := [{ kind := .remoteWrite, dest := 0, link := some (63, 4) }], nackSeq := 4, nacks := 8 }
     ((base.setPort 63 p).port 63) = p ∧ (p.replay.find? (fun m => m.link = some (63, 4))).isSome = true ∧
     ∀ m ∈ p.replay ++ p.tx, m.kind ≠ .collStep) := by
  decide

/-- … and a member of another package. -/
theorem test_hyp_far_member :
    memberPkg (leBytes 4 0 ++ leBytes 4 ((Config.packageNumber + 1) % 512 * 512)) 1 ≠ Config.packageNumber % 512 := by
  have h : memberWord (leBytes 4 0 ++ leBytes 4 ((Config.packageNumber + 1) % 512 * 512)) 1 = (Config.packageNumber + 1) % 512 * 512 :=
    member_word ⟨(Config.packageNumber + 1) % 512, Nat.mod_lt _ (by decide)⟩
  simp only [memberPkg, h, bitsAt]; omega

/-- A store to another package that has been sent, and an entry of a store buffer in two runs of bytes: the acknowledgements make them
performed (R215). -/
def farStore : State :=
  { base.withOp { group := base.cur, ctx := 0, core := 0, kind := .store, space := .g, scope := .package, size := .w, vec := false, reg := 20,
                  counter := 0, pc := 0x200000, elems := [{ lane := 127, addr := 0, n := 4, todo := [], sent := true }] } with
    asks := [(3, .elem base.nextId 0 []), (4, .written 90), (5, .written 90)] }.setCore 0
      { base.core 0 with away := [⟨90, 7, 0, [(0, 1)], [], [], false, []⟩] }

theorem test_acknowledgement : farStore.asks.find? 3 = some (.elem base.nextId 0 []) ∧ (farStore.ops.find? base.nextId).isSome = true ∧
    ((farStore.askAnswered 3 [] false).ops.find? base.nextId).isNone = true ∧
    ((farStore.askAnswered 4 [] false).core 0).away.length = 1 ∧
    (((farStore.askAnswered 4 [] false).askAnswered 5 [] false).core 0).away = [] ∧
    farStore.owes 90 = true ∧ (farStore.core 0).unhomed.length = 1 := by decide

/-- ReductionsAndScans: lanes of zeros, for FMIN, FMAX and AMAX. -/
theorem test_hyp_fmin : (List.range 96).filter (fun L => base.g.part L) ≠ [] ∧
    (∀ L ∈ List.range 96, base.laneSrc base.cur base.g (.flt fp32) X (.v 1) L = 0) ∧ nanF32 0 = false := by decide
theorem test_hyp_fmin_least : ¬ belowF32 0 0 := by simp [belowF32]

/-! ### Endpoints, the root die, management, encoding -/

/-- A requester, and its channel: VALID, RETIRING, ATSEN, PRIEN as said; context 0. -/
def who : Requester := ⟨0, 0, none⟩
def chan (bits : Nat) : Channel := { entry := BitVec.ofNat 64 (bits * 2 ^ 60) }
def ok' : Channel := chan 11
def withChan (c : Channel) (s : State := running) : State := { s with channels := [(4095, c)] }
def ok : State := withChan ok'

/-- Whether a request reaches a byte of memory through a channel. -/
def reaches (s : State) (c : Channel) (a : DWord) (n : Nat) (need : Need) : Bool :=
  match s.reach c false a n need with
  | .ok (key, _) => !s.stackLost key && (List.range n).all (fun i => destOf (key + i) = .memory)
  | .error _ => false

/-- EndpointRequests: a request of a channel in service, one under reset, one without a channel; an event target; addresses that are
reached and not; an atomic; an operation that waits for its completion. -/
theorem test_hyp_endpoints : ok.channelOf who = some (4095, ok') ∧ ok'.flr = false ∧ base.channelOf who = none ∧
    (withChan { ok' with flr := true }).channelOf who = some (4095, { ok' with flr := true }) ∧ base.ioLog.length < 1024 ∧
    (0x01FFFFFFFFFF0FF0 : DWord).toNat = 0x01FFFFFFFFFF0000 + 16 * 255 ∧ eventTarget false 0x300000 = none ∧
    reaches ok ok' 0x300000 512 .store = true ∧ reaches ok ok' 0x300000 4 .load = true ∧ reaches ok ok' 0x300000 8 .atomic = true ∧
    (match ok.reach ok' false 0x40000000 4 .load with
     | .ok _ => true
     | .error _ => false) = false ∧ ok.physBad = [] ∧ (0x300000 : DWord).toNat % 8 = 0 ∧
    (let e := { el 0x40000000 with sent := true }
     (scratch.withOp (op .load .g e)).ops.find? scratch.nextId = some (op .load .g e) ∧ e.lane = 127 ∧ e.performed = false ∧ e.todo ≠ []) ∧
    running.portUp 0 = true ∧ base.portUp 0 = false ∧ ({ ok with peerReads := [(3, ⟨9, 1, 0x40000000, false⟩)] } : State).peerReads.find? 3 = some ⟨9, 1, 0x40000000, false⟩ ∧
    ok.ops.find? 3 = none ∧ (withChan ok' (running ep)).channelOf who = some (4095, ok') ∧
    (match (withChan ok' (running ep)).reach ok' false 0x40000000 4 .load with
     | .ok (key, _) => decide (destOf key = .endpoint)
     | .error _ => false) = true := by
  decide

/-- A grant of the first GiB. -/
def gr0 : Grant := ⟨0, 2, 0x1F⟩
/-- A page request, the last of its group. -/
def preq (a : DWord) (write : Bool := false) : PageReq := { who := who, addr := a, write := write, prg := 7, last := true }

/-- GrantsAndPageRequests: an address with a leaf and one without, a channel that may request both and one that is none, grants to be
invalidated by page, all at once, and by reset; page requests that are mapped, denied and not mapped. -/
theorem test_hyp_grants : ok'.atsEn = true ∧ ok'.priEn = true ∧ ok'.retiring = false ∧ ok'.valid = true ∧
    (ok.walkLeaf (ok.ctx ok'.ctx).root 0x40000000 5) = none ∧ ok.walkLeaf (ok.ctx ok'.ctx).root 0x300000 5 = some (2, ⟨0x1F⟩) ∧
    (⟨0x1F⟩ : Pte).pR = true ∧ gr0 ∉ ok'.grants ∧ ok'.grants.length < 65536 ∧
    (∀ e ∈ ok.channels, e.2.grants.any (fun g => g.covers 0x300000) = false) ∧ gr0.covers 0x300000 = true ∧
    ((withChan { ok' with inval := [some [gr0]], grants := [gr0] }).channels.find? 4095).isSome = true ∧
    ok.portUp 0 = true ∧ (withChan { ok' with grants := [gr0] }).channels = [(4095, { ok' with grants := [gr0] })] ∧ ok'.waiting = [] ∧
    ({ chan 14 with inval := [none], flr := true } : Channel).retiring = true ∧
    (chan 12).retiring = true ∧ ok.pageReqs.length < 4096 ∧ base.channelOf who = none ∧
    ok.requestState 0 (preq 0x300000) = some true ∧
    (ok.setPhys 0 0x102000 [0x1B]).requestState 0 (preq 0x300000 true) = some false ∧ ok.requestState 0 (preq 0x40000000) = none ∧
    (ok.ctx 0).demand 0x40000000 = false ∧ ({ (ok.ctx 0) with onDemand := [(0x40000000, 0x40010000)] } : Ctx).demand 0x40000000 = true ∧
    (ok.walk 0 0x40000000).isOk = false ∧ (ok.ctxs.find? (preq 0).ctx).isSome = true ∧
    (0x40000000 : DWord).toNat / 65536 ≠ (0x40010000 : DWord).toNat / 65536 ∧ ok.requestState 0 (preq 0x40010000) = none := by decide

/-- A sample of core 0. -/
def smp (f : Sample → Sample := id) : Sample := f { core := 0, group := base.cur, tile := 0, pc := 0, sig := 5, exact := 5, start := 0 }

/-- CaliperPowerAndScrubbing: samples with no replay, with two that agree and two that do not, late and in time; power above the limit,
below it and between; dies; pages of each kind of unit, retired and not. -/
theorem test_hyp_caliper : ({ base with samples := [(3, smp)] } : State).samples.find? 3 = some smp ∧ (base.replayCore smp).isSome = true ∧
    (smp (fun x => { x with replays := [(1, 6), (2, 5)] })).replays = [(1, 6), (2, 5)] ∧ (base.core 0).arrayEn ≠ 0 ∧ (base.core 0).calArrays = [] ∧
    (base.core 0).calSamp ≠ BitVec.allOnes 32 ∧ (smp).start + 1000 * base.freq ≤ ({ base with cycle := 3300000 } : State).cycle ∧
    base.cycle < (smp).start + 1000 * base.freq ∧ base.critical = [] ∧ base.powerCfg.toNat / 2 ^ 20 < 2401 ∧ 25 < base.freq ∧
    2280 * 100 ≤ base.powerCfg.toNat / 2 ^ 20 * 95 ∧ base.freq ≤ base.powerCfg.toNat / 2 ^ 8 % 2 ^ 12 ∧
    2400 ≤ base.powerCfg.toNat / 2 ^ 20 ∧ base.powerCfg.toNat / 2 ^ 20 * 95 < 2400 * 100 ∧
    ({ base with critical := [3] } : State).critical ≠ [] ∧ 0x300000 % pageBytes 0 = 0 ∧ (base.ctx 0).cap = 0 ∧ base.retired = [] := by decide

/-- … whichever unit the page's addresses lie in. -/
theorem test_hyp_units : (∀ k ∈ [0x300000, 2 ^ 52, 2 * 2 ^ 52 + 0x000C000000000000], unitFits (scrubUnit k) k = true) ∧
    ∀ u, (0x300000, 65536) ∈ ({ base with retired := [(u, [(0x300000, 65536)])] } : State).retired.getD u [] := by
  constructor
  · intro k hk
    simp only [unitFits, beq_self_eq_true, Bool.and_true]
    fin_cases hk <;> decide
  · intro u; simp [SMap.getD, SMap.find?]

/-- RootDieAndReset: a legal SCHEDCFG at both ends of FPEXP, bytes of memory and of a scratchpad, a module without power. -/
theorem test_hyp_root : 1 ≤ (0x0001000A : Word).toNat / 2 ^ 8 % 2 ^ 16 ∧ 10 ≤ (0x0000010A : Word).toNat % 32 ∧ (0x0000011E : Word).toNat % 32 ≤ 30 ∧
    (List.range 5).all (fun i => destOf (0x300000 + i) = .memory) = true ∧ 393212 + 4 ≤ 393216 ∧
    ({ base with powered := false } : State).powered = false ∧ base.agenda = [] := by decide

/-- Sessions of the operator and of owner 7, on a module that has booted, with a context of the owner. -/
def mg : State :=
  { base with bootStep := 7, sessions := [(1, { principal := some .operator }), (2, { principal := some (.owner 7) }), (3, {})],
              ctxs := [(0, base.ctx 0), (5, { owner := 7, root := 0x100000, dbbase := 0x40000000 })], operatorKey := some (List.replicate 32 1) }
def r1 : MgmtReq := ⟨1, 9, true, 0⟩
def r2 : MgmtReq := ⟨2, 9, true, 0⟩
/-- … the same, with a leaf of 1 GiB where a smaller one is asked for. -/
def tiny : State := mg.setPhys 0 0x102008 (leBytes 8 0x1F)
theorem mg_idle (n : Nat) : ∀ c ∈ mg.ctxs, ∀ q : MgmtReq, c.2.destroying = some q → q.session ≠ n := by
  have h : ∀ c ∈ mg.ctxs, c.2.destroying = none := by decide
  intro c hc q hq; rw [h c hc] at hq; cases hq
theorem mg_operator : mg.Serves r1 .operator :=
  ⟨⟨⟨_, rfl, rfl, rfl, rfl⟩, fun ⟨c, hc, q, hq, h⟩ => mg_idle _ c hc q hq h, by decide⟩, rfl, by decide⟩
theorem mg_owner : mg.Serves r2 (.owner 7) :=
  ⟨⟨⟨_, rfl, rfl, rfl, rfl⟩, fun ⟨c, hc, q, hq, h⟩ => mg_idle _ c hc q hq h, by decide⟩, rfl, by decide⟩
/-- … a request outstanding, and a message out of order. -/
theorem mg_busy : (mg.setCtx 0 { mg.ctx 0 with destroying := some r2 }).Outstanding r2 ∧ ({ r2 with counter := 1 } : MgmtReq).counter ≠ 0 :=
  ⟨⟨(0, { mg.ctx 0 with destroying := some r2 }), by decide, r2, rfl, rfl⟩, by decide⟩

/-- ManagementCommands: owners with and without a page, a session with a request outstanding; pages that contexts of the owner share, that
another owner has, that are free, retired, or held by a TLB. -/
def share : State := mg.setPhys 0 0x102000 (leBytes 8 0x007000000000001F)
def roomy : State := ((mg.setPhys 0 0x102008 (leBytes 8 0x103001)).setPhys 0 0x103000 (leBytes 8 0x104001))
theorem test_hyp_pages : mg.ownerMapped 7 = false ∧ share.ownerMapped 7 = true ∧
    ((mg.setCtx 0 { mg.ctx 0 with destroying := some r2 }).busy ⟨2, 3, true, 0⟩) = true ∧ (∀ e ∈ mg.cores, e.2.storeBuf = []) ∧
    mg.ops = [] ∧ mg.copies = [] ∧ mg.colls = [] ∧ mg.ctxs.any (fun e => decide (e.1 ≠ 5 ∧ e.2.owner = 7)) = false ∧
    ({ mg with ctxs := mg.ctxs ++ [(6, { owner := 7 })] } : State).ctxs.any (fun e => decide (e.1 ≠ 5 ∧ e.2.owner = 7)) = true ∧
    (share.mappedBy 0x200000 (pageBytes 1) ≠ [] ∧ ∀ k ∈ share.mappedBy 0x200000 (pageBytes 1), k = (share.ctx 5).owner) ∧
    destOf (physKey 0 0x200000) = .memory ∧ destOf (physKey 2 0x000E000000000000) = .endpoint ∧
    (∃ k ∈ mg.mappedBy 0x200000 (pageBytes 1), k ≠ (mg.ctx 5).owner) ∧ roomy.mappedBy 0x4000000000 (pageBytes 0) = [] ∧
    roomy.pageInUse 0x4000000000 (pageBytes 0) = false ∧
    ({ roomy with tlbs := [(tlbKey 0 5 99, 0x0070004000000017)] } : State).pageInUse 0x4000000000 (pageBytes 0) = true ∧
    roomy.retired = [] ∧ Pte.malformed ⟨0x0070004000000017⟩ 0 = false ∧ Pte.owner ⟨0x0070004000000017⟩ = (roomy.ctx 5).owner ∧
    ((State.sand { roomy with fresh := roomy.fresh + 1 } 5 0 0x4000000000 0 7 true).changeLeaf 5 0x40000000 0 0x0070004000000017).isSome = true := by
  decide

/-- CaliperPowerAndScrubbing: a page in no use, and one that a context maps; RootDieAndReset: a write that changes the measured item. -/
theorem test_hyp_scrub : ({ base with ctxs := [] } : State).pageInUse 0x300000 (pageBytes 0) = false ∧
    base.pageInUse 0x300000 (pageBytes 0) = true ∧
    State.layoutItem { base with portCfg := base.portCfg.insert 3 0xFF3C } ≠ base.layoutItem ∧
    State.layoutItem { base with portCfg := base.portCfg.insert 3 (base.portCfgOf 3) } = base.layoutItem ∧
    (∀ o ∈ parked.mappedBy 0 (pageBytes 2), o = (parked.ctx 0).owner) := by decide

/-- ManagementCommands: sessions in use and free, keys, commands of both principals with the bounds of their arguments. -/
theorem test_hyp_management : (mg.sessions.find? 3).any (fun x => decide (x.principal = none)) = true ∧ (mg.keyOf .operator).isSome = true ∧
    60000000 * mg.freq ≤ ({ mg with cycle := 198000000000 } : State).cycle ∧ mg.cycle < 0 + 60000000 * mg.freq ∧
    mg.nextLeaf < 1048576 ∧ freeNumber mg.sessions 4 = some 0 ∧
    freeNumber ({ mg with sessions := (0, {}) :: mg.sessions } : State).sessions 4 = none ∧ base.operatorKey = none ∧ mg.operatorKey.isSome = true ∧
    1048576 ≤ ({ mg with nextLeaf := 1048576 } : State).nextLeaf ∧ 9 ≤ (15 : BitVec 4).toNat ∧
    ({ mg with bootStep := 6 } : State).bootStep < 7 ∧ mg.booted = true ∧
    freeNumber mg.ctxs mg.contextLimit = some 1 ∧ 32 ≤ mg.spareSlots.length ∧ 0x10000000 % 268435456 = 0 ∧
    (mg.channel 4095).valid = false ∧ ((withChan ok' mg).channel 4095).valid = true ∧ (mg.takeOut (.core 447)).isSome = true ∧
    (mg.takeOut (.port 64)).isNone = true ∧ mg.channels = [] ∧ (∀ e ∈ mg.grids, e.2.ctx ≠ 5) ∧
    (mg.setGrid 3 { ctx := 5 }).grids.find? 3 = some { ctx := 5 } ∧ Pte.malformed ⟨0x0070000000200017⟩ 1 = false ∧
    Pte.leaf ⟨0x0070000000200017⟩ = true ∧ Pte.owner ⟨0x0070000000200017⟩ = (mg.ctx 5).owner ∧
    (mg.tableFor (mg.ctx 5).root 0x40000000 2 5).isSome = true ∧ (tiny.tableFor (tiny.ctx 5).root 0x40000000 1 5).isNone = true ∧
    Pte.windowOk ⟨0x0070000000200017⟩ = true ∧ (withChan ok' mg).channels = [(4095, ok')] ∧
    (State.changeLeaf mg 5 ((mg.ctx 5).dbbase.toNat + 65536 * 4095) 0 (BitVec.ofNat 64 (0x000FFFFFE0000000 + 65536 * 4095 + 0x617))).isSome = true ∧
    (parseQcb (bytes 64 [(9, 16), (20, 5), (24, 0xFF), (25, 0x0F)])).any (fun q => decide (q.ctx = 5 ∧ q.dbidx = 4095)) = true ∧
    freeNumber mg.userQueues 65536 = some 0 ∧ (mg.ctxs.find? 5).any (fun y => decide (y.owner = 7)) = true := by decide

/-- StepRunsTheDecodedWord: a group whose word is to be issued, decodes, and is no literal; one whose word does not decode. -/
def go (w : Nat) : State := State.reset.placeWords w
theorem test_hyp_step : (go 0).powered = true ∧ (go 0).agenda = [] ∧
    (match (go 0).turn with
     | .issue k => groupIs (go 0) (fun g => decide (k = base.cur ∧ g.place = .resident ∧ g.pc.toNat % 64 = 0) && g.issues)
     | _ => false) = true ∧
    (go 0).isLiteral base.cur 0x200000 = false ∧
    (match (go 0).fetchWord base.cur 0x200000 with
     | .ok w => decide (w = 0) && !takesTwo w
     | .error _ => false) = true ∧
    (match decode 0 0 with
     | .ok i => decide (i = .nop none)
     | .error _ => false) = true ∧
    (match decode 1 0 with
     | .ok _ => false
     | .error _ => true) = true ∧ base.g.pairPending = false ∧ takesTwo 0x8800000000000000 = true := by decide

/-- … and an L word in the last slot of its block; a group whose pair goes on with its REGION. -/
theorem test_hyp_pair : ((0x8800000000000000 : DWord).extractLsb' 62 2).toNat = 2 ∧ (0x200038 : DWord).toNat % 64 = 56 ∧
    (withGroup (fun g => { g with pc := 0x200038 }) (go 0)).isLiteral base.cur 0x200038 = false ∧
    groupIs (withGroup (fun g => { g with pairPending := true, pairRegion := some (.region 0 none) }))
      (fun g => decide (g.place = .resident ∧ g.hold = .ready ∧ g.pairPending = true ∧ g.pairRegion = some (.region 0 none))) = true ∧
    readyIn (withGroup (fun g => { g with pairPending := true, pairRegion := some (.region 0 none) })) (.region 0 none) = true ∧
    base.g.singleStep = false ∧ (go 0).icache.find? (gridOf base.cur * 2 ^ 57 + 0x200000) = none ∧
    ({ base with agenda := [(0, .nop none)] } : State).agenda = [(0, .nop none)] ∧ (encode (.nop none)).isSome = true ∧
    (encode .powerLoss).isNone = true := by decide

theorem test_hyp_undisturbed : (go 0).Undisturbed base.cur base.g := by
  refine ⟨rfl, rfl, rfl, ?_, rfl, rfl, ?_⟩ <;> decide

/-- DecodingGivesBackWhatIsEncoded: a well-formed instruction with a literal and one without; EveryStepKeepsTheMemoryForm: a state
in the form, and a step from it. -/
theorem test_hyp_encoding : WellFormed (.smov D (.word .lit ⟨0, some 5⟩)) ∧ Instr.pairingOk (.smov D (.word .lit ⟨0, some 5⟩)) = true ∧
    WellFormed (.sadd .wrap sb) := by decide
theorem test_hyp_form : (go 0).MemoryForm ∧ (match step (go 0) with
    | .next _ => true
    | _ => false) = true := by
  unfold State.MemoryForm; decide

/-! ### States that meet hypotheses besides: errors, waits, reads, tables, pages -/

/-- RegionsAndYields, IssueChecksAreMadeInOrder: a REGION behind a Commit() that reads a mask in error, and a word before one. -/
theorem test_hyp_late_error : groupIs (withGroup (fun g => { g with pairPending := true, sBad := [125] }))
      (fun g => g.pairPending && g.readsError (.region 0 none)) = true ∧ base.outstanding base.cur = false ∧
    ({ base.g with sBad := [20] } : Group).readsError (.atom { (at' .cas true true) with d := D }) = true := by decide

/-- AccessesAreCheckedAndIssued, AtomicsUpdateTheirElement: a memory port that is not full, and one that is where the free choice says so. -/
theorem test_hyp_port : base.portFull .g = false ∧ base.portFull .l = false ∧
    ({ base with hbmStacks := [(0, { selfRefresh := true, held := [(1, 0)] })] } : State).portFull .g = Config.freeChoice base.fresh :=
  ⟨by decide, by decide, by simp [State.portFull]⟩

/-- StoresWriteTheirBytes: an entry that an element in flight has gone into. -/
theorem test_hyp_entered : (let e := { stEl gAddr with entered := some gAddr.toNat, todo := [] }
    (scratch.withOp (op .store .g e)).ops.find? scratch.nextId = some (op .store .g e) ∧ gAddr.toNat / 64 = 0xC000 ∧ e.todo = [] ∧
      (({ id := 0, line := 0xC000, owner := 0, bytes := [(0, 1)], ops := [scratch.nextId], groups := [] } : BufLine).bytes.find?
        (gAddr.toNat % 64)).isSome = true) := by decide

/-- QueueInstructions: a group that waits in POP on an empty queue, and one in PUSH on a full one. -/
def second : Nat := base.cur + 1
def blockedOn (h : Hold) (x : Queue) : State := (withQueue { x with blocked := [second] }).setGroup second { base.g with hold := h }
theorem test_hyp_blocked : readyIn (blockedOn (.pop 3 30 0x200008) q4) (.qopPush 3 A B none) = true ∧
    ((blockedOn (.pop 3 30 0x200008) q4).queue base.cur 3).blocked = [second] ∧ second ∉ ([] : List Nat) ∧ second ≠ base.cur ∧
    ((blockedOn (.pop 3 30 0x200008) q4).group? second).any (fun h => h.hold = .pop 3 30 0x200008) = true ∧
    readyIn (blockedOn (.push 3 5 6 0x200008) { q4 with count := 4 }) (.qopPop D 3 none) = true ∧
    ((blockedOn (.push 3 5 6 0x200008) { q4 with count := 4 }).group? second).any (fun h => h.hold = .push 3 5 6 0x200008) = true ∧
    (blockedOn (.push 3 5 6 0x200008) { q4 with count := 4 }).spadMarked (scratch.lKey base.cur 64) 8 = false := by decide

/-- GridLaunches, TensorTableInstructions, CollectivesRunInTheirSlots: a read that waits for a store of the group, and one that does not. -/
def storing : State := (put 0 rec1).withOp (op .store .l (stEl sp0))
theorem test_hyp_reads : ((put 0 rec1).readHold base.cur base.g .l 0 64).isNone = true ∧
    (storing.readHold base.cur base.g .l 0 64).isSome = true ∧ base.g.hasRead = false ∧
    ({ base.g with hold := .waiting, recRead := some rec1 } : Group).hasRead = true := by decide

/-- … table entries that can be read, that lie on a stack in self-refresh, and with a byte in error. -/
theorem test_hyp_entries : mx.entryHeld 0 7 = false ∧ mx.entryBad 0 7 = false ∧ mx.stackLost ((mx.ctx 0).tensorTable + 64 * 7) = false ∧
    ((List.range 64).all (fun n => destOf ((mx.ctx 0).tensorTable + 64 * 7 + n) = .memory)) = true ∧
    ({ mx with physBad := [(mx.ctx 0).tensorTable + 64 * 7] } : State).entryBad 0 7 = true := by decide
def asleep : SMap StackSt := (List.range 8).map (fun n => (n, { selfRefresh := true }))
theorem test_hyp_asleep (a : Nat) (h : a < 4503599627370496) : ({ mx with hbmStacks := asleep } : State).stackHeld a = true := by
  have hs : ∀ n : Fin 8, (SMap.getD asleep n {}).selfRefresh = true := by decide
  simp only [State.stackHeld, State.stackAt, stackOf, h, if_true]
  exact hs ⟨_ % 8, Nat.mod_lt _ (by decide)⟩

/-- DoorbellsAndTailstocks: a bridge window of a port that runs as a bridge, and a target in it and out of it. -/
def bridged : State := { base with bridges := [(0, { base := 0x000E000000000000, size := 4096, port := 0, peer := 64 })],
                                   portCfg := (List.range 4).map (fun i => (i, 0x00000020)) }
theorem test_hyp_bridge : bridged.runsAs 0 .bridge = true ∧ bridged.portUp 0 = true ∧
    0x000E000000000000 ≤ tail0.target % 4503599627370496 ∧ tail0.target % 4503599627370496 < 0x000E000000000000 + 4096 := by decide

/-- ByteMatrixProduct: finite codes and one that is none, a segment exponent, a line of I8, one of QG4 without a code and with one. -/
theorem test_hyp_segment : smallBF16.finite 0x3F80 ∧ smallF16.finite 0x7BFF ∧ ¬ smallBF16.finite 0x7F80 ∧ smallBF16.Top [0x3F80, 0x3F00] 0 ∧ smallE4M3.Top [] 0 ∧
    (∀ x ∈ [0x3F80, 0x3F00], x < 2 ^ (smallBF16.eb + smallBF16.mb + 1)) := by
  unfold SmallFmt.Top SmallFmt.finite; decide
theorem test_hyp_mma : (let o := eop (.mma true ent8 ent8 7 8 1)
    ((withEngine o).core 0).engine = [o] ∧ o.run.drained < 1 ∧ ((withEngine o).core 0).opCache = [] ∧ ((withEngine o).core 0).upset = [] ∧
      (mx.tile base.cur 0).bad = [] ∧ mmaClass (parseEntry ent8).fmt ≠ 0 ∧ 1 ≤ (parseEntry ent8).lines) := by decide

/-- CopiesEnterThePool: a member mask that names the one member, one of 0 and one past the gang; a QG4 tensor that is aligned, and windows of
it that fit and do not. -/
def entQ : List Byte := bytes 64 [(1, 1), (9, 1), (17, 2), (24, 2), (28, 65), (32, 64), (36, 4), (40, 4), (44, 7)]
theorem test_hyp_gmc : readyAnd (withGroup (fun g => (((g.ws 20 1).ws 24 4095).ws 28 4095)) mx) (.cpyt (some D) cft)
      (fun g => decide ((g.rs 20).toNat ≠ 0 ∧ (g.rs 20).toNat < 2 ^ mx.gangSize base.cur)) = true ∧ 2 ^ mx.gangSize base.cur ≤ 2 ∧
    (parseEntry entQ).fmt = 7 ∧ (parseEntry entQ).misaligned = false ∧ 64 % 64 = 0 ∧ 32 % 64 ≠ 0 ∧
    16384 < 16320 % 16384 + (parseEntry entQ).kdim := by decide

/-- CopiesReadWriteAndComplete: a copy that reads another package's memory, and one that pauses for a page that firmware will not bring. -/
def away3 : State := scratch.setPhys 0 0x102008 (leBytes 8 0x000000004000031F)
theorem test_hyp_copy_far : (match away3.translate 0 (base.ctxOf base.cur) 0x40000000 .load with
      | .ok (key, _) => decide (destOf key = .remote)
      | .error _ => false) = true ∧ scratch.pagedAt 0 0x50000000 = none ∧ (scratch.ctx 0).demand 0x50000000 = false ∧
    (scratch.walk 0 0x50000000).isOk = false ∧ (scratch.servePage 0 0x50000000 0x50000000 0 0x17).1 = false ∧
    (scratch.servePage 0 0x300000 0x300000 0 0x17).1 = true := by decide

/-- FirmwareServesGroups: a page in a demand range and one that has been moved to the second tier, for which a leaf fits, and a leaf that may
be moved. -/
def wanting : State := { base.setCtx 0 { base.ctx 0 with onDemand := [(0x40000000, 0x80000000)] } with tlbs := [] }
def paged2 : State := { base with pagedOut := [{ ctx := 0, va := 0x40000000, level := 2, leaf := 0x1F, moved := true }] }
theorem test_hyp_paging : (wanting.ctx 0).demand 0x40000000 = true ∧ wanting.pagedAt 0 0x40000000 = none ∧
    (wanting.walk 0 0x40000000).isOk = false ∧ (wanting.writePte 0 0x40000000 2 0x000000004000001F).isSome = true ∧
    Pte.malformed ⟨0x000000004000001F⟩ 2 = false ∧ destOf (physKey 0 0x40000000) = .memory ∧
    (wanting.ctx 0).window 0x40000000 (2 ^ levelShift 2) = false ∧ Pte.owner ⟨0x000000004000001F⟩ = (wanting.ctx 0).owner ∧
    (paged2.pagedAt 0 0x40000000).any (fun p => decide (p.level = 2) && sameRights ⟨p.leaf⟩ ⟨0x000000004000001F⟩) = true ∧
    (base.unmapPage 0 0x300000).isSome = true ∧ (base.unmapPage 0 0x40000000).isNone = true := by decide

/-- IllegalStatesDrainTheCluster: a last drain more than a second ago; UserQueuesAreScanned: a packet that waits for its queue's grids. -/
theorem test_hyp_later : 1000000 * base.freq < ({ base with cycle := 3300000001, lastDrain := [(0, 0)] } : State).cycle - 0 ∧
    (slot { scan with depWait := some (parseLaunch (packet true)) }).slots.find? 31 =
      some { scan with depWait := some (parseLaunch (packet true)) } := by decide

/-- RootDieAndReset: firmware that runs and that does not, a reservation, and an access of the endpoint window. -/
theorem test_hyp_cores : 3 ≤ mg.bootStep ∧ base.bootStep < 3 ∧
    ({ base with lrWords := [(0, (0x300000, 8))] } : State).lrWords.find? 0 = some (0x300000, 8) ∧ base.lrWords.find? 0 ≠ some (0x300000, 8) ∧
    destOf (2 * 2 ^ 52 + 0x000E000000000000) = .endpoint ∧ destOf (3 * 2 ^ 52) = .remote := by decide

/-- ManagementCommands: a window that a leaf meets and one that it does not, a stack that is lost, more slots than there are, the
addresses of a report, an image that has begun. -/
theorem test_hyp_answers : (mg.ctx 5).window 0x40000000 65536 = true ∧ (mg.ctx 5).window 0x80000000 65536 = false ∧
    (mg.setStack 0 { oos := true }).hbmStacks.any (fun e => e.2.oos) = true ∧ mg.spareSlots.length < 33 ∧
    0x1000 + 32 + 32 * 4 ≤ 0x10000000 ∧ 0x10000000 < 2 ^ 57 ∧ mg.slotB = false ∧
    ({ mg with images := [(1, [7])] } : State).images.find? 1 = some [7] ∧ r1.tagOk = true ∧ mg.sessions.find? 0 = none := by decide

/-- StepRunsTheDecodedWord: a W prefix that is illegal by itself, and a branch with a field of 1 bits whose target is bad. -/
theorem test_hyp_illegal : illegalPrefix 0xC000000000000000 = true ∧ illegalPrefix 0 = false ∧
    (withGroup (fun g => g.wp 24 0x200004)).badLoose base.cur (base.g.wp 24 0x200004) 0x0B00011800000001 none = some 0x200004 ∧
    base.badLoose base.cur base.g 1 none = none ∧ (Fields.split 1).opc.toNat = 0 := by decide

/-! ### One step, with the result that the manual gives -/

/-- The issuing group after the instruction, as `p` says. -/
def after (s : State) (i : Instr) (p : Group → Bool) : Bool :=
  match exec i s with
  | .next t => (t.group? s.cur).any p
  | _ => false
/-- The module after the instruction. -/
def leaves (s : State) (i : Instr) (p : State → Bool) : Bool :=
  match exec i s with
  | .next t => p t
  | _ => false

/-- R95: addition wraps, and saturates where asked. -/
theorem test_sadd : after (withGroup (fun g => (g.ws 24 0x7FFFFFFF).ws 28 1)) (.sadd .wrap sb) (fun g => g.rs 20 = 0x80000000) = true ∧
    after (withGroup (fun g => (g.ws 24 0x7FFFFFFF).ws 28 1)) (.sadd .sat sb) (fun g => g.rs 20 = 0x7FFFFFFF) = true := by decide
/-- R95: a division by zero gives all ones; R96: a shift amount counts modulo the width. -/
theorem test_sdiv : after (withGroup (fun g => g.ws 24 7)) (.sdiv false false sb) (fun g => g.rs 20 = 0xFFFFFFFF) = true ∧
    after (withGroup (fun g => (g.ws 24 1).ws 28 33)) (.sshl sb) (fun g => g.rs 20 = 2) = true := by decide
/-- R106: LOOP with 3 left goes to its target, with 1 left goes on. -/
theorem test_loop : after (withGroup (fun g => g.ws 20 3)) (.loop D (.int 34) X) (fun g => g.rs 20 = 2 ∧ g.pc = 0x200010) = true ∧
    after (withGroup (fun g => g.ws 20 1)) (.loop D (.int 34) X) (fun g => g.rs 20 = 0 ∧ g.pc = 0x200008) = true := by decide
/-- R108's example: MASKOP.RANGE s20, #0, s8 with s8 = 40 is lanes 0 to 39. -/
theorem test_range : after (withGroup (fun g => g.ws 8 40)) (.maskop (.range (.int 32) (.s 8)) (.s 20) X)
    (fun g => g.rs 20 = 0xFFFFFFFF ∧ g.rs 21 = 0xFF ∧ g.rs 22 = 0) = true := by decide
/-- R121, R58: VADD adds in the lanes of the mask only. -/
theorem test_vadd : after (withGroup (fun g => ((g.wv 2 95 5).wv 2 0 5).wt 125 (1 <<< 95))) (.vadd ⟨false, false, false⟩ { vo with b := .int 33 })
    (fun g => g.rv 1 95 = 6 ∧ g.rv 1 0 = 0) = true := by decide
/-- R123: a division by zero gives all ones and IDZ. -/
theorem test_vdiv : after (withGroup (fun g => (g.wv 2 3 7).wt 125 8)) (.vdiv true false vo)
    (fun g => g.rv 1 3 = 0xFFFFFFFF ∧ g.rf 3 = flIDZ ∧ g.rf 4 = 0) = true := by decide
/-- R132: 0.25 + x² of the chapter's example, x = 0.5. -/
theorem test_vfma : laneEval (.fma .f32 false false .rne) 0x3F000000 0x3F000000 0x3E800000 0 0 = ⟨0x3F000000, 0⟩ := by decide
/-- R136: the FP32 values just below 2^(1/2), log2 3, sin(π/4), and 1/(1+e^-1), calculated to 60 decimal digits. -/
theorem test_sf_below :
    (roundFP fp32 .rtz ⟨false, fxExp2 1 2, fxOne⟩).1 = 0x3FB504F3 ∧ (roundFP fp32 .rtz ⟨false, fxOne + fxLog2 3 2, fxOne⟩).1 = 0x3FCAE00D ∧
    (roundFP fp32 .rtz ⟨false, fxSinPi 1 4, fxOne⟩).1 = 0x3F3504F3 ∧
    (roundFP fp32 .rtz ⟨false, fxSigmoid false 1 1, fxOne⟩).1 = 0x3F3B26A7 := by decide
/-- R337's example: TRAP #3 leaves the number in `$tcause` and its own address in `$tpc`, and goes to the handler. -/
theorem test_trap : after handler (.trap 3 none) (fun g => g.tcause = 3 ∧ g.tpc = 0x200000 ∧ g.pc = 0x200020) = true := by decide
/-- R173's example: the entry 0x11 valid in generation 2 gives the handle 0x3011. -/
theorem test_tdef : after (put 0 img8 (withGroup (fun g => g.ws 28 0x11) (scratch64K.setEntry 0 0x11 (img8.take 60 ++ leBytes 4 258))))
    (.tdef false D (.int 32) B X) (fun g => g.rs 20 = 0x3011) = true := by decide
/-- R213: a load counts up in its counter; R220: WAIT holds until it is down. -/
theorem test_load : after base (.sld (mf .g .w)) (fun g => g.ra 0 = 1 ∧ g.pc = 0x200008) = true ∧
    after (withGroup (fun g => g.wa 0 1)) (.wait 0 0 none) (fun g => g.hold = .waiting ∧ g.pc = 0x200000) = true := by decide
/-- R276, R277: a push writes the entry with the phase in bit 31. -/
theorem test_qop : leaves (withGroup (fun g => (g.ws 24 7).ws 28 5) (withQueue q4)) (.qopPush 3 A B none)
    (fun t => (t.queue base.cur 3).count = 1 ∧ t.getSpad (t.lKey base.cur 64) 8 = [7, 0, 0, 0, 5, 0, 0, 0x80]) = true := by decide
/-- R346: EXIT of the last group retires its gang. -/
theorem test_exit : leaves base (.exit none) (fun t => (t.gang base.cur).place = .retired) = true := by decide
/-- R27: a word of commit class that no REGION follows is an illegal instruction: the group is parked with a record. -/
theorem test_commit : leaves { State.reset.placeWords 0 with cur := base.cur, turn := .any } (.tfree A X)
    (fun t => groupIs t (fun g => g.place = .parked) && t.faultQueue.length = 1) = true := by decide
/-- R35, R55: a step runs the word at the PC. -/
theorem test_step : (match step (go 0) with
    | .next t => groupIs t (fun g => g.pc = 0x200008)
    | _ => false) = true := by decide
/-- After a loss of power nothing runs (log 13). -/
theorem test_power : (match step { go 0 with powered := false } with
    | .fault f => decide (f = .poweredOff)
    | _ => false) = true := by decide

end Sys2Proof.Tests
end

namespace Sys2Proof.Machine
section
-- The proofs are checked one after another: together their threads' stacks pass the memory that a check may take.
set_option Elab.async false
variable {s t : State}
/-!
# Every step keeps the form of the memories

`State.MemoryForm.<op>` says that the operation `<op>` keeps the form, so that a chain of operations is
followed by a chain of their lemmas (`h.unwait.abandon.setGroup`). Only the byte writes, the changes of groups
and those of gangs touch what the form speaks of; every other operation is `State.MemoryForm.same`.
`exec<X>_kept` says it of the outcomes of an instruction, `exec_kept` of all of them, `step_kept` of a step.
-/

/-! ### Sparse maps under maps over their entries, and what a lookup finds -/

theorem SMap.mem_of_find {α : Type} {m : SMap α} {k : Nat} {v : α} (h : SMap.find? m k = some v) : (k, v) ∈ m := by
  induction m with
  | nil => simp [SMap.find?] at h
  | cons e m ih =>
    obtain ⟨i, w⟩ := e
    simp only [SMap.find?] at h
    split at h
    · next hi => cases h; subst hi; exact List.mem_cons_self
    · exact List.mem_cons_of_mem _ (ih h)

theorem SMap.sorted_modify {α : Type} {m : SMap α} (k : Nat) (f : α → α) (h : SMap.Sorted m) : SMap.Sorted (SMap.modify m k f) := by
  unfold SMap.modify
  split
  · exact h
  · exact SMap.sorted_insert _ _ h

/-- A change of values alone keeps the order of the keys. -/
theorem SMap.sorted_map {α : Type} {m : SMap α} {f : Nat × α → Nat × α} (hf : ∀ e, (f e).1 = e.1) (h : SMap.Sorted m) :
    SMap.Sorted (m.map f) :=
  List.pairwise_map.2 (h.imp fun hab => by rwa [hf, hf])

/-! ### The form of a part of the state -/

/-- A gang's image lists no byte that an unlisted one holds. -/
def Gang.CleanImage (g : Gang) : Prop := ∀ b ∈ g.image, b.2 ≠ memDefault

theorem Gang.cleanImage_empty : ({} : Gang).CleanImage := fun _ hb => absurd hb List.not_mem_nil

theorem State.MemoryForm.clean_of_find {x : Nat} {g : Gang} (h : s.MemoryForm) (e : s.gangs.find? x = some g) : g.CleanImage :=
  h.2.2.2 _ (SMap.mem_of_find e)

theorem State.MemoryForm.clean_getD {x : Nat} (h : s.MemoryForm) : (s.gangs.getD x {}).CleanImage := by
  unfold SMap.getD
  cases e : s.gangs.find? x with
  | none => exact Gang.cleanImage_empty
  | some g => exact h.clean_of_find e

/-- A change of anything but the memories, the groups and the gangs keeps the form. -/
theorem State.MemoryForm.same (h : s.MemoryForm) (hp : t.phys = s.phys := by rfl) (hs : t.spad = s.spad := by rfl)
    (hg : t.groups = s.groups := by rfl) (hx : t.gangs = s.gangs := by rfl) : t.MemoryForm := by
  unfold State.MemoryForm; rw [hp, hs, hg, hx]; exact h

theorem State.MemoryForm.withPhys {m : SMap Byte} (h : s.MemoryForm) (hm : Memory.wf m) : { s with phys := m }.MemoryForm :=
  ⟨hm, h.2⟩

theorem State.MemoryForm.withSpad {m : SMap Byte} (h : s.MemoryForm) (hm : Memory.wf m) : { s with spad := m }.MemoryForm :=
  ⟨h.1, hm, h.2.2⟩

theorem State.MemoryForm.withGroups {m : SMap Group} (h : s.MemoryForm) (hm : SMap.Sorted m) : { s with groups := m }.MemoryForm :=
  ⟨h.1, h.2.1, hm, h.2.2.2⟩

theorem State.MemoryForm.withGangs {m : SMap Gang} (h : s.MemoryForm) (hm : ∀ e ∈ m, e.2.CleanImage) : { s with gangs := m }.MemoryForm :=
  ⟨h.1, h.2.1, h.2.2.1, hm⟩

/-- A change of some groups in place. -/
theorem State.MemoryForm.mapGroups {f : Nat × Group → Nat × Group} (h : s.MemoryForm) (hf : ∀ e, (f e).1 = e.1) :
    { s with groups := s.groups.map f }.MemoryForm :=
  h.withGroups (SMap.sorted_map hf h.2.2.1)

/-! ### Choices and folds -/

theorem State.MemoryForm.ite {c : Prop} {_ : Decidable c} (hs : s.MemoryForm) (ht : t.MemoryForm) :
    (if c then s else t).MemoryForm := by
  split <;> assumption

theorem State.MemoryForm.iteFst {α : Type} {c : Prop} {_ : Decidable c} {p q : State × α} (hp : p.1.MemoryForm) (hq : q.1.MemoryForm) :
    (if c then p else q).1.MemoryForm := by
  split <;> assumption

theorem State.MemoryForm.iteSnd {α : Type} {c : Prop} {_ : Decidable c} {p q : α × State} (hp : p.2.MemoryForm) (hq : q.2.MemoryForm) :
    (if c then p else q).2.MemoryForm := by
  split <;> assumption

theorem State.MemoryForm.foldl {α : Type} {f : State → α → State} {l : List α} (h : s.MemoryForm)
    (hf : ∀ s a, s.MemoryForm → (f s a).MemoryForm) : (l.foldl f s).MemoryForm := by
  induction l generalizing s with
  | nil => exact h
  | cons a l ih => exact ih (hf s a h)

theorem State.MemoryForm.foldlFst {α β : Type} {f : State × β → α → State × β} {l : List α} {p : State × β} (h : p.1.MemoryForm)
    (hf : ∀ p a, p.1.MemoryForm → (f p a).1.MemoryForm) : (l.foldl f p).1.MemoryForm := by
  induction l generalizing p with
  | nil => exact h
  | cons a l ih => exact ih (hf p a h)

theorem State.MemoryForm.foldlSnd {α β : Type} {f : β × State → α → β × State} {l : List α} {p : β × State} (h : p.2.MemoryForm)
    (hf : ∀ p a, p.2.MemoryForm → (f p a).2.MemoryForm) : (l.foldl f p).2.MemoryForm := by
  induction l generalizing p with
  | nil => exact h
  | cons a l ih => exact ih (hf p a h)

/-- Every state that an outcome goes on to is in the form. -/
def Kept (o : Host.Outcome State Fault Refusal) : Prop := ∀ t, o = .next t → t.MemoryForm

theorem State.MemoryForm.kept (h : s.MemoryForm) : Kept (.next s) := fun _ e => by cases e; exact h

theorem kept_fault {f : Fault} : Kept (.fault f) := fun _ e => by cases e

theorem kept_refused {r : Refusal} : Kept (.refused r) := fun _ e => by cases e

theorem Kept.ite {c : Prop} {_ : Decidable c} {a b : Host.Outcome State Fault Refusal} (ha : Kept a) (hb : Kept b) :
    Kept (if c then a else b) := by
  split <;> assumption

/-- The state, where there is one, is in the form. -/
def KeptSome (o : Option State) : Prop := ∀ t, o = some t → t.MemoryForm

theorem State.MemoryForm.keptSome (h : s.MemoryForm) : KeptSome (some s) := fun _ e => by cases e; exact h

theorem keptSome_none : KeptSome none := fun _ e => by cases e

theorem KeptSome.ite {c : Prop} {_ : Decidable c} {a b : Option State} (ha : KeptSome a) (hb : KeptSome b) :
    KeptSome (if c then a else b) := by
  split <;> assumption

theorem KeptSome.map {o : Option State} {f : State → State} (ho : KeptSome o) (hf : ∀ s, s.MemoryForm → (f s).MemoryForm) :
    KeptSome (o.map f) := by
  cases o with
  | none => exact keptSome_none
  | some s => exact (hf s (ho s rfl)).keptSome

theorem keptSome_map {α : Type} {o : Option α} {f : α → State} (hf : ∀ a, o = some a → (f a).MemoryForm) : KeptSome (o.map f) := by
  cases o with
  | none => exact keptSome_none
  | some a => exact (hf a rfl).keptSome

theorem KeptSome.getD {o : Option State} (ho : KeptSome o) (hs : s.MemoryForm) : (o.getD s).MemoryForm := by
  cases o with
  | none => exact hs
  | some t => exact ho t rfl

theorem State.MemoryForm.of_snd {α : Type} {p : α × State} {a : α} (h : p.2.MemoryForm) (e : p = (a, t)) : t.MemoryForm := by
  rw [e] at h; exact h

variable {c cause ch code core ctx grid group id idx j k key lane n op pch q : Nat} {session slot source stack tag team va which : Nat}
variable {bad inv lspace pk u : Bool} {a b d : Operand} {w who : Requester} {l : Lit} {f : VOps} {g : Group} {r : MgmtReq} {i : Instr}
variable {bs : List Byte} {o : Op} {owner : BitVec 8} {rm : RM} {addr : DWord} {bar : BarRef} {fmt : FFmt} {p : Pte}
variable {ex : Instr → State → Host.Outcome State Fault Refusal}

/-! ### Operations over the state -/

theorem State.MemoryForm.setGroup (h : s.MemoryForm) : (s.setGroup k g).MemoryForm := h.withGroups (SMap.sorted_insert _ _ h.2.2.1)

theorem State.MemoryForm.modGroup {f : Group → Group} (h : s.MemoryForm) : (s.modGroup k f).MemoryForm :=
  h.withGroups (SMap.sorted_modify _ _ h.2.2.1)

theorem State.MemoryForm.setTeam {t : Nat} {x : Team} (h : s.MemoryForm) : (s.setTeam t x).MemoryForm := h.same

/-- A gang's entry with the image of a clean one. -/
theorem State.MemoryForm.setGang {i : Nat} {x y : Gang} (h : s.MemoryForm) (hy : y.CleanImage) (e : x.image = y.image := by rfl) :
    (s.setGang i x).MemoryForm :=
  h.withGangs fun _ hz => (SMap.mem_insert hz).elim (fun hz b hb => hy b (by rw [hz] at hb; exact e ▸ hb)) (h.2.2.2 _)

theorem State.MemoryForm.setGrid {t : Nat} {x : Grid} (h : s.MemoryForm) : (s.setGrid t x).MemoryForm := h.same

theorem State.MemoryForm.setCtx {t : Nat} {x : Ctx} (h : s.MemoryForm) : (s.setCtx t x).MemoryForm := h.same

theorem State.MemoryForm.setCore {x : CoreSt} (h : s.MemoryForm) : (s.setCore c x).MemoryForm := h.same

theorem State.MemoryForm.newId (h : s.MemoryForm) : s.newId.2.MemoryForm := h.same

theorem State.MemoryForm.free64 (h : s.MemoryForm) : s.free64.2.MemoryForm := h.same

theorem State.MemoryForm.freeBool (h : s.MemoryForm) : s.freeBool.2.MemoryForm := h.same

theorem State.MemoryForm.setPhys {bs : List Byte} (h : s.MemoryForm) : (s.setPhys owner k bs).MemoryForm := by
  rw [State.setPhys_eta]; exact (h.withPhys (State.setPhys_wf h.1 owner k bs)).same

theorem State.MemoryForm.setSpad {bs : List Byte} (h : s.MemoryForm) : (s.setSpad k bs).MemoryForm := by
  rw [State.setSpad_eta]; exact h.withSpad (State.setSpad_wf h.2.1 k bs)

theorem State.MemoryForm.storeSpad (h : s.MemoryForm) : (s.storeSpad key bs).MemoryForm := h.same.setSpad

theorem State.MemoryForm.tlbPut {h' : Nat} {room : Nat} (h : s.MemoryForm) : (s.tlbPut h' room c va p).MemoryForm := h.same

theorem State.MemoryForm.noteLeaf {h' : Nat} (h : s.MemoryForm) : (s.noteLeaf h' c va p).MemoryForm := h.tlbPut.tlbPut

theorem State.MemoryForm.pushFault {r : List Byte} (h : s.MemoryForm) : (s.pushFault core r).MemoryForm := h.same.ite h.same

theorem State.MemoryForm.passError {r : List Byte} (h : s.MemoryForm) : (s.passError grid r).MemoryForm := by
  unfold State.passError
  dsimp only
  split
  · exact h
  · exact h.setCtx

theorem State.MemoryForm.errorRec {dp : Nat} {pc : DWord} {loc : Nat} {dead : Bool} (h : s.MemoryForm) :
    (s.errorRec core dp group grid pc addr loc source lane dead).MemoryForm :=
  h.same.passError.ite h.same

theorem State.MemoryForm.opError {pc : DWord} {dead : Bool} (h : s.MemoryForm) :
    (s.opError core group pc addr source lane dead).MemoryForm :=
  h.errorRec

theorem State.MemoryForm.groupError {loc : Nat} {dead : Bool} (h : s.MemoryForm) :
    (s.groupError k g addr loc source lane dead).MemoryForm :=
  h.errorRec

theorem State.MemoryForm.unwait (h : s.MemoryForm) : (s.unwait k).MemoryForm := h.same

theorem State.MemoryForm.abandon {mark : Nat} (h : s.MemoryForm) : (s.abandon k mark).MemoryForm := h.same

theorem State.MemoryForm.settle {x : Nat} (h : s.MemoryForm) : (s.settle x).MemoryForm := by
  unfold State.settle
  split
  · exact h
  next e => exact (h.setGang (h.clean_of_find e)).ite h

theorem State.MemoryForm.endGroup (h : s.MemoryForm) : (s.endGroup k g).MemoryForm := h.unwait.abandon.setGroup.settle

theorem State.MemoryForm.saveRecord (h : s.MemoryForm) : (s.saveRecord k).MemoryForm := by
  unfold State.saveRecord
  split
  · exact h
  · split
    · exact h
    · exact h.same

theorem State.MemoryForm.discardTo {g0 : Group} {wait : WaitOn} {place : Place} (h : s.MemoryForm) :
    (s.discardTo k g0 cause wait place).MemoryForm :=
  (h.unwait.abandon.ite (h.unwait.abandon.foldl fun _ _ h => h.groupError.ite h)).same.setGroup.saveRecord

theorem State.MemoryForm.discard {wait : WaitOn} {place : Place} (h : s.MemoryForm) : (s.discard k g cause wait place).MemoryForm :=
  h.endGroup.ite (h.groupError.discardTo.pushFault.ite h.discardTo)

theorem State.MemoryForm.systemFault {f : FaultInfo} (h : s.MemoryForm) : (s.systemFault k g f).MemoryForm := h.discard.pushFault

theorem State.MemoryForm.markIssue (h : s.MemoryForm) : (s.markIssue g).MemoryForm := h.setCore

theorem State.MemoryForm.userTrap {info : Nat} (h : s.MemoryForm) : (s.userTrap k g cause info).MemoryForm :=
  h.systemFault.ite h.markIssue.setGroup

theorem State.MemoryForm.haltGroup {f : FaultInfo} (h : s.MemoryForm) : (s.haltGroup k g f).MemoryForm := h.unwait.setGroup.pushFault

theorem State.MemoryForm.tick (h : s.MemoryForm) : (s.tick n).MemoryForm := h.same

theorem State.MemoryForm.wait (h : s.MemoryForm) : (s.wait k g).MemoryForm := h.setGroup.tick

theorem State.MemoryForm.retire {pc : DWord} (h : s.MemoryForm) : (s.retire k g pc n).MemoryForm := h.setGroup.markIssue.tick

theorem State.MemoryForm.done (h : s.MemoryForm) : (s.done k g i n).MemoryForm := h.retire

/-! ### The checks before an instruction -/

theorem State.MemoryForm.run {effect : Nat → Group → State} (h : s.MemoryForm)
    (heffect : ∀ (a : Nat) (a_1 : Group), (effect a a_1).MemoryForm) : Kept (s.run i effect) := by
  unfold State.run
  dsimp only
  split
  · exact h.kept
  · refine .ite h.kept ?_
    split
    · exact (h.groupError.ite h).systemFault.kept
    · exact h.userTrap.tick.kept
    · exact h.wait.kept.ite (heffect _ _).kept

/-! ### Vector instructions and dying lanes -/

theorem State.MemoryForm.killLanes {ds : List Death} (h : s.MemoryForm) : (s.killLanes k g ds).1.MemoryForm :=
  h.foldl fun _ _ h => h.groupError

theorem State.MemoryForm.die {regs : List Nat} {dying : List Nat} (h : s.MemoryForm) : (s.die k g regs dying).1.MemoryForm :=
  h.iteFst h.killLanes

theorem State.MemoryForm.lanesDie {regs : List Nat} {dying : List Nat} {dest : List Nat} (h : s.MemoryForm) :
    (s.lanesDie k g regs dying dest).1.MemoryForm :=
  h.die

theorem State.MemoryForm.sweepIter {g0 : Group} {p : SweepPrefix} {op : LaneOp} {i : Nat} (h : s.MemoryForm) :
    (s.sweepIter k g0 g p op f i).1.MemoryForm := by
  unfold State.sweepIter
  dsimp only
  refine h.killLanes.foldlFst fun p x h => ?_
  split
  · exact h.storeSpad
  · exact h

theorem State.MemoryForm.sweepFrom {i : Nat} {g0 : Group} {p : SweepPrefix} {op : LaneOp} {halt : Option FaultInfo}
    (h : s.MemoryForm) : (s.sweepFrom k g0 g p op f halt i n).1.MemoryForm := by
  induction n generalizing s g halt i with
  | zero => exact h
  | succ n ih => exact ih h.sweepIter

theorem State.MemoryForm.sweep {p : SweepPrefix} {op : LaneOp} (h : s.MemoryForm) : (s.sweep k g p op f i).MemoryForm := by
  unfold State.sweep
  dsimp only
  split
  · exact h.systemFault
  · exact h.sweepFrom.done

theorem State.MemoryForm.runLane {op : LaneOp} (h : s.MemoryForm) : Kept (s.runLane op f i) := h.run (fun _ _ => h.sweep.ite h.die.done)

theorem execPWord_kept {h0 : PHalf} {h1 : PHalf} (h : s.MemoryForm) : Kept (execPWord h0 h1 s) := by
  unfold execPWord
  dsimp only
  refine h.run (fun _ g => ?_)
  refine .ite h.die.done ?_
  split
  · exact h.die.haltGroup
  · exact h.die.done

theorem execVflag_kept {f : VflagForm} (h : s.MemoryForm) : Kept (execVflag f l s) := by
  unfold execVflag
  dsimp only
  refine h.run (fun _ g => ?_)
  split
  · exact h.done
  · exact h.done
  · exact h.done
  · exact h.done
  · exact h.done
  · exact h.die.done

/-! ### Issued accesses -/

theorem State.MemoryForm.launchOp {acq : Bool} {halt : Option FaultInfo} {time : Nat} (h : s.MemoryForm) :
    (s.launchOp k g i o acq halt time).MemoryForm :=
  h.same.done

theorem State.MemoryForm.issueAccess {r : Req} {time : Nat} (h : s.MemoryForm) : (s.issueAccess k g i r time).MemoryForm := by
  unfold State.issueAccess
  dsimp only
  refine .ite h.lanesDie.done ?_
  split
  · exact h.systemFault
  · split
    · exact h.wait
    · exact h.wait.ite h.lanesDie.launchOp

/-! ### Team and gang barriers -/

theorem State.MemoryForm.setBar {gang : Bool} {i : Nat} {b : Bar} (h : s.MemoryForm) : (s.setBar k gang i b).MemoryForm :=
  (h.setGang (h.clean_getD (x := gangOf k))).ite h.setTeam

theorem State.MemoryForm.releaseWaiters {gang : Bool} {i : Nat} {phase : Bool} (h : s.MemoryForm) : (s.releaseWaiters k gang i phase).MemoryForm :=
  h.mapGroups fun e => by dsimp only; split <;> [split; split; skip] <;> rfl

theorem State.MemoryForm.arrive {gang : Bool} {i : Nat} {reg : Option Nat} (h : s.MemoryForm) : KeptSome (s.arrive k gang i reg) := by
  unfold State.arrive
  dsimp only
  split
  · exact keptSome_none
  · exact (h.setBar.ite h.setBar.releaseWaiters).keptSome

theorem State.MemoryForm.arriveHeld (h : s.MemoryForm) : (s.arriveHeld team idx).MemoryForm := by
  unfold State.arriveHeld
  dsimp only
  split
  · exact h
  · exact (h.setTeam.arrive.getD h.setTeam).ite h

theorem State.MemoryForm.flushHeld (h : s.MemoryForm) : (s.flushHeld n).MemoryForm := by
  induction n generalizing s with
  | zero => exact h
  | succ n ih =>
    unfold State.flushHeld
    split
    · exact h
    · exact ih h.arriveHeld

theorem State.MemoryForm.flushDeferred (h : s.MemoryForm) : s.flushDeferred.MemoryForm := h.flushHeld

theorem State.MemoryForm.leaveBars (h : s.MemoryForm) : (s.leaveBars k).MemoryForm :=
  (h.setTeam.setGang (h.clean_getD (x := gangOf k))).flushDeferred

theorem State.MemoryForm.commitDone (h : s.MemoryForm) : (s.commitDone k g i).MemoryForm := h.done

theorem State.MemoryForm.arriveNow {reg : Option Nat} (h : s.MemoryForm) : (s.arriveNow k g i d bar reg).MemoryForm := by
  unfold State.arriveNow
  split
  · exact h.wait
  · split
    next e1 => exact (h.arrive _ e1).commitDone
    · exact h.commitDone

theorem execBarArriveDefer_kept {queue : BitVec 3} (h : s.MemoryForm) : Kept (execBarArriveDefer d bar queue l s) := by
  unfold execBarArriveDefer
  dsimp only
  refine h.run (fun _ g => ?_)
  refine .ite h.wait ?_
  split
  · exact h.wait
  · refine .ite ?_ ?_
    · split
      next e1 => exact (h.arrive _ e1).commitDone
      · exact h.newId.setTeam.commitDone
    · exact h.newId.setTeam.commitDone

theorem execBarrierWaiterRelease_kept (h : s.MemoryForm) : Kept (execBarrierWaiterRelease group s) := by
  unfold execBarrierWaiterRelease
  dsimp only
  split
  · exact h.kept
  · refine .ite h.kept ?_
    split
    · exact h.setBar.setGroup.flushDeferred.kept
    · exact h.setBar.newId.setGroup.flushDeferred.kept
    · exact h.kept

/-! ### Loads, stores and waits -/

theorem State.MemoryForm.vecAccess {f : MemF} {load : Bool} {addr : Nat → ℤ} (h : s.MemoryForm) :
    (s.vecAccess k g i f load addr).MemoryForm :=
  h.issueAccess

theorem State.MemoryForm.scalarAccess {f : MemF} {load : Bool} (h : s.MemoryForm) : (s.scalarAccess k g i f load).MemoryForm :=
  h.issueAccess

theorem State.MemoryForm.waitFor {test : Option Nat × Nat} (h : s.MemoryForm) : (s.waitFor k g i test).MemoryForm := by
  unfold State.waitFor
  split
  · exact h.done
  · exact h.done
  · exact h.markIssue.wait
  · exact h.wait

theorem execPref_kept {perLane : Bool} {scale : Bool} {hint : Hint} {disp : BitVec 10} (h : s.MemoryForm) :
    Kept (execPref perLane a b scale hint disp l s) := by
  unfold execPref
  dsimp only
  refine h.run (fun _ g => ?_)
  split
  · exact h.systemFault
  · exact h.wait.ite h.lanesDie.done

theorem execZfill_kept {space : Space} {sem : Sem} {scope : Scope} {hint : Hint} {n : BitVec 4} {disp : BitVec 10} (h : s.MemoryForm) :
    Kept (execZfill space a b sem scope hint n disp l s) := by
  unfold execZfill
  dsimp only
  refine h.run (fun _ g => ?_)
  refine .ite h.done ?_
  refine .ite h.systemFault ?_
  refine .ite h.systemFault ?_
  split
  · exact h.systemFault
  · split
    · exact h.wait
    · exact h.wait.ite h.launchOp

/-! ### Messages, events, queues and links of the device -/

theorem State.MemoryForm.logIo {e : IoEntry} (h : s.MemoryForm) : (s.logIo e).MemoryForm := h.same.ite h.same

theorem State.MemoryForm.send {m : OutMsg} (h : s.MemoryForm) : (s.send m).MemoryForm := h.same

theorem State.MemoryForm.setEvent {e : Nat} {b : EventBar} (h : s.MemoryForm) : (s.setEvent e b).MemoryForm := h.same

theorem State.MemoryForm.postEvent {e : Nat} {src : EventSource} (h : s.MemoryForm) : (s.postEvent e src).MemoryForm :=
  h.setEvent.ite h.logIo

theorem State.MemoryForm.newGrid {prio : Nat} {lr : LaunchRec} {src : GridSource} (h : s.MemoryForm) :
    (s.newGrid ctx prio lr src).MemoryForm :=
  h.same

theorem State.MemoryForm.pend {i : Nat} (h : s.MemoryForm) : (s.pend i).MemoryForm := h.ite h.same

theorem State.MemoryForm.kickIdx {i : Nat} (h : s.MemoryForm) : (s.kickIdx i).MemoryForm := h.same.pend.ite h.same

theorem State.MemoryForm.takePacket {i : Nat} {h' : HwSlot} {u : UserQueue} {lr : LaunchRec} (h : s.MemoryForm) :
    (s.takePacket i h' q u lr).MemoryForm :=
  h.same

theorem State.MemoryForm.scanStep {i : Nat} (h : s.MemoryForm) : (s.scanStep i).MemoryForm := by
  unfold State.scanStep
  dsimp only
  split
  · exact h
  · refine .ite h ?_
    split
    · split
      · exact h.same
      · exact (h.same.ite h.noteLeaf.takePacket).ite ((h.same.ite h.same).ite h.same)
    · exact h

theorem State.MemoryForm.depRelease {i : Nat} (h : s.MemoryForm) : (s.depRelease i).MemoryForm := by
  unfold State.depRelease
  split
  · exact h
  · split
    · exact h.ite h.takePacket
    · exact h

theorem State.MemoryForm.choose {α : Type} {l : List α} {x : α} (h : s.MemoryForm) (e : s.choose l = some (x, t)) : t.MemoryForm := by
  unfold State.choose at e
  split at e <;> cases e
  · exact h
  · exact h.free64

theorem State.MemoryForm.setPort {p : Port} (h : s.MemoryForm) : (s.setPort n p).MemoryForm := h.same

theorem State.MemoryForm.pump (h : s.MemoryForm) : (s.pump n).MemoryForm := h.ite (h.setPort.foldl fun _ _ h => h.setPort.send)

theorem State.MemoryForm.sendFlits {fs : List OutMsg} (h : s.MemoryForm) : (s.sendFlits fs).MemoryForm := by
  unfold State.sendFlits
  dsimp only
  split
  · exact h
  next e => exact (h.choose e).setPort.pump

theorem State.MemoryForm.linkSend {m : OutMsg} (h : s.MemoryForm) : (s.linkSend m).MemoryForm := h.same.sendFlits

theorem State.MemoryForm.linkAsk {a : RemoteAsk} {m : OutMsg} (h : s.MemoryForm) : (s.linkAsk a m).MemoryForm := h.same.linkSend

theorem State.MemoryForm.writeHome {w : Writer} (h : s.MemoryForm) : (s.writeHome w owner key bs).MemoryForm := by
  unfold State.writeHome
  dsimp only
  split
  · exact h.setPhys
  · exact h.send
  · exact h.newId.linkSend
  · exact h.kickIdx.ite h.logIo
  · exact h.postEvent.ite h.logIo
  · exact h

theorem State.MemoryForm.homeWrite (h : s.MemoryForm) : (s.homeWrite ctx owner key bs).MemoryForm := h.writeHome

theorem State.MemoryForm.ownWrite (h : s.MemoryForm) : (s.ownWrite id ctx owner key bs).MemoryForm := h.linkAsk.ite h.homeWrite

/-! ### Memory operations being performed -/

theorem State.MemoryForm.countDown (h : s.MemoryForm) : (s.countDown k n id).MemoryForm := by
  unfold State.countDown
  dsimp only
  refine .saveRecord (.modGroup ?_)
  split
  · exact h.groupError.ite h
  · exact h

theorem State.MemoryForm.finishOp (h : s.MemoryForm) : (s.finishOp id).MemoryForm := by
  unfold State.finishOp
  dsimp only
  split
  · exact h
  · exact (h.same.ite (h.same.countDown.modGroup.ite h.same.countDown)).ite h

theorem State.MemoryForm.setElem {e : Elem} (h : s.MemoryForm) : (s.setElem id o j e).MemoryForm := h.same

theorem State.MemoryForm.setHeld {held : List (Nat × Nat)} (h : s.MemoryForm) : (s.setHeld key held).MemoryForm := by
  unfold State.setHeld
  dsimp only
  split
  · exact h.same
  · exact h

theorem State.MemoryForm.stackArrive (h : s.MemoryForm) : (s.stackArrive id key).MemoryForm := by
  unfold State.stackArrive
  dsimp only
  split
  · exact h.same
  · exact h

theorem State.MemoryForm.stackLeave (h : s.MemoryForm) : (s.stackLeave id key).MemoryForm := h.ite h.setHeld

theorem State.MemoryForm.atStack {serve : State → State} (h : s.MemoryForm)
    (hserve : ∀ (a : State), a.MemoryForm → (serve a).MemoryForm) : (s.atStack id key serve).MemoryForm :=
  (hserve _ h.stackLeave).ite h.stackArrive

theorem State.MemoryForm.entryHome {l : BufLine} (h : s.MemoryForm) : (s.entryHome l).MemoryForm := by
  unfold State.entryHome
  refine h.foldl fun s x h => ?_
  split
  · exact h.same.finishOp
  · exact h

theorem State.MemoryForm.writeback {line : Nat} (h : s.MemoryForm) : (s.writeback core line).MemoryForm := by
  unfold State.writeback
  dsimp only
  split
  · exact h
  · exact (h.setCore.foldl fun _ _ h => h.ownWrite).ite ((h.setCore.errorRec.ite (h.setCore.foldl fun _ _ h => h.homeWrite)).entryHome)

theorem State.MemoryForm.bufferStore {un : Bool} (h : s.MemoryForm) :
    (s.bufferStore core id group ctx va un owner key bs).MemoryForm := by
  unfold State.bufferStore
  dsimp only
  split
  · exact h.setCore
  · exact h.newId.setCore

theorem State.MemoryForm.noteFault {e : Elem} {detail : Nat} (h : s.MemoryForm) : (s.noteFault id o e cause detail).MemoryForm :=
  h.same.ite h.same.modGroup

theorem State.MemoryForm.deliverBad {e : Elem} (h : s.MemoryForm) : (s.deliverBad o e).MemoryForm := by
  unfold State.deliverBad
  dsimp only
  split
  · exact h
  · exact (h.ite h.groupError.setGroup).ite h.groupError.setGroup

theorem State.MemoryForm.deliverWord {e : Elem} {w : Nat} (h : s.MemoryForm) : (s.deliverWord o e w).MemoryForm := h.modGroup

theorem State.MemoryForm.deliver {w : Nat} {e : Elem} (h : s.MemoryForm) : (s.deliver id o j w e).MemoryForm :=
  (h.ite (h.deliverBad.ite h.deliverWord)).setElem.finishOp

theorem State.MemoryForm.readElem {e : Elem} (h : s.MemoryForm) : (s.readElem id o j e key p).MemoryForm :=
  h.setElem.send.ite (h.setElem.linkAsk.ite h.setElem.finishOp)

theorem State.MemoryForm.performLoad {e : Elem} (h : s.MemoryForm) : (s.performLoad id o j e).MemoryForm := by
  unfold State.performLoad
  dsimp only
  split
  · split
    · exact h.noteFault
    · exact h.noteLeaf.atStack (fun _ h => h.readElem)
  · split
    · exact h.noteFault
    · exact h.setElem.finishOp

theorem State.MemoryForm.writeElem {e : Elem} (h : s.MemoryForm) : (s.writeElem id o j e key p).MemoryForm :=
  h.opError.setElem.finishOp.ite ((h.freeBool.iteSnd h).bufferStore.setElem.finishOp.ite (h.writeback.setElem.linkAsk.ite
      (h.atStack (fun _ h => h.writeback.homeWrite.setElem.finishOp))))

theorem State.MemoryForm.performStore {e : Elem} (h : s.MemoryForm) : (s.performStore id o j e).MemoryForm := by
  unfold State.performStore
  dsimp only
  split
  · split
    · exact h.noteFault
    · exact h.noteLeaf.writeElem
  · split
    · exact h.noteFault
    · exact h.storeSpad.setElem.finishOp

theorem State.MemoryForm.atomReply {e : Elem} {ret : Bool} {old : List Byte} (h : s.MemoryForm) :
    (s.atomReply id o j e ret old bad).MemoryForm :=
  ((h.opError.ite h.opError.modGroup).ite h).setElem.finishOp

theorem State.MemoryForm.atomHome {e : Elem} {op : AtomOp} {ret : Bool} (h : s.MemoryForm) :
    (s.atomHome id o j e op ret key p).MemoryForm := by
  unfold State.atomHome
  dsimp only
  refine .ite h.writeback.setElem.linkAsk ?_
  refine .ite h.writeback.send.atomReply ?_
  refine .ite h.writeback.atomReply ?_
  split
  · exact h.writeback.atomReply
  · exact h.writeback.setPhys.atomReply

theorem State.MemoryForm.performAtomic {e : Elem} {op : AtomOp} {ret : Bool} (h : s.MemoryForm) :
    (s.performAtomic id o j e op ret).MemoryForm := by
  unfold State.performAtomic
  dsimp only
  split
  · split
    · exact h.noteFault
    · exact h.atStack (fun _ h => h.atomHome)
  · refine .ite h.atomReply ?_
    split
    · exact h.atomReply
    · exact h.storeSpad.atomReply

theorem State.MemoryForm.performElem {e : Elem} (h : s.MemoryForm) : (s.performElem id o j e).MemoryForm := by
  unfold State.performElem
  dsimp only
  split
  · exact h.performLoad
  · exact h.performAtomic
  · exact (h.freeBool.performStore.ite h.freeBool.setElem.finishOp).ite h.performStore

theorem State.MemoryForm.opStep {remote : Bool} {deliver : Bool} (h : s.MemoryForm) : (s.opStep id o remote deliver).MemoryForm := by
  unfold State.opStep
  dsimp only
  split
  · exact h
  next e1 => exact (h.choose e1).performElem
  next e1 => exact (h.choose e1).deliver

theorem execLoadComplete_kept (h : s.MemoryForm) : Kept (execLoadComplete op s) := by
  unfold execLoadComplete
  split
  · exact h.kept
  · exact h.kept.ite (h.same.kept.ite h.opStep.kept)

theorem execStoreComplete_kept (h : s.MemoryForm) : Kept (execStoreComplete op s) := by
  unfold execStoreComplete
  split
  · exact h.kept
  · exact h.opStep.kept.ite h.kept

theorem execStoreBufferWriteback_kept {line : Nat} (h : s.MemoryForm) : Kept (execStoreBufferWriteback core line s) := by
  unfold execStoreBufferWriteback
  split
  · exact h.kept
  · exact (h.atStack (fun _ h => h.writeback)).kept

theorem execRemoteSAccess_kept (h : s.MemoryForm) : Kept (execRemoteSAccess op s) := by
  unfold execRemoteSAccess
  split
  · exact h.kept
  · exact h.opStep.kept

theorem execAtomicPerform_kept (h : s.MemoryForm) : Kept (execAtomicPerform op s) := by
  unfold execAtomicPerform
  split
  · exact h.kept
  · split
    · exact h.opStep.kept
    · exact h.kept

/-! ### Atomic instructions -/

theorem execAtom_kept {f : AtomF} (h : s.MemoryForm) : Kept (execAtom f s) := by
  unfold execAtom
  dsimp only
  refine h.run (fun _ g => ?_)
  split
  · exact h.systemFault
  · refine .ite h.wait ?_
    split
    · exact h.wait
    · split
      · exact h.systemFault
      · exact h.wait.ite (h.lanesDie.commitDone.ite h.lanesDie.launchOp)

/-! ### Event barriers -/

theorem execEvw_kept {e : BitVec 8} (h : s.MemoryForm) : Kept (execEvw e a l s) :=
  h.run (fun _ _ => h.systemFault.ite (h.systemFault.ite (h.commitDone.ite (h.setEvent.commitDone.ite h.setEvent.setGroup.tick))))

theorem execEvwTry_kept {e : BitVec 8} (h : s.MemoryForm) : Kept (execEvwTry d e a l s) :=
  h.run (fun _ _ => h.systemFault.ite (h.systemFault.ite (h.commitDone.ite (h.setEvent.commitDone.ite h.commitDone))))

theorem execEvwWaiterRelease_kept {e : BitVec 8} (h : s.MemoryForm) : Kept (execEvwWaiterRelease e s) := by
  unfold execEvwWaiterRelease
  dsimp only
  split
  · exact h.kept
  · refine .ite ?_ ?_
    · split
      · split
        · exact h.setEvent.systemFault.kept
        · exact h.setEvent.newId.setGroup.kept
        · exact h.setEvent.kept
      · exact h.setEvent.kept
    · refine .ite h.kept ?_
      split
      · exact h.setEvent.kept
      · split
        · exact h.setEvent.setGroup.kept
        · exact h.setEvent.newId.setGroup.kept
        · exact h.setEvent.kept

/-! ### Grids, exits and task instructions -/

theorem State.MemoryForm.yieldMet {a : WaitOn} (h : s.MemoryForm) : KeptSome (s.yieldMet k a) := by
  unfold State.yieldMet
  dsimp only
  split
  · exact h.keptSome
  · exact h.setBar.flushDeferred.keptSome.ite keptSome_none
  · exact h.keptSome.ite (h.setEvent.keptSome.ite keptSome_none)

theorem State.MemoryForm.park {w : WaitOn} (h : s.MemoryForm) : (s.park k w).MemoryForm := by
  unfold State.park
  dsimp only
  split
  · exact h
  · split
    · exact h.discard.setEvent.ite h.discard
    · exact h.discard

theorem execRegion_kept {n : BitVec 8} (h : s.MemoryForm) : Kept (execRegion n l s) := by
  unfold execRegion
  dsimp only
  refine h.run (fun _ g => ?_)
  refine .ite h.systemFault ?_
  refine .ite h.wait ?_
  split
  next e => exact ((h.groupError.ite h).yieldMet _ e).done
  · exact (h.groupError.ite h).done.park

theorem State.MemoryForm.readSent {sp : Space} {a : ℤ} (h : s.MemoryForm) : (s.readSent k g sp a n).MemoryForm := by
  unfold State.readSent
  split
  · exact h.send.ite (h.linkSend.ite h)
  · exact h

theorem State.MemoryForm.loadFault {sp : Space} {f : FaultInfo} (h : s.MemoryForm) : (s.loadFault k g sp f).MemoryForm :=
  (h.groupError.ite h).systemFault

theorem State.MemoryForm.launchWith {check : Option FaultInfo} {go : Group → LaunchRec → State} (h : s.MemoryForm)
    (hgo : ∀ (a : Group) (a_1 : LaunchRec), (go a a_1).MemoryForm) : (s.launchWith k g lspace a l check go).MemoryForm := by
  unfold State.launchWith
  dsimp only
  refine .ite h.systemFault ?_
  split
  · exact h.wait
  · split
    · exact h.loadFault
    · refine .ite ((h.ite h.readSent).systemFault) ?_
      split
      · exact (h.ite h.readSent).systemFault
      · refine .ite ((h.ite h.readSent).wait) ?_
        split
        · exact (h.ite h.readSent).wait
        · exact hgo _ _

theorem State.MemoryForm.wqAppend {b : Nat} {r : LaunchRec} (h : s.MemoryForm) : (s.wqAppend b grid r).MemoryForm := h.same

/-! ### Tiles -/

theorem State.MemoryForm.setEntry (h : s.MemoryForm) : (s.setEntry c idx bs).MemoryForm := h.setPhys

theorem State.MemoryForm.updateEntry (h : s.MemoryForm) : (s.updateEntry k g c idx bs).MemoryForm := h.groupError.ite h.setEntry

theorem State.MemoryForm.dropTag {p : CacheEntry → Bool} (h : s.MemoryForm) : (s.dropTag p).MemoryForm := h.same

theorem State.MemoryForm.useEntries {hs : List Word} (h : s.MemoryForm) : (s.useEntries core c hs).MemoryForm := h.setCore

theorem State.MemoryForm.withEntries {hs : List Word} {f : State → State} (h : s.MemoryForm)
    (hf : ∀ (a : State), a.MemoryForm → (f a).MemoryForm) : (s.withEntries k g hs f).MemoryForm := by
  unfold State.withEntries
  dsimp only
  refine .ite (hf _ h.useEntries) ?_
  refine .ite h.wait ?_
  split
  · exact h.loadFault
  · exact h.useEntries.wait

theorem State.MemoryForm.dropTable (h : s.MemoryForm) : (s.dropTable c idx).MemoryForm := h.same

theorem execTdef_kept {gspace : Bool} {x : Ext} (h : s.MemoryForm) : Kept (execTdef gspace d a b x s) := by
  unfold execTdef
  dsimp only
  refine h.run (fun _ g => ?_)
  refine .ite h.systemFault ?_
  split
  · exact h.wait
  · split
    · exact h.loadFault
    · exact h.readSent.systemFault.ite (h.readSent.systemFault.ite
        (h.readSent.wait.ite ((h.readSent.updateEntry.dropTable.dropTag.ite h.readSent.updateEntry.dropTable).commitDone)))

theorem State.MemoryForm.staleTrap {h' : Word} (h : s.MemoryForm) : (s.staleTrap k g h').MemoryForm := h.userTrap.tick

theorem execTfree_kept {x : Ext} (h : s.MemoryForm) : Kept (execTfree a x s) :=
  h.run (fun _ _ => h.withEntries (fun _ h => h.staleTrap.ite (h.wait.ite h.updateEntry.dropTable.dropTag.commitDone)))

/-! ### The matrix engine's instructions -/

theorem State.MemoryForm.enqueue {tile : Nat} {kind : EngineKind} {counter : Option Nat} {pair : Bool} (h : s.MemoryForm) :
    (s.enqueue k g i tile kind counter pair).MemoryForm :=
  h.newId.setCore.done

theorem execMma_kept {z : Bool} {c : Operand} {n : BitVec 4} {t : BitVec 3} (h : s.MemoryForm) : Kept (execMma z a b c n t l s) := by
  unfold execMma
  dsimp only
  refine h.run (fun _ g => ?_)
  refine .ite h.userTrap.tick ?_
  refine h.withEntries (fun s h => ?_)
  refine .ite h.staleTrap ?_
  refine .ite h.staleTrap ?_
  refine .ite h.systemFault ?_
  split
  · exact h.systemFault
  · exact h.enqueue

theorem State.MemoryForm.tileMove {c : Operand} {n : BitVec 4} {t : BitVec 3} {mk : List Byte → Word → EngineKind} (h : s.MemoryForm) :
    (s.tileMove k g i a c n t l mk).MemoryForm := by
  unfold State.tileMove
  dsimp only
  refine h.withEntries (fun s h => ?_)
  refine .ite h.staleTrap ?_
  refine .ite h.systemFault ?_
  split
  · exact h.systemFault
  · exact h.enqueue

theorem State.MemoryForm.setTile {t : Nat} {x : Tile} (h : s.MemoryForm) : (s.setTile k t x).MemoryForm := h.setTeam

/-! ### Traps, yields and system requests -/

theorem execSysreq_kept {n : BitVec 8} (h : s.MemoryForm) : Kept (execSysreq n d a l s) := by
  refine h.run fun k g => ?_
  dsimp only
  split
  · exact h.wait
  · have hd : (s.done k { g with pairPending := true } (.sysreq n d a l) 1).MemoryForm := h.done
    exact h.wait.ite hd.same.modGroup

theorem State.MemoryForm.dropWaiting (h : s.MemoryForm) : (s.dropWaiting n).MemoryForm := by
  have hi := h.foldl (l := s.groups.filter (fun e =>
    gridOf e.1 = n && (e.2.place = .queued || e.2.place = .yielded || e.2.place = .parked))) fun _ e h => h.endGroup (k := e.1) (g := e.2)
  refine (hi.withGangs fun e he => ?_).same
  obtain ⟨x, hx, rfl⟩ := List.mem_map.1 he
  have hc := hi.2.2.2 x hx
  split <;> exact hc

theorem State.MemoryForm.beginTermination (h : s.MemoryForm) : (s.beginTermination n code).MemoryForm := by
  unfold State.beginTermination
  split
  · exact h
  · exact h.ite h.setGrid.dropWaiting

theorem State.MemoryForm.exitGroup (h : s.MemoryForm) : (s.exitGroup k g).MemoryForm := h.markIssue.leaveBars.setGroup.settle.tick

/-! ### Running the matrix engine -/

theorem State.MemoryForm.fetchEntry {o : EngineOp} {x : Stream} {u : Nat} {f : Fetched} (h : s.MemoryForm) :
    (s.fetchEntry core o x u f).2.MemoryForm := by
  unfold State.fetchEntry
  dsimp only
  split
  · exact h.setCore
  · exact h.iteSnd h.setCore

theorem State.MemoryForm.fetchSeg {o : EngineOp} {x : Stream} (h : s.MemoryForm) : (s.fetchSeg core o x).2.MemoryForm :=
  h.foldlSnd fun _ _ h => h.fetchEntry

theorem State.MemoryForm.engineErrors {o : EngineOp} {keys : List Nat} (h : s.MemoryForm) :
    (s.engineErrors core o source keys).MemoryForm :=
  h.foldl fun _ _ h => h.errorRec

theorem State.MemoryForm.cellErrors {o : EngineOp} {cells : List Nat} (h : s.MemoryForm) : (s.cellErrors core o cells).MemoryForm :=
  h.foldl fun _ _ h => h.errorRec

theorem State.MemoryForm.tileErrors {o : EngineOp} {words : List Nat} (h : s.MemoryForm) : (s.tileErrors core o words).MemoryForm :=
  h.foldl fun _ _ h => h.errorRec

theorem State.MemoryForm.sampleSeg {o : EngineOp} {xa : Stream} {xb : Stream} {seg : Nat} {sig : Word} {exact : Word}
    (h : s.MemoryForm) : (s.sampleSeg core o xa xb seg sig exact).MemoryForm :=
  (h.freeBool.setCore.ite h.freeBool).ite ((h.freeBool.setCore.ite h.freeBool).setCore.ite ((h.freeBool.setCore.ite
      h.freeBool).newId.same))

theorem State.MemoryForm.mmaSeg {o : EngineOp} {xa : Stream} {xb : Stream} {k0 : Nat} (h : s.MemoryForm) :
    (s.mmaSeg core o xa xb k0 n).1.MemoryForm :=
  h.fetchSeg.fetchSeg.setCore.engineErrors.engineErrors.cellErrors.tileErrors.setTile.sampleSeg

theorem State.MemoryForm.mmaRun {o : EngineOp} {z : Bool} {a b : List Byte} {ha hb w : Word} (h : s.MemoryForm) :
    (s.mmaRun core o z a b ha hb w).1.MemoryForm := by
  have ht : ∀ c : Bool, (if c = true then s.setTile o.group o.tile { s.tile o.group o.tile with words := [], bad := [] } else s).MemoryForm :=
    fun _ => h.setTile.ite h
  unfold State.mmaRun
  dsimp only
  split
  · exact .iteFst (ht _) (ht _).free64.setTile
  · exact .iteFst (ht _).mmaSeg (ht _).mmaSeg.free64.setTile

theorem State.MemoryForm.mloadRun {o : EngineOp} {eb : List Byte} {w : Word} (h : s.MemoryForm) : (s.mloadRun core o eb w).MemoryForm :=
  h.engineErrors.setTile

theorem State.MemoryForm.mstoreWrite {o : EngineOp} {eb : List Byte} {w : Word} {early : Bool} (h : s.MemoryForm) :
    (s.mstoreWrite o rm eb w early).MemoryForm :=
  h.foldl fun _ _ h => h.storeSpad.ite h

theorem State.MemoryForm.mstoreRun {o : EngineOp} {eb : List Byte} {w : Word} (h : s.MemoryForm) :
    (s.mstoreRun core o rm eb w).MemoryForm :=
  h.mstoreWrite.tileErrors.setTile

theorem State.MemoryForm.strikeTile (h : s.MemoryForm) : (s.strikeTile which n).MemoryForm := by
  unfold State.strikeTile
  dsimp only
  split
  · exact h
  · exact h.setTeam

theorem State.MemoryForm.strikeCache (h : s.MemoryForm) : (s.strikeCache which n).MemoryForm := by
  unfold State.strikeCache
  dsimp only
  split
  · exact h
  · exact h.setCore

theorem State.MemoryForm.strikeCell (h : s.MemoryForm) : (s.strikeCell which n).MemoryForm := h.setCore

theorem execEngineOpStart_kept (h : s.MemoryForm) : Kept (execEngineOpStart core s) := by
  unfold execEngineOpStart
  dsimp only
  split
  · exact h.kept
  · refine .ite h.kept ?_
    split
    · exact h.same.mstoreWrite.kept
    · exact h.same.kept

theorem State.MemoryForm.engineRun {o : EngineOp} (h : s.MemoryForm) : (s.engineRun core o).1.MemoryForm := by
  unfold State.engineRun
  dsimp only
  split
  · exact h.mmaRun
  · exact h.setTile
  · exact h.mloadRun
  · exact h.mstoreRun
  · exact h.setCore

theorem execEngineOpComplete_kept (h : s.MemoryForm) : Kept (execEngineOpComplete core s) := by
  unfold execEngineOpComplete
  dsimp only
  split
  · exact h.kept
  · refine .ite h.kept ?_
    refine .ite h.engineRun.same.setCore.kept ?_
    refine State.MemoryForm.kept (.settle ?_)
    split
    · exact h.engineRun.same.setCore.ite h.engineRun.same.setCore.countDown
    · exact h.engineRun.same.setCore

/-! ### Copies -/

theorem State.MemoryForm.issueCopy {f : CopyF} {dst : Space} {src : Space} {so : Bool} {moves : List Move} (h : s.MemoryForm) :
    (s.issueCopy k g i f dst src so moves).MemoryForm := by
  unfold State.issueCopy
  dsimp only
  refine .ite h.wait ?_
  split
  · exact h.wait
  · exact h.wait.ite h.same.commitDone

theorem execCpy_kept {dsp : Space} {ssp : Space} {twoD : Bool} {f : CopyF} (h : s.MemoryForm) : Kept (execCpy dsp ssp twoD f s) := by
  unfold execCpy
  dsimp only
  refine h.run (fun _ g => ?_)
  refine .ite h.systemFault ?_
  refine .ite h.systemFault ?_
  refine .ite h.systemFault ?_
  split
  · exact h.systemFault
  · exact h.issueCopy

theorem execCpyt_kept {gmc : Option Operand} {f : CopyF} (h : s.MemoryForm) : Kept (execCpyt gmc f s) := by
  unfold execCpyt
  dsimp only
  refine h.run (fun _ g => ?_)
  refine h.withEntries (fun s h => ?_)
  refine .ite h.staleTrap ?_
  refine .ite h.staleTrap ?_
  refine .ite h.systemFault ?_
  refine .ite h.systemFault ?_
  refine .ite h.systemFault ?_
  split
  · exact h.systemFault
  · exact h.issueCopy

theorem State.MemoryForm.withCopies {m : SMap Copy} (h : s.MemoryForm) : { s with copies := m }.MemoryForm := h.same

theorem State.MemoryForm.copyRead {c : Copy} {bs : List (Nat × Nat × DWord)} {p : Option Pte} (h : s.MemoryForm) :
    (s.copyRead id c bs key p).MemoryForm := by
  unfold State.copyRead
  cases p with
  | none => exact h.withCopies
  | some p => exact (h.linkAsk.ite h).noteLeaf.withCopies

theorem State.MemoryForm.copyAnswer {c : Copy} {word : Nat} (h : s.MemoryForm) : (s.copyAnswer id c word bs bad).MemoryForm :=
  h.ite h.same

theorem State.MemoryForm.copyWrite {c : Copy} {i : Nat} {a : DWord} {p : Option Pte} (h : s.MemoryForm) :
    (s.copyWrite id c i a key p).MemoryForm := by
  unfold State.copyWrite
  dsimp only
  refine .same ?_
  split
  · exact h.noteLeaf.errorRec.ite (h.noteLeaf.writeback.ownWrite.same.ite (h.noteLeaf.bufferStore.ite h.noteLeaf.writeback.ownWrite))
  · exact h.storeSpad.same.ite h.storeSpad

theorem State.MemoryForm.copyDone {c : Copy} (h : s.MemoryForm) : (s.copyDone id c).MemoryForm := h.same

theorem State.MemoryForm.copyFinish {c : Copy} (h : s.MemoryForm) : (s.copyFinish id c).MemoryForm := by
  unfold State.copyFinish
  dsimp only
  refine .ite h ?_
  refine .ite ?_ ?_
  · refine .settle ?_
    split
    · exact h.same.errorRec
    · exact h.same
  · refine .settle (.flushDeferred (.copyDone ?_))
    split
    · refine .countDown ?_
      split
      · exact h.same.errorRec
      · exact h.same
    · split
      · exact h.same.errorRec
      · exact h.same

theorem execCopyComplete_kept (h : s.MemoryForm) : Kept (execCopyComplete id s) := by
  unfold execCopyComplete
  dsimp only
  split
  · exact h.kept
  · split
    · exact h.copyFinish.kept
    next e1 =>
      split
      · exact (h.choose e1).kept
      · refine State.MemoryForm.kept (.ite ?_ ?_)
        · split
          · exact (h.choose e1).copyRead
          · exact (h.choose e1).copyWrite
        · refine (h.choose e1).atStack (fun s h => ?_)
          split
          · exact h.copyRead
          · exact h.copyWrite

theorem State.MemoryForm.copyStop {c : Copy} {addr : Option DWord} (h : s.MemoryForm) : (s.copyStop id c addr code).MemoryForm := by
  unfold State.copyStop
  dsimp only
  refine .beginTermination (.same ?_)
  split
  · exact h.errorRec
  · exact h

theorem execCopyPageFault_kept (h : s.MemoryForm) : Kept (execCopyPageFault id s) := by
  unfold execCopyPageFault
  dsimp only
  split
  · exact h.kept
  · split
    · exact h.kept
    next e2 => exact (h.choose e2).same.kept.ite (h.choose e2).copyStop.kept

/-! ### Collectives -/

theorem State.MemoryForm.collSent {sp : Space} {base : ℤ} (h : s.MemoryForm) : (s.collSent k g sp base bs).MemoryForm :=
  h.ite (h.readSent.foldl fun _ _ h => h.readSent)

theorem execColl_kept {slot : BitVec 3} (h : s.MemoryForm) : Kept (execColl lspace a slot l s) := by
  unfold execColl
  dsimp only
  refine h.run (fun _ g => ?_)
  refine .ite h.systemFault ?_
  split
  · exact h.wait
  · split
    · exact h.loadFault
    · refine h.collSent.withEntries (fun s h => ?_)
      refine .ite h.staleTrap ?_
      refine .ite h.staleTrap ?_
      refine .ite h.systemFault ?_
      refine .ite h.wait ?_
      split
      · exact h.wait
      · exact h.wait.ite h.same.commitDone

theorem State.MemoryForm.collRead {c : Coll} {pick : Nat → Bool} (h : s.MemoryForm) : (s.collRead id c pick).1.MemoryForm := by
  unfold State.collRead
  dsimp only
  refine h.foldlFst fun p x h => ?_
  split
  · exact h
  · split
    · exact h
    · exact h.iteFst (h.errorRec.iteFst h)

theorem State.MemoryForm.collWrite {c : Coll} {pick : Nat → Bool} (h : s.MemoryForm) : (s.collWrite id c pick).1.MemoryForm := by
  unfold State.collWrite
  dsimp only
  refine h.foldlFst fun p x h => ?_
  split
  · exact h
  · split
    · exact h
    · exact h.iteFst (h.errorRec.iteFst h.writeback.ownWrite)

theorem State.MemoryForm.collPurge (h : s.MemoryForm) : s.collPurge.MemoryForm := h.same

theorem State.MemoryForm.collEnd {c : Coll} {failrank : Nat} (h : s.MemoryForm) : (s.collEnd id c code failrank).MemoryForm := h.same

theorem State.MemoryForm.collFail {c : Coll} {failrank : Nat} (h : s.MemoryForm) : (s.collFail c code failrank).MemoryForm :=
  (h.same.foldl fun _ _ h => h.collEnd).collPurge

theorem State.MemoryForm.collStuck {c : Coll} (h : s.MemoryForm) : KeptSome (s.collStuck id c) := by
  unfold State.collStuck
  split
  · exact h.keptSome
  · exact h.collEnd.collPurge.keptSome
  · exact keptSome_map fun _ _ => h.collFail

theorem State.MemoryForm.collShipTo {c : Coll} {r : Nat} (h : s.MemoryForm) : (s.collShipTo id c r).MemoryForm := h.linkSend

theorem State.MemoryForm.collAdvance {c : Coll} {pick : Nat → Bool} (h : s.MemoryForm) : (s.collAdvance id c pick).MemoryForm :=
  (h.collRead.same.foldl fun _ _ h => h.collShipTo).ite h.collRead.same

theorem State.MemoryForm.collTransfer {c : Coll} {r : Nat} (h : s.MemoryForm) : (s.collTransfer id c r).MemoryForm := by
  unfold State.collTransfer
  dsimp only
  refine .ite h (.ite ?_ (.ite h.collFail ?_))
  · split
    · exact h
    next yid y _ =>
      have hy : (s.collAdvance yid y fun _ => true).MemoryForm := h.collAdvance
      refine .ite h ?_
      split
      · exact hy
      · exact hy.same
  · split
    · exact h
    · exact h.ite (.linkSend h.same)

theorem State.MemoryForm.retryStep {c : Coll} {r : Nat} {again : State → State} (h : s.MemoryForm)
    (hagain : ∀ (a : State), a.MemoryForm → (again a).MemoryForm) : (s.retryStep id c r again).MemoryForm :=
  (hagain _ h.same).ite h.collFail

theorem State.MemoryForm.stepFailed {r : Nat} (h : s.MemoryForm) : (s.stepFailed id r).MemoryForm := by
  unfold State.stepFailed
  split
  · exact h
  · exact h.retryStep (fun _ h => h.collShipTo)

theorem execCollStep_kept {fromRank : Nat} (h : s.MemoryForm) : Kept (execCollStep team slot fromRank s) := by
  unfold execCollStep
  dsimp only
  split
  · exact h.kept
  · split
    next e1 => exact (h.collStuck _ e1).kept
    · exact h.collTransfer.kept.ite (h.same.collAdvance.kept.ite (h.collWrite.same.kept.ite h.kept))

theorem execCollStepFail_kept {fromRank : Nat} (h : s.MemoryForm) : Kept (execCollStepFail team slot fromRank s) := by
  unfold execCollStepFail
  dsimp only
  split
  · exact h.kept
  · exact h.kept.ite (h.retryStep (fun _ h => h)).kept

theorem execCollTimeout_kept {rank : Nat} (h : s.MemoryForm) : Kept (execCollTimeout team slot rank s) := by
  unfold execCollTimeout
  dsimp only
  split
  · exact h.kept
  · refine .ite h.kept ?_
    split
    · exact (h.ite h.collEnd.collPurge).kept
    · exact (h.ite h.collFail).kept

theorem execCollComplete_kept (h : s.MemoryForm) : Kept (execCollComplete team slot s) := by
  unfold execCollComplete
  dsimp only
  split
  · exact h.kept
  · split
    next e1 => exact (h.collStuck _ e1).kept
    · exact h.kept.ite (h.collWrite.same.collEnd.collPurge.kept.ite h.collWrite.same.kept)

/-! ### Measurements and losses -/

theorem State.MemoryForm.extend {item : List Byte} (h : s.MemoryForm) : (s.extend n item).MemoryForm := h.same

theorem State.MemoryForm.extendOpen (h : s.MemoryForm) : (s.extendOpen n).MemoryForm := h.same

theorem State.MemoryForm.lose {k : Loss} (h : s.MemoryForm) : (s.lose k n).MemoryForm := h.same

/-! ### The scheduler -/

theorem State.MemoryForm.placeTeam {x m core : Nat} (h : s.MemoryForm) : (s.placeTeam x m core).MemoryForm := by
  unfold State.placeTeam
  dsimp only
  split
  · exact h
  next e =>
    have hc := h.choose e
    refine .ite (hc.setTeam.foldl fun _ _ h => h.setGroup) (hc.setTeam.mapGroups fun e => ?_)
    split <;> rfl

theorem State.MemoryForm.placeGang {x : Nat} {r : Nat × Nat} (h : s.MemoryForm) : (s.placeGang x r).MemoryForm := by
  have hp := h.foldl (l := (List.range (s.rectCores x r).length).zip (s.rectCores x r)) (f := fun s c => s.placeTeam x c.1 c.2)
    fun _ _ h => h.placeTeam
  exact (hp.same.ite hp).setGang (h.clean_getD (x := x))

theorem State.MemoryForm.takeChuck {x : Nat} (h : s.MemoryForm) : (s.takeChuck x).MemoryForm := h.same

theorem State.MemoryForm.visit {v : State × Bool} {x : Nat} (h : v.1.MemoryForm) : (State.visit v x).1.MemoryForm := by
  unfold State.visit
  dsimp only
  split
  · exact .ite (.same h.placeGang) h.placeGang
  · exact h.ite h.takeChuck

theorem State.MemoryForm.beginSwap {x cause : Nat} (h : s.MemoryForm) : (s.beginSwap x cause).MemoryForm := by
  have hc := h.clean_getD (x := x)
  refine .ite (h.setGang hc) (.ite h (State.MemoryForm.mapGroups (h.setGang hc) fun e => ?_))
  split <;> rfl

theorem State.MemoryForm.preempt (h : s.MemoryForm) : s.preempt.MemoryForm := by
  unfold State.preempt
  dsimp only
  split
  · exact h
  · exact h.foldl fun _ _ h => h.beginSwap

theorem execSchedulerStep_kept (h : s.MemoryForm) : Kept (execSchedulerStep s) := by
  refine h.same.kept.ite (State.MemoryForm.kept (State.MemoryForm.preempt (State.MemoryForm.foldlFst ?_ fun _ _ h => h.visit)))
  dsimp only
  split
  · exact h.ite h.same
  · exact h

theorem State.MemoryForm.rebuildChuck (h : s.MemoryForm) : s.rebuildChuck.MemoryForm := by
  unfold State.rebuildChuck
  dsimp only
  split
  · exact h.same
  · exact h.same.takeChuck

/-! ### Gangs swapped out and in -/

/-- The image takes entries of the scratchpad, none of which holds the default. -/
theorem State.MemoryForm.saveImage {x : Nat} {g : Gang} (h : s.MemoryForm) : (s.saveImage x g).CleanImage := by
  intro b hb
  obtain ⟨t, -, hb⟩ := List.mem_flatMap.1 hb
  obtain ⟨e, he, rfl⟩ := List.mem_map.1 hb
  exact h.2.1.2 e (List.mem_of_mem_filter he)

theorem execGangSwapOut_kept {gang : Nat} (h : s.MemoryForm) : Kept (execGangSwapOut gang s) := by
  unfold execGangSwapOut
  dsimp only
  split
  · exact .ite ((h.setGang (h.saveImage (x := gang) (g := s.gangs.getD gang {}))).foldl fun _ _ h => h.setCore).kept h.kept
  · exact h.kept

theorem State.MemoryForm.readImage {g : Gang} {t : Nat × Team} (h : s.MemoryForm) (hg : g.CleanImage) : (s.readImage g t).MemoryForm :=
  (h.withSpad (State.readImage_wf h.2.1 g t hg)).same

theorem execGangSwapIn_kept {gang die origin : Nat} (h : s.MemoryForm) : Kept (execGangSwapIn gang die origin s) := by
  refine Kept.ite (State.MemoryForm.kept (State.MemoryForm.setGang ?_ Gang.cleanImage_empty)) h.kept
  exact h.foldl fun _ _ h' => h'.readImage h.clean_getD

theorem execRecordResume_kept (h : s.MemoryForm) : Kept (execRecordResume group s) := by
  unfold execRecordResume
  dsimp only
  split
  · exact h.kept
  · split
    · exact h.kept
    next e1 => exact (h.choose e1).setTeam.setGroup.kept

theorem execForwardProgressExpiry_kept (h : s.MemoryForm) : Kept (execForwardProgressExpiry core s) := by
  unfold execForwardProgressExpiry
  dsimp only
  refine .ite h.kept ?_
  split
  · exact h.kept
  next e => exact (h.choose e).setCore.beginSwap.kept

/-! ### Grids -/

theorem State.MemoryForm.readCtx {va : Nat} {bs : List Byte} (h : s.MemoryForm) (e : s.readCtx c va n = .ok (bs, t)) : t.MemoryForm := by
  unfold State.readCtx at e
  split at e
  · cases e
  · split at e <;> cases e
    exact h.noteLeaf

theorem State.MemoryForm.readLive {table i : Nat} {ls : List LiveSet} (h : s.MemoryForm)
    (e : s.readLive c table n i = .ok (ls, t)) : t.MemoryForm := by
  induction n generalizing s i ls with
  | zero => cases e; exact h
  | succ n ih =>
    unfold State.readLive at e
    split at e
    · cases e
    next er =>
      split at e
      · cases e
      next el => split at e <;> cases e; exact ih (h.readCtx er) el

theorem State.MemoryForm.readKernel {gr : Grid} {x : Kernel} (h : s.MemoryForm) (e : s.readKernel gr = .ok (x, t)) :
    t.MemoryForm := by
  unfold State.readKernel at e
  split at e
  · cases e
  split at e
  · cases e
  next ek =>
  split at e
  · cases e
  split at e
  · cases e
  next et =>
  split at e
  · cases e
  next el =>
  split at e
  · cases e
  split at e <;> cases e
  exact ((h.readCtx ek).readCtx et).readLive el

theorem execGridTakeUp_kept (h : s.MemoryForm) : Kept (execGridTakeUp grid s) := by
  unfold execGridTakeUp
  split
  · exact h.kept
  · refine h.kept.ite ?_
    split
    · exact h.setGrid.kept
    next e => exact ((h.readKernel e).setGrid.foldl fun _ _ h => h.setGang Gang.cleanImage_empty).kept

theorem execWorkQueueTake_kept {wq : Nat} (h : s.MemoryForm) : Kept (execWorkQueueTake wq s) := by
  unfold execWorkQueueTake
  split
  · exact h.kept
  · split
    · exact h.same.newGrid.kept
    · exact h.kept

theorem State.MemoryForm.writeDone {gr : Grid} (h : s.MemoryForm) : (s.writeDone n gr).MemoryForm := by
  unfold State.writeDone
  dsimp only
  refine .ite h ?_
  split
  · exact h.pushFault
  · exact h.noteLeaf.errorRec.ite h.noteLeaf.homeWrite

theorem State.MemoryForm.dropGrid (h : s.MemoryForm) : (s.dropGrid n).MemoryForm :=
  ((h.withGroups (h.2.2.1.filter _)).withGangs fun e he => h.2.2.2 e (List.mem_of_mem_filter he)).same

theorem execGridCompletion_kept (h : s.MemoryForm) : Kept (execGridCompletion grid s) := by
  unfold execGridCompletion
  dsimp only
  split
  · exact h.kept
  · exact (h.writeDone.postEvent.ite h.writeDone).dropGrid.kept.ite h.kept

/-! ### Hardware queue slots -/

theorem State.MemoryForm.unmapSlot {h' : HwSlot} (h : s.MemoryForm) : (s.unmapSlot h').MemoryForm := by
  unfold State.unmapSlot
  split
  · exact h
  · exact h.same

theorem State.MemoryForm.mapQueue {queue : Nat} (h : s.MemoryForm) : (s.mapQueue queue).MemoryForm := by
  unfold State.mapQueue
  dsimp only
  split
  · exact h
  · refine .ite h ?_
    split
    · exact h
    · exact h.unmapSlot.same

theorem execQueueIdleExpiry_kept (h : s.MemoryForm) : Kept (execQueueIdleExpiry slot s) := by
  unfold execQueueIdleExpiry
  split
  · exact (h.foldl fun _ _ h => h.mapQueue).kept.ite h.kept
  · exact h.kept

/-! ### Firmware services -/

theorem execFaultRecordEnqueue_kept (h : s.MemoryForm) : Kept (execFaultRecordEnqueue core s) := by
  unfold execFaultRecordEnqueue
  dsimp only
  split
  · exact h.kept
  · exact h.same.setCore.kept.ite h.kept

theorem State.MemoryForm.takeRecord (h : s.MemoryForm) : (s.takeRecord k).2.MemoryForm := by
  unfold State.takeRecord
  split
  · exact h
  · exact h.same

theorem State.MemoryForm.tableFor {table va a : Nat} (h : s.MemoryForm) (e : s.tableFor table va level n = some (a, t)) :
    t.MemoryForm := by
  induction n generalizing s table with
  | zero => cases e
  | succ n ih =>
    rw [State.tableFor] at e
    dsimp only at e
    generalize (if n = 0 then 32 else 512) = entries at e
    split at e
    · cases e; exact h
    split at e
    · split at e
      · cases e
      · exact ih h e
    · exact ih (.setPhys (.setPhys (State.MemoryForm.same (s := s) h))) e

theorem State.MemoryForm.writePte {pte : DWord} (h : s.MemoryForm) : KeptSome (s.writePte c va level pte) :=
  keptSome_map fun _ e => (h.tableFor e).setPhys

theorem State.MemoryForm.unpark (h : s.MemoryForm) : (s.unpark k).MemoryForm := h.newId.modGroup

theorem State.MemoryForm.flushPages {hit : Nat × Nat → Bool} (h : s.MemoryForm) : (s.flushPages hit).MemoryForm :=
  h.foldl fun _ _ h => h.writeback

theorem State.MemoryForm.service {a : DWord} (h : s.MemoryForm) : (s.service k n a).2.MemoryForm := by
  unfold State.service
  dsimp only
  split
  · exact h
  · exact h
  · exact h.setCtx
  · exact h.postEvent.iteSnd h
  · exact h
  · exact h

theorem execSysreqServiceComplete_kept (h : s.MemoryForm) : Kept (execSysreqServiceComplete group s) := by
  unfold execSysreqServiceComplete
  dsimp only
  refine .ite h.kept ?_
  split
  · exact h.kept
  · split
    · exact h.service.same.setGroup.kept
    · exact h.kept

theorem execDebugRelease_kept {single : Bool} (h : s.MemoryForm) : Kept (execDebugRelease group single s) := by
  unfold execDebugRelease
  split
  · exact h.kept
  · exact h.takeRecord.setGroup.kept.ite h.kept

theorem execDebugRegisterWrite_kept {t : DebugTarget} {value : DWord} (h : s.MemoryForm) :
    Kept (execDebugRegisterWrite group t value s) := by
  unfold execDebugRegisterWrite
  dsimp only
  split
  · exact h.kept
  · split
    · exact h.setGroup.kept.ite h.kept
    · exact h.setGroup.kept.ite h.kept
    · exact h.setGroup.kept.ite h.kept
    · exact h.setGroup.kept
    · exact h.setGroup.kept
    · exact h.setCtx.kept

theorem State.MemoryForm.dpsOut {dps : List Nat} (h : s.MemoryForm) : (s.dpsOut core dps).MemoryForm := h.setCore

theorem State.MemoryForm.clearCore {dps : List Nat} (h : s.MemoryForm) : (s.clearCore core dps).MemoryForm :=
  h.foldl fun _ _ h => h.beginSwap

theorem State.MemoryForm.strikeMachine (h : s.MemoryForm) : (s.strikeMachine which n).MemoryForm := h.ite h.setCore

theorem State.MemoryForm.withLastDrain {m : SMap Nat} (h : s.MemoryForm) : { s with lastDrain := m }.MemoryForm := h.same

theorem execIllegalStateCheck_kept (h : s.MemoryForm) : Kept (execIllegalStateCheck core s) := by
  have hd : ∀ (u : State) (b : Bool), u.MemoryForm →
      (if b then (((clusterCores (clusterOf core)).foldl (fun s c => (s.dpsOut c [0, 1, 2, 3]).clearCore c [0, 1, 2, 3]) u).extendOpen
        7).lose .cluster (clusterOf core) else u).MemoryForm :=
    fun _ _ hu => (hu.foldl fun _ _ h => h.dpsOut.clearCore).extendOpen.lose.ite hu
  refine h.kept.ite (State.MemoryForm.kept (hd _ _ (.withLastDrain (.pushFault (.errorRec ?_)))))
  refine .mapGroups (h.foldl fun _ _ h => h.setCore) fun e => ?_
  split <;> rfl

theorem State.MemoryForm.tableLost (h : s.MemoryForm) : (s.tableLost core).MemoryForm := h.foldl fun _ _ h => h.pushFault.beginTermination

theorem execClusterDrainResume_kept {cluster : Nat} {tableOk : Bool} (h : s.MemoryForm) :
    Kept (execClusterDrainResume cluster tableOk s) := by
  unfold execClusterDrainResume
  dsimp only
  refine .ite h.kept ?_
  refine .ite (h.foldl fun _ _ h => h.setCore).kept ?_
  split
  · exact (h.foldl fun _ _ h => h.setCore).kept
  next e => exact ((h.foldl fun _ _ h => h.setCore).choose e).tableLost.kept

/-! ### HBM -/

theorem State.MemoryForm.setPch {p : PseudoCh} (h : s.MemoryForm) : (s.setPch n p).MemoryForm := h.same

theorem State.MemoryForm.setStack {x : StackSt} (h : s.MemoryForm) : (s.setStack n x).MemoryForm := h.same

theorem State.MemoryForm.stackOut (h : s.MemoryForm) : (s.stackOut stack).MemoryForm := h.ite h.setStack.lose

theorem State.MemoryForm.tagFail {retrainOk : Bool} (h : s.MemoryForm) : (s.tagFail stack retrainOk).MemoryForm :=
  h.freeBool.setStack.ite (h.freeBool.setStack.ite h.freeBool.stackOut)

theorem State.MemoryForm.atController {bank : Nat} {row : Nat} {slot : Bool} (h : s.MemoryForm) :
    (s.atController pch bank row slot).MemoryForm :=
  h.setPch.ite h.setPch

theorem execHbmAccess_kept {bank : Nat} {f : StackFlit} (h : s.MemoryForm) : Kept (execHbmAccess pch bank f s) :=
  h.kept.ite (h.freeBool.tagFail.kept.ite (h.setStack.atController.kept.ite (h.kept.ite h.setStack.atController.kept)))

/-! ### The caliper -/

theorem State.MemoryForm.arrayOff (h : s.MemoryForm) : (s.arrayOff core j).MemoryForm := h.ite h.setCore.extendOpen.lose

theorem State.MemoryForm.datapathsOff {dps : List Nat} {why : Loss} (h : s.MemoryForm) : (s.datapathsOff core dps why).MemoryForm :=
  h.ite h.dpsOut.clearCore.extendOpen.lose

theorem State.MemoryForm.caliperArray (h : s.MemoryForm) : (s.caliperArray core j).MemoryForm :=
  h.arrayOff.setCore.ite h.arrayOff.setCore.datapathsOff

theorem State.MemoryForm.endSample {x : Sample} (h : s.MemoryForm) : (s.endSample id x).MemoryForm := h.same

theorem State.MemoryForm.skipSample {x : Sample} (h : s.MemoryForm) : (s.skipSample id x).MemoryForm := h.endSample.setCore

theorem execCaliperReplay_kept {crc : Word} (h : s.MemoryForm) : Kept (execCaliperReplay id crc s) := by
  unfold execCaliperReplay
  dsimp only
  split
  · exact h.kept
  · refine .ite h.kept ?_
    refine .ite h.skipSample.kept ?_
    split
    · exact h.kept
    · exact (h.setCore.ite h).endSample.kept.ite (h.setCore.ite h).same.kept

theorem State.MemoryForm.markSample {x : Sample} (h : s.MemoryForm) : (s.markSample x).MemoryForm := h.ite h.setTile

theorem State.MemoryForm.arrayFault {x : Sample} (h : s.MemoryForm) : (s.arrayFault x).MemoryForm := by
  unfold State.arrayFault
  dsimp only
  split
  · exact h
  next e => exact (h.choose e).caliperArray.errorRec.setCore.markSample

theorem execCaliperVerdict_kept (h : s.MemoryForm) : Kept (execCaliperVerdict id s) := by
  unfold execCaliperVerdict
  dsimp only
  split
  · exact h.kept
  · split
    · exact h.endSample.setCore.kept.ite (h.endSample.arrayFault.kept.ite h.endSample.arrayFault.setCore.kept)
    · exact h.kept

theorem execCaliperTimeout_kept (h : s.MemoryForm) : Kept (execCaliperTimeout id s) := by
  unfold execCaliperTimeout
  split
  · exact h.kept
  · exact (h.skipSample.ite h).kept

theorem State.MemoryForm.writePower {v : Word} (h : s.MemoryForm) : (s.writePower v).MemoryForm := h.same.extend.ite h

theorem State.MemoryForm.writeCaliper {v : Word} (h : s.MemoryForm) : (s.writeCaliper v).MemoryForm := h.same.extendOpen.ite h

/-! ### Cross-lane instructions -/

theorem execLmap_kept {f : LmapForm} {x : Ext} (h : s.MemoryForm) : Kept (execLmap f d x s) := by
  unfold execLmap
  refine h.run (fun _ g => ?_)
  split
  · exact h.done
  · exact h.done
  · exact h.done

/-! ### Doorbells -/

theorem execDbell_kept {w64 : Bool} {team : Bool} {x : Ext} (h : s.MemoryForm) : Kept (execDbell w64 team a b x s) := by
  unfold execDbell
  dsimp only
  refine h.run (fun _ g => ?_)
  refine .ite h.systemFault ?_
  refine .ite h.systemFault ?_
  refine .ite h.wait ?_
  split
  · exact h.systemFault
  · exact h.systemFault.ite (h.wait.ite h.same.noteLeaf.commitDone)

theorem execTailstockSend_kept {die : Nat} (h : s.MemoryForm) : Kept (execTailstockSend die s) := by
  unfold execTailstockSend
  dsimp only
  split
  · exact h.kept
  next e => exact (h.choose e).same.logIo.kept.ite ((h.choose e).same.send.kept)

/-! ### Fences -/

theorem execFence_kept {kind : FenceKind} {scope : Scope} (h : s.MemoryForm) : Kept (execFence kind scope l s) := by
  unfold execFence
  dsimp only
  refine h.run (fun _ g => ?_)
  split
  · exact h.wait.ite h.done
  · exact h.done
  · exact h.wait.ite h.done
  · split
    · exact h.wait
    · exact h.done

/-! ### Issue of a group's next instruction -/

theorem State.MemoryForm.boundary (h : s.MemoryForm) : KeptSome (s.boundary k g) := by
  unfold State.boundary
  refine .ite keptSome_none ?_
  refine .ite (h.discard.keptSome.ite (h.endGroup.keptSome.ite keptSome_none)) ?_
  split
  · exact h.systemFault.keptSome
  · split
    · exact h.systemFault.keptSome
    · refine .ite h.discard.keptSome ?_
      refine .ite h.endGroup.keptSome ?_
      split
      · exact h.haltGroup.keptSome
      · refine .ite h.haltGroup.keptSome ?_
        split
        · exact h.discard.keptSome
        · exact keptSome_map fun _ _ => h.haltGroup

theorem State.MemoryForm.noteWord {a : DWord} (h : s.MemoryForm) : (s.noteWord k a).MemoryForm := by
  unfold State.noteWord
  dsimp only
  split
  · exact h.noteLeaf.ite h.same
  · exact h

theorem State.MemoryForm.noteFetch {a : DWord} (h : s.MemoryForm) : (s.noteFetch k a i).MemoryForm := h.noteWord.ite h.noteWord.noteWord

theorem State.MemoryForm.fetchAhead {a : DWord} (h : s.MemoryForm) : (s.fetchAhead k a).MemoryForm := by
  unfold State.fetchAhead
  split
  · exact h.same
  · exact h

theorem State.MemoryForm.afterIssue (h : s.MemoryForm) : (s.afterIssue k g i).MemoryForm := by
  unfold State.afterIssue
  dsimp only
  split
  · exact h
  · refine .ite h ?_
    split
    · exact h.setGroup
    · exact h.setGroup.ite h

theorem State.MemoryForm.keepRegion {r : Option Instr} (h : s.MemoryForm) : (s.keepRegion k r).MemoryForm := h.modGroup

theorem State.MemoryForm.issueWord {ex : Instr → State → Host.Outcome State Fault Refusal} (h : s.MemoryForm)
    (hex : ∀ i s, s.MemoryForm → Kept (ex i s)) : Kept (s.issueWord k g i ex) := by
  unfold State.issueWord
  split
  next e => exact (hex _ _ h.same _ e).afterIssue.kept
  · exact kept_fault
  · exact kept_refused

theorem State.MemoryForm.issuePair (h : s.MemoryForm) (hex : ∀ i s, s.MemoryForm → Kept (ex i s)) :
    Kept (s.issuePair k ex) := by
  unfold State.issuePair
  split
  · exact h.kept
  · split
    · exact (h.issueWord hex).ite h.kept
    · exact h.kept

theorem State.MemoryForm.issueInstr (h : s.MemoryForm) (hex : ∀ i s, s.MemoryForm → Kept (ex i s)) : Kept (s.issueInstr k g i ex) := by
  unfold State.issueInstr
  split
  next e =>
    have ht := h.noteFetch.issueWord hex _ e
    exact (ht.keepRegion.issuePair hex).ite ht.kept
  · exact kept_fault
  · exact kept_refused

theorem State.MemoryForm.issueGroup (h : s.MemoryForm) (hex : ∀ i s, s.MemoryForm → Kept (ex i s)) :
    Kept (s.issueGroup k ex) := by
  unfold State.issueGroup
  split
  · exact h.kept
  · split
    next e1 => exact (h.boundary _ e1).kept
    · refine .ite h.kept ?_
      split
      · exact h.issueWord hex
      · split
        · exact h.systemFault.kept
        · exact h.issueInstr hex

theorem execAsyncFault_kept (h : s.MemoryForm) : Kept (execAsyncFault group s) := by
  unfold execAsyncFault
  split
  · exact h.kept
  · exact (h.boundary.getD h).kept.ite h.kept

theorem execGroupDiscard_kept (h : s.MemoryForm) : Kept (execGroupDiscard group s) := by
  unfold execGroupDiscard
  split
  · exact h.kept
  · exact (h.boundary.getD h).kept.ite h.kept

/-! ### Scrubbing and drained clusters -/

theorem State.MemoryForm.zeroPage (h : s.MemoryForm) : (s.zeroPage key n owner).MemoryForm :=
  (h.withPhys (State.zeroPage_wf h.1 key n owner)).same

theorem State.MemoryForm.reportWrite (h : s.MemoryForm) : (s.reportWrite c va bs).MemoryForm := by
  unfold State.reportWrite
  split
  · exact h.setPhys
  · exact h

theorem State.MemoryForm.appendReceipt {r : List Byte} (h : s.MemoryForm) : (s.appendReceipt c r).MemoryForm :=
  h.ite h.reportWrite.reportWrite.setCtx

theorem State.MemoryForm.retirePage {unit : Nat} (h : s.MemoryForm) : (s.retirePage unit key n).MemoryForm := h.same.ite h

theorem State.MemoryForm.scrub {sizeCode : Nat} {ok : Bool} (h : s.MemoryForm) : (s.scrub unit key sizeCode owner ok).2.MemoryForm := by
  refine .iteSnd h (.iteSnd h.zeroPage.retirePage.lose ?_)
  exact (h.zeroPage (key := key) (n := pageBytes sizeCode) (owner := owner)).same

theorem State.MemoryForm.sand {unit : Nat} {sizeCode : Nat} {ok : Bool} (h : s.MemoryForm) :
    (s.sand c unit key sizeCode owner ok).MemoryForm := by
  unfold State.sand
  split
  next e => exact (h.scrub.of_snd e).appendReceipt
  next e => exact h.scrub.of_snd e

theorem State.MemoryForm.scrubPage {level : Nat} (h : s.MemoryForm) : (s.scrubPage level key owner).2.MemoryForm :=
  h.iteSnd h.freeBool.scrub

theorem State.MemoryForm.freshPage {level : Nat} (h : s.MemoryForm) : (s.freshPage c level key owner).2.MemoryForm := by
  unfold State.freshPage
  split
  next e => exact (h.scrubPage.of_snd e).appendReceipt
  next e => exact h.scrubPage.of_snd e

/-! ### Root complex and endpoints -/

theorem State.MemoryForm.atPort {o : Host.Outcome State Fault Refusal} (h : s.MemoryForm) (ho : Kept o) : Kept (s.atPort w o) :=
  ho.ite h.kept

theorem State.MemoryForm.setChannel {c : Channel} (h : s.MemoryForm) : (s.setChannel n c).MemoryForm := h.same

theorem State.MemoryForm.dropPosted {why : IoReason} (h : s.MemoryForm) : (s.dropPosted w addr why).MemoryForm := h.logIo

theorem State.MemoryForm.reject {posted : Bool} {why : IoReason} (h : s.MemoryForm) : (s.reject w posted addr tag why).MemoryForm :=
  h.dropPosted.ite h.send

theorem State.MemoryForm.complete {rid tag addr : Nat} {bs : List Byte} (h : s.MemoryForm) : (s.complete rid tag addr n bs).MemoryForm := by
  induction n generalizing s addr bs with
  | zero => exact h
  | succ n ih => exact h.send.ite (ih h.send)

theorem State.MemoryForm.endpointAccess {r : EpRequest} {c : Channel} (h : s.MemoryForm) : (s.endpointAccess r c key owner).MemoryForm :=
  (h.errorRec.ite h.writeHome).ite (h.same.send.ite (h.same.linkAsk.ite h.same.complete))

theorem State.MemoryForm.serveRequest {r : EpRequest} (h : s.MemoryForm) : Kept (s.serveRequest r) := by
  unfold State.serveRequest
  dsimp only
  split
  · exact h.reject.kept
  · refine .ite h.reject.kept ?_
    refine .ite h.reject.kept ?_
    split
    · exact h.postEvent.kept
    · split
      · exact h.reject.kept
      · refine State.MemoryForm.kept (.endpointAccess (.ite h ?_))
        split
        · exact h.noteLeaf
        · exact h

theorem State.MemoryForm.serveAtomicop {translated : Bool} {op : EpAtomic} {bytes : Nat} {c : DWord} {d : DWord} (h : s.MemoryForm) :
    Kept (s.serveAtomicop who translated op bytes addr c d tag) := by
  unfold State.serveAtomicop
  dsimp only
  split
  · exact h.send.kept
  · refine .ite h.send.kept ?_
    split
    · exact h.send.kept
    · refine .ite h.same.linkAsk.kept ?_
      refine .ite h.send.kept ?_
      refine .ite h.errorRec.send.kept ?_
      refine State.MemoryForm.kept (.send ?_)
      split
      · exact h
      · exact h.setPhys

theorem State.MemoryForm.sendInvalidate {what : Option (List Grant)} (h : s.MemoryForm) : (s.sendInvalidate n what).MemoryForm :=
  h.setChannel.send

theorem State.MemoryForm.serveTranslation (h : s.MemoryForm) : (s.serveTranslation n w addr tag).MemoryForm := by
  unfold State.serveTranslation
  dsimp only
  split
  · exact h.send
  · refine .ite h.send ?_
    refine .ite h.send ?_
    refine .ite h.setChannel.send ?_
    split
    · exact h.setChannel.ite h.setChannel.sendInvalidate
    · exact h.setChannel

theorem execTranslationRequest_kept (h : s.MemoryForm) : Kept (execTranslationRequest who addr tag s) := by
  unfold execTranslationRequest
  refine h.atPort (?_)
  split
  · exact h.reject.kept
  · exact h.reject.kept.ite h.serveTranslation.kept

theorem State.MemoryForm.invalidateRange (h : s.MemoryForm) : (s.invalidateRange ctx va n).MemoryForm :=
  h.foldl fun _ _ h => h.sendInvalidate

theorem State.MemoryForm.changeLeaf {level : Nat} {pte : DWord} (h : s.MemoryForm) : KeptSome (s.changeLeaf c va level pte) :=
  h.writePte.map fun _ h => h.invalidateRange

theorem State.MemoryForm.serveWaiting (h : s.MemoryForm) : (s.serveWaiting n).MemoryForm :=
  h.setChannel.foldl fun _ _ h => h.serveTranslation

theorem State.MemoryForm.answerWaiting (h : s.MemoryForm) : (s.answerWaiting n).MemoryForm := h.foldl fun _ _ h => h.send

theorem State.MemoryForm.invalidated {what : Option (List Grant)} (h : s.MemoryForm) : (s.invalidated n what).MemoryForm := by
  unfold State.invalidated
  dsimp only
  split
  · exact h.answerWaiting.setChannel.ite h.setChannel
  · exact h.setChannel.serveWaiting

theorem execInvalidateCompletion_kept (h : s.MemoryForm) : Kept (execInvalidateCompletion ch s) := by
  unfold execInvalidateCompletion
  dsimp only
  split
  · exact h.kept
  · exact h.kept.ite h.setChannel.invalidated.kept

theorem State.MemoryForm.sendReset (h : s.MemoryForm) : (s.sendReset n).MemoryForm := h.same.send

theorem State.MemoryForm.beginRetire (h : s.MemoryForm) : (s.beginRetire n).MemoryForm :=
  h.ite (h.setChannel.sendInvalidate.ite h.setChannel.setChannel.sendReset)

theorem execPageRequest_kept {write : Bool} {prg : Nat} {last : Bool} (h : s.MemoryForm) :
    Kept (execPageRequest who addr write prg last s) := by
  unfold execPageRequest
  refine h.atPort (?_)
  split
  · exact h.dropPosted.kept
  · exact h.dropPosted.kept.ite h.same.kept

theorem State.MemoryForm.pickPage {taken pages : List Nat} (h : s.MemoryForm) : (s.pickPage owner taken pages).2.2.MemoryForm := by
  induction pages generalizing s with
  | nil => exact h
  | cons page rest ih =>
    unfold State.pickPage
    split
    · exact ih h
    · have hp := h.scrubPage (level := 0) (key := page) (owner := owner)
      split
      next e => rw [e] at hp; exact hp
      next e => rw [e] at hp; exact ih hp

theorem State.MemoryForm.pickPages {taken vas pages : List Nat} (h : s.MemoryForm) :
    (s.pickPages owner taken vas pages).2.MemoryForm := by
  induction vas generalizing s taken pages with
  | nil => exact h
  | cons va vas ih =>
    unfold State.pickPages
    have hp := h.pickPage (owner := owner) (taken := taken) (pages := pages)
    split
    next e => rw [e] at hp; exact hp
    next page _ rest _ e =>
      rw [e] at hp
      have hq := ih (taken := page :: taken) (pages := rest) hp
      split <;> next e => rw [e] at hq; exact hq

theorem State.MemoryForm.allocAll {vas : List Nat} {pages : List Nat} (h : s.MemoryForm) : (s.allocAll c vas pages).1.MemoryForm := by
  unfold State.allocAll
  dsimp only
  split
  next e => exact h.pickPages.of_snd e
  next e => exact (h.pickPages.of_snd e).foldl fun _ _ h => h.appendReceipt.changeLeaf.getD h.appendReceipt

theorem execPageRequestGroupResponse_kept {prg : Nat} {pages : List Nat} (h : s.MemoryForm) :
    Kept (execPageRequestGroupResponse who prg pages s) := by
  unfold execPageRequestGroupResponse
  dsimp only
  split
  · exact h.kept
  · exact h.kept.ite (h.same.send.kept.ite (h.same.send.kept.ite (h.same.allocAll.send.kept.ite h.same.send.kept)))

theorem State.MemoryForm.coreAnswer (h : s.MemoryForm) : (s.coreAnswer bs).MemoryForm := h.same

theorem State.MemoryForm.endPeer {ok : Bool} {data : List Byte} (h : s.MemoryForm) : (s.endPeer id ok data).MemoryForm := by
  unfold State.endPeer
  dsimp only
  split
  · exact h
  · exact (h.same.coreAnswer.ite h.same).ite (h.same.complete.ite h.same.send)

theorem State.MemoryForm.endRead {ok : Bool} {data : List Byte} (h : s.MemoryForm) : (s.endRead op lane ok data).MemoryForm := by
  unfold State.endRead
  dsimp only
  split
  · exact h.endPeer
  · split
    · exact h
    · exact (h.ite h.same).setElem.finishOp

/-! ### Links between stacks -/

theorem State.MemoryForm.reroute {ms : List OutMsg} (h : s.MemoryForm) : (s.reroute ms).MemoryForm :=
  (h.foldl fun _ _ h => h.stepFailed).foldl fun _ _ h => h.sendFlits

theorem State.MemoryForm.portOut (h : s.MemoryForm) : (s.portOut n).MemoryForm := h.ite h.setPort.extendOpen.lose.reroute

theorem State.MemoryForm.flitWrite (h : s.MemoryForm) : (s.flitWrite key bs).MemoryForm := h.ite (h.errorRec.ite h.homeWrite)

theorem State.MemoryForm.flitAnswer {src : Nat} (h : s.MemoryForm) : (s.flitAnswer src tag bs bad).MemoryForm := h.linkSend

theorem State.MemoryForm.flitAtomic {op : AtomOp} {c : DWord} {d : DWord} (h : s.MemoryForm) :
    (s.flitAtomic op key n c d).MemoryForm := by
  unfold State.flitAtomic
  dsimp only
  split
  · exact h
  · exact h.setPhys

theorem State.MemoryForm.acknowledged (h : s.MemoryForm) : (s.acknowledged id).MemoryForm := by
  unfold State.acknowledged
  split
  · exact h
  · split
    · exact h
    · exact h.setCore.entryHome

theorem State.MemoryForm.askAnswered (h : s.MemoryForm) : (s.askAnswered n bs bad).MemoryForm := by
  unfold State.askAnswered
  dsimp only
  split
  · exact h
  · split
    · exact h.same.endPeer
    · split
      · exact h.same
      · exact h.same.copyAnswer
    · split
      · exact h.same
      · split
        · exact h.same
        · refine .ite h.same ?_
          split
          · exact h.same.setElem.finishOp
          · exact h.same.atomReply
          · exact h.same.setElem.finishOp
    · exact h.same.ite h.same.acknowledged

theorem State.MemoryForm.collArrive {part : Nat} {r : Nat} {off : Nat} {agrees : Bool} (h : s.MemoryForm) :
    (s.collArrive part r off agrees bs).MemoryForm := by
  unfold State.collArrive
  split
  · exact h
  · exact h.ite (h.same.ite h.same)

theorem State.MemoryForm.collAcked {part : Nat} {r : Nat} (h : s.MemoryForm) : (s.collAcked part r).MemoryForm := by
  unfold State.collAcked
  split
  · exact h
  · exact h.same.collPurge

theorem State.MemoryForm.nacked {seq : Nat} (h : s.MemoryForm) : (s.nacked n seq).MemoryForm := by
  unfold State.nacked
  dsimp only
  split
  · exact h
  · exact h.setPort.send.ite (h.portOut.ite h.setPort)

theorem State.MemoryForm.flitLoad {f : Flit} (h : s.MemoryForm) : (s.flitLoad f).MemoryForm := by
  unfold State.flitLoad
  dsimp only
  split
  · exact h
  · exact h.flitWrite.flitAnswer
  · exact h.flitAnswer
  · exact h.flitAnswer.ite h.flitAtomic.flitAnswer
  · exact h.askAnswered
  · exact h.collArrive
  · exact h.collAcked
  · exact h.nacked

theorem execFlitReceive_kept {f : Flit} (h : s.MemoryForm) : Kept (execFlitReceive f s) :=
  h.kept.ite ((h.setPort.kept.ite (h.portOut.kept.ite h.setPort.kept)).ite (h.kept.ite (h.setPort.kept.ite h.same.flitLoad.kept)))

/-! ### Paging -/

theorem State.MemoryForm.pageIn {p : PagedOut} (h : s.MemoryForm) : (s.pageIn p key owner).MemoryForm := h.setPhys.same

theorem State.MemoryForm.dropLeaves (h : s.MemoryForm) : (s.dropLeaves ctx va n).MemoryForm := h.flushPages.same

theorem State.MemoryForm.unmapPage (h : s.MemoryForm) : KeptSome (s.unmapPage ctx va) := by
  unfold State.unmapPage
  dsimp only
  split
  · exact keptSome_none
  · exact keptSome_none.ite (h.changeLeaf.map fun _ h => h.same)

theorem State.MemoryForm.finishMoves (h : s.MemoryForm) : (s.finishMoves ctx va).MemoryForm := h.same

theorem execTlbInvalidate_kept {f : Invalidation} (h : s.MemoryForm) : Kept (execTlbInvalidate ctx f s) :=
  ((h.unmapPage.getD h).ite h).same.kept.ite (((h.unmapPage.getD h).ite h).dropLeaves.finishMoves.kept)

theorem State.MemoryForm.servePage {fault : Nat} {pte : DWord} (h : s.MemoryForm) : (s.servePage c fault va level pte).2.MemoryForm := by
  unfold State.servePage
  refine .iteSnd h (.iteSnd h ?_)
  split
  next e => exact h.freshPage.of_snd e
  next e =>
    have hf := h.freshPage.of_snd e
    cases s.pagedAt c fault with
    | none =>
      dsimp only
      split
      next e' => exact hf.changeLeaf _ e'
      · exact hf
    | some o =>
      dsimp only
      split
      next e' => exact hf.pageIn.changeLeaf _ e'
      · exact hf.pageIn

theorem State.MemoryForm.mayEnd {fault : Nat} (h : s.MemoryForm) : (s.mayEnd c fault).2.MemoryForm := h.iteSnd (h.freeBool.iteSnd h)

theorem execPageFaultService_kept {act : PageService} (h : s.MemoryForm) : Kept (execPageFaultService group act s) := by
  unfold execPageFaultService
  split
  · refine h.kept.ite ?_
    split
    · refine h.kept.ite ?_
      split
      next e => exact (State.MemoryForm.takeRecord (h.servePage.of_snd e)).unpark.kept
      next e => exact (h.servePage.of_snd e).kept
    · split
      next e => exact ((h.mayEnd.iteSnd h).of_snd e).takeRecord.beginTermination.kept
      next e => exact ((h.mayEnd.iteSnd h).of_snd e).kept
  · exact h.kept

theorem execCopyResume_kept {f : CopyService} (h : s.MemoryForm) : Kept (execCopyResume f s) := by
  unfold execCopyResume
  split
  · exact h.kept
  · split
    · exact h.kept
    · split
      · split
        next e3 => exact (h.servePage.of_snd e3).same.kept
        next e3 => exact (h.servePage.of_snd e3).kept
      · split
        next e3 => exact (h.mayEnd.of_snd e3).copyStop.kept
        next e3 => exact (h.mayEnd.of_snd e3).kept

/-! ### Boot, system cores and the root die -/

theorem State.MemoryForm.layoutChanged {old : State} (h : s.MemoryForm) : (s.layoutChanged old).MemoryForm := h.ite h.extend

theorem State.MemoryForm.assignBar {i : Nat} {d : Decoder} {on : Bool} (h : s.MemoryForm) : KeptSome (s.assignBar i d on) :=
  keptSome_none.ite h.same.keptSome

theorem execRegisterWrite_kept {r : RootReg} {v : Word} (h : s.MemoryForm) : Kept (execRegisterWrite r v s) := by
  unfold execRegisterWrite
  refine .ite h.kept ?_
  split
  · exact h.same.kept.ite h.kept
  · exact h.kept.ite h.same.layoutChanged.kept
  · exact h.kept.ite h.same.layoutChanged.kept
  · exact h.same.kept
  · exact h.same.kept
  · exact h.same.kept
  · exact h.kept.ite h.same.layoutChanged.kept
  · exact h.same.kept
  · exact h.same.kept
  · split
    next e => exact (h.assignBar _ e).kept
    · exact h.same.kept

theorem State.MemoryForm.flash : s.flash.MemoryForm :=
  ⟨SMap.canon_nil _, SMap.canon_nil _, List.Pairwise.nil, fun _ he => absurd he List.not_mem_nil⟩

theorem State.MemoryForm.writeLayout (h : s.MemoryForm) : s.writeLayout.MemoryForm := h.same

theorem State.MemoryForm.trainPorts (h : s.MemoryForm) : s.trainPorts.MemoryForm :=
  h.same.foldl fun _ _ h => h.ite (h.same.logIo.ite h.send)

theorem State.MemoryForm.trainThojan (h : s.MemoryForm) : s.trainThojan.MemoryForm := h.same.foldl fun _ _ h => h.setPort.ite h

theorem State.MemoryForm.withBoot {b : Bool} (h : s.MemoryForm) : { s with booted := b, bootStep := n }.MemoryForm := h.same

/-- The boot keeps nothing of the memories: the form of the state before does not count. -/
theorem State.MemoryForm.boot {slotAOk slotBOk trainOk : Bool} : (s.boot slotAOk slotBOk trainOk).MemoryForm := by
  have hf : (s.flash.extendOpen 0).MemoryForm := State.MemoryForm.flash.extendOpen
  have hb := State.MemoryForm.extend (n := 1) (item := (if !slotAOk then 0x42 else 0x41) :: (s.flash.extendOpen 0).image (!slotAOk))
    (hf.same (t := { s.flash.extendOpen 0 with slotB := !slotAOk }))
  refine .ite hf.withBoot (.ite hb.withBoot ?_)
  exact hb.writeLayout.extendOpen.extend.extendOpen.extend.trainPorts.extend.trainThojan.extendOpen.withBoot

theorem execModuleReset_kept {slotAOk slotBOk trainOk : Bool} : Kept (execModuleReset slotAOk slotBOk trainOk s) :=
  State.MemoryForm.kept .boot

theorem State.MemoryForm.coreWrite (h : s.MemoryForm) : (s.coreWrite key bs).MemoryForm := by
  unfold State.coreWrite
  split
  · exact h.postEvent.ite h.logIo
  · exact h.homeWrite

theorem State.MemoryForm.coreRead {len : Nat} (h : s.MemoryForm) : (s.coreRead key len).MemoryForm :=
  h.same.send.ite (h.same.linkAsk.ite h.coreAnswer)

theorem execSystemCoreAccess_kept {a : CoreAccess} (h : s.MemoryForm) : Kept (execSystemCoreAccess a s) := by
  unfold execSystemCoreAccess
  dsimp only
  refine .ite h.kept ?_
  split
  · exact h.coreRead.kept
  · exact h.coreWrite.kept
  · refine .ite h.kept ?_
    refine State.MemoryForm.kept (.coreAnswer ?_)
    split
    · exact h
    · exact h.setPhys
  · exact h.kept.ite h.same.coreAnswer.kept
  · exact h.kept.ite (h.same.setPhys.coreAnswer.kept.ite h.same.coreAnswer.kept)
  · exact h.coreAnswer.kept.ite h.kept
  · exact h.storeSpad.kept.ite h.kept
  · exact h.kept
  · exact h.extend.kept
  · exact h.coreAnswer.kept
  · exact h.coreAnswer.kept

/-! ### Management commands -/

theorem State.MemoryForm.reply {seq : BitVec 16} {status : Nat} {data : optParam (List Byte) []} (h : s.MemoryForm) :
    (s.reply session seq status data).MemoryForm :=
  h.same.send

theorem State.MemoryForm.message {tagOk : Bool} {counter : Nat} (h : s.MemoryForm) : (s.message session tagOk counter).2.MemoryForm := by
  unfold State.message
  split
  · exact h
  · exact h.iteSnd (h.same.iteSnd h.same)

theorem State.MemoryForm.manage {firmware : Bool} {admits : Principal → Bool} {go : State → State} {signs : optParam Bool false}
    (h : s.MemoryForm) (hgo : ∀ (a : State), a.MemoryForm → (go a).MemoryForm) : (s.manage r firmware admits go signs).MemoryForm := by
  unfold State.manage
  dsimp only
  refine .ite h.message ?_
  refine .ite h.message.reply ?_
  refine .ite h.message.reply ?_
  split
  · exact h.message.reply
  · exact (hgo _ h.message).ite h.message.reply

theorem State.MemoryForm.ok {data : optParam (List Byte) []} (h : s.MemoryForm) : (s.ok r data).MemoryForm := h.reply

theorem execManagementMessage_kept {tagOk : Bool} {counter : Nat} (h : s.MemoryForm) :
    Kept (execManagementMessage session tagOk counter s) := by
  unfold execManagementMessage
  split
  · exact h.kept
  · exact h.same.kept.ite h.same.kept

theorem execSessionIdleTimeout_kept (h : s.MemoryForm) : Kept (execSessionIdleTimeout session s) := by
  unfold execSessionIdleTimeout
  split
  · exact h.kept
  · exact h.same.kept.ite h.kept

theorem State.MemoryForm.evidence {nonce : List Byte} (h : s.MemoryForm) : (s.evidence nonce).2.MemoryForm := h.same

theorem State.MemoryForm.replyFree {seq : BitVec 16} {status : Nat} {data : optParam (List Byte) []} (h : s.MemoryForm) :
    (s.replyFree seq status data).MemoryForm :=
  h.send

theorem execHello_kept {share : List Byte} {nonce : SeqBytes} (h : s.MemoryForm) : Kept (execHello share nonce s) := by
  unfold execHello
  dsimp only
  refine .ite h.replyFree.kept ?_
  refine .ite h.replyFree.kept ?_
  split
  · exact h.replyFree.kept
  · exact h.same.reply.kept

theorem execAuth_kept {p : Principal} {sig : SeqBytes} (h : s.MemoryForm) : Kept (execAuth session p sig s) := by
  unfold execAuth
  dsimp only
  split
  · exact h.replyFree.kept
  · exact h.replyFree.kept.ite (h.same.kept.ite h.same.kept)

theorem execOperatorSet_kept {session : Option MgmtReq} {key : SeqBytes} (h : s.MemoryForm) : Kept (execOperatorSet session key s) := by
  unfold execOperatorSet
  dsimp only
  split
  · exact (h.replyFree.ite (h.replyFree.ite h.same.replyFree)).kept
  · exact (h.manage (fun _ h => h.reply.ite h.same.reply)).kept

theorem execEvidence_kept {nonce : List Byte} (h : s.MemoryForm) : Kept (execEvidence r nonce s) :=
  State.MemoryForm.kept (h.manage fun _ h => .ite h.reply (.ite h.reply (h.evidence (nonce := nonce)).ok))

theorem State.MemoryForm.loseKey {k : BitVec 8} (h : s.MemoryForm) : (s.loseKey k).MemoryForm :=
  (h.withPhys (State.loseKey_wf h.1 k)).same

theorem State.MemoryForm.fail (h : s.MemoryForm) : (s.fail r n).MemoryForm := h.same.reply

theorem State.MemoryForm.eraseKey {k : BitVec 8} (h : s.MemoryForm) : (s.eraseKey k).MemoryForm := h.loseKey.same

theorem execReset_kept (h : s.MemoryForm) : Kept (execReset r s) := (h.manage fun _ _ => State.MemoryForm.boot.ok).kept

theorem State.MemoryForm.replacePage (h : s.MemoryForm) : (s.replacePage level owner n).2.MemoryForm := by
  induction n generalizing s with
  | zero => exact h
  | succ n ih =>
    unfold State.replacePage
    dsimp only
    split
    next e => exact h.free64.scrubPage.of_snd e
    next e => exact ih (h.free64.scrubPage.of_snd e)

theorem State.MemoryForm.place (h : s.MemoryForm) : (s.place n owner).2.MemoryForm := h.same.zeroPage

theorem State.MemoryForm.mapFresh {vas : List Nat} (h : s.MemoryForm) : (s.mapFresh c owner vas).2.MemoryForm := by
  induction vas generalizing s with
  | nil => exact h
  | cons va vas ih =>
    unfold State.mapFresh
    split
    next e => exact h.replacePage.of_snd e
    next e =>
      have hr := h.replacePage.of_snd e
      split
      · exact hr
      next e' =>
        have hc := ih (hr.changeLeaf _ e')
        split <;> next e'' => exact hc.of_snd e''

theorem State.MemoryForm.makeReport {report : Nat} {cap : Nat} (h : s.MemoryForm) : (s.makeReport c report cap owner).2.MemoryForm := by
  unfold State.makeReport
  dsimp only
  split
  next e => exact h.mapFresh.of_snd e
  next e => exact (h.mapFresh.of_snd e).reportWrite.setCtx.foldl fun _ _ h => h.appendReceipt

theorem execContextCreate_kept {quota : Nat} {sizes : TableSizes} {dbbase : Nat} {report : Nat} {cap : Nat} (h : s.MemoryForm) :
    Kept (execContextCreate r owner quota sizes dbbase report cap s) := by
  unfold execContextCreate
  dsimp only
  refine State.MemoryForm.kept ?_
  refine h.manage (fun s h => ?_)
  refine .ite h.reply ?_
  split
  · exact h.reply
  · refine .ite h.reply ?_
    split
    next e1 => exact (h.place.place.place.setCtx.makeReport.of_snd e1).ok
    next e1 => exact (h.place.place.place.setCtx.makeReport.of_snd e1).same.reply

theorem State.MemoryForm.dropContext (h : s.MemoryForm) : (s.dropContext c).MemoryForm := h.flushPages.same

theorem State.MemoryForm.dropOwner {k : BitVec 8} (h : s.MemoryForm) : (s.dropOwner k).MemoryForm := h.ite h.eraseKey

theorem State.MemoryForm.destroy (h : s.MemoryForm) : (s.destroy r ctx).MemoryForm :=
  ((h.free64.foldl fun _ _ h => h.beginTermination).foldl fun _ _ h => h.beginRetire).same.same.ite (((h.free64.foldl fun _ _ h
      => h.beginTermination).foldl fun _ _ h => h.beginRetire).same.dropContext.dropOwner.ok)

theorem State.MemoryForm.mapPage {pte : DWord} (h : s.MemoryForm) : (s.mapPage r ctx va level pte).MemoryForm := by
  have hw : ∀ (u : State) (q : DWord), u.MemoryForm → (match u.changeLeaf ctx va level q with
      | some s' => s'.ok r
      | none => u.reply r.session r.seq stNoSpace : State).MemoryForm := by
    intro u q hu
    split
    next e => exact (hu.changeLeaf _ e).ok
    · exact hu.reply
  unfold State.mapPage
  refine .ite h.reply (.ite (hw _ _ h) (.ite h.reply ?_))
  generalize 4096 = fuel
  split
  next e => exact hw _ _ (h.freshPage.of_snd e)
  next e =>
    have hf := h.freshPage.of_snd e
    split
    next e' => exact hw _ _ (hf.replacePage.of_snd e').appendReceipt
    next e' => exact (hf.replacePage.of_snd e').fail

theorem execMap_kept {m : MapReq} (h : s.MemoryForm) : Kept (execMap r ctx m s) := by
  unfold execMap
  dsimp only
  refine State.MemoryForm.kept ?_
  refine h.manage (fun s h => ?_)
  split
  · exact h.reply.ite h.mapPage
  · exact h.reply.ite h.setCtx.ok

theorem execQueueCreate_kept {qcb : List Byte} (h : s.MemoryForm) : Kept (execQueueCreate r ctx qcb s) := by
  unfold execQueueCreate
  refine State.MemoryForm.kept ?_
  refine h.manage (fun s h => ?_)
  split
  · exact h.reply
  · refine .ite h.reply ?_
    split
    · exact h.reply
    · split
      next e2 => exact (h.changeLeaf _ e2).same.ok
      · exact h.reply

theorem State.MemoryForm.takeOut {u : Unit'} (h : s.MemoryForm) : KeptSome (s.takeOut u) := by
  unfold State.takeOut
  split
  · exact h.datapathsOff.keptSome.ite keptSome_none
  · exact h.datapathsOff.keptSome.ite keptSome_none
  · exact (h.foldl fun _ _ h => h.datapathsOff).keptSome.ite keptSome_none
  · exact h.arrayOff.keptSome.ite keptSome_none
  · exact h.portOut.keptSome.ite keptSome_none

theorem execOutOfService_kept {u : Unit'} (h : s.MemoryForm) : Kept (execOutOfService r u s) := by
  unfold execOutOfService
  refine State.MemoryForm.kept ?_
  refine h.manage (fun s h => ?_)
  split
  next e => exact (h.takeOut _ e).ok
  · exact h.reply

/-! ### Queue operations -/

theorem State.MemoryForm.setQueue {x : Queue} (h : s.MemoryForm) : (s.setQueue k q x).MemoryForm := h.setTeam

theorem State.MemoryForm.pushEntry {w0 : Word} {w1 : Word} (h : s.MemoryForm) : (s.pushEntry k q w0 w1).MemoryForm := h.storeSpad.setQueue

theorem State.MemoryForm.popEntry (h : s.MemoryForm) : (s.popEntry k q).2.MemoryForm := h.setQueue

theorem State.MemoryForm.popDeliver {d : Nat} {a : DWord} {w : Word × Word × Bool} (h : s.MemoryForm) :
    (s.popDeliver k g d a w).1.MemoryForm :=
  h.groupError.iteFst h

theorem State.MemoryForm.unblock {who : Nat} (h : s.MemoryForm) : (s.unblock k q who).MemoryForm := h.setQueue

theorem State.MemoryForm.servePop (h : s.MemoryForm) : (s.servePop k q).MemoryForm := by
  unfold State.servePop
  dsimp only
  split
  · exact h
  · split
    · exact h.unblock
    · split
      · exact h.unblock.popEntry.popDeliver.setGroup
      · exact h

theorem State.MemoryForm.servePush (h : s.MemoryForm) : (s.servePush k q).MemoryForm := by
  unfold State.servePush
  dsimp only
  split
  · exact h
  · split
    · exact h.unblock
    · split
      · exact h.unblock.pushEntry.setGroup
      · exact h

theorem State.MemoryForm.servePushes (h : s.MemoryForm) : (s.servePushes k q n).MemoryForm := by
  induction n generalizing s with
  | zero => exact h
  | succ n ih => exact (ih h.servePush).ite h

theorem execQopDef_kept {q : BitVec 5} (h : s.MemoryForm) : Kept (execQopDef q a b l s) :=
  h.run (fun _ _ => h.systemFault.ite (h.systemFault.ite h.setQueue.storeSpad.servePushes.commitDone))

theorem execQopPush_kept {q : BitVec 5} (h : s.MemoryForm) : Kept (execQopPush q a b l s) :=
  h.run (fun _ _ => h.systemFault.ite (h.setQueue.setGroup.tick.ite h.pushEntry.servePop.commitDone))

theorem execQopPop_kept {q : BitVec 5} (h : s.MemoryForm) : Kept (execQopPop d q l s) :=
  h.run (fun _ _ => h.systemFault.ite (h.setQueue.setGroup.tick.ite
      (h.popEntry.servePush.groupError.systemFault.ite h.popEntry.servePush.commitDone)))

theorem execQopTrypop_kept {q : BitVec 5} (h : s.MemoryForm) : Kept (execQopTrypop d q l s) :=
  h.run (fun _ _ => h.systemFault.ite (h.commitDone.ite (h.popEntry.servePush.groupError.systemFault.ite
      h.popEntry.servePush.commitDone)))

/-! ### Scalar instructions -/

theorem State.MemoryForm.scalarBin {f : SBin} {op : (n : Nat) → BitVec n → BitVec n → BitVec n} (h : s.MemoryForm) :
    Kept (s.scalarBin i f op) :=
  h.run (fun _ _ => h.done)

/-! ### Dispatch -/

theorem exec_kept {i : Instr} (h : s.MemoryForm) : Kept (exec i s) := by
  unfold exec
  cases i with
  | nop | smov | smovToSpecial | sshl | sshr | scmp | ssel | sbit | emop | maskop | lnstat | actrRead | actrMask | gwin
    | cstat | collwtTry | barStat | barStatExp | qopStat | qopStatCfg => exact h.run fun _ _ => h.done
  | sadd | ssub | smul | sdiv | sand | sor | sxor | smin | smax => exact h.scalarBin
  | sld | sst => exact h.run fun _ _ => h.scalarAccess
  | br | call | jmp => exact h.run fun _ _ => h.retire
  | brc | brm | loop => exact h.run fun _ _ => h.retire.ite h.done
  | vadd | vsub | vmul | vmulh | vmad | vdiv | vand | vor | vxor | vshl | vshr | vmin | vmax | vmov | vfadd | vfsub | vfmul
    | vfma | vfmin | vfmax | vfdiv | vfsqrt | vsf | vclass | vbfe | vbit | vdot4 | vrnd | cvt | cvt8 | pack | unpack | qgdec
    | qgenc | qgscl | cvtsat => exact h.runLane
  | vcmp | vsel | vfcmp | bcast | bcastS | red | scan | vote | compact => exact h.run fun _ _ => h.die.done
  | mzero | swfence => exact h.run fun _ _ => h.enqueue
  | mload | mstore => exact h.run fun _ _ => h.tileMove
  | mcorr | msig | collwt => exact h.run fun _ _ => h.wait.ite h.done
  | ld | st | ldv | stv => exact h.run fun _ _ => h.vecAccess
  | wait | waitAll => exact h.run fun _ _ => h.waitFor
  | barArrive | barArriveNw => exact h.run fun _ _ => h.arriveNow
  | stackCriticalTemp | keySwitch | keySlotRetire => exact h.kept.ite h.setStack.kept
  | endpointCompletion | completionTimeout => exact h.endRead.kept
  | dieTempResume | powerLoss | i3cDynamicAddressAssignment | mctpEndpointIdAssignment => exact h.same.kept
  | ownerRegister | wqBind | imageWrite => exact (h.manage (fun _ h => h.reply.ite h.same.ok)).kept
  | logRead | reportRead => exact (h.manage (fun _ h => h.ok)).kept
  | pWord => exact execPWord_kept h
  | sweep => exact h.run fun _ _ => h.sweep
  | region => exact execRegion_kept h
  | yieldBar => exact h.run fun _ _ => h.commitDone
  | yieldEv => exact h.run (fun _ _ => h.systemFault.ite (h.systemFault.ite h.commitDone))
  | trap => exact h.run fun _ _ => h.userTrap.tick
  | brk => exact h.run fun _ _ => h.done.ite h.userTrap.tick
  | sysreq => exact execSysreq_kept h
  | exit => exact h.run fun _ _ => h.wait.ite h.exitGroup
  | exitAbort => exact h.run fun _ _ => h.wait.ite h.beginTermination.exitGroup
  | vflag => exact execVflag_kept h
  | shfl => exact h.run fun _ _ => h.killLanes.done
  | lmap => exact execLmap_kept h
  | tdef => exact execTdef_kept h
  | tfree => exact execTfree_kept h
  | tqry => exact h.run (fun _ _ => h.withEntries (fun _ h => h.done))
  | mma => exact execMma_kept h
  | mstat => exact h.run (fun _ _ => h.wait.ite ((h.setTile.ite h).done))
  | pref => exact execPref_kept h
  | zfill => exact execZfill_kept h
  | cpy => exact execCpy_kept h
  | cpyt => exact execCpyt_kept h
  | qfence => exact h.run (fun _ _ => (h.ite h.setTeam).done)
  | coll => exact execColl_kept h
  | atom => exact execAtom_kept h
  | fence => exact execFence_kept h
  | barInit => exact h.run fun _ _ => h.systemFault.ite h.setBar.releaseWaiters.flushDeferred.commitDone
  | barArriveDefer => exact execBarArriveDefer_kept h
  | barWait => exact h.run fun _ _ => h.setBar.flushDeferred.done.ite h.setGroup.tick
  | qopDef => exact execQopDef_kept h
  | qopPush => exact execQopPush_kept h
  | qopPop => exact execQopPop_kept h
  | qopTrypush => exact h.run (fun _ _ => h.systemFault.ite (h.commitDone.ite h.pushEntry.servePop.commitDone))
  | qopTrypop => exact execQopTrypop_kept h
  | evw => exact execEvw_kept h
  | evwTry => exact execEvwTry_kept h
  | evwStat => exact h.run fun _ _ => h.systemFault.ite h.done
  | evwClr => exact h.run fun _ _ => h.systemFault.ite h.setEvent.commitDone
  | spawn => exact h.run (fun _ _ => h.launchWith (fun _ _ => h.wait.ite h.wqAppend.commitDone))
  | spawnTry => exact h.run (fun _ _ => h.launchWith (fun _ _ => h.commitDone.ite h.wqAppend.commitDone))
  | launch => exact h.run (fun _ _ => h.launchWith (fun _ _ => h.wait.ite h.newGrid.commitDone))
  | dbell => exact execDbell_kept h
  | loadComplete => exact execLoadComplete_kept h
  | storeComplete => exact execStoreComplete_kept h
  | storeBufferWriteback => exact execStoreBufferWriteback_kept h
  | remoteSAccess => exact execRemoteSAccess_kept h
  | asyncFault => exact execAsyncFault_kept h
  | atomicPerform => exact execAtomicPerform_kept h
  | engineOpStart => exact execEngineOpStart_kept h
  | engineOpComplete => exact execEngineOpComplete_kept h
  | copyComplete => exact execCopyComplete_kept h
  | copyPageFault => exact execCopyPageFault_kept h
  | copyResume => exact execCopyResume_kept h
  | deferredArrival => exact h.arriveHeld.kept
  | barrierWaiterRelease => exact execBarrierWaiterRelease_kept h
  | collStep => exact execCollStep_kept h
  | collStepFail => exact execCollStepFail_kept h
  | collTimeout => exact execCollTimeout_kept h
  | collComplete => exact execCollComplete_kept h
  | groupDiscard => exact execGroupDiscard_kept h
  | recordResume => exact execRecordResume_kept h
  | eventWrite => exact h.postEvent.kept
  | evwWaiterRelease => exact execEvwWaiterRelease_kept h
  | schedulerStep => exact execSchedulerStep_kept h
  | forwardProgressExpiry => exact execForwardProgressExpiry_kept h
  | gangSwapOut => exact execGangSwapOut_kept h
  | gangSwapIn => exact execGangSwapIn_kept h
  | gridTakeUp => exact execGridTakeUp_kept h
  | gridCompletion => exact execGridCompletion_kept h
  | termination => exact h.beginTermination.kept
  | workQueueTake => exact execWorkQueueTake_kept h
  | kick => exact h.kickIdx.kept
  | queueReread => exact h.scanStep.kept
  | depPacketRelease => exact h.depRelease.kept
  | queueMap => exact h.mapQueue.kept
  | queueIdleExpiry => exact execQueueIdleExpiry_kept h
  | faultRecordEnqueue => exact execFaultRecordEnqueue_kept h
  | pageFaultService => exact execPageFaultService_kept h
  | tlbInvalidate => exact execTlbInvalidate_kept h
  | debugRelease => exact execDebugRelease_kept h
  | firmwareStop => exact h.modGroup.kept.ite h.kept
  | debugRegisterWrite => exact execDebugRegisterWrite_kept h
  | illegalStateCheck => exact execIllegalStateCheck_kept h
  | clusterDrainResume => exact execClusterDrainResume_kept h
  | packageSchedulerIllegal => exact h.rebuildChuck.same.kept
  | refreshSlot => exact h.setPch.kept.ite (h.setPch.kept.ite (h.setPch.kept.ite h.setPch.kept))
  | refreshEnd => exact h.setPch.kept
  | hbmAccess => exact execHbmAccess_kept h
  | stackResume => exact h.kept.ite h.same.kept
  | memoryStallEvent => exact h.setStack.send.kept.ite h.kept
  | thojanFlowControl => exact h.kept.ite h.setPort.pump.kept
  | flitReceive => exact execFlitReceive_kept h
  | linkRetrain => exact h.kept.ite ((h.setPort.foldl fun _ _ h => h.send).pump.kept.ite h.portOut.kept)
  | stackLinkTagFail => exact h.kept.ite h.tagFail.kept
  | stackOutOfService => exact h.stackOut.kept
  | endpointMemoryRequest => exact h.atPort h.serveRequest
  | endpointAtomicop => exact h.atPort h.serveAtomicop
  | translationRequest => exact execTranslationRequest_kept h
  | pageRequest => exact execPageRequest_kept h
  | pageRequestGroupResponse => exact execPageRequestGroupResponse_kept h
  | atsInvalidate => exact h.invalidateRange.kept
  | invalidateCompletion => exact execInvalidateCompletion_kept h
  | invalidateTimeout => exact h.kept.ite h.sendReset.kept
  | flrComplete => exact h.kept.ite (h.foldl fun _ _ h => h.setChannel.foldl fun _ _ h => h.invalidated).kept
  | tailstockSend => exact execTailstockSend_kept h
  | portDown => exact h.same.kept.ite h.kept
  | sandingPass => exact h.kept.ite h.sand.kept
  | caliperReplay => exact execCaliperReplay_kept h
  | caliperVerdict => exact execCaliperVerdict_kept h
  | caliperTimeout => exact execCaliperTimeout_kept h
  | powerLimitStep => exact h.kept.ite (h.same.kept.ite (h.same.kept.ite h.kept))
  | dieCriticalTemp => exact h.kept.ite h.same.lose.kept
  | chuck0Read => exact h.same.send.kept
  | registerWrite => exact execRegisterWrite_kept h
  | moduleReset => exact execModuleReset_kept
  | managementMessage => exact execManagementMessage_kept h
  | sessionIdleTimeout => exact execSessionIdleTimeout_kept h
  | hello => exact execHello_kept h
  | auth => exact execAuth_kept h
  | cert => exact h.free64.replyFree.kept
  | operatorSet => exact execOperatorSet_kept h
  | evidence => exact execEvidence_kept h
  | measure => exact (h.manage (fun _ h => h.reply.ite h.extend.ok)).kept
  | receiptCheck => exact (h.manage (fun _ h => h.reply.ite h.ok)).kept
  | ownerInstall => exact (h.manage (fun _ h => h.reply.ite (h.fail.ite h.loseKey.same.ok))).kept
  | ownerErase => exact (h.manage (fun _ h => h.reply.ite (h.fail.ite h.eraseKey.ok))).kept
  | contextCreate => exact execContextCreate_kept h
  | contextDestroy => exact (h.destroy.ite (h.manage (fun _ h => h.reply.ite h.destroy))).kept
  | map => exact execMap_kept h
  | channelBind => exact (h.manage (fun _ h => h.reply.ite ((h.setChannel.send.ite h.setChannel).ok))).kept
  | channelRetire => exact (h.manage (fun _ h => h.reply.ite h.beginRetire.ok)).kept
  | eventBind => exact (h.manage (fun _ h => h.reply.ite h.setEvent.ok)).kept
  | queueCreate => exact execQueueCreate_kept h
  | powerSet => exact (h.manage (fun _ h => h.writePower.ok)).kept
  | caliperSet => exact (h.manage (fun _ h => h.writeCaliper.ok)).kept
  | outOfService => exact execOutOfService_kept h
  | reset => exact execReset_kept h
  | unknownCommand => exact h.reply.kept
  | systemCoreAccess => exact execSystemCoreAccess_kept h
  | firmwarePreEmption => exact h.beginSwap.kept
  | sysreqServiceComplete => exact execSysreqServiceComplete_kept h
  | endpointUnsupportedRequest => exact h.atPort h.send.kept
  | intxMessage => exact h.kept

/-! ### The turn of a step -/

theorem State.MemoryForm.strike (h : s.MemoryForm) : s.strike.MemoryForm := by
  have hf := h.free64.free64.free64
  unfold State.strike
  dsimp only
  split
  iterate 3 split <;> [exact hf.setGroup; exact hf]
  · exact hf.same
  · exact hf.ite hf.same
  · exact hf.strikeTile
  · exact hf.strikeCache
  · exact hf.strikeMachine
  · exact hf.strikeCell

theorem State.MemoryForm.turnStep (h : s.MemoryForm) (hex : ∀ i s, s.MemoryForm → Kept (ex i s)) :
    Kept (s.turnStep ex) := by
  unfold State.turnStep
  dsimp only
  split
  · exact h.same.issueGroup hex
  · split
    · exact h.kept
    next e1 => exact (h.choose e1).tick.kept
    next e1 => exact hex _ _ (h.choose e1)
    next e1 => exact (h.choose e1).issueGroup hex
    next e1 => exact (h.choose e1).free64.fetchAhead.kept
    next e1 => exact (h.choose e1).strike.kept

theorem State.MemoryForm.stepWith (h : s.MemoryForm) (hex : ∀ i s, s.MemoryForm → Kept (ex i s)) :
    Kept (s.stepWith ex) := by
  unfold State.stepWith
  refine .ite ?_ ?_
  · split
    · exact (hex _ _ h.same).ite kept_fault
    · exact kept_fault
  · split
    · exact h.turnStep hex
    · exact h.same.kept.ite (hex _ _ h.same)
    · exact h.same.turnStep hex

/-! ### One step -/

/-- One step: an invariant of `exec` is one of `step`. -/
theorem step_kept (h : s.MemoryForm) : Kept (step s) := h.stepWith fun _ _ h => exec_kept h
end

/-- Settles O59: every outcome of `step` that goes on keeps the form (`step_kept`), by one lemma for each operation. -/
theorem everyStepKeepsTheMemoryForm : Obligations.EveryStepKeepsTheMemoryForm := by
  unfold Obligations.EveryStepKeepsTheMemoryForm
  exact fun s t h e => step_kept h t e

/-! ### A store-conditional at the end of memory -/

section
variable {s t : State}

/-- What a read of a byte behind no device delivers is free: no write shows in it (log 17). -/
theorem State.physByte_of_nowhere {o : BitVec 8} {k : Nat} (h : destOf k = .nowhere) : s.physByte o k = Config.remoteByte s.fresh k := by
  unfold State.physByte
  rw [h]

theorem State.getPhys_getElem? {o : BitVec 8} {k n i : Nat} (h : i < n) : (s.getPhys o k n)[i]? = some (s.physByte o (k + i)) := by
  simp [State.getPhys, h]

/-- A system core's store-conditional draws one free value, for its answer. -/
theorem fresh_of_storeConditional {key : Nat} {value : DWord} (hb : 3 ≤ s.bootStep) (hm : destOf key = .memory)
    (e : exec (.systemCoreAccess (.sc 0 true key value)) s = .next t) : t.fresh = s.fresh + 1 := by
  have hruns : s.firmwareRuns = true := decide_eq_true hb
  simp only [exec, execSystemCoreAccess, State.hartRuns, hruns, hm] at e
  by_cases held : s.lrWords.find? 0 = some (key, 8) <;> simp [held] at e <;> simp [← e, State.coreAnswer, State.send]

/-- The last byte of the second tier. -/
def lastMemoryKey : Nat := 9007199254740991

/-- Firmware runs, and hart 0 holds a reservation of the doubleword that begins at the last byte of the second tier. -/
def straddlingReservation : State := { State.reset with bootStep := 3, lrWords := [(0, (lastMemoryKey, 8))] }

end

/-- Refutes O53: its clause of the store-conditional asks only that the first byte of the doubleword is memory. Where hart 0 reserves the
doubleword at the last byte of the second tier, the other seven bytes are behind no device, and what they read as does not depend on the
value that was stored. -/
theorem not_rootDieAndReset : ¬ Obligations.RootDieAndReset := by
  unfold Obligations.RootDieAndReset
  intro h
  have second (value : DWord) :
      (leBytes 8 value.toNat)[1]? = some (Config.remoteByte (straddlingReservation.fresh + 1) (lastMemoryKey + 1)) := by
    obtain ⟨-, hfirmware, -⟩ := h straddlingReservation 0 0 0 lastMemoryKey 0 0 []
    obtain ⟨-, -, -, -, -, -, -, -, -, -, hreserved, -⟩ := hfirmware (by decide)
    obtain ⟨-, hheld, -⟩ := hreserved value (by decide)
    obtain ⟨t, e, hread, -⟩ := hheld (by decide)
    rw [← hread, State.getPhys_getElem? (by decide), State.physByte_of_nowhere (by decide),
      fresh_of_storeConditional (by decide) (by decide) e]
  have same : (leBytes 8 (0 : DWord).toNat)[1]? = (leBytes 8 (0xFF00 : DWord).toNat)[1]? := (second 0).trans (second 0xFF00).symm
  exact absurd same (by decide)

end Sys2Proof.Machine

namespace Sys2Proof.Machine
section
/-!
# A group at its boundary

What `State.boundary` takes, one lemma per row of R343's order, and what the step of a group's turn does with the word that is fetched.
-/

variable {s u t : State} {k : Nat} {g h : Group} {i : Instr}

/-! ### Pending events at a boundary (R343) -/

theorem Group.issues_iff : g.issues = true ↔ g.hold = .ready ∨ g.hold = .waiting := by simp [Group.issues]

theorem Group.atBoundary_iff :
    g.atBoundary = true ↔ g.place = .resident ∧ g.pairPending = false ∧ ∀ n a d next, g.hold ≠ .sysreq n a d next := by
  unfold Group.atBoundary
  cases g.hold <;> simp

theorem Group.atBoundary_eq_false (hb : g.place ≠ .resident ∨ g.pairPending = true ∨ ∃ n a d next, g.hold = .sysreq n a d next) :
    g.atBoundary = false := by
  refine Bool.eq_false_iff.2 fun h => ?_
  obtain ⟨hplace, hpair, hhold⟩ := Group.atBoundary_iff.1 h
  rcases hb with hb | hb | ⟨n, a, d, next, hb⟩
  · exact hb hplace
  · rw [hpair] at hb; cases hb
  · exact hhold n a d next hb

theorem State.boundary_of_not_atBoundary (hb : g.atBoundary = false) : s.boundary k g = none := by
  unfold State.boundary; rw [if_pos (by simp [hb])]

/-- A group that can issue, and has nothing to take, takes nothing. -/
theorem State.boundary_of_undisturbed (hissues : g.issues = true) (hu : s.Undisturbed k g) : s.boundary k g = none := by
  obtain ⟨hscalar, hasync, hstop, hterm, hhalt, hfw, hbp⟩ := hu
  have hhold : g.hold ≠ .halted := by rcases Group.issues_iff.1 hissues with e | e <;> simp [e]
  unfold State.boundary
  simp [hscalar, hasync, hstop, hterm, hhalt, hfw, hbp, hhold]

section
variable (hb : g.atBoundary = true)
include hb

/-- A halted group is pinned (R349). -/
theorem State.boundary_of_halted (hhold : g.hold = .halted) (hterm : (s.grid k).terminating = false) (hstop : g.stopCause ≠ some 7) :
    s.boundary k g = none := by
  simp [State.boundary, hb, hhold, hterm, hstop]

/-- A cluster drain comes before a termination, for a halted group too (R343, R349). -/
theorem State.boundary_of_drain (hfault : g.hold = .halted ∨ g.scalarErr = none ∧ g.asyncFault = none) (hstop : g.stopCause = some 7) :
    s.boundary k g = some (s.discard k g 7 .none .queued) := by
  by_cases hhold : g.hold = .halted
  · simp [State.boundary, hb, hhold, hstop]
  · obtain ⟨hscalar, hasync⟩ := hfault.resolve_left hhold
    simp [State.boundary, hb, hhold, hscalar, hasync, hstop]

theorem State.boundary_of_termination (hfault : g.hold = .halted ∨ g.scalarErr = none ∧ g.asyncFault = none)
    (hstop : g.stopCause ≠ some 7) (hterm : (s.grid k).terminating = true) : s.boundary k g = some (s.endGroup k g) := by
  by_cases hhold : g.hold = .halted
  · simp [State.boundary, hb, hhold, hstop, hterm]
  · obtain ⟨hscalar, hasync⟩ := hfault.resolve_left hhold
    simp [State.boundary, hb, hhold, hscalar, hasync, hstop, hterm]

variable (hhold : g.hold ≠ .halted) (hscalar : g.scalarErr = none)
include hhold hscalar

theorem State.boundary_of_asyncFault {f : FaultInfo} (hasync : g.asyncFault = some f) :
    s.boundary k g = some (s.systemFault k g f) := by
  simp [State.boundary, hb, hhold, hscalar, hasync]

/-- A discard that was asked for comes after every fault, termination and halt (R343). -/
theorem State.boundary_of_stopCause {c : Nat} (hasync : g.asyncFault = none) (hstop : g.stopCause = some c) (hc : c ≠ 7)
    (hterm : (s.grid k).terminating = false) (hhalt : g.haltPending = none) (hfw : g.fwStop = false) :
    s.boundary k g = some (s.discard k g c .none .queued) := by
  simp [State.boundary, hb, hhold, hscalar, hasync, hstop, hc, hterm, hhalt, hfw]

end

/-! ### The turn of a group -/

/-- Powered and with nothing to come from outside, the module gives the turn to the group that it names. -/
theorem step_of_turn (hpower : s.powered = true) (hagenda : s.agenda = []) (hturn : s.turn = .issue k) :
    step s = State.issueGroup { s with turn := .any } k exec := by
  simp [step, State.stepWith, State.turnStep, hpower, hagenda, hturn]

section
variable (hg : s.group? k = some g) (hplace : g.place = .resident) (hissues : g.issues = true) (hquiet : s.Undisturbed k g)
include hg hplace hissues hquiet

theorem State.issueGroup_of_pairRegion (hregion : g.pairRegion = some i) : s.issueGroup k exec = s.issueWord k g i exec := by
  simp [State.issueGroup, hg, State.boundary_of_undisturbed hissues hquiet, hplace, hissues, hregion]

theorem State.issueGroup_of_decodeAt (hregion : g.pairRegion = none) (e : s.decodeAt k g = .ok i) :
    s.issueGroup k exec = s.issueInstr k g i exec := by
  simp [State.issueGroup, hg, State.boundary_of_undisturbed hissues hquiet, hplace, hissues, hregion, e]

theorem State.issueGroup_of_decodeAt_error {f : FaultInfo} (hregion : g.pairRegion = none) (e : s.decodeAt k g = .error f) :
    s.issueGroup k exec = .next (s.systemFault k g f) := by
  simp [State.issueGroup, hg, State.boundary_of_undisturbed hissues hquiet, hplace, hissues, hregion, e]

end

/-! ### The words at the PC (R35, R37, R49, R55) -/

/-- What is raised at a word that is illegal by step 3 of R55: its fault, or, a branch, that of its target. -/
def State.RaisesIllegal (s : State) (k : Nat) (g : Group) (w : DWord) (lit : Lit) (st : Host.Outcome State Fault Refusal) : Prop :=
  (s.badLoose k g w lit = none → ∃ b, st = .next (s.systemFault k g { cause := 1, pc := g.pc, slot := b })) ∧
  (∀ a, s.badLoose k g w lit = some a → st = .next (s.systemFault k g { cause := 5, pc := g.pc, addr := a }))

theorem State.raisesIllegal_illegalAt (s : State) (k : Nat) (g : Group) (w : DWord) (lit : Lit) (slot : Bool) :
    s.RaisesIllegal k g w lit (.next (s.systemFault k g (s.illegalAt k g w lit slot))) :=
  ⟨fun e => ⟨slot, by simp only [State.illegalAt, e]⟩, fun a e => by simp only [State.illegalAt, e]⟩

/-- Only an F or L word with the opcode of a branch has a target (R55 step 1). -/
theorem State.badLoose_eq_none {w : DWord}
    (h : (w.extractLsb' 62 1).toNat = 1 ∨ ¬ (0x12 ≤ (Fields.split w).opc.toNat ∧ (Fields.split w).opc.toNat ≤ 0x17)) (lit : Lit) :
    s.badLoose k g w lit = none := by
  have hloose : looseBranch w lit = none := by
    unfold looseBranch
    split
    · rfl
    · next hbit =>
      have hopc := h.resolve_left hbit
      dsimp only
      split
      iterate 6 · omega
      · rfl
  rw [State.badLoose, hloose]; rfl

theorem lateL_iff {w pc : DWord} : lateL w pc = true ↔ (w.extractLsb' 62 2).toNat = 2 ∧ pc.toNat % 64 = 56 := by
  simp [lateL]

theorem lateL_eq_false {w pc : DWord} : lateL w pc = false ↔ ¬ ((w.extractLsb' 62 2).toNat = 2 ∧ pc.toNat % 64 = 56) := by
  rw [← lateL_iff, Bool.not_eq_true]

section
variable {w v : DWord} (hw : s.fetchWord k g.pc = .ok w)
include hw

theorem State.fetchTwo_of_late (hlate : lateL w g.pc = true) : s.fetchTwo k g = .error (s.illegalAt k g w none false) := by
  simp [State.fetchTwo, State.fetchAt, hw, hlate]

theorem State.fetchTwo_of_illegalPrefix (hlate : lateL w g.pc = false) (hp : illegalPrefix w = true) :
    s.fetchTwo k g = .error { cause := 4, pc := g.pc } := by
  simp [State.fetchTwo, State.fetchAt, hw, hlate, hp]

theorem State.fetchTwo_eq_ok (hlate : lateL w g.pc = false) (hp : illegalPrefix w = false)
    (htwo : takesTwo w = true → s.fetchWord k (g.pc + 8) = .ok v) (hone : takesTwo w = false → v = 0) :
    s.fetchTwo k g = .ok (w, v) := by
  cases h2 : takesTwo w with
  | true => simp only [State.fetchTwo, State.fetchAt, hw, hlate, hp, h2, htwo h2, Bool.false_eq_true, if_false, if_true]
  | false => simp only [State.fetchTwo, State.fetchAt, hw, hlate, hp, h2, hone h2, Bool.false_eq_true, if_false]

end

theorem State.badTarget_eq_false {a : DWord} (halign : a.toNat % 8 = 0) (hlit : s.isLiteral k a = false) : s.badTarget k a = false := by
  simp [State.badTarget, halign, hlit]

section
variable (hbad : s.badTarget k g.pc = false)
include hbad

theorem State.decodeAt_of_fetchTwo_error {f : FaultInfo} (h : s.fetchTwo k g = .error f) : s.decodeAt k g = .error f := by
  simp [State.decodeAt, hbad, h]

variable {w v : DWord} (hwords : s.fetchTwo k g = .ok (w, v))
include hwords

theorem State.decodeAt_of_decode (hi : decode w v = .ok i) : s.decodeAt k g = .ok i := by
  simp [State.decodeAt, hbad, hwords, hi]

theorem State.decodeAt_of_illegalInstruction (he : decode w v = .error .illegalInstruction) :
    s.decodeAt k g = .error (s.illegalAt k g w (if takesTwo w then some v else none) (illegalHalf w)) := by
  simp [State.decodeAt, hbad, hwords, he]

theorem State.decodeAt_of_decode_error {e : DecodeError} (he : decode w v = .error e) (hne : e ≠ .illegalInstruction) :
    s.decodeAt k g = .error { cause := if e = .illegalPairing then 3 else 4, pc := g.pc } := by
  cases e with
  | illegalInstruction => exact absurd rfl hne
  | illegalSweep => simp [State.decodeAt, hbad, hwords, he, DecodeError.cause]
  | illegalPairing => simp [State.decodeAt, hbad, hwords, he, DecodeError.cause]

end

/-! ### The decoded word issues (R27, R59) -/

theorem State.issueWord_of_next (e : exec i { s with cur := k } = .next t) : s.issueWord k g i exec = .next (t.afterIssue k g i) := by
  simp [State.issueWord, e]

section
variable (e : exec i { s.noteFetch k g.pc i with cur := k } = .next t)
include e

theorem State.issueInstr_of_single (hc : Instr.isCommit i = false) : s.issueInstr k g i exec = .next (t.afterIssue k g i) := by
  simp [State.issueInstr, State.issueWord_of_next e, hc]

theorem State.issueInstr_of_commit (hc : Instr.isCommit i = true) :
    s.issueInstr k g i exec = ((t.afterIssue k g i).keepRegion k (s.regionAfter k g i)).issuePair k exec := by
  simp [State.issueInstr, State.issueWord_of_next e, hc]

end

theorem State.issueInstr_of_fault {f : Fault} (e : exec i { s.noteFetch k g.pc i with cur := k } = .fault f) :
    s.issueInstr k g i exec = .fault f := by
  simp [State.issueInstr, State.issueWord, e]

theorem State.issueInstr_of_refused {r : Refusal} (e : exec i { s.noteFetch k g.pc i with cur := k } = .refused r) :
    s.issueInstr k g i exec = .refused r := by
  simp [State.issueInstr, State.issueWord, e]

theorem State.noteLeaf_eq (s : State) (c x va : Nat) (p : Pte) : ∃ tlbs, s.noteLeaf c x va p = { s with tlbs := tlbs } := ⟨_, rfl⟩

/-- A fetch that is noted changes TLBs and the instruction cache alone (R37). -/
theorem State.noteWord_eq (s : State) (k : Nat) (a : DWord) :
    ∃ tlbs icache, s.noteWord k a = { s with tlbs := tlbs, icache := icache } := by
  unfold State.noteWord
  split
  · next key p w _ _ =>
    obtain ⟨tlbs, e⟩ := s.noteLeaf_eq (s.coreOf k) (s.ctxOf k) a.toNat p
    rw [e]
    dsimp only
    split
    · exact ⟨_, _, rfl⟩
    · exact ⟨_, _, rfl⟩
  · exact ⟨_, _, rfl⟩

theorem State.noteFetch_eq (s : State) (k : Nat) (a : DWord) (i : Instr) :
    ∃ tlbs icache, s.noteFetch k a i = { s with tlbs := tlbs, icache := icache } := by
  obtain ⟨_, _, h1⟩ := s.noteWord_eq k a
  obtain ⟨_, _, h2⟩ := (s.noteWord k a).noteWord_eq k (a + 8)
  unfold State.noteFetch
  dsimp only
  split
  · exact ⟨_, _, h1⟩
  · exact ⟨_, _, by rw [h2, h1]⟩

/-- Nothing follows the issue of a word of a group that is not single-stepped, but where a breakpoint is on its REGION (R351, R353). -/
theorem State.afterIssue_eq_self (hh : s.group? k = some h) (hsingle : h.singleStep = false) (hi : ∀ n l, i ≠ .region n l) :
    s.afterIssue k g i = s := by
  unfold State.afterIssue
  simp only [hh, hsingle, Bool.false_and, Bool.false_eq_true, if_false]
  split
  · rfl
  · rfl

/-! ### The REGION of a pair (R27, R59) -/

section
variable (hg : s.group? k = some g) (hplace : g.place = .resident) (hhold : g.hold = .ready) (hpair : g.pairPending = true)
include hg hplace hhold hpair

theorem State.group?_keepRegion (r : Option Instr) : (s.keepRegion k r).group? k = some { g with pairRegion := r } := by
  have hfind : SMap.find? s.groups k = some g := hg
  simp [State.keepRegion, State.modGroup, State.group?, SMap.find_modify, hfind, hplace, hhold, hpair]

theorem State.issuePair_of_next (hregion : g.pairRegion = some i) (e : exec i { s with cur := k } = .next t) :
    s.issuePair k exec = .next (t.afterIssue k g i) := by
  simp [State.issuePair, hg, hregion, hplace, hhold, hpair, State.issueWord_of_next e]

end

theorem State.issuePair_of_none (hg : s.group? k = some g) (hregion : g.pairRegion = none) : s.issuePair k exec = .next s := by
  simp [State.issuePair, hg, hregion]

/-! ### Events from outside -/

theorem step_of_agenda {rest : List (Nat × Instr)} (hpower : s.powered = true) (hagenda : s.agenda = (0, i) :: rest) :
    step s = if Instr.isProgram i then .next { s with agenda := rest } else exec i { s with agenda := rest } := by
  simp [step, State.stepWith, hpower, hagenda]

theorem State.fetchWord_of_memory {a : DWord} {key : Nat} {p : Pte}
    (h : s.translate (s.coreOf k) (s.ctxOf k) a.toNat .fetch = .ok (key, p))
    (hcache : s.icache.find? (gridOf k * 2 ^ 57 + a.toNat) = none) :
    s.fetchWord k a = .ok (BitVec.ofNat 64 (leNat (s.getPhys p.owner key 8))) := by
  simp only [State.fetchWord, h, hcache]

end

/-! ### The obligation -/

/-- Settles O55: the turn goes to the group (`step_of_turn`), which has nothing to take at its boundary
(`State.boundary_of_undisturbed`); what it then does is a case of what stands at its PC. -/
theorem stepRunsTheDecodedWord : Obligations.StepRunsTheDecodedWord := by
  unfold Obligations.StepRunsTheDecodedWord
  refine ⟨fun s u k g hpower hagenda hturn hu hg hplace hissues hquiet => ?_, fun s k g r hg hplace hhold hpair => ?_,
    fun s k a key p h hcache => State.fetchWord_of_memory h hcache, fun s k a i => ?_,
    fun s k g h i hh hsingle hi => State.afterIssue_eq_self hh hsingle hi, fun s i rest hpower hagenda => ?_⟩
  · rw [step_of_turn hpower hagenda hturn, ← hu]
    refine ⟨fun w v hregion halign hlit hw => ?_, fun r t hregion e => ?_⟩
    · have hbad := State.badTarget_eq_false halign hlit
      have hfault {f : FaultInfo} := State.issueGroup_of_decodeAt_error (f := f) hg hplace hissues hquiet hregion
      refine ⟨State.badLoose_eq_none, fun hlate => ?_, fun hlate hp => ?_, fun hlate hp htwo hone => ?_⟩
      · rw [hfault (State.decodeAt_of_fetchTwo_error hbad (State.fetchTwo_of_late hw (lateL_iff.2 hlate)))]
        exact State.raisesIllegal_illegalAt ..
      · exact hfault (State.decodeAt_of_fetchTwo_error hbad (State.fetchTwo_of_illegalPrefix hw (lateL_eq_false.2 hlate) hp))
      · have hwords := State.fetchTwo_eq_ok hw (lateL_eq_false.2 hlate) hp htwo hone
        refine ⟨fun i hi => ?_, fun he => ?_, fun e he hne => hfault (State.decodeAt_of_decode_error hbad hwords he hne)⟩
        · rw [State.issueGroup_of_decodeAt hg hplace hissues hquiet hregion (State.decodeAt_of_decode hbad hwords hi)]
          exact ⟨fun t e => ⟨State.issueInstr_of_single e, State.issueInstr_of_commit e⟩, fun f => State.issueInstr_of_fault,
            fun r => State.issueInstr_of_refused⟩
        · rw [hfault (State.decodeAt_of_illegalInstruction hbad hwords he)]
          exact State.raisesIllegal_illegalAt ..
    · rw [State.issueGroup_of_pairRegion hg hplace hissues hquiet hregion, State.issueWord_of_next e]
  · exact ⟨⟨State.group?_keepRegion hg hplace hhold hpair r, fun _ => rfl, fun _ => rfl, rfl, rfl, rfl⟩,
      fun i t hregion e => State.issuePair_of_next hg hplace hhold hpair hregion e, State.issuePair_of_none hg⟩
  · obtain ⟨_, _, h⟩ := s.noteFetch_eq k a i
    simp only [h, and_self]
  · rw [step_of_agenda hpower hagenda]
    refine ⟨fun e => if_neg (by simp [Instr.isProgram, e]), fun ⟨ws, e⟩ => if_pos (by simp [Instr.isProgram, e])⟩

end Sys2Proof.Machine

namespace Sys2Proof.Machine
section
/-!
# Discards, their records, and resumption from them

A discard writes the continuation record of R308 and changes no memory (`State.discardTo_savedAs`); a record resumes in a place of
`State.resumePlaces`, which is never empty where the team's own core has room (`State.resumePlaces_ne_nil`).
-/

variable {s t u : State} {k : Nat} {g h : Group} {l : LiveSet}

/-! ### What leaves memory as it reads -/

theorem State.SameMemory.of_eq (hphys : t.phys = s.phys := by rfl) (hspad : t.spad = s.spad := by rfl)
    (hphysBad : t.physBad = s.physBad := by rfl) (hspadBad : t.spadBad = s.spadBad := by rfl)
    (hkey : t.lineKey = s.lineKey := by rfl) : s.SameMemory t :=
  ⟨fun a => by rw [State.rawByte, hphys]; rfl, fun a => by rw [State.spadByte, hspad]; rfl, hphysBad, hspadBad, hkey⟩

theorem State.SameMemory.trans (h1 : s.SameMemory t) (h2 : t.SameMemory u) : s.SameMemory u := by
  obtain ⟨hraw, hspad, hphysBad, hspadBad, hkey⟩ := h1
  obtain ⟨hraw', hspad', hphysBad', hspadBad', hkey'⟩ := h2
  exact ⟨fun a => (hraw' a).trans (hraw a), fun a => (hspad' a).trans (hspad a), hphysBad'.trans hphysBad, hspadBad'.trans hspadBad,
    hkey'.trans hkey⟩

theorem State.DiscardShape.sameMemory (h : s.DiscardShape t k) : s.SameMemory t := by
  obtain ⟨-, e⟩ := h
  rw [e]
  exact .of_eq

theorem State.sameMemory_pushFault (s : State) (core : Nat) (r : List Byte) : s.SameMemory (s.pushFault core r) := by
  rw [State.pushFault_eta]
  exact .of_eq

/-! ### The live-ins of a record (R308, R309) -/

/-- What a fold of writes to a sparse map leaves at a key, where the value written goes by the key. -/
theorem SMap.getD_foldl_setD {α β : Type} [DecidableEq α] {d : α} (key : β → Nat) (val : β → α) (f : Nat → α) {xs : List β}
    (hval : ∀ x ∈ xs, val x = f (key x)) (m : SMap α) (n : Nat) :
    (xs.foldl (fun m x => SMap.setD m (key x) (val x) d) m).getD n d = if n ∈ xs.map key then f n else m.getD n d := by
  induction xs generalizing m with
  | nil => simp
  | cons x xs ih =>
    rw [List.foldl_cons, ih (fun y hy => hval y (List.mem_cons_of_mem _ hy)), SMap.getD_setD, hval x List.mem_cons_self]
    by_cases hx : n = key x
    · simp [hx]
    · simp [hx]

theorem recordOf_sval {c n : Nat} {w : WaitOn} (hn : n ∈ l.ss) : (recordOf l k g c w).sval.getD n 0 = g.rs n := by
  have := SMap.getD_foldl_setD (d := (0 : Word)) id g.rs g.rs (xs := l.ss) (fun _ _ => rfl) [] n
  exact this.trans (if_pos (by simpa using hn))

theorem recordOf_vval {c n L : Nat} {w : WaitOn} (hn : n ∈ l.vs) (hL : L < 96) :
    (recordOf l k g c w).vval.getD (n * 96 + L) 0 = if g.live L then g.rv n L else 0 := by
  let saved (x : Nat × Nat) : Word := if g.live x.2 then g.rv x.1 x.2 else 0
  let elems : List (Nat × Nat) := l.vs.flatMap (fun r => (List.range 96).map (fun L => (r, L)))
  have hfold : (recordOf l k g c w).vval = elems.foldl (fun m x => SMap.setD m (x.1 * 96 + x.2) (saved x) 0) [] := by
    simp only [elems, List.foldl_flatMap, List.foldl_map]
    rfl
  have hkeys : ∀ x ∈ elems, saved x = saved ((x.1 * 96 + x.2) / 96, (x.1 * 96 + x.2) % 96) := by
    intro x hx
    obtain ⟨r, -, hx⟩ := List.mem_flatMap.1 hx
    obtain ⟨L, hL, rfl⟩ := List.mem_map.1 hx
    have hL := List.mem_range.1 hL
    rw [show (r * 96 + L) / 96 = r by omega, show (r * 96 + L) % 96 = L by omega]
  have hmem : n * 96 + L ∈ elems.map (fun x => x.1 * 96 + x.2) :=
    List.mem_map.2 ⟨(n, L), List.mem_flatMap.2 ⟨n, hn, List.mem_map.2 ⟨L, List.mem_range.2 hL, rfl⟩⟩, rfl⟩
  rw [hfold, SMap.getD_foldl_setD _ saved (fun x => saved (x / 96, x % 96)) hkeys, if_pos hmem,
    show (n * 96 + L) / 96 = n by omega, show (n * 96 + L) % 96 = L by omega]

theorem Group.foldl_dead {α : Type} {f : Group → α → Group} (hf : ∀ g x, ∃ d, f g x = { g with dead := d })
    (xs : List α) (g : Group) : ∃ d, xs.foldl f g = { g with dead := d } := by
  induction xs generalizing g with
  | nil => exact ⟨_, rfl⟩
  | cons x xs ih =>
    obtain ⟨d, e⟩ := hf g x
    obtain ⟨d', e'⟩ := ih (f g x)
    exact ⟨d', by rw [List.foldl_cons, e', e]⟩

/-- Before its record is written a group loses lanes, and nothing else (R309). -/
theorem Group.savable_eq (g : Group) (l : LiveSet) : ∃ d, g.savable l = { g with dead := d } := by
  refine Group.foldl_dead (fun g r => Group.foldl_dead (fun g L => ?_) _ g) _ g
  split
  · exact ⟨_, rfl⟩
  · exact ⟨_, rfl⟩

theorem Group.savable_cont (g : Group) (l : LiveSet) : (g.savable l).cont = g.cont := by
  obtain ⟨d, e⟩ := g.savable_eq l; rw [e]

theorem Group.savable_sregs (g : Group) (l : LiveSet) : (g.savable l).sregs = g.sregs := by
  obtain ⟨d, e⟩ := g.savable_eq l; rw [e]

theorem Group.savable_rs (g : Group) (l : LiveSet) (n : Nat) : (g.savable l).rs n = g.rs n := by
  obtain ⟨d, e⟩ := g.savable_eq l; rw [e]; rfl

theorem Group.savable_of_sound (hsound : g.vBad = []) : g.savable l = g := by
  have hlane (r L : Nat) : (if g.live L && g.vBad.contains (r * 96 + L) then g.kill L else g) = g := by simp [hsound]
  unfold Group.savable
  exact List.foldl_fixed' (fun r => List.foldl_fixed' (hlane r) _) _

/-! ### The record of a discard (R308) -/

theorem State.group?_saveRecord (s : State) (k j : Nat) : (s.saveRecord k).group? j = s.group? j := by
  rw [State.saveRecord_eta]; rfl

theorem State.records_saveRecord {r : Rec} (hh : s.group? k = some h) (hr : h.rcd = some r) :
    (s.saveRecord k).records.find? k = some (r.bytes (s.liveSet k h r.live)) := by
  simp [State.saveRecord, hh, hr, SMap.find_insert_self]

theorem State.liveSet_congr (hgrids : t.grids = s.grids) (hsregs : h.sregs = g.sregs) (live : Option Nat) :
    t.liveSet k h live = s.liveSet k g live := by
  cases live with
  | none => simp only [State.liveSet, hsregs]
  | some n => simp only [State.liveSet, State.kernel, State.grid, hgrids]

/-- The record of a group that is discarded to its region start, and where it stands. -/
theorem State.discardTo_record (s : State) (k : Nat) (g : Group) (c : Nat) (w : WaitOn) (p : Place) :
    let l := s.liveSet k g g.cont.live
    let r := recordOf l k (g.savable l) c w
    (∃ h, (s.discardTo k g c w p).group? k = some h ∧ h.place = p ∧ h.rcd = some r) ∧
      (s.discardTo k g c w p).records.find? k = some (r.bytes l) := by
  intro l r
  have hlogs : ∃ a b x, (if (g.savable l).dead = g.dead then (s.unwait k).abandon k (g.savable l).cont.mark
      else (List.range 96).foldl (fun s L => if (g.savable l).live L != g.live L then s.groupError k (g.savable l) 0 0 9 L true else s)
        ((s.unwait k).abandon k (g.savable l).cont.mark)) =
      { (s.unwait k).abandon k (g.savable l).cont.mark with errorLog := a, errorOver := b, ctxs := x } := by
    split
    · exact ⟨_, _, _, rfl⟩
    · exact State.foldl_groupError_eta _ _ _ _ _
  obtain ⟨a, b, x, hlogs⟩ := hlogs
  unfold State.discardTo
  dsimp only
  rw [hlogs]
  refine ⟨⟨_, by rw [State.group?_saveRecord, find_setGroup, if_pos rfl], rfl, rfl⟩, ?_⟩
  refine (State.records_saveRecord (by rw [find_setGroup, if_pos rfl]) rfl).trans ?_
  exact congrArg (fun x => some (r.bytes x))
    ((State.liveSet_congr rfl (Group.savable_sregs g l) _).trans (congrArg (s.liveSet k g) (congrArg Cont.live (Group.savable_cont g l))))

/-- In `t` the group stands at `p` with a record of its region's start, and memory reads as it did in `s` (R308, R309). -/
def State.SavedAs (s : State) (k : Nat) (g : Group) (c : Nat) (p : Place) (t : State) : Prop :=
  s.SameMemory t ∧ ∃ h r, t.group? k = some h ∧ h.place = p ∧
    h.rcd = some r ∧ r.pc = g.cont.pc ∧ r.em = g.cont.em ∧ r.acnt = g.cont.a ∧ r.cause = c ∧
    t.records.find? k = some (r.bytes (s.liveSet k g g.cont.live)) ∧
    (∀ n ∈ (s.liveSet k g g.cont.live).ss, r.sval.getD n 0 = g.rs n) ∧
    (g.vBad = [] → r.dead = g.dead ∧ ∀ n ∈ (s.liveSet k g g.cont.live).vs, ∀ L, L < 96 →
      r.vval.getD (n * 96 + L) 0 = if g.live L then g.rv n L else 0)

theorem State.discardTo_savedAs (s : State) (k : Nat) (g : Group) (c : Nat) (w : WaitOn) (p : Place) :
    s.SavedAs k g c p (s.discardTo k g c w p) := by
  obtain ⟨⟨h, hh, hplace, hrcd⟩, hbytes⟩ := s.discardTo_record k g c w p
  have hcont := g.savable_cont (s.liveSet k g g.cont.live)
  refine ⟨(s.discardTo_shape k g c w p).sameMemory, h, _, hh, hplace, hrcd, congrArg Cont.pc hcont, congrArg Cont.em hcont,
    congrArg Cont.a hcont, rfl, hbytes, fun n hn => (recordOf_sval hn).trans (g.savable_rs _ n), fun hsound => ?_⟩
  · rw [Group.savable_of_sound hsound]
    exact ⟨rfl, fun n hn L hL => recordOf_vval hn hL⟩

theorem State.SavedAs.pushFault {c core : Nat} {p : Place} {r : List Byte} (h : s.SavedAs k g c p t) :
    s.SavedAs k g c p (t.pushFault core r) := by
  obtain ⟨hmem, hsaved⟩ := h
  refine ⟨hmem.trans (t.sameMemory_pushFault core r), ?_⟩
  rw [State.pushFault_eta]
  exact hsaved

section
variable (hterm : (s.grid k).terminating = false)
include hterm

theorem State.discard_eq_discardTo (hsave : s.unsavable k g = false) (c : Nat) (w : WaitOn) (p : Place) :
    s.discard k g c w p = s.discardTo k g c w p := by
  simp [State.discard, hterm, hsave]

theorem State.discard_savedAs (hsave : s.unsavable k g = false) (c : Nat) (w : WaitOn) (p : Place) :
    s.SavedAs k g c p (s.discard k g c w p) := by
  rw [State.discard_eq_discardTo hterm hsave]; exact s.discardTo_savedAs k g c w p

/-- A system fault parks the group with a record whose CAUSE goes by the fault's (R340). -/
theorem State.systemFault_savedAs (hsave : s.unsavable k g = false) (f : FaultInfo) :
    s.SavedAs k g (if f.cause = 7 then 3 else if f.cause = 0x0A then 6 else 5) .parked (s.systemFault k g f) :=
  (State.discard_savedAs hterm hsave _ .none .parked).pushFault

theorem State.discard_wait {c : Nat} {w : WaitOn} {p : Place} {r : Rec} (hsave : s.unsavable k g = false)
    (hh : (s.discard k g c w p).group? k = some h) (hr : h.rcd = some r) : r.wait = w := by
  obtain ⟨⟨h', hh', -, hr'⟩, -⟩ := s.discardTo_record k g c w p
  rw [State.discard_eq_discardTo hterm hsave, hh'] at hh
  cases hh
  rw [hr'] at hr
  cases hr
  rfl

/-- A live-in s-register that cannot be saved parks the group with CAUSE 6 (R309). -/
theorem State.discard_of_unsavable (hsave : s.unsavable k g = true) (c : Nat) (w : WaitOn) (p : Place) :
    ∃ h r, (s.discard k g c w p).group? k = some h ∧ h.place = .parked ∧ h.rcd = some r ∧ r.cause = 6 := by
  obtain ⟨⟨h, hh, hplace, hrcd⟩, -⟩ := (s.groupError k g 0 0 9 127 false).discardTo_record k g 6 .none .parked
  refine ⟨h, _, ?_, hplace, hrcd, rfl⟩
  simp only [State.discard, hterm, hsave, Bool.false_eq_true, if_false, if_true]
  rw [State.pushFault_eta]
  exact hh

end

/-! ### The events that take a group at its boundary -/

section
variable (hg : s.group? k = some g)
include hg

theorem exec_asyncFault_of_boundary {f : FaultInfo} (hf : g.asyncFault = some f) (e : s.boundary k g = some t) :
    exec (.asyncFault k) s = .next t := by
  simp [exec, execAsyncFault, hg, hf, e]

theorem exec_asyncFault_of_none (e : s.boundary k g = none) : exec (.asyncFault k) s = .next s := by
  simp [exec, execAsyncFault, hg, e]

theorem exec_groupDiscard_of_boundary {c : Nat} (hc : g.stopCause = some c) (e : s.boundary k g = some t) :
    exec (.groupDiscard k) s = .next t := by
  simp [exec, execGroupDiscard, hg, hc, e]

theorem exec_groupDiscard_of_none (e : s.boundary k g = none) : exec (.groupDiscard k) s = .next s := by
  simp [exec, execGroupDiscard, hg, e]

end

/-! ### The places in which a record resumes (R312, R328) -/

theorem State.choose_mem {α : Type} (s : State) {xs : List α} (hne : xs ≠ []) :
    ∃ x ∈ xs, ∃ n, s.choose xs = some (x, { s with fresh := n }) := by
  match xs, hne with
  | [x], _ => exact ⟨x, List.mem_cons_self, s.fresh, rfl⟩
  | x :: y :: xs, _ =>
    refine ⟨_, ?_, _, rfl⟩
    rw [List.getD_eq_getElem _ _ (Nat.mod_lt _ (by simp))]
    exact List.getElem_mem _

theorem pickDp_mem {vregs : Nat} {ls : List DpLoad} {m : DpLoad} (e : pickDp vregs ls = some m) : m ∈ ls ∧ m.admits vregs = true := by
  induction ls generalizing m with
  | nil => cases e
  | cons l ls ih =>
    unfold pickDp at e
    split at e
    · split at e
      · next ha => cases e; exact ⟨List.mem_cons_self, ha⟩
      · cases e
    · next m' e' =>
      split at e
      · next ha => cases e; exact ⟨List.mem_cons_self, (Bool.and_eq_true_iff.1 ha).1⟩
      · cases e; exact (ih e').imp_left (List.mem_cons_of_mem _)

theorem pickDp_isSome {vregs : Nat} {ls : List DpLoad} (h : ∃ l ∈ ls, l.admits vregs = true) : ∃ m, pickDp vregs ls = some m := by
  induction ls with
  | nil => obtain ⟨l, hl, -⟩ := h; cases hl
  | cons a ls ih =>
    unfold pickDp
    split
    · next e =>
      obtain ⟨l, hl, ha⟩ := h
      rcases List.mem_cons.1 hl with rfl | hl
      · exact ⟨_, if_pos ha⟩
      · obtain ⟨m, e'⟩ := ih ⟨l, hl, ha⟩
        rw [e] at e'; cases e'
    · split
      · exact ⟨_, rfl⟩
      · exact ⟨_, rfl⟩

section
variable (hres : s.resumable k g = true) (hstores : s.storesLeft (fun j => j = k) = false)
  (hahead : s.ahead k (s.team k).core g = false)
include hres hstores hahead

/-- A record that does not float resumes on the datapath of its own core that R328 takes. -/
theorem State.resumePlaces_of_anchored (hfloats : s.floats k = false) : s.resumePlaces k g =
    ((pickDp g.vregs (s.dpLoads (s.team k).core (teamOf k))).map (fun l => ((s.team k).core, l.dp))).toList := by
  simp [State.resumePlaces, hres, hstores, hahead, hfloats]

theorem State.resumePlaces_ne_nil (hhome : (s.team k).core < 448) (hdrained : (s.core (s.team k).core).drained = false)
    (hroom : ∃ l ∈ s.dpLoads (s.team k).core (teamOf k), l.admits g.vregs = true) : s.resumePlaces k g ≠ [] := by
  obtain ⟨m, hm⟩ := pickDp_isSome hroom
  by_cases hown : s.floats k = true ∧ s.behind (fun j => j = k) = false
  · obtain ⟨hfloats, hbehind⟩ := hown
    obtain ⟨l, hl, ha⟩ := hroom
    refine List.ne_nil_of_mem (a := ((s.team k).core, l.dp)) ?_
    simp only [State.resumePlaces, hres, hstores, hfloats, hbehind, Bool.not_true, Bool.or_false, Bool.false_eq_true, if_false]
    refine List.mem_flatMap.2 ⟨(s.team k).core, List.mem_range.2 hhome, ?_⟩
    rw [if_neg (by simp [hdrained, hahead])]
    exact List.mem_map.2 ⟨l, List.mem_filter.2 ⟨hl, ha⟩, rfl⟩
  · have hplaces : s.resumePlaces k g = [((s.team k).core, m.dp)] := by
      cases hfloats : s.floats k with
      | false => rw [State.resumePlaces_of_anchored hres hstores hahead hfloats, hm]; rfl
      | true =>
        have hbehind : s.behind (fun j => j = k) = true := by simpa [hfloats] using hown
        simp [State.resumePlaces, hres, hstores, hahead, hfloats, hbehind, hm]
    rw [hplaces]
    exact List.cons_ne_nil _ _

end

/-! ### The state that a record restores (R26, R308) -/

theorem Group.rs_wt {n r : Nat} (x : BitVec 96) (hr : r < n) : (g.wt n x).rs r = g.rs r := by
  simp only [Group.wt, rs_ws]
  rw [if_neg (by omega), if_neg (by omega), if_neg (by omega)]

/-- A mask is its three words, the lowest first (R90). -/
theorem mask_of_words (x : BitVec 96) :
    (x.extractLsb' 64 32 ++ x.extractLsb' 32 32 ++ x.extractLsb' 0 32).cast (by decide) = x := by
  apply BitVec.eq_of_getLsbD_eq
  intro i hi
  simp only [BitVec.getLsbD_cast, BitVec.getLsbD_append, BitVec.getLsbD_extractLsb']
  by_cases h0 : i < 32
  · simp [h0]
  · by_cases h1 : i - 32 < 32
    · simp [h0, h1, show 32 + (i - 32) = i by omega]
    · simp [h0, h1, show 64 + (i - 32 - 32) = i by omega, show i - 32 - 32 < 32 by omega]

theorem Group.rt_wt (g : Group) (n : Nat) (x : BitVec 96) : (g.wt n x).rt n = x := by
  have h (r : Nat) : (g.wt n x).rs r = if r = n + 2 then x.extractLsb' 64 32 else if r = n + 1 then x.extractLsb' 32 32
      else if r = n then x.extractLsb' 0 32 else g.rs r := by simp only [Group.wt, rs_ws]
  have h0 : (g.wt n x).rs n = x.extractLsb' 0 32 := by rw [h, if_neg (by omega), if_neg (by omega), if_pos rfl]
  have h1 : (g.wt n x).rs (n + 1) = x.extractLsb' 32 32 := by rw [h, if_neg (by omega), if_pos rfl]
  have h2 : (g.wt n x).rs (n + 2) = x.extractLsb' 64 32 := by rw [h, if_pos rfl]
  rw [Group.rt, h0, h1, h2, mask_of_words]

theorem Group.restore_eq {r : Rec} (hr : g.rcd = some r) : g.restore = Group.wt
    { g with
      pc := r.pc, s := r.sval, v := r.vval, vflags := [], a := r.acnt, dead := r.dead, tpc := r.tpc, tcause := r.tcause,
      waitcyc := r.waitcyc, place := .resident, hold := .ready, rcd := none,
      cont := { g.cont with pc := r.pc, em := r.em, a := r.acnt, live := r.live } } 125 r.em := by
  simp only [Group.restore, hr]

theorem exec_recordResume_of_nil (hg : s.group? k = some g) (h : s.resumePlaces k g = []) : exec (.recordResume k) s = .next s := by
  simp only [exec, execRecordResume, hg, h, State.choose]

theorem exec_recordResume_of_choose {c d : Nat} (hg : s.group? k = some g) (h : s.choose (s.resumePlaces k g) = some ((c, d), t)) :
    exec (.recordResume k) s = .next ((t.setTeam (teamOf k) { t.team k with core := c }).setGroup k
      { g.restore with core := c, dp := d, lastIssue := t.cycle }) := by
  simp only [exec, execRecordResume, hg, h]
  rfl

/-- What a group holds when its record has been restored (R26, R308): its live-ins are the record's, and every other register reads 0. -/
def Group.RestoredFrom (g h : Group) (r : Rec) : Prop :=
  h.place = .resident ∧ h.hold = .ready ∧ h.rcd = none ∧
  h.pc = r.pc ∧ h.em = r.em ∧ h.dead = r.dead ∧ h.a = r.acnt ∧ h.waitcyc = r.waitcyc ∧ h.tpc = r.tpc ∧
  h.tcause = r.tcause ∧ h.cont.pc = r.pc ∧ h.cont.em = r.em ∧ h.cont.live = r.live ∧ h.fenceRel = g.fenceRel ∧
  (∀ n, n < 125 → h.rs n = r.sval.getD n 0) ∧ (∀ n L, L < 96 → h.rv n L = r.vval.getD (n * 96 + L) 0) ∧ (∀ L, h.rf L = 0)

theorem Group.restoredFrom_restore {r : Rec} (hr : g.rcd = some r) (c d now : Nat) :
    g.RestoredFrom { g.restore with core := c, dp := d, lastIssue := now } r := by
  rw [Group.restore_eq hr]
  exact ⟨rfl, rfl, rfl, rfl, Group.rt_wt _ 125 r.em, rfl, rfl, rfl, rfl, rfl, rfl, rfl, rfl, rfl, fun n hn => Group.rs_wt r.em hn,
    fun n L _ => rfl, fun L => rfl⟩

/-- A record that has a place to resume in resumes in one of its places. -/
theorem State.recordResume_answers {r : Rec} (hg : s.group? k = some g) (hr : g.rcd = some r) (hplaces : s.resumePlaces k g ≠ []) :
    Answers (exec (.recordResume k) s) (fun t => s.SameMemory t ∧
      ∃ h, t.group? k = some h ∧ (h.core, h.dp) ∈ s.resumePlaces k g ∧ g.RestoredFrom h r) := by
  obtain ⟨⟨c, d⟩, hmem, n, e⟩ := s.choose_mem hplaces
  exact ⟨_, exec_recordResume_of_choose hg e, .of_eq, _, (find_setGroup ..).trans (if_pos rfl), hmem,
    Group.restoredFrom_restore hr c d _⟩

/-- Where the record of a group that does not float can resume (R312, R328). -/
theorem State.mem_resumePlaces_of_anchored {c d : Nat} (hres : s.resumable k g = true) (hstores : s.storesLeft (fun j => j = k) = false)
    (hahead : s.ahead k (s.team k).core g = false) (hfloats : s.floats k = false) (h : (c, d) ∈ s.resumePlaces k g) :
    c = (s.team k).core ∧ ∃ l ∈ s.dpLoads (s.team k).core (teamOf k), l.dp = d ∧ l.admits g.vregs = true := by
  rw [State.resumePlaces_of_anchored hres hstores hahead hfloats, Option.mem_toList] at h
  obtain ⟨l, hl, e⟩ := Option.map_eq_some_iff.1 h
  cases e
  obtain ⟨hmem, hadmits⟩ := pickDp_mem hl
  exact ⟨rfl, l, hmem, rfl, hadmits⟩

/-! ### The obligation -/

/-- Settles O42: each event goes by the case of `State.boundary` that takes it, and its record is that of `State.discardTo_savedAs`; a
record resumes in one of its places (`State.recordResume_answers`), and has one where its own core has room
(`State.resumePlaces_ne_nil`). -/
theorem pendingEventsAreTakenAtBoundaries : Obligations.PendingEventsAreTakenAtBoundaries := by
  unfold Obligations.PendingEventsAreTakenAtBoundaries
  refine ⟨fun s k g hg => ⟨fun hscalar hplace hpair hsys => ?_, fun hb => ?_, fun c w q hterm => ?_⟩, fun s k g r hg hr => ?_⟩
  · have hb := Group.atBoundary_iff.2 ⟨hplace, hpair, hsys⟩
    refine ⟨fun hhold => ⟨fun f hf => ?_, fun c hasync hc hc7 hterm hhalt hfw => ?_⟩, fun hfault => ?_, fun hhold hterm hstop => ?_⟩
    · have e := exec_asyncFault_of_boundary hg hf (State.boundary_of_asyncFault hb hhold hscalar hf)
      exact ⟨e, fun ⟨hterm, hsave⟩ => ⟨_, e, State.systemFault_savedAs hterm hsave f⟩⟩
    · have e := exec_groupDiscard_of_boundary hg hc (State.boundary_of_stopCause hb hhold hscalar hasync hc hc7 hterm hhalt hfw)
      exact ⟨e, fun ⟨hterm, hsave⟩ => ⟨_, e, State.discard_savedAs hterm hsave c .none .queued⟩⟩
    · have hfault := hfault.imp_right fun hasync => And.intro hscalar hasync
      refine ⟨fun hstop => ?_, fun c hc hc7 hterm => ?_⟩
      · have e := exec_groupDiscard_of_boundary hg hstop (State.boundary_of_drain hb hfault hstop)
        exact ⟨e, fun ⟨hterm, hsave⟩ => ⟨_, e, State.discard_savedAs hterm hsave 7 .none .queued⟩⟩
      · exact exec_groupDiscard_of_boundary hg hc (State.boundary_of_termination hb hfault (by simpa [hc] using hc7) hterm)
    · have hnone := State.boundary_of_halted hb hhold hterm hstop
      exact ⟨exec_asyncFault_of_none hg hnone, exec_groupDiscard_of_none hg hnone⟩
  · have hnone := State.boundary_of_not_atBoundary (s := s) (k := k) (Group.atBoundary_eq_false hb)
    exact ⟨exec_asyncFault_of_none hg hnone, exec_groupDiscard_of_none hg hnone⟩
  · exact ⟨fun hsave => ⟨State.discard_savedAs hterm hsave c w q, fun h r => State.discard_wait hterm hsave⟩,
      fun hsave => State.discard_of_unsavable hterm hsave c w q⟩
  · refine ⟨exec_recordResume_of_nil hg, fun hplace hgang hterm hhome hdrained hloads hahead hroom => ?_⟩
    have hres : s.resumable k g = true := by simp [State.resumable, hplace, hgang, hterm, hdrained]
    have hstores : s.storesLeft (fun j => j = k) = false := by
      simp only [State.storesLeft, List.any_eq_false]
      intro o ho
      simpa using hloads o ho
    have hroom : ∃ l ∈ s.dpLoads (s.team k).core (teamOf k), l.admits g.vregs = true := by
      obtain ⟨l, hl, hfits⟩ := hroom
      exact ⟨l, hl, decide_eq_true hfits⟩
    obtain ⟨t, e, hmem, h, hh, hin, hplace, hready, hrcd, hrest⟩ :=
      State.recordResume_answers hg hr (State.resumePlaces_ne_nil hres hstores hahead hhome hdrained hroom)
    exact ⟨t, e, hmem, h, hh, hplace, hready, hrcd, hin,
      fun hfloats => State.mem_resumePlaces_of_anchored hres hstores hahead hfloats hin, hrest⟩

end
end Sys2Proof.Machine

namespace Sys2Proof.Machine
section
/-!
# The drain of a cluster

`State.beginDrain` is what every drain does to the module, `State.TakesOut` what a second one within a second adds (R356, R394).
-/

variable {s t u : State} {k core : Nat}

/-! ### Sparse maps and cores -/

theorem SMap.find_map {α : Type} {f : Nat × α → Nat × α} (hf : ∀ e, (f e).1 = e.1) (m : SMap α) (k : Nat) :
    SMap.find? (m.map f) k = (SMap.find? m k).map (fun v => (f (k, v)).2) := by
  induction m with
  | nil => rfl
  | cons e m ih =>
    obtain ⟨i, v⟩ := e
    rw [List.map_cons, SMap.find?, hf]
    by_cases h : i = k
    · subst h; simp [SMap.find?]
    · simp [SMap.find?, h, ih]

theorem mem_clusterCores {c : Nat} : c ∈ clusterCores k ↔ c < 448 ∧ clusterOf c = k := by simp [clusterCores]

theorem nodup_clusterCores (k : Nat) : (clusterCores k).Nodup := List.nodup_range.filter _

/-- The same change of each of some cores changes nothing but those cores. -/
theorem State.foldl_setCore_eq (f : CoreSt → CoreSt) (cs : List Nat) (s : State) :
    ∃ m, cs.foldl (fun s c => s.setCore c (f (s.core c))) s = { s with cores := m } := by
  induction cs generalizing s with
  | nil => exact ⟨_, rfl⟩
  | cons c cs ih =>
    obtain ⟨m, e⟩ := ih (s.setCore c (f (s.core c)))
    exact ⟨m, by rw [List.foldl_cons, e]; rfl⟩

theorem State.core_foldl_setCore (f : CoreSt → CoreSt) {cs : List Nat} (hcs : cs.Nodup) (s : State) (c : Nat) :
    (cs.foldl (fun s c => s.setCore c (f (s.core c))) s).core c = if c ∈ cs then f (s.core c) else s.core c := by
  induction cs generalizing s with
  | nil => simp
  | cons d cs ih =>
    obtain ⟨hd, hcs⟩ := List.nodup_cons.1 hcs
    rw [List.foldl_cons, ih hcs, core_setCore]
    by_cases hc : c = d
    · subst hc; simp [hd]
    · simp [hc]

theorem State.core_pushFault (s : State) (core : Nat) (r : List Byte) (c : Nat) :
    ∃ w, (s.pushFault core r).core c = { s.core c with faultWait := w } := by
  unfold State.pushFault
  split
  · exact ⟨_, rfl⟩
  · show ∃ w, (s.setCore core _).core c = _
    rw [core_setCore]
    split
    · next e => subst e; exact ⟨_, rfl⟩
    · exact ⟨_, rfl⟩

/-! ### Every drain (R356) -/

/-- A resident group of a drained cluster is to be discarded with CAUSE 7. -/
def drainGroup (cores : List Nat) (e : Nat × Group) : Nat × Group :=
  if e.2.place = .resident ∧ cores.contains e.2.core then (e.1, { e.2 with stopCause := some 7 }) else e

/-- A cluster whose core is found in an illegal state stops issuing, its resident groups are to be discarded, and it is recorded. -/
def State.beginDrain (s : State) (core : Nat) : State :=
  let cores := clusterCores (clusterOf core)
  let s := cores.foldl (fun s c => s.setCore c { s.core c with drained := true, dpRole := [], machFlip := [] }) s
  let s : State := { s with groups := s.groups.map (drainGroup cores) }
  let s := s.errorRec core 0 0 0 0 0 0 10 127 false
  let s := s.pushFault core (faultBytes s 0 { core := core } { cause := 0x0C })
  { s with lastDrain := s.lastDrain.insert (clusterOf core) s.cycle }

theorem State.beginDrain_eq (s : State) (core : Nat) : ∃ cores log dropped ctxs queue id, s.beginDrain core = { s with
    groups := s.groups.map (drainGroup (clusterCores (clusterOf core))), lastDrain := s.lastDrain.insert (clusterOf core) s.cycle,
    cores := cores, errorLog := log, errorOver := dropped, ctxs := ctxs, faultQueue := queue, nextId := id } := by
  obtain ⟨m, e⟩ := State.foldl_setCore_eq (fun x => { x with drained := true, dpRole := [], machFlip := [] })
    (clusterCores (clusterOf core)) s
  unfold State.beginDrain
  dsimp only
  rw [e, State.pushFault_eta, State.errorRec_eta]
  exact ⟨_, _, _, _, _, _, rfl⟩

theorem State.sameMemory_beginDrain (s : State) (core : Nat) : s.SameMemory (s.beginDrain core) := by
  obtain ⟨_, _, _, _, _, _, e⟩ := s.beginDrain_eq core
  rw [e]
  exact .of_eq

theorem State.lastDrain_beginDrain (s : State) (core : Nat) : (s.beginDrain core).lastDrain.find? (clusterOf core) = some s.cycle := by
  obtain ⟨_, _, _, _, _, _, e⟩ := s.beginDrain_eq core
  rw [e]
  exact SMap.find_insert_self ..

theorem State.reports_beginDrain (s : State) (core : Nat) : (s.beginDrain core).reports = s.reports := by
  obtain ⟨_, _, _, _, _, _, e⟩ := s.beginDrain_eq core
  rw [e]

theorem State.mrs_beginDrain (s : State) (core : Nat) : (s.beginDrain core).mrs = s.mrs := by
  obtain ⟨_, _, _, _, _, _, e⟩ := s.beginDrain_eq core
  rw [e]

theorem State.core_beginDrain (s : State) (core c : Nat) : ∃ w, (s.beginDrain core).core c = { (if c ∈ clusterCores (clusterOf core)
    then { s.core c with drained := true, dpRole := [], machFlip := [] } else s.core c) with faultWait := w } := by
  rw [← State.core_foldl_setCore (fun x => { x with drained := true, dpRole := [], machFlip := [] }) (nodup_clusterCores _)]
  unfold State.beginDrain
  dsimp only
  rw [State.errorRec_eta]
  exact State.core_pushFault _ core _ c

theorem State.drained_beginDrain (s : State) (core c : Nat) :
    ((s.beginDrain core).core c).drained = if c ∈ clusterCores (clusterOf core) then true else (s.core c).drained := by
  obtain ⟨w, e⟩ := s.core_beginDrain core c
  rw [e]
  split <;> rfl

theorem State.oos_beginDrain (s : State) (core c : Nat) : ((s.beginDrain core).core c).oos = (s.core c).oos := by
  obtain ⟨w, e⟩ := s.core_beginDrain core c
  rw [e]
  split <;> rfl

theorem State.group?_beginDrain {j : Nat} {g : Group} (core : Nat) (hg : s.group? j = some g) : (s.beginDrain core).group? j = some
    (if g.place = .resident ∧ g.core < 448 ∧ clusterOf g.core = clusterOf core then { g with stopCause := some 7 } else g) := by
  obtain ⟨_, _, _, _, _, _, e⟩ := s.beginDrain_eq core
  have hkey : ∀ x, (drainGroup (clusterCores (clusterOf core)) x).1 = x.1 := by
    intro x; unfold drainGroup; split <;> rfl
  have hfind : SMap.find? s.groups j = some g := hg
  rw [e, State.group?, SMap.find_map hkey, hfind, Option.map_some, drainGroup]
  simp only [List.contains_eq_mem, decide_eq_true_eq, mem_clusterCores]
  split <;> rfl

/-! ### A second drain within a second (R32, R394) -/

/-- From `s` to `t` datapaths have gone out of service and gangs have begun to be swapped out; nothing else has changed. -/
def State.TakesOut (s t : State) : Prop :=
  t = { s with groups := t.groups, gangs := t.gangs, cores := t.cores } ∧
  ∀ c, (t.core c).drained = (s.core c).drained ∧ (s.core c).oos ⊆ (t.core c).oos

theorem State.TakesOut.refl (s : State) : s.TakesOut s := ⟨rfl, fun _ => ⟨rfl, fun _ => id⟩⟩

theorem State.TakesOut.trans (h1 : s.TakesOut t) (h2 : t.TakesOut u) : s.TakesOut u := by
  obtain ⟨e1, h1⟩ := h1
  obtain ⟨e2, h2⟩ := h2
  refine ⟨?_, fun c => ⟨(h2 c).1.trans (h1 c).1, fun _ hd => (h2 c).2 ((h1 c).2 hd)⟩⟩
  exact e2.trans (congrArg (fun y : State => { y with groups := u.groups, gangs := u.gangs, cores := u.cores }) e1)

theorem State.TakesOut.foldl {α : Type} {f : State → α → State} (hf : ∀ (s : State) x, s.TakesOut (f s x))
    (xs : List α) (s : State) : s.TakesOut (xs.foldl f s) := by
  induction xs generalizing s with
  | nil => exact .refl s
  | cons x xs ih => exact (hf s x).trans (ih (f s x))

/-- A change of groups and gangs alone. -/
theorem State.TakesOut.of_eq {groups : SMap Group} {gangs : SMap Gang} (e : t = { s with groups := groups, gangs := gangs }) :
    s.TakesOut t := by
  subst e; exact ⟨rfl, fun _ => ⟨rfl, fun _ => id⟩⟩

theorem State.takesOut_beginSwap (s : State) (x cause : Nat) : s.TakesOut (s.beginSwap x cause) := by
  unfold State.beginSwap
  dsimp only
  split
  · exact .of_eq rfl
  · split
    · exact .refl s
    · exact .of_eq rfl

theorem State.takesOut_clearCore (s : State) (core : Nat) (dps : List Nat) : s.TakesOut (s.clearCore core dps) :=
  .foldl (fun s x => s.takesOut_beginSwap x 1) _ s

theorem State.core_dpsOut (s : State) (core c : Nat) (dps : List Nat) : (s.dpsOut core dps).core c = if c = core
    then { s.core c with oos := (s.core c).oos ++ dps.filter (fun d => !(s.core c).oos.contains d) } else s.core c := by
  unfold State.dpsOut
  rw [core_setCore]
  split
  · next e => subst e; rfl
  · rfl

theorem State.takesOut_dpsOut (s : State) (core : Nat) (dps : List Nat) : s.TakesOut (s.dpsOut core dps) := by
  refine ⟨rfl, fun c => ?_⟩
  rw [State.core_dpsOut]
  split
  · exact ⟨rfl, List.subset_append_left _ _⟩
  · exact ⟨rfl, fun _ => id⟩

theorem State.mem_oos_dpsOut (s : State) (core : Nat) {dps : List Nat} {d : Nat} (hd : d ∈ dps) :
    d ∈ ((s.dpsOut core dps).core core).oos := by
  rw [State.core_dpsOut, if_pos rfl]
  by_cases h : d ∈ (s.core core).oos
  · exact List.mem_append_left _ h
  · exact List.mem_append_right _ (List.mem_filter.2 ⟨hd, by simpa using h⟩)

/-- The datapaths of each of some cores, and the gangs on them, go. -/
theorem State.takesOut_cores (dps cs : List Nat) (s : State) :
    s.TakesOut (cs.foldl (fun s c => (s.dpsOut c dps).clearCore c dps) s) :=
  .foldl (fun s c => (s.takesOut_dpsOut c dps).trans (State.takesOut_clearCore _ c dps)) cs s

theorem State.mem_oos_cores {dps : List Nat} {c d : Nat} (hd : d ∈ dps) {cs : List Nat} (hc : c ∈ cs) (s : State) :
    d ∈ ((cs.foldl (fun s c => (s.dpsOut c dps).clearCore c dps) s).core c).oos := by
  induction cs generalizing s with
  | nil => cases hc
  | cons a cs ih =>
    rw [List.foldl_cons]
    by_cases h : c ∈ cs
    · exact ih h _
    · obtain rfl := (List.mem_cons.1 hc).resolve_right h
      obtain ⟨-, hclear⟩ := State.takesOut_clearCore (s.dpsOut c dps) c dps
      obtain ⟨-, hrest⟩ := State.takesOut_cores dps cs ((s.dpsOut c dps).clearCore c dps)
      exact (hrest c).2 ((hclear c).2 (s.mem_oos_dpsOut c hd))

/-- A drain that takes its cluster out of service. -/
def State.loseCluster (s : State) (k : Nat) : State :=
  (((clusterCores k).foldl (fun s c => (s.dpsOut c [0, 1, 2, 3]).clearCore c [0, 1, 2, 3]) s).extendOpen 7).lose .cluster k

theorem State.sameMemory_loseCluster (s : State) (k : Nat) : s.SameMemory (s.loseCluster k) := by
  obtain ⟨e, -⟩ := State.takesOut_cores [0, 1, 2, 3] (clusterCores k) s
  unfold State.loseCluster
  rw [e]
  exact .of_eq

theorem State.lastDrain_loseCluster (s : State) (k : Nat) : (s.loseCluster k).lastDrain = s.lastDrain := by
  obtain ⟨e, -⟩ := State.takesOut_cores [0, 1, 2, 3] (clusterCores k) s
  unfold State.loseCluster
  rw [e]
  rfl

theorem State.reports_loseCluster (s : State) (k : Nat) : (s.loseCluster k).reports = s.reports ++ [(3, k)] := by
  obtain ⟨e, -⟩ := State.takesOut_cores [0, 1, 2, 3] (clusterCores k) s
  unfold State.loseCluster
  rw [e]
  rfl

theorem State.mr_loseCluster (s : State) (k : Nat) : ∃ item, (s.loseCluster k).mr 7 = shaBytes (s.mr 7 ++ shaBytes item) := by
  obtain ⟨e, -⟩ := State.takesOut_cores [0, 1, 2, 3] (clusterCores k) s
  unfold State.loseCluster
  rw [e]
  exact ⟨Config.deviceBytes s.fresh, by
    simp only [State.lose, State.extendOpen, State.extend, State.mr, SMap.getD, SMap.find_insert_self, Option.getD_some]⟩

theorem State.core_loseCluster (s : State) (k c : Nat) : ((s.loseCluster k).core c).drained = (s.core c).drained ∧
    (c ∈ clusterCores k → ∀ d, d < 4 → d ∈ ((s.loseCluster k).core c).oos) := by
  obtain ⟨-, h⟩ := State.takesOut_cores [0, 1, 2, 3] (clusterCores k) s
  have hoos (hc : c ∈ clusterCores k) (d : Nat) (hd : d < 4) :=
    State.mem_oos_cores (dps := [0, 1, 2, 3]) (d := d) (by simp only [List.mem_cons, List.not_mem_nil, or_false]; omega) hc s
  unfold State.loseCluster
  generalize (clusterCores k).foldl (fun s c => (s.dpsOut c [0, 1, 2, 3]).clearCore c [0, 1, 2, 3]) s = u at h hoos ⊢
  exact ⟨(h c).1, hoos⟩

/-! ### The two events -/

/-- A second drain is one whose cluster's last was no more than a second ago. -/
def State.drainedLately (s : State) (k : Nat) : Bool :=
  match s.lastDrain.find? k with
  | some since => decide (s.cycle - since ≤ 1000000 * s.freq)
  | none => false

theorem exec_illegalStateCheck (hcore : core < 448) : exec (.illegalStateCheck core) s = .next
    (if s.drainedLately (clusterOf core) then (s.beginDrain core).loseCluster (clusterOf core) else s.beginDrain core) :=
  if_neg (Nat.not_le.2 hcore)

theorem exec_clusterDrainResume_of_over (hover : s.drainOver k = true) : exec (.clusterDrainResume k true) s =
    .next ((clusterCores k).foldl (fun s c => s.setCore c { s.core c with drained := false }) s) := by
  simp [exec, execClusterDrainResume, hover]

theorem exec_clusterDrainResume_of_not_over {ok : Bool} (hover : s.drainOver k = false) :
    exec (.clusterDrainResume k ok) s = .next s := by
  simp [exec, execClusterDrainResume, hover]

/-! ### The obligation -/

/-- Settles O48: a drain is `State.beginDrain`, followed by `State.loseCluster` where the last one was within a second. -/
theorem illegalStatesDrainTheCluster : Obligations.IllegalStatesDrainTheCluster := by
  unfold Obligations.IllegalStatesDrainTheCluster
  refine fun s core hcore => ⟨fun hlast => ?_, fun since hlast hsecond => ?_, fun hover => ?_,
    fun ok hover => exec_clusterDrainResume_of_not_over hover⟩
  · have hfirst : s.drainedLately (clusterOf core) = false := by
      unfold State.drainedLately
      split
      · next since e => exact decide_eq_false (Nat.not_le.2 (hlast since e))
      · rfl
    refine ⟨_, (exec_illegalStateCheck hcore).trans (by rw [hfirst]; rfl), s.sameMemory_beginDrain core, fun c hc hk => ?_,
      fun c _ hk => ?_, s.lastDrain_beginDrain core, s.reports_beginDrain core, s.mrs_beginDrain core, s.oos_beginDrain core,
      fun j g hg => State.group?_beginDrain core hg⟩
    · rw [State.drained_beginDrain, if_pos (mem_clusterCores.2 ⟨hc, hk⟩)]
    · rw [State.drained_beginDrain, if_neg fun h => hk (mem_clusterCores.1 h).2]
  · have hagain : s.drainedLately (clusterOf core) = true := by simp [State.drainedLately, hlast, hsecond]
    refine ⟨_, (exec_illegalStateCheck hcore).trans (by rw [hagain]; rfl),
      (s.sameMemory_beginDrain core).trans (State.sameMemory_loseCluster _ _), ?_, ?_, ?_, fun c hc hk => ?_, fun c d hc hd hk => ?_⟩
    · rw [State.reports_loseCluster, State.reports_beginDrain]
    · obtain ⟨item, e⟩ := (s.beginDrain core).mr_loseCluster (clusterOf core)
      exact ⟨item, by rw [e, State.mr, State.mrs_beginDrain, State.mr]⟩
    · rw [State.lastDrain_loseCluster, State.lastDrain_beginDrain]
    · rw [(State.core_loseCluster _ _ c).1, State.drained_beginDrain, if_pos (mem_clusterCores.2 ⟨hc, hk⟩)]
    · exact (State.core_loseCluster _ _ c).2 (mem_clusterCores.2 ⟨hc, hk⟩) d hd
  · have hcores (c : Nat) := State.core_foldl_setCore (fun x => { x with drained := false })
      (nodup_clusterCores (clusterOf core)) s c
    obtain ⟨m, e⟩ := State.foldl_setCore_eq (fun x => { x with drained := false }) (clusterCores (clusterOf core)) s
    refine ⟨_, exec_clusterDrainResume_of_over hover, ?_, ?_, fun c hc hk => ?_, fun c hk => ?_⟩
    · rw [e]; exact .of_eq
    · rw [e]
    · rw [hcores, if_pos (mem_clusterCores.2 ⟨hc, hk⟩)]
    · rw [hcores, if_neg fun h => hk (mem_clusterCores.1 h).2]

end
end Sys2Proof.Machine

namespace Sys2Proof.Machine
section
/-!
# A gang that waits while groups of its number stand on cores

`Obligations.SchedulerPlacesGangs` speaks of every state, also of one in which a gang that waits for its first placement has groups. The
first member's new groups then take the places of those, which may free a datapath of the second member's core; and where a group goes by
R328 to the datapath with the fewest groups, a datapath with more room can leave a later group without one.
-/

/-- A team of two groups, with 16 and 256 vector registers; a gang of two members side by side. -/
def twoRoles : Kernel := { w := 2, roles := [0, 1], slots := [{ vregs := 16 }, { vregs := 256 }] }

/-- Gang 0 waits, and a group of its member 0 stands on core 1, whose datapaths 0 and 1 hold two groups each. -/
def earlyGroup : State :=
  { State.reset with
    gangs := [(0, {})], grids := [(0, { kernel := some twoRoles })], cores := [(1, { oos := [2, 3] })],
    groups := [(0, { core := 1, dp := 1, vregs := 8 }), (256, { core := 1, dp := 0, vregs := 256 }),
      (257, { core := 1, dp := 0, vregs := 8 }), (258, { core := 1, dp := 1, vregs := 248 })] }

set_option maxRecDepth 20000 in
/-- Cores 0 and 1 have room for the gang. -/
theorem findRect_earlyGroup : earlyGroup.findRect 0 [] = some (0, 0) := by decide

set_option maxRecDepth 20000 in
/-- Once member 0's first group has replaced the one on core 1, the groups of member 1 find no datapaths there, and do not begin. -/
theorem group?_schedulerStep_earlyGroup {t : State} (e : exec .schedulerStep earlyGroup = .next t) : t.group? 16 = none := by
  have hnone : (match exec .schedulerStep earlyGroup with
      | .next t => t.group? 16
      | _ => none) = none := by decide
  rw [e] at hnone
  exact hnone

/-- Refutes O44: in `earlyGroup` the gang fits on cores 0 and 1 and is placed there, but member 1 has no groups after the step. -/
theorem not_schedulerPlacesGangs : ¬ Obligations.SchedulerPlacesGangs := by
  unfold Obligations.SchedulerPlacesGangs
  intro h
  obtain ⟨-, -, -, hplaces, -⟩ := h earlyGroup 0
  obtain ⟨hfits, -⟩ := hplaces {} (0, 0) (by decide) (by decide) (by decide) (by decide) (by decide)
  obtain ⟨t, e, -, -, -, hmembers⟩ := hfits findRect_earlyGroup
  obtain ⟨-, -, hgroups⟩ := hmembers 1 (by decide)
  obtain ⟨g, hg, -⟩ := hgroups 0 (by decide) (by decide)
  exact absurd ((group?_schedulerStep_earlyGroup e).symm.trans hg) (by simp)

end
end Sys2Proof.Machine

namespace Sys2Proof.Machine
section
/-!
# Packed halves and the halves of a P word

A packed operation is `perHalf`, which glues two 16-bit results together; a P word is two passes of the lane loop that read one group.
-/

/-! ### Packed halves (R71) -/

theorem half_false (x : Word) : half x false = x.setWidth 16 := by simp [half, BitVec.setWidth_eq_extractLsb' (show 16 ≤ 32 by decide)]

theorem half_true (x : Word) : half x true = (x >>> 16).setWidth 16 := by
  ext i
  simp [half]

theorem pack16_eq (lo hi : Half) : pack16 lo hi = lo.setWidth 32 ||| (hi.setWidth 32 <<< 16) := by
  refine BitVec.eq_of_getLsbD_eq fun i h => ?_
  rw [pack16, BitVec.getLsbD_append]
  by_cases low : i < 16
  · simp [low, h]
  · simp [low, h, show 16 ≤ i by omega]

theorem perHalf_eq (op : Half → Half → Half) (a b : Word) : perHalf op a b =
    (op (a.setWidth 16) (b.setWidth 16)).setWidth 32 |||
      ((op ((a >>> 16).setWidth 16) ((b >>> 16).setWidth 16)).setWidth 32 <<< 16) := by
  rw [perHalf, pack16_eq, half_false, half_false, half_true, half_true]

theorem minMaxForm_unsigned {n : Nat} (isMax : Bool) (x y : BitVec n) :
    minMaxForm true isMax x y = if (decide (x.toNat ≤ y.toNat)) != isMax then x else y := by
  simp [minMaxForm, toIntU]

/-- What a packed operation of R121 and R124 does to a half. -/
theorem laneEval_packed {a b c d : Word} {k : Nat} {op : LaneOp} {f : Half → Half → Half}
    (h : (op = .add ⟨false, false, true⟩ ∧ f = fun (x y : Half) => x + y) ∨
      (op = .sub ⟨false, false, true⟩ ∧ f = fun (x y : Half) => x - y) ∨
      (op = .mul true ∧ f = fun (x y : Half) => x * y) ∨ (op = .shl true ∧ f = fun (x y : Half) => x <<< (y.toNat % 16)) ∨
      (op = .shr true true ∧ f = fun (x y : Half) => x >>> (y.toNat % 16)) ∨
      (op = .min true true ∧ f = fun (x y : Half) => if x.toNat ≤ y.toNat then x else y) ∨
      (op = .max true true ∧ f = fun (x y : Half) => if x.toNat ≤ y.toNat then y else x)) :
    laneEval op a b c d k = plainOut (perHalf f a b) := by
  rcases h with ⟨rfl, rfl⟩ | ⟨rfl, rfl⟩ | ⟨rfl, rfl⟩ | ⟨rfl, rfl⟩ | ⟨rfl, rfl⟩ | ⟨rfl, rfl⟩ | ⟨rfl, rfl⟩
  · rfl
  · rfl
  · rfl
  · rfl
  · rfl
  · have hmin : minMaxForm true false = fun (x y : Half) => if x.toNat ≤ y.toNat then x else y := by
      funext x y; simp [minMaxForm_unsigned]
    simp only [laneEval, if_true, hmin]
  · have hmax : minMaxForm true true = fun (x y : Half) => if x.toNat ≤ y.toNat then y else x := by
      funext x y; simp only [minMaxForm_unsigned]; split <;> simp_all
    simp only [laneEval, if_true, hmax]

/-! ### The two passes of a P word (R44, R46) -/

theorem State.laneLoop_eq (s : State) (k : Nat) (g : Group) (op : LaneOp) (f : VOps) (acc : Group) :
    s.laneLoop k g [] op f acc = g.lanes.foldl (fun acc L => acc.laneWrite (regNo f.d) L (s.laneResult k g op f L)) acc := by
  simp [State.laneLoop, Group.laneWrite]

/-- A lane write changes nothing that says which lanes take part. -/
theorem Group.LaneWrites.lanes_eq {g h : Group} {d : Nat} {out : Nat → LaneOut} (w : g.LaneWrites h d out) : h.lanes = g.lanes := by
  obtain ⟨-, -, -, -, e⟩ := w
  rw [e]
  rfl

theorem Group.LaneWrites.pc_eq {g h : Group} {d : Nat} {out : Nat → LaneOut} (w : g.LaneWrites h d out) : h.pc = g.pc := by
  obtain ⟨-, -, -, -, e⟩ := w
  rw [e]

theorem Group.laneWrites_laneLoop (s : State) (k : Nat) (g : Group) (op : LaneOp) (f : VOps) {acc : Group} (e : acc.lanes = g.lanes) :
    acc.LaneWrites (s.laneLoop k g [] op f acc) (regNo f.d) (s.laneResult k g op f) := by
  rw [State.laneLoop_eq, ← e]
  exact foldl_lanes ..

theorem exec_pWord {s : State} {g : Group} {h0 h1 : PHalf} (hready : s.Ready g (.pWord h0 h1))
    (hdebug : (s.ctx (s.ctxOf s.cur)).debugged = false) (hhalf : g.half1 = false)
    (hsound : g.SoundIn (laneReads (ShortOp.laneOp h0.op) (halfOps h0) ++ laneReads (ShortOp.laneOp h1.op) (halfOps h1))) :
    exec (.pWord h0 h1) s = .next (s.done s.cur
      (s.laneLoop s.cur g [] (ShortOp.laneOp h1.op) (halfOps h1) (s.laneLoop s.cur g [] (ShortOp.laneOp h0.op) (halfOps h0) g))
      (.pWord h0 h1) (s.nonEmptyBeats g)) := by
  change execPWord h0 h1 s = _
  rw [execPWord, run_ready hready]
  simp [hhalf, State.armed, hdebug, dying_nil hsound, State.die]

/-- Settles O17: a packed operation is `perHalf` of its operation on halves; a P word is two passes of the lane loop, of which the second
reads the group that the first has read. -/
theorem pairedAndPackedHalves : Obligations.PairedAndPackedHalves := by
  unfold Obligations.PairedAndPackedHalves
  refine ⟨fun a b c d lo hi r k op f hop hlo hhi hr => ?_, fun s g h0 h1 hready hdebug hhalf hsound => ?_⟩
  · rw [laneEval_packed hop, perHalf_eq, hr, hlo, hhi, plainOut]
  · have first := Group.laneWrites_laneLoop s s.cur g (ShortOp.laneOp h0.op) (halfOps h0) rfl
    have second := Group.laneWrites_laneLoop s s.cur g (ShortOp.laneOp h1.op) (halfOps h1) first.lanes_eq
    refine ⟨_, _, first, second, answers_of (exec_pWord hready hdebug hhalf hsound) ?_⟩
    exact done_onlyGroup s (l := none) _ rfl (second.pc_eq.trans first.pc_eq) rfl

end
end Sys2Proof.Machine

namespace Sys2Proof.Machine
section
/-!
# The codes of a floating format, and the one rounding

The magnitude codes of a format count its values up: `Fmt.magVal` is strictly increasing. `roundFP` finds the two neighbouring codes of
an exact magnitude (`Fmt.Brackets`) and picks one of them (`Fmt.pick`), as `roundFP_eq` says.
-/

/-! ### The values of the codes (R67) -/

/-- The value of a magnitude code in units of 2^qmin, the range of exponents unbounded. -/
def Fmt.magVal (f : Fmt) (n : Nat) : Nat :=
  if n / 2 ^ f.mbits = 0 then n else (2 ^ f.mbits + n % 2 ^ f.mbits) * 2 ^ (n / 2 ^ f.mbits - 1)

/-- The code of `b × 2^j`, b of at most one bit more than the fraction. -/
theorem Fmt.magVal_add_mul (f : Fmt) {b j : Nat} (hb : b ≤ 2 ^ (f.mbits + 1)) (hj : 2 ^ f.mbits ≤ b ∨ j = 0) :
    f.magVal (b + j * 2 ^ f.mbits) = b * 2 ^ j := by
  unfold Fmt.magVal
  have hpos : 0 < 2 ^ f.mbits := by positivity
  rw [pow_succ] at hb
  generalize 2 ^ f.mbits = p at *
  rcases Nat.lt_or_ge b p with hlow | hlow
  · obtain rfl := hj.resolve_left (Nat.not_le.2 hlow)
    simp [Nat.div_eq_of_lt hlow]
  · obtain ⟨c, rfl⟩ := Nat.exists_eq_add_of_le hlow
    have e : p + c + j * p = c + p * (j + 1) := by ring
    rw [e, Nat.add_mul_div_left _ _ hpos, Nat.add_mul_mod_self_left]
    rcases Nat.lt_or_ge c p with hc | hc
    · simp [Nat.div_eq_of_lt hc, Nat.mod_eq_of_lt hc]
    · obtain rfl : c = p := by omega
      rw [Nat.div_self hpos, if_neg (by omega), Nat.mod_self, show 1 + (j + 1) - 1 = j + 1 by omega]
      ring

/-- Every code is of that form. -/
theorem Fmt.exists_eq_add_mul (f : Fmt) (n : Nat) :
    ∃ b j, n = b + j * 2 ^ f.mbits ∧ b < 2 ^ (f.mbits + 1) ∧ (2 ^ f.mbits ≤ b ∨ j = 0) := by
  have hpos : 0 < 2 ^ f.mbits := by positivity
  have hmod := Nat.mod_lt n hpos
  have hdiv := Nat.div_add_mod n (2 ^ f.mbits)
  rw [pow_succ]
  generalize 2 ^ f.mbits = p at *
  rcases Nat.eq_zero_or_pos (n / p) with h | h
  · exact ⟨n, 0, by omega, by rw [h] at hdiv; omega, .inr rfl⟩
  · obtain ⟨j, hj⟩ := Nat.exists_eq_succ_of_ne_zero h.ne'
    refine ⟨p + n % p, j, ?_, by omega, .inl (by omega)⟩
    rw [hj, Nat.succ_eq_add_one, Nat.mul_add, Nat.mul_comm p j] at hdiv
    omega

theorem Fmt.magVal_strictMono (f : Fmt) : StrictMono f.magVal := by
  refine strictMono_nat_of_lt_succ fun n => ?_
  obtain ⟨b, j, rfl, hb, hj⟩ := f.exists_eq_add_mul n
  rw [show b + j * 2 ^ f.mbits + 1 = (b + 1) + j * 2 ^ f.mbits by ring, f.magVal_add_mul hb.le hj,
    f.magVal_add_mul hb (by omega)]
  exact Nat.mul_lt_mul_of_pos_right (Nat.lt_succ_self b) (by positivity)

theorem Fmt.magVal_zero (f : Fmt) : f.magVal 0 = 0 := by simp [Fmt.magVal]

theorem Fmt.magVal_of_lt (f : Fmt) {n : Nat} (h : n < 2 ^ f.mbits) : f.magVal n = n := by
  simp [Fmt.magVal, Nat.div_eq_of_lt h]

/-- Every number of few enough bits, shifted left, has a code. -/
theorem Fmt.exists_magVal_eq (f : Fmt) (j : Nat) {m : Nat} (hm : m ≤ 2 ^ (f.mbits + 1)) : ∃ n, f.magVal n = m * 2 ^ j := by
  induction j generalizing m with
  | zero => exact ⟨m + 0 * 2 ^ f.mbits, f.magVal_add_mul hm (.inr rfl)⟩
  | succ j ih =>
    rcases Nat.lt_or_ge m (2 ^ f.mbits) with h | h
    · obtain ⟨n, e⟩ := ih (m := 2 * m) (by rw [pow_succ]; omega)
      exact ⟨n, by rw [e]; ring⟩
    · exact ⟨_, f.magVal_add_mul hm (.inl h)⟩

/-! ### Quotients of equal fractions -/

section
variable {a b c d : Nat} (hb : 0 < b) (hd : 0 < d) (h : a * d = c * b)
include hb hd h

theorem div_eq_div_of_mul_eq : a / b = c / d := by
  rw [← Nat.mul_div_mul_right a b hd, h, Nat.mul_comm b d, Nat.mul_div_mul_right c d hb]

theorem mod_mul_eq_mod_mul : a % b * d = c % d * b := by
  have ha := Nat.div_add_mod a b
  have hc := Nat.div_add_mod c d
  rw [div_eq_div_of_mul_eq hb hd h] at ha
  have e : (b * (c / d) + a % b) * d = (d * (c / d) + c % d) * b := by rw [ha, hc, h]
  nlinarith

end

/-- Rounding goes by the ratio of the part lost to the unit. -/
theorem roundsUp_congr {rm : RM} {neg : Bool} {n r d s e : Nat} (hd : 0 < d) (he : 0 < e) (h : r * e = s * d) :
    roundsUp rm neg n r d = roundsUp rm neg n s e := by
  have e2 : e * (2 * r) = d * (2 * s) := by linear_combination 2 * h
  have hlt : d < 2 * r ↔ e < 2 * s := by
    rw [← Nat.mul_lt_mul_left he, e2, Nat.mul_comm e d, Nat.mul_lt_mul_left hd]
  have heq : 2 * r = d ↔ 2 * s = e := by
    rw [← Nat.mul_right_inj he.ne', e2, Nat.mul_comm e d, Nat.mul_right_inj hd.ne']
  have hne : r ≠ 0 ↔ s ≠ 0 := by
    constructor <;> rintro hr rfl <;> simp_all
  cases rm <;> simp only [roundsUp, hlt, heq, hne]

/-- The multiple of a unit that a quotient in such units rounds to, and whether anything is lost. -/
def roundNat (rm : RM) (neg : Bool) (a b : Nat) : Nat × Bool :=
  (if roundsUp rm neg (a / b) (a % b) b then a / b + 1 else a / b, decide (a % b ≠ 0))

theorem roundNat_congr {rm : RM} {neg : Bool} {a b c d : Nat} (hb : 0 < b) (hd : 0 < d) (h : a * d = c * b) :
    roundNat rm neg a b = roundNat rm neg c d := by
  have hmod := mod_mul_eq_mod_mul hb hd h
  have hne : a % b ≠ 0 ↔ c % d ≠ 0 := by
    constructor <;> intro hr hz <;> rw [hz] at hmod <;> simp at hmod <;> omega
  simp only [roundNat, div_eq_div_of_mul_eq hb hd h, roundsUp_congr hb hd hmod, hne]

theorem roundTo_eq_roundNat (rm : RM) (neg : Bool) (num den : Nat) (q : Int) :
    roundTo rm neg num den q = roundNat rm neg (num * 2 ^ (-q).toNat) (den * 2 ^ q.toNat) := by
  unfold roundTo roundNat
  rcases lt_or_ge q 0 with h | h
  · rw [show (-q).toNat = q.natAbs by omega, show q.toNat = 0 by omega]
    simp [h]
  · rw [show (-q).toNat = 0 by omega, show q.toNat = q.natAbs by omega]
    simp [Int.not_lt.2 h]

/-! ### The exponent of a quotient -/

theorem mul_two_pow_le_iff {x y a b c d : Nat} (h : a + d = c + b) : x * 2 ^ a ≤ y * 2 ^ b ↔ x * 2 ^ c ≤ y * 2 ^ d := by
  rw [← Nat.mul_le_mul_right_iff (show 0 < 2 ^ d by positivity), mul_assoc, ← pow_add, h, pow_add, ← mul_assoc, mul_right_comm y,
    Nat.mul_le_mul_right_iff (by positivity)]

theorem floorLog2_eq (num den : Nat) : floorLog2 num den = if den * 2 ^ num.log2 ≤ num * 2 ^ den.log2 then
    (num.log2 : Int) - den.log2 else (num.log2 : Int) - den.log2 - 1 := by
  unfold floorLog2
  generalize num.log2 = x
  generalize den.log2 = y
  have hscale := mul_two_pow_le_iff (x := den) (y := num) (a := ((x : Int) - y).toNat) (b := ((y : Int) - x).toNat) (c := x) (d := y)
    (by omega)
  simp only [← hscale]
  split
  · rw [show ((x : Int) - y).toNat = 0 by omega, show ((y : Int) - x).toNat = ((x : Int) - y).natAbs by omega]; simp
  · rw [show ((y : Int) - x).toNat = 0 by omega, show ((x : Int) - y).toNat = ((x : Int) - y).natAbs by omega]; simp

/-- 2^floorLog2 ≤ num/den < 2^(floorLog2 + 1), the exponent as a difference. -/
theorem floorLog2_spec {num den a b : Nat} (hnum : 0 < num) (hden : 0 < den) (h : (a : Int) - b = floorLog2 num den) :
    den * 2 ^ a ≤ num * 2 ^ b ∧ num * 2 ^ b < den * 2 ^ (a + 1) := by
  have hn := Nat.log2_self_le hnum.ne'
  have hn' := Nat.lt_log2_self (n := num)
  have hd := Nat.log2_self_le hden.ne'
  have hd' := Nat.lt_log2_self (n := den)
  rw [floorLog2_eq] at h
  rw [← Nat.not_le]
  split at h
  next hle =>
    rw [mul_two_pow_le_iff (a := a) (c := num.log2) (d := den.log2) (by omega),
      mul_two_pow_le_iff (a := a + 1) (c := num.log2 + 1) (d := den.log2) (by omega)]
    exact ⟨hle, Nat.not_le.2 (by nlinarith)⟩
  next hlt =>
    rw [mul_two_pow_le_iff (a := a) (c := num.log2) (d := den.log2 + 1) (by omega),
      mul_two_pow_le_iff (a := a + 1) (c := num.log2) (d := den.log2) (by omega)]
    exact ⟨by nlinarith, hlt⟩

/-! ### The directed modes -/

theorem roundsUp_of_ne_rne {rm : RM} {neg : Bool} {n r d : Nat} (h : rm ≠ .rne) :
    roundsUp rm neg n r d = (decide (r ≠ 0) && RM.away rm neg) := by
  cases rm <;> simp_all [roundsUp, RM.away]

/-! ### The two neighbours of a magnitude, and the one that a mode picks -/

/-- Code `n` and the next one are the neighbours of the magnitude p/q, in units of 2^qmin. -/
def Fmt.Brackets (f : Fmt) (p q n : Nat) : Prop := f.magVal n * q ≤ p ∧ p < f.magVal (n + 1) * q

/-- The neighbour that p/q rounds to. -/
def Fmt.pick (f : Fmt) (rm : RM) (neg : Bool) (p q n : Nat) : Nat :=
  if roundsUp rm neg n (p - f.magVal n * q) ((f.magVal (n + 1) - f.magVal n) * q) then n + 1 else n

/-- p/q is tiny (R69): rounded with unbounded exponent range it lies below the least normal value, 2^mbits units. -/
def Fmt.tiny (f : Fmt) (rm : RM) (neg : Bool) (p q : Nat) : Bool :=
  decide (p < 2 ^ f.mbits * q) && (decide (2 * p ≤ (2 ^ (f.mbits + 1) - 1) * q) ||
    if rm = .rne then decide (4 * p < (2 ^ (f.mbits + 2) - 1) * q) else !RM.away rm neg)

/-- What an overflow delivers (R70). -/
def Fmt.overflowed (f : Fmt) (rm : RM) (neg : Bool) : Nat × Flags :=
  (if RM.away rm neg then f.encInf neg else f.encZero neg + f.maxBits, flOF ||| flNX)

theorem roundsUp_add_mul {rm : RM} {neg : Bool} {b j m r d : Nat} (hm : m % 2 = 0) :
    roundsUp rm neg (b + j * m) r d = roundsUp rm neg b r d := by
  have e : (b + j * m) % 2 = b % 2 := by rw [Nat.add_mod, Nat.mul_mod, hm]; simp
  cases rm <;> simp only [roundsUp, e]

theorem two_pow_mod_two {n : Nat} (h : 1 ≤ n) : 2 ^ n % 2 = 0 := by
  obtain ⟨m, rfl⟩ := Nat.exists_eq_add_of_le h
  rw [pow_add]; omega

section
variable {f : Fmt} {rm : RM} {neg : Bool} {p q j : Nat} (hq : 0 < q)
include hq

/-- Rounding to a multiple of 2^j units, where j goes with the magnitude, goes between neighbouring codes. -/
theorem Fmt.brackets_of_roundNat (hm : 1 ≤ f.mbits) (hlt : p < 2 ^ (f.mbits + 1 + j) * q) (hge : 2 ^ (f.mbits + j) * q ≤ p ∨ j = 0) :
    f.Brackets p q (p / (q * 2 ^ j) + j * 2 ^ f.mbits) ∧
    (roundNat rm neg p (q * 2 ^ j)).1 + j * 2 ^ f.mbits = f.pick rm neg p q (p / (q * 2 ^ j) + j * 2 ^ f.mbits) ∧
    (roundNat rm neg p (q * 2 ^ j)).2 = decide (p ≠ f.magVal (p / (q * 2 ^ j) + j * 2 ^ f.mbits) * q) := by
  have hd : 0 < q * 2 ^ j := by positivity
  have hdiv := Nat.div_add_mod p (q * 2 ^ j)
  have hmod := Nat.mod_lt p hd
  have hb : p / (q * 2 ^ j) < 2 ^ (f.mbits + 1) := by
    rw [Nat.div_lt_iff_lt_mul hd]; rw [pow_add] at hlt; linarith
  have hb' : 2 ^ f.mbits ≤ p / (q * 2 ^ j) ∨ j = 0 := hge.imp_left fun h => by
    rw [Nat.le_div_iff_mul_le hd]; rw [pow_add] at h; linarith
  have hn := f.magVal_add_mul hb.le hb'
  have hn' := f.magVal_add_mul (b := p / (q * 2 ^ j) + 1) (j := j) hb (by omega)
  rw [show p / (q * 2 ^ j) + 1 + j * 2 ^ f.mbits = p / (q * 2 ^ j) + j * 2 ^ f.mbits + 1 by ring] at hn'
  have hlow : p / (q * 2 ^ j) * 2 ^ j * q = q * 2 ^ j * (p / (q * 2 ^ j)) := by ring
  have hrest : p - p / (q * 2 ^ j) * 2 ^ j * q = p % (q * 2 ^ j) := by omega
  have hunit : ((p / (q * 2 ^ j) + 1) * 2 ^ j - p / (q * 2 ^ j) * 2 ^ j) * q = q * 2 ^ j := by
    rw [← Nat.sub_mul]; simp [Nat.mul_comm]
  refine ⟨⟨?_, ?_⟩, ?_, ?_⟩
  · rw [hn]; omega
  · rw [hn', add_mul, add_mul, hlow, one_mul, Nat.mul_comm (2 ^ j)]; omega
  · rw [Fmt.pick, hn, hn', hrest, hunit, roundsUp_add_mul (two_pow_mod_two hm), roundNat]
    split <;> ring
  · rw [hn, roundNat, hlow]
    exact decide_eq_decide.2 (by omega)

omit hq in
/-- A quotient less than K + 1, K odd, rounds to K + 1 where it lies above K and the mode takes it up. -/
theorem roundNat_le_iff {a k : Nat} (hq : 0 < q) (hk : k % 2 = 1) (ha : a < (k + 1) * q) :
    (roundNat rm neg a q).1 ≤ k ↔ a ≤ k * q ∨ if rm = .rne then 2 * a < (2 * k + 1) * q else RM.away rm neg = false := by
  have hsplit := Nat.div_add_mod a q
  have hdiv : a / q < k + 1 := (Nat.div_lt_iff_lt_mul hq).2 ha
  rw [Nat.mul_comm q] at hsplit
  unfold roundNat
  dsimp only
  rcases (Nat.lt_succ_iff.1 hdiv).lt_or_eq with h | h
  · have hle : (a / q + 1) * q ≤ k * q := Nat.mul_le_mul_right _ h
    have hmod := Nat.mod_lt a hq
    rw [add_mul] at hle
    exact iff_of_true (by split <;> omega) (.inl (by omega))
  · rw [h] at hsplit ⊢
    have hmul : (2 * k + 1) * q = 2 * (k * q) + q := by ring
    have hup : a ≤ k * q ↔ a % q = 0 := by omega
    rw [hup, hmul]
    generalize a % q = r at *
    by_cases hrm : rm = .rne
    · subst hrm
      simp only [roundsUp, hk]; split <;> simp_all <;> omega
    · rw [roundsUp_of_ne_rne hrm, if_neg hrm]
      cases RM.away rm neg <;> simp
      split <;> omega

/-- A subnormal magnitude is tiny where it stays below 2^(mbits + i) in units smaller by 2^i, to which it is rounded without bound. -/
theorem Fmt.tiny_eq {i : Nat} (hi : 1 ≤ i) (hlt : p * 2 ^ i < 2 ^ (f.mbits + 1) * q) :
    decide ((roundNat rm neg (p * 2 ^ i) q).1 < 2 ^ (f.mbits + i)) = f.tiny rm neg p q := by
  have hpos : 0 < 2 ^ f.mbits := by positivity
  have hle := (Nat.div_lt_iff_lt_mul hq).2 hlt
  unfold Fmt.tiny
  rw [pow_add 2 f.mbits 2, pow_add 2 f.mbits i]
  rw [pow_succ 2 f.mbits] at *
  generalize 2 ^ f.mbits = w at *
  obtain ⟨k, rfl⟩ : ∃ k, w = k + 1 := ⟨w - 1, by omega⟩
  rw [show (k + 1) * 2 - 1 = 2 * k + 1 by omega, show (k + 1) * 2 ^ 2 - 1 = 2 * (2 * k + 1) + 1 by omega]
  obtain rfl | ⟨i, rfl⟩ : i = 1 ∨ ∃ j, i = j + 2 := by
    rcases hi.eq_or_lt with h | h
    · exact .inl h.symm
    · exact .inr ⟨i - 2, by omega⟩
  · have hiff := roundNat_le_iff (rm := rm) (neg := neg) (a := p * 2 ^ 1) (k := 2 * k + 1) hq (by omega) (by linarith)
    rw [decide_eq_true (p := p < _) (by nlinarith), Bool.true_and, Bool.eq_iff_iff, decide_eq_true_iff, Bool.or_eq_true, decide_eq_true_iff]
    refine Iff.trans ?_ (hiff.trans ?_)
    · omega
    · rw [pow_one, Nat.mul_comm p, ← mul_assoc]
      split <;> simp
  · have hpow : 4 ≤ 2 ^ (i + 2) := Nat.pow_le_pow_right (n := 2) (i := 2) (by decide) (by omega)
    have hp := Nat.mul_le_mul_left p hpow
    have hk := Nat.mul_le_mul_left (k + 1) hpow
    have hval : (roundNat rm neg (p * 2 ^ (i + 2)) q).1 ≤ (k + 1) * 2 := by
      unfold roundNat; dsimp only; split <;> omega
    rw [decide_eq_true (by omega), decide_eq_true (by nlinarith), decide_eq_true (by nlinarith)]
    rfl
end

/-! ### What `roundFP` answers (R58, R69, R70) -/

/-- A format whose least unit is at most 1 and whose codes have a lowest bit that tells even from odd. -/
def Fmt.Regular (f : Fmt) : Prop := f.qmin ≤ 0 ∧ 1 ≤ f.mbits

theorem roundFP_zero (f : Fmt) (rm : RM) (neg : Bool) (den : Nat) : roundFP f rm ⟨neg, 0, den⟩ = (f.encZero neg, 0) := by
  simp [roundFP, Fmt.encZero]

/-- `roundFP` in terms of its two quotients: `b`, rounded to the format's units, and `u`, rounded without bound of exponents. -/
theorem roundFP_of_pos {f : Fmt} {rm : RM} {neg : Bool} {num den : Nat} {q qu : Int} {b u : Nat × Bool} (hnum : 0 < num)
    (hqu : qu = floorLog2 num den - f.mbits) (hq : q = max qu f.qmin) (hb : b = roundTo rm neg num den q)
    (hu : u = roundTo rm neg num den qu) :
    roundFP f rm ⟨neg, num, den⟩ =
      if f.maxBits < b.1 + (q - f.qmin).toNat * 2 ^ f.mbits then f.overflowed rm neg
      else (f.encZero neg + (b.1 + (q - f.qmin).toNat * 2 ^ f.mbits),
        flIf ((decide (qu < f.qmin) && decide (u.1 < 2 ^ (f.mbits + (f.qmin - qu).toNat))) && b.2) flUF ||| flIf b.2 flNX) := by
  subst hb hu hq hqu
  unfold roundFP
  rw [if_neg hnum.ne']
  dsimp only
  congr 1
  unfold Fmt.overflowed RM.away Fmt.encInf
  cases rm <;> cases neg <;> simp [Fmt.encZero]

section
variable {f : Fmt} {num den p q : Nat} (hf : f.Regular) (hnum : 0 < num) (hden : 0 < den) (hq : 0 < q)
  (h : num * 2 ^ f.qmin.natAbs * q = p * den)
include hf hnum hden hq h

/-- A magnitude of at least 2^mbits units: j is its exponent above the least. -/
theorem Fmt.normal_bounds {j : Nat} (hj : floorLog2 num den - f.mbits = f.qmin + j) :
    2 ^ (f.mbits + j) * q ≤ p ∧ p < 2 ^ (f.mbits + 1 + j) * q := by
  obtain ⟨hmin, -⟩ := hf
  obtain ⟨hge, hlt⟩ := floorLog2_spec (a := f.mbits + j) (b := f.qmin.natAbs) hnum hden (by omega)
  rw [show f.mbits + 1 + j = f.mbits + j + 1 by omega]
  constructor
  · refine Nat.le_of_mul_le_mul_right ?_ hden
    rw [← h]
    nlinarith
  · refine Nat.lt_of_mul_lt_mul_right (a := den) ?_
    rw [← h]
    nlinarith

/-- A smaller one: i is its exponent below the least. -/
theorem Fmt.subnormal_bound {i : Nat} (hi : floorLog2 num den - f.mbits = f.qmin - i) :
    p * 2 ^ i < 2 ^ (f.mbits + 1) * q := by
  obtain ⟨hmin, -⟩ := hf
  obtain ⟨-, hlt⟩ := floorLog2_spec (a := f.mbits) (b := f.qmin.natAbs + i) hnum hden (by omega)
  refine Nat.lt_of_mul_lt_mul_right (a := den) ?_
  rw [mul_right_comm, ← h]
  rw [pow_add] at hlt
  nlinarith

omit hnum in
/-- Rounding to 2^(qmin + j) in units of 2^qmin. -/
theorem Fmt.roundTo_of_le {rm : RM} {neg : Bool} {j : Nat} :
    roundTo rm neg num den (f.qmin + j) = roundNat rm neg p (q * 2 ^ j) := by
  obtain ⟨hmin, -⟩ := hf
  rw [roundTo_eq_roundNat]
  refine roundNat_congr (by positivity) (by positivity) ?_
  have e : f.qmin.natAbs + (f.qmin + j).toNat = (-(f.qmin + (j : Int))).toNat + j := by omega
  calc num * 2 ^ (-(f.qmin + (j : Int))).toNat * (q * 2 ^ j)
      = num * 2 ^ ((-(f.qmin + (j : Int))).toNat + j) * q := by rw [pow_add]; ring
    _ = num * 2 ^ f.qmin.natAbs * q * 2 ^ (f.qmin + (j : Int)).toNat := by rw [← e, pow_add]; ring
    _ = p * (den * 2 ^ (f.qmin + (j : Int)).toNat) := by rw [h]; ring

omit hnum in
/-- Rounding to 2^(qmin - i) in units of 2^qmin. -/
theorem Fmt.roundTo_of_ge {rm : RM} {neg : Bool} {i : Nat} :
    roundTo rm neg num den (f.qmin - i) = roundNat rm neg (p * 2 ^ i) q := by
  obtain ⟨hmin, -⟩ := hf
  rw [roundTo_eq_roundNat]
  refine roundNat_congr (by positivity) hq ?_
  rw [show (f.qmin - (i : Int)).toNat = 0 by omega, show (-(f.qmin - (i : Int))).toNat = f.qmin.natAbs + i by omega, pow_add]
  linear_combination 2 ^ i * h

/-- RoundFP of the magnitude p/q, in units of 2^qmin: the code that the mode picks of its two neighbours, or on overflow what the mode
delivers. -/
theorem roundFP_eq (rm : RM) (neg : Bool) : ∃ n, f.Brackets p q n ∧
    roundFP f rm ⟨neg, num, den⟩ =
      if f.maxBits < f.pick rm neg p q n then f.overflowed rm neg
      else (f.encZero neg + f.pick rm neg p q n,
        flIf (f.tiny rm neg p q && decide (p ≠ f.magVal n * q)) flUF ||| flIf (decide (p ≠ f.magVal n * q)) flNX) := by
  rw [roundFP_of_pos hnum rfl rfl rfl rfl]
  generalize hqu : floorLog2 num den - (f.mbits : Int) = qu
  rcases lt_or_ge qu f.qmin with hlt | hge
  · obtain ⟨i, rfl⟩ : ∃ i : Nat, qu = f.qmin - i := ⟨(f.qmin - qu).toNat, by omega⟩
    have hi : 1 ≤ i := by omega
    have hbound := Fmt.subnormal_bound hf hnum hden hq h hqu
    have hsub : p < 2 ^ f.mbits * q := by
      have : 2 ≤ 2 ^ i := Nat.pow_le_pow_right (n := 2) (i := 1) (by decide) hi
      rw [pow_succ] at hbound
      nlinarith
    obtain ⟨hbr, hpick, hlost⟩ := Fmt.brackets_of_roundNat (f := f) (rm := rm) (neg := neg) (p := p) (j := 0) hq hf.2
      (hsub.trans_le (Nat.mul_le_mul_right _ (Nat.pow_le_pow_right (by decide) (by omega)))) (.inr rfl)
    refine ⟨_, hbr, ?_⟩
    rw [max_eq_right hlt.le, Fmt.roundTo_of_ge hf hden hq h, ← hpick, ← hlost,
      show roundTo rm neg num den f.qmin = roundNat rm neg p (q * 2 ^ 0) by
        simpa using Fmt.roundTo_of_le hf hden hq h (rm := rm) (neg := neg) (j := 0),
      show (f.qmin - f.qmin).toNat = 0 by omega, show (f.qmin - (f.qmin - (i : Int))).toNat = i by omega,
      Fmt.tiny_eq hq hi hbound, decide_eq_true hlt, Bool.true_and]
  · obtain ⟨j, rfl⟩ : ∃ j : Nat, qu = f.qmin + j := ⟨(qu - f.qmin).toNat, by omega⟩
    obtain ⟨hle, hlt⟩ := Fmt.normal_bounds hf hnum hden hq h hqu
    obtain ⟨hbr, hpick, hlost⟩ := Fmt.brackets_of_roundNat (f := f) (rm := rm) (neg := neg) hq hf.2 hlt (.inl hle)
    have htiny : f.tiny rm neg p q = false := by
      have : 2 ^ f.mbits * q ≤ p := le_trans (Nat.mul_le_mul_right _ (Nat.pow_le_pow_right (by decide) (by omega))) hle
      rw [Fmt.tiny, decide_eq_false (by omega), Bool.false_and]
    refine ⟨_, hbr, ?_⟩
    rw [max_eq_left hge, Fmt.roundTo_of_le hf hden hq h, ← hpick, ← hlost, htiny, decide_eq_false (Int.not_lt.2 hge),
      show (f.qmin + (j : Int) - f.qmin).toNat = j by omega, Bool.false_and]

end

/-! ### Which value of a set a mode rounds to (R70) -/

/-- `r` is the value among those of `S` that num/q rounds to in the mode; `even` says that its code is even. -/
def NearestTo (rm : RM) (num : Int) (q : Nat) (S : Int → Prop) (r : Int) (even : Prop) : Prop :=
  match rm with
  | .rdn => r * q ≤ num ∧ ∀ t, S t → t * q ≤ num → t ≤ r
  | .rup => num ≤ r * q ∧ ∀ t, S t → num ≤ t * q → r ≤ t
  | .rtz => r.natAbs * q ≤ num.natAbs ∧ 0 ≤ r * num ∧ ∀ t, S t → t.natAbs * q ≤ num.natAbs → t.natAbs ≤ r.natAbs
  | .rne => ∀ t, S t → (r * q - num).natAbs ≤ (t * q - num).natAbs ∧
      ((r * q - num).natAbs = (t * q - num).natAbs → t ≠ r → even)

/-- A magnitude with a sign. -/
def signed (neg : Bool) (v : Nat) : Int := if neg then -(v : Int) else v

@[simp] theorem natAbs_signed (neg : Bool) (v : Nat) : (signed neg v).natAbs = v := by cases neg <;> simp [signed]

/-- The sign of an exact result is that of its value, which may have either where it is zero. -/
def SignOf (neg : Bool) (num : Int) : Prop := num ≠ 0 → neg = decide (num < 0)

theorem SignOf.eq_signed {neg : Bool} {num : Int} (h : SignOf neg num) : num = signed neg num.natAbs := by
  by_cases h0 : num = 0
  · subst h0; cases neg <;> rfl
  · rw [h h0, signed]
    split
    · next hn => have := of_decide_eq_true hn; omega
    · next hn => have := of_decide_eq_false (Bool.not_eq_true _ ▸ hn); omega

section
variable {rm : RM} {neg : Bool} {m q lo hi n : Nat} {S : Int → Prop} (hq : 0 < q) (hlo : lo * q ≤ m) (hhi : m < hi * q)
  (hgap : ∀ t, S t → t.natAbs ≤ lo ∨ hi ≤ t.natAbs)
include hq hlo hhi hgap

omit hlo hhi in
/-- Where a value of the set, and its multiple by q, lie between the neighbours' negatives and the neighbours. -/
theorem gap_cases (t : Int) (ht : S t) :
    (-(lo : Int) ≤ t ∧ t ≤ lo ∧ -((lo : Int) * q) ≤ t * q ∧ t * q ≤ lo * q ∧ (t ≤ -lo ∨ -((lo : Int) * q) < t * q) ∧
      (lo ≤ t ∨ t * q < lo * q)) ∨
    ((hi : Int) ≤ t ∧ (hi : Int) * q ≤ t * q ∧ (t = hi ∨ (hi : Int) * q < t * q)) ∨
    (t ≤ -(hi : Int) ∧ t * q ≤ -((hi : Int) * q) ∧ (t = -(hi : Int) ∨ t * q < -((hi : Int) * q))) := by
  have hq' : (0 : Int) < q := by exact_mod_cast hq
  rcases hgap t ht with h | h
  · refine .inl ⟨by omega, by omega, by nlinarith [show -(lo : Int) ≤ t by omega], by nlinarith [show t ≤ lo by omega], ?_, ?_⟩
    · rcases le_or_gt t (-lo) with h | h
      · exact .inl h
      · exact .inr (by nlinarith)
    · rcases le_or_gt (lo : Int) t with h | h
      · exact .inl h
      · exact .inr (by nlinarith)
  · rcases le_or_gt 0 t with h0 | h0
    · have hle : (hi : Int) ≤ t := by omega
      refine .inr (.inl ⟨hle, by nlinarith, hle.eq_or_lt.imp Eq.symm fun h => by nlinarith⟩)
    · have hle : t ≤ -(hi : Int) := by omega
      refine .inr (.inr ⟨hle, by nlinarith, hle.eq_or_lt.imp_right fun h => by nlinarith⟩)

theorem nearestTo_rne : NearestTo .rne (signed neg m) q S
    (signed neg (if roundsUp .rne neg n (m - lo * q) ((hi - lo) * q) then hi else lo))
    ((if roundsUp .rne neg n (m - lo * q) ((hi - lo) * q) then n + 1 else n) % 2 = 0) := by
  intro t ht
  have hcases := gap_cases hq hgap t ht
  have hup : roundsUp .rne neg n (m - lo * q) ((hi - lo) * q) = true ↔
      hi * q - lo * q < 2 * (m - lo * q) ∨ 2 * (m - lo * q) = hi * q - lo * q ∧ n % 2 = 1 := by
    simp [roundsUp, Nat.sub_mul]
  split
  next h =>
    rw [hup] at h
    cases neg <;> simp only [signed, if_true, if_false, Bool.false_eq_true, neg_mul] <;> omega
  next h =>
    rw [hup] at h
    cases neg <;> simp only [signed, if_true, if_false, Bool.false_eq_true, neg_mul] <;> omega

/-- Towards zero the lower neighbour is nearest, in both signs. -/
theorem nearest_below {even : Prop} :
    NearestTo .rdn (signed false m) q S (signed false lo) even ∧ NearestTo .rup (signed true m) q S (signed true lo) even := by
  simp only [NearestTo, signed, if_true, if_false, Bool.false_eq_true, neg_mul]
  zify at hlo hhi
  refine ⟨⟨hlo, fun t ht _ => ?_⟩, ⟨by omega, fun t ht _ => ?_⟩⟩
  · have hcases := gap_cases hq hgap t ht
    omega
  · have hcases := gap_cases hq hgap t ht
    omega

/-- Away from zero the upper neighbour of an inexact magnitude is nearest, in both signs. -/
theorem nearest_above {even : Prop} {v : Nat} (hv : v = if m - lo * q ≠ 0 then hi else lo) :
    NearestTo .rup (signed false m) q S (signed false v) even ∧ NearestTo .rdn (signed true m) q S (signed true v) even := by
  subst hv
  have hlt : lo < hi := Nat.lt_of_mul_lt_mul_right (hlo.trans_lt hhi)
  simp only [NearestTo, signed, if_true, if_false, Bool.false_eq_true, neg_mul]
  refine ⟨⟨?_, fun t ht _ => ?_⟩, ⟨?_, fun t ht _ => ?_⟩⟩
  · split <;> omega
  · have hcases := gap_cases hq hgap t ht
    split <;> omega
  · split <;> omega
  · have hcases := gap_cases hq hgap t ht
    split <;> omega

omit hq in
theorem nearestTo_rtz {even : Prop} : NearestTo .rtz (signed neg m) q S (signed neg lo) even := by
  refine ⟨by simpa using hlo, ?_, fun t ht hle => ?_⟩
  · cases neg <;> simp [signed] <;> positivity
  · simp only [natAbs_signed] at hle ⊢
    refine (hgap t ht).resolve_right fun h => ?_
    nlinarith

/-- The neighbour that a mode picks is the value nearest in it. -/
theorem nearestTo_of_gap : NearestTo rm (signed neg m) q S
    (signed neg (if roundsUp rm neg n (m - lo * q) ((hi - lo) * q) then hi else lo))
    ((if roundsUp rm neg n (m - lo * q) ((hi - lo) * q) then n + 1 else n) % 2 = 0) := by
  cases rm with
  | rne => exact nearestTo_rne hq hlo hhi hgap
  | rtz => exact nearestTo_rtz hlo hhi hgap
  | rup =>
    cases neg with
    | false => exact (nearest_above hq hlo hhi hgap (by simp [roundsUp])).1
    | true => simpa [roundsUp] using (nearest_below hq hlo hhi hgap).2
  | rdn =>
    cases neg with
    | false => simpa [roundsUp] using (nearest_below hq hlo hhi hgap).1
    | true => exact (nearest_above hq hlo hhi hgap (by simp [roundsUp])).2

end

/-! ### Codes with a sign -/

/-- A finite code (R67). -/
def Fmt.Fin (f : Fmt) (x : Nat) : Prop := x < 2 ^ (f.mag + 1) ∧ x % 2 ^ f.mag ≤ f.maxBits

/-- The value of a finite code in units of 2^qmin. -/
def Fmt.sval (f : Fmt) (x : Nat) : Int := signed (bitAt x f.mag) (f.magVal (x % 2 ^ f.mag))

theorem Fmt.infBits_le (f : Fmt) : f.infBits ≤ 2 ^ f.mag := by
  unfold Fmt.infBits Fmt.mag
  split
  · rw [pow_add]; exact Nat.mul_le_mul_right _ (Nat.sub_le _ _)
  · exact Nat.sub_le _ _

theorem Fmt.maxBits_lt (f : Fmt) : f.maxBits < 2 ^ f.mag := by
  have := f.infBits_le
  have : 0 < 2 ^ f.mag := by positivity
  unfold Fmt.maxBits
  omega

section
variable {f : Fmt} {neg : Bool} {n : Nat} (h : n < 2 ^ f.mag)
include h

theorem Fmt.encZero_add_mod : (f.encZero neg + n) % 2 ^ f.mag = n := by
  cases neg <;> simp [Fmt.encZero, Fmt.signBit, Nat.mod_eq_of_lt h]

theorem Fmt.bitAt_encZero_add : bitAt (f.encZero neg + n) f.mag = neg := by
  have : 0 < 2 ^ f.mag := by positivity
  cases neg <;> simp [bitAt, Fmt.encZero, Fmt.signBit, Nat.div_eq_of_lt h]

theorem Fmt.encZero_add_lt : f.encZero neg + n < 2 ^ (f.mag + 1) := by
  rw [pow_succ]
  cases neg <;> simp [Fmt.encZero, Fmt.signBit] <;> omega

theorem Fmt.sval_encZero_add : f.sval (f.encZero neg + n) = signed neg (f.magVal n) := by
  rw [Fmt.sval, Fmt.bitAt_encZero_add h, Fmt.encZero_add_mod h]

end

theorem Fmt.encZero_add_mod_two {f : Fmt} (hf : f.Regular) (neg : Bool) (n : Nat) : (f.encZero neg + n) % 2 = n % 2 := by
  have := two_pow_mod_two (n := f.mag) (by have := hf.2; unfold Fmt.mag; omega)
  cases neg <;> simp [Fmt.encZero, Fmt.signBit, Nat.add_mod, this]

/-! ### Exact reals in units of 2^-149 -/

/-- `x` is num/den in units of 2^-149. -/
def Real'.Measures (x : Real') (num : Int) (den : Nat) : Prop :=
  0 < x.den ∧ 0 < den ∧ signed x.neg x.num * 2 ^ 149 * den = num * x.den

section
variable {x : Real'} {num : Int} {den : Nat} (h : x.Measures num den)
include h

theorem Real'.Measures.natAbs_eq : x.num * 2 ^ 149 * den = num.natAbs * x.den := by
  obtain ⟨-, -, e⟩ := h
  have := congrArg Int.natAbs e
  simpa [Int.natAbs_mul, Int.natAbs_pow] using this

theorem Real'.Measures.signOf : SignOf x.neg num := by
  intro h0
  obtain ⟨hx, hd, e⟩ := h
  have hx' : (0 : Int) < x.den := by exact_mod_cast hx
  have hpos : (0 : Int) ≤ (x.num : Int) * 2 ^ 149 * den := by positivity
  cases hs : x.neg with
  | false =>
    rw [hs] at e
    have : 0 ≤ num := by
      by_contra hn
      simp only [signed, if_false, Bool.false_eq_true] at e
      nlinarith
    simpa using this
  | true =>
    rw [hs] at e
    have : num < 0 := by
      rw [← not_le]
      intro hn
      have hn' : 0 < num := by omega
      simp only [signed, if_true, neg_mul] at e
      nlinarith
    simpa using this

end

/-! ### The rounding in units of 2^-149 -/

/-- The magnitude p/q, rounded with unbounded exponent range, exceeds the largest finite value (R69). -/
def Fmt.over (f : Fmt) (rm : RM) (neg : Bool) (p q : Nat) : Bool :=
  if rm = .rne then
    decide ((f.magVal f.maxBits + f.magVal (f.maxBits + 1)) * q < 2 * p) ||
      (decide ((f.magVal f.maxBits + f.magVal (f.maxBits + 1)) * q = 2 * p) && decide (f.maxBits % 2 = 1))
  else if RM.away rm neg then decide (f.magVal f.maxBits * q < p) else decide (f.magVal (f.maxBits + 1) * q ≤ p)

section
variable {f : Fmt} {rm : RM} {neg : Bool} {p q n : Nat}

theorem roundsUp_zero {d : Nat} (hd : 0 < d) : roundsUp rm neg n 0 d = false := by
  cases rm <;> simp [roundsUp]
  omega

theorem Fmt.over_of_lt (h : p < f.magVal f.maxBits * q) : f.over rm neg p q = false := by
  have hgrow := Nat.mul_le_mul_right q (f.magVal_strictMono (Nat.lt_add_one f.maxBits)).le
  rw [Fmt.over, add_mul, decide_eq_false (p := _ < 2 * p) (by omega), decide_eq_false (p := _ = 2 * p) (by omega),
    decide_eq_false (p := _ < p) (by omega), decide_eq_false (p := _ ≤ p) (by omega)]
  simp

theorem Fmt.tiny_of_le (h : 2 ^ f.mbits * q ≤ p) : f.tiny rm neg p q = false := by
  rw [Fmt.tiny, decide_eq_false (Nat.not_lt.2 h), Bool.false_and]

theorem Fmt.pick_le (f : Fmt) (rm : RM) (neg : Bool) (p q n : Nat) : n ≤ f.pick rm neg p q n ∧ f.pick rm neg p q n ≤ n + 1 := by
  unfold Fmt.pick; split <;> omega

section
variable (hbr : f.Brackets p q n)
include hbr

theorem Fmt.Brackets.pos : 0 < q := by
  obtain ⟨-, hlt⟩ := hbr
  exact Nat.pos_of_ne_zero fun h => by simp [h] at hlt

/-- Exactly the codes that are worth p/q or less are up to n. -/
theorem Fmt.Brackets.le_iff {m : Nat} : m ≤ n ↔ f.magVal m * q ≤ p := by
  obtain ⟨hle, hlt⟩ := hbr
  constructor
  · intro h
    exact le_trans (Nat.mul_le_mul_right _ (f.magVal_strictMono.monotone h)) hle
  · intro h
    by_contra hn
    have := Nat.mul_le_mul_right q (f.magVal_strictMono.monotone (show n + 1 ≤ m by omega))
    omega

/-- A magnitude that is a code's value is not changed. -/
theorem Fmt.Brackets.pick_of_eq (h : p = f.magVal n * q) : f.pick rm neg p q n = n := by
  have hq := hbr.pos
  obtain ⟨-, hlt⟩ := hbr
  have hd : 0 < (f.magVal (n + 1) - f.magVal n) * q := by rw [Nat.sub_mul]; omega
  unfold Fmt.pick
  rw [h, Nat.sub_self, roundsUp_zero hd]
  rfl

theorem Fmt.Brackets.pick_ne (h : p ≠ f.magVal n * q) : p ≠ f.magVal (f.pick rm neg p q n) * q := by
  obtain ⟨-, hlt⟩ := hbr
  unfold Fmt.pick
  split <;> omega

theorem Fmt.Brackets.maxBits_lt_pick : decide (f.maxBits < f.pick rm neg p q n) = f.over rm neg p q := by
  have hq := hbr.pos
  have hgrow : f.magVal f.maxBits * q < f.magVal (f.maxBits + 1) * q :=
    Nat.mul_lt_mul_of_pos_right (f.magVal_strictMono (Nat.lt_succ_self _)) hq
  obtain ⟨hlow, hhigh⟩ := f.pick_le rm neg p q n
  rcases lt_trichotomy n f.maxBits with h | h | h
  · have hp : p < f.magVal f.maxBits * q := not_le.1 fun hle => absurd (hbr.le_iff.2 hle) (by omega)
    rw [decide_eq_false (by omega), Fmt.over_of_lt hp]
  · subst h
    obtain ⟨hle, hlt⟩ := hbr
    have hd : (f.magVal (f.maxBits + 1) - f.magVal f.maxBits) * q = f.magVal (f.maxBits + 1) * q - f.magVal f.maxBits * q :=
      Nat.sub_mul _ _ _
    unfold Fmt.pick Fmt.over
    rw [hd, add_mul]
    by_cases hrm : rm = .rne
    · subst hrm
      rw [if_pos rfl, Bool.eq_iff_iff]
      simp only [roundsUp, Bool.or_eq_true, Bool.and_eq_true, decide_eq_true_eq]
      split <;> omega
    · rw [roundsUp_of_ne_rne hrm, if_neg hrm]
      cases RM.away rm neg
      · simp; omega
      · simp only [Bool.and_true, decide_eq_true_eq, if_true]
        rw [decide_eq_decide]
        split <;> omega
  · have hp : f.magVal (f.maxBits + 1) * q ≤ p := hbr.le_iff.1 h
    rw [decide_eq_true (by omega), Fmt.over, add_mul, decide_eq_true (p := _ < 2 * p) (by omega),
      decide_eq_true (p := _ < p) (by omega), decide_eq_true (p := _ ≤ p) (by omega)]
    simp

end
end

theorem signed_mul (neg : Bool) (v k : Nat) : signed neg v * k = signed neg (v * k) := by
  cases neg <;> simp [signed]

theorem signed_inj {neg : Bool} {v w : Nat} : signed neg v = signed neg w ↔ v = w := by
  cases neg <;> simp [signed]

/-- Something is lost exactly where the picked code is not worth p/q. -/
theorem Fmt.Brackets.eq_iff {f : Fmt} {rm : RM} {neg : Bool} {p q n : Nat} (hbr : f.Brackets p q n) :
    p = f.magVal n * q ↔ p = f.magVal (f.pick rm neg p q n) * q := by
  constructor
  · intro h; rw [hbr.pick_of_eq h]; exact h
  · exact not_imp_not.1 hbr.pick_ne

theorem Fmt.Brackets.pick_of_zero {f : Fmt} {rm : RM} {neg : Bool} {q n : Nat} (hbr : f.Brackets 0 q n) : f.pick rm neg 0 q n = 0 := by
  have hn : n = 0 := Nat.eq_zero_of_not_pos fun hn => by
    have hle := hbr.le_iff.1 hn
    have hlt := f.magVal_strictMono (show 0 < 1 by decide)
    rw [f.magVal_zero] at hlt
    exact absurd (Nat.mul_pos hlt hbr.pos) (Nat.not_lt.2 hle)
  rw [hbr.pick_of_eq (by rw [hn]; simp [Fmt.magVal_zero]), hn]

/-- The picked code is nearest among the finite ones, in units of which u make a unit of the format. -/
theorem Fmt.Brackets.nearestTo {f : Fmt} {rm : RM} {neg : Bool} {m den u n : Nat} (hbr : f.Brackets m (den * u) n) (hden : 0 < den) :
    NearestTo rm (signed neg m) den (fun t => ∃ w, f.Fin w ∧ f.sval w * u = t)
      (signed neg (f.magVal (f.pick rm neg m (den * u) n)) * u) (f.pick rm neg m (den * u) n % 2 = 0) := by
  obtain ⟨hlo, hhi⟩ := hbr
  have hmul (v : Nat) : v * u * den = v * (den * u) := by ring
  have hgap : ∀ t, (∃ w, f.Fin w ∧ f.sval w * u = t) → t.natAbs ≤ f.magVal n * u ∨ f.magVal (n + 1) * u ≤ t.natAbs := by
    rintro t ⟨w, -, rfl⟩
    rw [Fmt.sval, signed_mul, natAbs_signed]
    refine (Nat.lt_or_ge n (w % 2 ^ f.mag)).symm.imp (fun h => ?_) fun h => ?_
    · exact Nat.mul_le_mul_right _ (f.magVal_strictMono.monotone h)
    · exact Nat.mul_le_mul_right _ (f.magVal_strictMono.monotone h)
  have h := nearestTo_of_gap (rm := rm) (neg := neg) (n := n) (m := m) (lo := f.magVal n * u) (hi := f.magVal (n + 1) * u)
    hden (by rw [hmul]; exact hlo) (by rw [hmul]; exact hhi) hgap
  rw [← Nat.sub_mul, hmul, hmul] at h
  rw [signed_mul, Fmt.pick]
  split at h
  next hup => rw [if_pos hup]; exact h
  next hup => rw [if_neg hup]; exact h

section
variable {f : Fmt} {rm : RM} {x : Real'} {num : Int} {den u : Nat} (hf : f.Regular) (hu : 2 ^ f.qmin.natAbs * u = 2 ^ 149)
  (h : x.Measures num den)
include hf hu h

omit hf h in
theorem Fmt.unit_pos : 0 < u := Nat.pos_of_ne_zero fun h0 => by
  rw [h0, mul_zero] at hu
  exact absurd hu (Nat.two_pow_pos 149).ne

/-- RoundFP of num/den units of 2^-149, of which u make a unit of the format. -/
theorem roundFP_of_measures (rm : RM) : ∃ n, f.Brackets num.natAbs (den * u) n ∧
    roundFP f rm x =
      if f.maxBits < f.pick rm x.neg num.natAbs (den * u) n then f.overflowed rm x.neg
      else (f.encZero x.neg + f.pick rm x.neg num.natAbs (den * u) n,
        flIf (f.tiny rm x.neg num.natAbs (den * u) && decide (num.natAbs ≠ f.magVal n * (den * u))) flUF |||
          flIf (decide (num.natAbs ≠ f.magVal n * (den * u))) flNX) := by
  have hpos := Fmt.unit_pos hu
  have habs := h.natAbs_eq
  obtain ⟨hx, hden, -⟩ := h
  obtain ⟨neg, m, d⟩ := x
  dsimp only at *
  rcases Nat.eq_zero_or_pos m with rfl | hm
  · have hz : num.natAbs = 0 := by
      rw [zero_mul, zero_mul] at habs
      exact (Nat.mul_eq_zero.1 habs.symm).resolve_right hx.ne'
    have hone : f.magVal 1 = 1 := by
      rw [Fmt.magVal_of_lt]
      exact Nat.one_lt_two_pow (by have := hf.2; omega)
    have hbr : f.Brackets 0 (den * u) 0 := ⟨by simp [Fmt.magVal_zero], by rw [zero_add, hone]; positivity⟩
    refine ⟨0, by rw [hz]; exact hbr, ?_⟩
    rw [hz, hbr.pick_of_eq (by simp [Fmt.magVal_zero]), roundFP_zero]
    simp [Fmt.magVal_zero, flIf]
  · refine roundFP_eq hf hm hx (by positivity) ?_ rm neg
    rw [← habs, ← hu]
    ring

/-- What RoundFP delivers (R69, R70): what the mode does on overflow, or else the finite value nearest in the mode. -/
theorem roundFP_delivers (rm : RM) :
    if f.over rm (decide (num < 0)) num.natAbs (den * u) then roundFP f rm x = f.overflowed rm (decide (num < 0))
    else f.Fin (roundFP f rm x).1 ∧ bitAt (roundFP f rm x).1 f.mag = x.neg ∧
      NearestTo rm num den (fun t => ∃ w, f.Fin w ∧ f.sval w * u = t) (f.sval (roundFP f rm x).1 * u) ((roundFP f rm x).1 % 2 = 0) ∧
      (roundFP f rm x).2 =
        flIf (f.tiny rm (decide (num < 0)) num.natAbs (den * u) && decide (f.sval (roundFP f rm x).1 * u * den ≠ num)) flUF |||
          flIf (decide (f.sval (roundFP f rm x).1 * u * den ≠ num)) flNX := by
  have hsign := h.signOf
  obtain ⟨n, hbr, e⟩ := roundFP_of_measures hf hu h rm
  obtain ⟨-, hden, -⟩ := h
  have hover : f.over rm (decide (num < 0)) num.natAbs (den * u) = f.over rm x.neg num.natAbs (den * u) := by
    by_cases h0 : num = 0
    · subst h0
      rw [Int.natAbs_zero] at hbr ⊢
      rw [← hbr.maxBits_lt_pick, ← hbr.maxBits_lt_pick, hbr.pick_of_zero, hbr.pick_of_zero]
    · rw [hsign h0]
  rw [hover, ← hbr.maxBits_lt_pick]
  simp only [decide_eq_true_eq]
  split
  next hlt =>
    have h0 : num ≠ 0 := by
      rintro rfl
      rw [Int.natAbs_zero] at hbr hlt
      rw [hbr.pick_of_zero] at hlt
      exact absurd hlt (Nat.not_lt_zero _)
    rw [e, if_pos hlt, hsign h0]
  next hle =>
    have hfit : f.pick rm x.neg num.natAbs (den * u) n < 2 ^ f.mag := (not_lt.1 hle).trans_lt f.maxBits_lt
    rw [if_neg hle] at e
    have hval : f.sval (roundFP f rm x).1 = signed x.neg (f.magVal (f.pick rm x.neg num.natAbs (den * u) n)) := by
      rw [e]; exact Fmt.sval_encZero_add hfit
    have hexact : num.natAbs = f.magVal n * (den * u) ↔ f.sval (roundFP f rm x).1 * u * den = num := by
      rw [hval, mul_assoc, ← Nat.cast_mul, signed_mul, Nat.mul_comm u, hbr.eq_iff (rm := rm) (neg := x.neg)]
      constructor
      · intro h
        rw [← h, ← hsign.eq_signed]
      · intro h
        simpa using congrArg Int.natAbs h.symm
    refine ⟨?_, ?_, ?_, ?_⟩
    · rw [e]
      exact ⟨Fmt.encZero_add_lt hfit, by rw [Fmt.encZero_add_mod hfit]; exact not_lt.1 hle⟩
    · rw [e]
      exact Fmt.bitAt_encZero_add hfit
    · have hnear := hbr.nearestTo (rm := rm) (neg := x.neg) hden
      rw [← hsign.eq_signed, ← hval] at hnear
      rw [e, Fmt.encZero_add_mod_two hf]
      rw [e] at hnear
      exact hnear
    · rw [e]
      rw [e] at hexact
      simp only [ne_eq, hexact]
      by_cases h0 : num = 0
      · subst h0
        have hz : f.sval (f.encZero x.neg + f.pick rm x.neg (0 : Int).natAbs (den * u) n) * u * den = 0 :=
          hexact.1 (Nat.le_zero.1 hbr.1).symm
        simp only [hz, not_true_eq_false, decide_false, Bool.and_false]
      · rw [hsign h0]

/-- An exact real that a code is worth is delivered as that code, without flags. -/
theorem roundFP_exact {c : Nat} (hc : c ≤ f.maxBits) (hval : num.natAbs = f.magVal c * (den * u)) (rm : RM) :
    roundFP f rm x = (f.encZero x.neg + c, 0) := by
  obtain ⟨n, hbr, e⟩ := roundFP_of_measures hf hu h rm
  have hn : n = c := by
    refine le_antisymm (Nat.le_of_lt_succ (not_le.1 fun hlt => ?_)) (hbr.le_iff.2 hval.ge)
    have hle := hbr.le_iff.1 hlt
    rw [hval] at hle
    exact absurd (Nat.mul_lt_mul_of_pos_right (f.magVal_strictMono (Nat.lt_succ_self c)) hbr.pos) (Nat.not_lt.2 hle)
  subst hn
  rw [e, hbr.pick_of_eq hval, if_neg (Nat.not_lt.2 hc)]
  simp [hval, flIf]

end

/-! ### FP32 -/

theorem fp32_regular : fp32.Regular := ⟨by decide, by decide⟩

theorem fp32_unit : 2 ^ fp32.qmin.natAbs * 1 = 2 ^ 149 := by decide

theorem bitAt_eq_testBit (x i : Nat) : bitAt x i = x.testBit i := by
  simp [bitAt, Nat.testBit_eq_decide_div_mod_eq]

theorem bitAt_msb (x : Word) : bitAt x.toNat 31 = x.msb := by
  rw [bitAt_eq_testBit, BitVec.msb_eq_getLsbD_last]
  rfl

theorem unitsF32_eq_sval (x : Word) : unitsF32 x = fp32.sval x.toNat := by
  have hlow : x.toNat % 2 ^ 31 % 2 ^ 23 = x.toNat % 2 ^ 23 := by omega
  have hhigh : x.toNat % 2 ^ 31 / 2 ^ 23 = x.toNat / 2 ^ 23 % 256 := by omega
  have hval : fp32.magVal (x.toNat % 2 ^ 31) = if x.toNat / 2 ^ 23 % 256 = 0 then x.toNat % 2 ^ 23
      else (2 ^ 23 + x.toNat % 2 ^ 23) * 2 ^ (x.toNat / 2 ^ 23 % 256 - 1) := by
    unfold Fmt.magVal
    rw [show fp32.mbits = 23 from rfl, hlow, hhigh]
    split
    · omega
    · rfl
  rw [Fmt.sval, show fp32.mag = 31 from rfl, bitAt_msb, hval, unitsF32, signed]
  by_cases h : x.toNat / 2 ^ 23 % 256 = 0
  · simp only [if_pos h]
    cases x.msb <;> simp
  · simp only [if_neg h]
    cases x.msb <;> simp

theorem finiteF32_iff (x : Word) : finiteF32 x = true ↔ x.toNat % 2 ^ 31 ≤ 0x7F7FFFFF := by
  unfold finiteF32
  rw [decide_eq_true_iff]
  omega

theorem fin_toNat_iff (x : Word) : fp32.Fin x.toNat ↔ finiteF32 x = true := by
  rw [finiteF32_iff, Fmt.Fin, show fp32.mag = 31 from rfl, show fp32.maxBits = 0x7F7FFFFF by decide]
  exact and_iff_right (by omega)

theorem magVal_maxBits_fp32 : fp32.magVal fp32.maxBits = (2 ^ 24 - 1) * 2 ^ 253 := by decide

theorem magVal_maxBits_succ_fp32 : fp32.magVal (fp32.maxBits + 1) = 2 ^ 277 :=
  (show _ = 2 ^ 24 * 2 ^ 253 by decide).trans (by rw [← pow_add])

theorem overflowsF32_eq (rm : RM) (num : Int) (den : Nat) :
    overflowsF32 rm num den = fp32.over rm (decide (num < 0)) num.natAbs den := by
  unfold overflowsF32 Fmt.over maxUnitsF32
  rw [magVal_maxBits_fp32, magVal_maxBits_succ_fp32, show fp32.maxBits % 2 = 1 by decide, decide_eq_true (p := 1 = 1) rfl, Bool.and_true,
    ← Bool.decide_or]
  congr 1
  rw [decide_eq_decide]
  omega

theorem tinyF32_eq (rm : RM) (num : Int) (den : Nat) : tinyF32 rm num den = fp32.tiny rm (decide (num < 0)) num.natAbs den := by
  unfold tinyF32 Fmt.tiny
  rw [Nat.mul_comm num.natAbs 2, Nat.mul_comm num.natAbs 4]
  rfl

theorem ofNat_toNat_of_fin {n : Nat} (h : fp32.Fin n) : (BitVec.ofNat 32 n).toNat = n :=
  Nat.mod_eq_of_lt h.1

/-- The values of FP32 in units of 2^-149. -/
def ValueF32 (t : Int) : Prop := ∃ w, finiteF32 w = true ∧ unitsF32 w = t

theorem NearestTo.mono {rm : RM} {num r : Int} {q : Nat} {S T : Int → Prop} {even even' : Prop} (h : NearestTo rm num q S r even)
    (hTS : ∀ t, T t → S t) (heven : even → even') : NearestTo rm num q T r even' := by
  cases rm with
  | rne => exact fun t ht => ⟨(h t (hTS t ht)).1, fun e hne => heven ((h t (hTS t ht)).2 e hne)⟩
  | rtz => exact ⟨h.1, h.2.1, fun t ht => h.2.2 t (hTS t ht)⟩
  | rup => exact ⟨h.1, fun t ht => h.2 t (hTS t ht)⟩
  | rdn => exact ⟨h.1, fun t ht => h.2 t (hTS t ht)⟩

theorem unitsF32_ofNat {n : Nat} (hn : fp32.Fin n) : unitsF32 (BitVec.ofNat 32 n) = fp32.sval n * (1 : Nat) := by
  rw [unitsF32_eq_sval, ofNat_toNat_of_fin hn, Nat.cast_one, mul_one]

theorem nearestTo_valueF32 {rm : RM} {num : Int} {den n : Nat} (hn : fp32.Fin n)
    (h : NearestTo rm num den (fun t => ∃ w, fp32.Fin w ∧ fp32.sval w * (1 : Nat) = t) (fp32.sval n * (1 : Nat)) (n % 2 = 0)) :
    NearestTo rm num den ValueF32 (unitsF32 (BitVec.ofNat 32 n)) ((BitVec.ofNat 32 n).getLsbD 0 = false) := by
  rw [unitsF32_ofNat hn]
  refine h.mono ?_ fun h => by simp [BitVec.getLsbD, h]
  rintro t ⟨w, hw, rfl⟩
  exact ⟨w.toNat, (fin_toNat_iff w).2 hw, by rw [unitsF32_eq_sval, Nat.cast_one, mul_one]⟩

theorem finiteF32_ofNat {n : Nat} (hn : fp32.Fin n) : finiteF32 (BitVec.ofNat 32 n) = true :=
  (fin_toNat_iff _).1 (by rwa [ofNat_toNat_of_fin hn])

theorem RoundsF32.of_nearestTo {rm : RM} {num : Int} {den : Nat} {r : Word} (hr : finiteF32 r = true)
    (h : NearestTo rm num den ValueF32 (unitsF32 r) (r.getLsbD 0 = false)) : RoundsF32 rm num den r := by
  refine ⟨hr, ?_⟩
  have hS (w : Word) (hw : finiteF32 w = true) : ValueF32 (unitsF32 w) := ⟨w, hw, rfl⟩
  cases rm with
  | rne => exact fun w hw => h _ (hS w hw)
  | rtz => exact ⟨h.1, h.2.1, fun w hw => h.2.2 _ (hS w hw)⟩
  | rup => exact ⟨h.1, fun w hw => h.2 _ (hS w hw)⟩
  | rdn => exact ⟨h.1, fun w hw => h.2 _ (hS w hw)⟩

theorem flags_of_rounded (tiny lost : Bool) (fl : Flags) (h : fl = flIf (tiny && lost) flUF ||| flIf lost flNX) :
    fl.getLsbD 4 = lost ∧ fl.getLsbD 3 = (lost && tiny) ∧ fl &&& 0x67 = 0 := by
  subst h
  cases tiny <;> cases lost <;> decide

theorem floatOut_overflowed_fp32 (rm : RM) (neg : Bool) : floatOut (fp32.overflowed rm neg) =
    ⟨(if RM.away rm neg then 0x7F800000 else 0x7F7FFFFF) ||| (if neg = true then 0x80000000 else 0), flOF ||| flNX⟩ := by
  cases rm <;> cases neg <;> decide

/-- An exact real rounded to FP32. -/
theorem resultF32_of_measures {x : Real'} {num : Int} {den : Nat} (h : x.Measures num den) (rm : RM) :
    ResultF32 rm num den (floatOut (roundFP fp32 rm x)) := by
  have hd := roundFP_delivers fp32_regular fp32_unit h rm
  unfold ResultF32
  rw [overflowsF32_eq]
  rw [Nat.mul_one] at hd
  split
  next ho =>
    rw [if_pos ho] at hd
    rw [hd]
    rw [floatOut_overflowed_fp32]
    simp only [decide_eq_true_eq]
  next ho =>
    rw [if_neg ho] at hd
    obtain ⟨hfin, -, hnear, hfl⟩ := hd
    rw [← unitsF32_ofNat hfin] at hfl
    obtain ⟨hnx, huf, hother⟩ := flags_of_rounded _ _ _ hfl
    refine ⟨.of_nearestTo (finiteF32_ofNat hfin) (nearestTo_valueF32 hfin hnear), hnx, ?_, hother⟩
    rw [tinyF32_eq]
    exact huf

end
end Sys2Proof.Machine

namespace Sys2Proof.Machine
section
/-!
# Exact values of operands, and what the floating operations compute from them
-/

/-! ### Reading an encoding (R67, R68) -/

/-- A finite code reads as its sign, a significand of mbits + 1 bits and an exponent that is at least the least. -/
theorem Fmt.decode_of_le {f : Fmt} (hinf : 0 < f.infBits) {x : Nat} (h : x % 2 ^ f.mag ≤ f.maxBits) :
    ∃ m e, f.decode x = .fin (bitAt x f.mag) m e ∧ f.qmin ≤ e ∧ m < 2 ^ (f.mbits + 1) ∧
      m * 2 ^ (e - f.qmin).toNat = f.magVal (x % 2 ^ f.mag) ∧ (m < 2 ^ f.mbits ↔ x % 2 ^ f.mag < 2 ^ f.mbits) := by
  have hne : x % 2 ^ f.mag ≠ f.infBits := by unfold Fmt.maxBits at h; omega
  have hpos : 0 < 2 ^ f.mbits := by positivity
  have hfr := Nat.mod_lt (x % 2 ^ f.mag) hpos
  unfold Fmt.decode Fmt.magVal
  dsimp only
  rw [if_neg (fun hi => hne hi.1), if_neg (Nat.not_lt.2 h), pow_succ]
  split
  next hz =>
    have hlt : x % 2 ^ f.mag < 2 ^ f.mbits := (Nat.div_eq_zero_iff_lt hpos).1 hz
    exact ⟨_, _, rfl, le_rfl, by omega, by simp [Nat.mod_eq_of_lt hlt], by rw [Nat.mod_eq_of_lt hlt]⟩
  next hz =>
    have hge : 2 ^ f.mbits ≤ x % 2 ^ f.mag := not_lt.1 fun hlt => hz (Nat.div_eq_of_lt hlt)
    have hex := Nat.pos_of_ne_zero hz
    have he : (f.qmin + ((x % 2 ^ f.mag / 2 ^ f.mbits : Nat) : Int) - 1 - f.qmin).toNat = x % 2 ^ f.mag / 2 ^ f.mbits - 1 := by
      generalize x % 2 ^ f.mag / 2 ^ f.mbits = k at *; omega
    exact ⟨_, _, rfl, by generalize x % 2 ^ f.mag / 2 ^ f.mbits = k at *; omega, by omega, by rw [he], by omega⟩

theorem scaled_measures (s : Bool) (m : Nat) {e : Int} (he : -149 ≤ e) :
    (scaled s m e).Measures (signed s (m * 2 ^ (e + 149).toNat)) 1 := by
  unfold scaled
  split
  next hneg =>
    refine ⟨by positivity, Nat.one_pos, ?_⟩
    obtain ⟨k, hk⟩ : ∃ k, 149 = k + e.natAbs := ⟨149 - e.natAbs, by omega⟩
    rw [show (e + 149).toNat = k by omega, hk, pow_add]
    cases s <;> simp only [signed] <;> push_cast <;> ring
  next hneg =>
    refine ⟨Nat.one_pos, Nat.one_pos, ?_⟩
    rw [show (e + 149).toNat = e.natAbs + 149 by omega, pow_add]
    cases s <;> simp only [signed] <;> push_cast <;> ring

/-- A finite code of a format of which u least units make 2^149. -/
theorem Fmt.decode_measures {f : Fmt} (hinf : 0 < f.infBits) {u : Nat} (hq : f.qmin ≤ 0) (hu : 2 ^ f.qmin.natAbs * u = 2 ^ 149)
    {x : Nat} (h : x % 2 ^ f.mag ≤ f.maxBits) : ∃ m e, f.decode x = .fin (bitAt x f.mag) m e ∧
      (scaled (bitAt x f.mag) m e).Measures (f.sval x * u) 1 := by
  obtain ⟨m, e, hd, he, -, hval, -⟩ := f.decode_of_le hinf h
  refine ⟨m, e, hd, ?_⟩
  have hle : f.qmin.natAbs ≤ 149 := by
    by_contra hn
    have : 2 ^ 149 < 2 ^ f.qmin.natAbs := Nat.pow_lt_pow_right (by decide) (by omega)
    have := Fmt.unit_pos hu
    nlinarith
  obtain ⟨k, hk⟩ : ∃ k, 149 = f.qmin.natAbs + k := ⟨149 - f.qmin.natAbs, by omega⟩
  have hu' : u = 2 ^ k := by
    rw [hk, pow_add] at hu
    exact Nat.eq_of_mul_eq_mul_left (by positivity) hu
  have hm := scaled_measures (bitAt x f.mag) m (e := e) (by omega)
  rw [Fmt.sval, ← hval, signed_mul, hu', mul_assoc, ← pow_add, show (e - f.qmin).toNat + k = (e + 149).toNat by omega]
  exact hm

/-- A finite FP32 element. -/
theorem decode_fp32 {a : Word} (h : finiteF32 a = true) : ∃ m e, fp32.decode a.toNat = .fin a.msb m e ∧
    (scaled a.msb m e).Measures (unitsF32 a) 1 := by
  rw [unitsF32_eq_sval, ← bitAt_msb, ← Int.mul_one (fp32.sval _)]
  exact fp32.decode_measures (by decide) (by decide) fp32_unit ((fin_toNat_iff a).2 h).2

/-! ### Sums, products and quotients of exact reals -/

theorem signed_natAbs {neg : Bool} {s : Int} (h : SignOf neg s) : signed neg s.natAbs = s := h.eq_signed.symm

theorem signed_bne (s t : Bool) (m n : Nat) : signed (s != t) (m * n) = signed s m * signed t n := by
  cases s <;> cases t <;> simp [signed]

theorem signed_not (s : Bool) (m : Nat) : signed (!s) m = -signed s m := by cases s <;> simp [signed]

section
variable {x y : Real'} {a b : Int} {p q : Nat} (hx : x.Measures a p) (hy : y.Measures b q)
include hx

theorem Real'.Measures.negate : Real'.Measures { x with neg := !x.neg } (-a) p := by
  obtain ⟨hd, hp, e⟩ := hx
  exact ⟨hd, hp, by rw [signed_not]; linear_combination -e⟩

include hy

theorem addReal_measures (rm : RM) : (addReal x y rm).Measures (a * q + b * p) (p * q) := by
  obtain ⟨hxd, hp, ex⟩ := hx
  obtain ⟨hyd, hq, ey⟩ := hy
  refine ⟨Nat.mul_pos hxd hyd, Nat.mul_pos hp hq, ?_⟩
  unfold addReal
  dsimp only
  rw [signed_natAbs fun h => by rw [if_neg h]]
  change signed x.neg x.num * 2 ^ 149 * p = a * x.den at ex
  change signed y.neg y.num * 2 ^ 149 * q = b * y.den at ey
  change (signed x.neg x.num * y.den + signed y.neg y.num * x.den) * 2 ^ 149 * (p * q : Nat) = _
  push_cast
  linear_combination (y.den * q) * ex + (x.den * p) * ey

theorem mulReal_measures : (mulReal x y).Measures (a * b) (p * q * 2 ^ 149) := by
  obtain ⟨hxd, hp, ex⟩ := hx
  obtain ⟨hyd, hq, ey⟩ := hy
  refine ⟨Nat.mul_pos hxd hyd, by positivity, ?_⟩
  simp only [mulReal, signed_bne]
  push_cast
  linear_combination (signed y.neg y.num * 2 ^ 149 * q) * ex + a * x.den * ey

end

theorem SignOf.signed_eq {neg : Bool} {b : Int} (h : SignOf neg b) (hb : b ≠ 0) (v : Nat) : signed neg v = b.sign * v := by
  rw [h hb]
  rcases lt_trichotomy b 0 with h | h | h
  · simp [signed, h, Int.sign_eq_neg_one_of_neg h]
  · exact absurd h hb
  · simp [signed, not_lt.2 h.le, Int.sign_eq_one_of_pos h]

/-- A quotient as VFDIV forms it. -/
theorem quotient_measures {x y : Real'} {a b : Int} (hx : x.Measures a 1) (hy : y.Measures b 1) (hb : b ≠ 0) :
    Real'.Measures ⟨x.neg != y.neg, x.num * y.den, x.den * y.num⟩ (a * b.sign * 2 ^ 149) b.natAbs := by
  have hsy := hy.signOf.signed_eq hb
  obtain ⟨hxd, -, ex⟩ := hx
  obtain ⟨hyd, -, ey⟩ := hy
  have hyn : 0 < y.num := Nat.pos_of_ne_zero fun h0 => hb (by
    rw [hsy, h0] at ey
    have : b * y.den = 0 := by rw [← ey]; simp
    exact (mul_eq_zero.1 this).resolve_right (by exact_mod_cast hyd.ne'))
  refine ⟨Nat.mul_pos hxd hyn, Int.natAbs_pos.2 hb, ?_⟩
  have habs : (b.natAbs : Int) = b.sign * b := (Int.sign_mul_self_eq_natAbs b).symm
  have hsq : b.sign * b.sign = 1 := by
    rcases lt_or_gt_of_ne hb with h | h
    · rw [Int.sign_eq_neg_one_of_neg h]; rfl
    · rw [Int.sign_eq_one_of_pos h]; rfl
  rw [signed_bne, hsy, habs]
  rw [hsy] at ey
  push_cast at ex ey ⊢
  linear_combination (signed x.neg x.num * y.den * 2 ^ 149 * b) * hsq + y.den * b * ex - a * x.den * ey

/-! ### Sums, products and quotients in FP32 (R131, R132, R135) -/

theorem Real'.Measures.num_eq_zero_iff {x : Real'} {num : Int} {den : Nat} (h : x.Measures num den) : x.num = 0 ↔ num = 0 := by
  have e := h.natAbs_eq
  obtain ⟨hx, hd, -⟩ := h
  constructor
  · intro h0
    rw [h0, zero_mul, zero_mul] at e
    exact Int.natAbs_eq_zero.1 ((Nat.mul_eq_zero.1 e.symm).resolve_right hx.ne')
  · rintro rfl
    rw [Int.natAbs_zero, zero_mul] at e
    simpa [hd.ne'] using e

theorem roundFP_of_num_eq_zero {f : Fmt} {rm : RM} {x : Real'} (h : x.num = 0) : roundFP f rm x = (f.encZero x.neg, 0) := by
  obtain ⟨neg, num, den⟩ := x
  obtain rfl : num = 0 := h
  exact roundFP_zero ..

@[simp] theorem scaled_neg (s : Bool) (m : Nat) (e : Int) : (scaled s m e).neg = s := by unfold scaled; split <;> rfl

theorem scaled_num_eq_zero_iff (s : Bool) (m : Nat) (e : Int) : (scaled s m e).num = 0 ↔ m = 0 := by unfold scaled; split <;> simp

/-- A sign that an instruction inverts. -/
theorem Real'.Measures.flip {x : Real'} {num : Int} {den : Nat} (h : x.Measures num den) (n : Bool) :
    Real'.Measures { x with neg := x.neg != n } (if n then -num else num) den := by
  cases n with
  | false => simpa using h
  | true => simpa using h.negate

theorem addReal_neg_of_num {x y : Real'} {rm : RM} (h : (addReal x y rm).num = 0) (hne : x.neg ≠ y.neg) :
    (addReal x y rm).neg = decide (rm = .rdn) := by
  unfold addReal at h ⊢
  dsimp only at h ⊢
  rw [if_pos (Int.natAbs_eq_zero.1 h), if_neg hne]

theorem fFma_fin (f : Fmt) (rm : RM) (np nc s t u : Bool) (m n k : Nat) (e g h : Int) :
    fFma f rm np nc (.fin s m e) (.fin t n g) (.fin u k h) =
      roundFP f rm (addReal { mulReal (scaled s m e) (scaled t n g) with neg := (mulReal (scaled s m e) (scaled t n g)).neg != np }
        (scaled (u != nc) k h) rm) := by
  cases nc <;> simp [fFma, FVal.isNan, FVal.negate]

theorem scaled_flip (s n : Bool) (m : Nat) (e : Int) : scaled (s != n) m e = { scaled s m e with neg := (scaled s m e).neg != n } := by
  unfold scaled; split <;> rfl

section
variable {a b c : Word} (d : Word) (k : Nat) (rm : RM) (ha : finiteF32 a = true) (hb : finiteF32 b = true)
include ha hb

theorem fadd_result : ResultF32 rm (unitsF32 a + unitsF32 b) 1 (laneEval (.fadd .f32 rm) a b c d k) ∧
    (unitsF32 a + unitsF32 b = 0 → unitsF32 a ≠ 0 →
      (laneEval (.fadd .f32 rm) a b c d k).val = if rm = .rdn then 0x80000000 else 0) := by
  obtain ⟨m, e, hda, hma⟩ := decode_fp32 ha
  obtain ⟨n, g, hdb, hmb⟩ := decode_fp32 hb
  have hval : laneEval (.fadd .f32 rm) a b c d k = floatOut (roundFP fp32 rm (addReal (scaled a.msb m e) (scaled b.msb n g) rm)) := by
    change floatOut (fAdd fp32 rm (fp32.decode a.toNat) (fp32.decode b.toNat)) = _
    rw [hda, hdb]
    rfl
  have hsum : (addReal (scaled a.msb m e) (scaled b.msb n g) rm).Measures (unitsF32 a + unitsF32 b) 1 := by
    simpa using addReal_measures hma hmb rm
  rw [hval]
  refine ⟨resultF32_of_measures hsum rm, fun h0 hne => ?_⟩
  rw [h0] at hsum
  have hneg := addReal_neg_of_num (hsum.num_eq_zero_iff.2 rfl) (by
    rw [hma.signOf hne, hmb.signOf (by omega), show unitsF32 b = -unitsF32 a by omega]
    rw [Ne, decide_eq_decide]; omega)
  rw [roundFP_of_num_eq_zero (hsum.num_eq_zero_iff.2 rfl), hneg]
  cases rm <;> rfl

theorem fsub_result : ResultF32 rm (unitsF32 a - unitsF32 b) 1 (laneEval (.fsub .f32 rm) a b c d k) := by
  obtain ⟨m, e, hda, hma⟩ := decode_fp32 ha
  obtain ⟨n, g, hdb, hmb⟩ := decode_fp32 hb
  have hval : laneEval (.fsub .f32 rm) a b c d k = floatOut (roundFP fp32 rm (addReal (scaled a.msb m e) (scaled (b.msb != true) n g) rm)) := by
    change floatOut (fAdd fp32 rm (fp32.decode a.toNat) (fp32.decode b.toNat).negate) = _
    rw [hda, hdb, Bool.bne_true]
    rfl
  rw [hval, scaled_flip]
  refine resultF32_of_measures ?_ rm
  have hsum := addReal_measures hma (hmb.flip true) rm
  simpa [sub_eq_add_neg] using hsum

theorem fmul_result : ResultF32 rm (unitsF32 a * unitsF32 b) (2 ^ 149) (laneEval (.fmul .f32 rm) a b c d k) := by
  obtain ⟨m, e, hda, hma⟩ := decode_fp32 ha
  obtain ⟨n, g, hdb, hmb⟩ := decode_fp32 hb
  have hval : laneEval (.fmul .f32 rm) a b c d k = floatOut (roundFP fp32 rm (mulReal (scaled a.msb m e) (scaled b.msb n g))) := by
    change floatOut (fMul fp32 rm (fp32.decode a.toNat) (fp32.decode b.toNat)) = _
    rw [hda, hdb]
    rfl
  rw [hval]
  exact resultF32_of_measures (by simpa using mulReal_measures hma hmb) rm

theorem fma_result (np nc : Bool) (hc : finiteF32 c = true) :
    ResultF32 rm ((if np then -(unitsF32 a * unitsF32 b) else unitsF32 a * unitsF32 b) + (if nc then -unitsF32 c else unitsF32 c) * 2 ^ 149)
      (2 ^ 149) (laneEval (.fma .f32 np nc rm) a b c d k) := by
  obtain ⟨m, e, hda, hma⟩ := decode_fp32 ha
  obtain ⟨n, g, hdb, hmb⟩ := decode_fp32 hb
  obtain ⟨l, h, hdc, hmc⟩ := decode_fp32 hc
  change ResultF32 _ _ _ (floatOut (fFma fp32 rm np nc (fp32.decode a.toNat) (fp32.decode b.toNat) (fp32.decode c.toNat)))
  rw [hda, hdb, hdc, fFma_fin, scaled_flip]
  refine resultF32_of_measures ?_ rm
  have hsum := addReal_measures ((mulReal_measures hma hmb).flip np) (hmc.flip nc) rm
  simpa using hsum

theorem fdiv_result (h0 : unitsF32 b ≠ 0) :
    ResultF32 rm (unitsF32 a * (unitsF32 b).sign * 2 ^ 149) (unitsF32 b).natAbs (laneEval (.fdiv rm) a b c d k) := by
  obtain ⟨m, e, hda, hma⟩ := decode_fp32 ha
  obtain ⟨n, g, hdb, hmb⟩ := decode_fp32 hb
  have hquot := quotient_measures hma hmb h0
  have hn : n ≠ 0 := fun hn => h0 (hmb.num_eq_zero_iff.1 ((scaled_num_eq_zero_iff ..).2 hn))
  change ResultF32 _ _ _ (floatOut (fDiv fp32 rm (fp32.decode a.toNat) (fp32.decode b.toNat)))
  rw [hda, hdb]
  dsimp only [fDiv]
  rw [if_neg hn]
  rw [scaled_neg, scaled_neg] at hquot
  exact resultF32_of_measures hquot rm

end

/-! ### Rounding to an integer (R70, R83, R138) -/

theorem roundTo_zero_of_measures {x : Real'} {num : Int} (h : x.Measures num 1) (rm : RM) :
    roundTo rm x.neg x.num x.den 0 = roundNat rm x.neg num.natAbs (2 ^ 149) := by
  rw [roundTo_eq_roundNat]
  refine roundNat_congr (by simpa using h.1) (by positivity) ?_
  have := h.natAbs_eq
  simpa using this

/-- The multiple of 2^149 nearest a number in a mode is its integral value. -/
theorem signed_roundNat {neg : Bool} {x : Int} (h : SignOf neg x) (rm : RM) :
    signed neg (roundNat rm neg x.natAbs (2 ^ 149)).1 = integralF32 rm x := by
  rw [h.eq_signed, natAbs_signed]
  generalize x.natAbs = m
  unfold integralF32 roundNat signed
  cases rm with
  | rne =>
    simp only [roundsUp, Bool.or_eq_true, Bool.and_eq_true, decide_eq_true_eq]
    cases neg
    · simp only [Bool.false_eq_true, if_false]
      split <;> split <;> omega
    · simp only [if_true]
      split <;> split <;> omega
  | rtz => cases neg <;> simp [roundsUp, Int.neg_tdiv]
  | rup =>
    simp only [roundsUp, Bool.and_eq_true, decide_eq_true_eq]
    cases neg
    · simp only [Bool.false_eq_true, if_false, Bool.not_false, and_true]
      split <;> omega
    · simp only [if_true, Bool.not_true, Bool.false_eq_true, and_false, if_false]
      omega
  | rdn =>
    simp only [roundsUp, Bool.and_eq_true, decide_eq_true_eq]
    cases neg
    · simp
    · simp only [if_true, and_true]
      split <;> omega

theorem roundNat_lost {neg : Bool} {x : Int} (h : SignOf neg x) (rm : RM) :
    (roundNat rm neg x.natAbs (2 ^ 149)).2 = decide (integralF32 rm x * 2 ^ 149 ≠ x) := by
  have hx := h.eq_signed
  have hval : integralF32 rm x * 2 ^ 149 = x ↔ (roundNat rm neg x.natAbs (2 ^ 149)).1 * 2 ^ 149 = x.natAbs := by
    rw [← signed_roundNat h rm, ← signed_inj (neg := neg), ← signed_mul, ← hx]
    simp
  rw [decide_not, decide_eq_decide.2 hval, ← decide_not, roundNat, decide_eq_decide]
  dsimp only
  split
  next hup =>
    have hr : x.natAbs % 2 ^ 149 ≠ 0 := by
      intro h0
      rw [h0, roundsUp_zero (by positivity)] at hup
      exact Bool.false_ne_true hup
    omega
  next => omega

/-! ### Integral values in FP32 (R138) -/

/-- An integer on either side of a finite FP32 magnitude is one. -/
theorem exists_integral_code {n k : Nat} (hn : n ≤ fp32.maxBits)
    (hk : k * 2 ^ 149 = fp32.magVal n ∨ k ≤ fp32.magVal n / 2 ^ 149 + 1 ∧ fp32.magVal n % 2 ^ 149 ≠ 0) :
    ∃ c, c ≤ fp32.maxBits ∧ fp32.magVal c = k * 2 ^ 149 := by
  rcases hk with h | ⟨h, hr⟩
  · exact ⟨n, hn, h.symm⟩
  · have hsmall : fp32.magVal n / 2 ^ 149 < 2 ^ 24 := by
      obtain ⟨b, j, rfl, hb, hj⟩ := fp32.exists_eq_add_mul n
      rw [fp32.magVal_add_mul hb.le hj] at hr ⊢
      have hj' : j < 149 := by
        by_contra hge
        obtain ⟨i, rfl⟩ := Nat.exists_eq_add_of_le (not_lt.1 hge)
        rw [pow_add, Nat.mul_left_comm] at hr
        exact hr (Nat.mul_mod_right _ _)
      have : 2 ^ j ≤ 2 ^ 149 := Nat.pow_le_pow_right (by decide) hj'.le
      rw [show fp32.mbits + 1 = 24 from rfl] at hb
      rw [Nat.div_lt_iff_lt_mul (by positivity)]
      nlinarith
    obtain ⟨c, hc⟩ := fp32.exists_magVal_eq 149 (m := k) (h.trans hsmall)
    refine ⟨c, Nat.le_of_lt_succ (fp32.magVal_strictMono.lt_iff_lt.1 ?_), hc⟩
    rw [hc, magVal_maxBits_succ_fp32]
    omega

theorem frnd_result {a : Word} (b c d : Word) (k : Nat) (rm : RM) (ha : finiteF32 a = true) :
    unitsF32 (laneEval (.rnd .f32 rm) a b c d k).val = integralF32 rm (unitsF32 a) * 2 ^ 149 ∧
    (laneEval (.rnd .f32 rm) a b c d k).val.msb = a.msb ∧
    (laneEval (.rnd .f32 rm) a b c d k).flags = if unitsF32 (laneEval (.rnd .f32 rm) a b c d k).val = unitsF32 a then 0 else flNX := by
  obtain ⟨m, e, hda, hma⟩ := decode_fp32 ha
  have hsign := hma.signOf
  have hint := roundTo_zero_of_measures hma rm
  rw [scaled_neg] at hsign hint
  have hval := signed_roundNat hsign rm
  have hlost := roundNat_lost hsign rm
  have habs : (unitsF32 a).natAbs = fp32.magVal (a.toNat % 2 ^ 31) := by
    rw [unitsF32_eq_sval]; exact natAbs_signed ..
  obtain ⟨i, hi⟩ : ∃ i, i = (roundNat rm a.msb (unitsF32 a).natAbs (2 ^ 149)).1 := ⟨_, rfl⟩
  obtain ⟨n, hn, hcode⟩ := exists_integral_code (k := i) ((finiteF32_iff a).1 ha) (by
    rw [hi, habs, roundNat]
    dsimp only
    by_cases hr : fp32.magVal (a.toNat % 2 ^ 31) % 2 ^ 149 = 0
    · rw [hr, roundsUp_zero (by positivity)]
      exact .inl (Nat.div_mul_cancel (Nat.dvd_of_mod_eq_zero hr))
    · exact .inr ⟨by split <;> omega, hr⟩)
  have hexact : roundFP fp32 .rne ⟨a.msb, i, 1⟩ = (fp32.encZero a.msb + n, 0) := by
    refine roundFP_exact fp32_regular fp32_unit (num := signed a.msb (i * 2 ^ 149)) (den := 1) ?_ hn (by simp [hcode]) .rne
    exact ⟨Nat.one_pos, Nat.one_pos, by rw [← signed_mul]; simp⟩
  have heval : laneEval (.rnd .f32 rm) a b c d k = floatOut (fp32.encZero a.msb + n,
      flIf (decide (integralF32 rm (unitsF32 a) * 2 ^ 149 ≠ unitsF32 a)) flNX) := by
    change floatOut (fRnd fp32 rm a.toNat) = _
    unfold fRnd
    rw [hda]
    dsimp only
    rw [hint, ← hi, hexact, hlost]
  have hlt : n < 2 ^ fp32.mag := hn.trans_lt fp32.maxBits_lt
  have hnat : (BitVec.ofNat 32 (fp32.encZero a.msb + n)).toNat = fp32.encZero a.msb + n := Nat.mod_eq_of_lt (Fmt.encZero_add_lt hlt)
  have hunits : unitsF32 (BitVec.ofNat 32 (fp32.encZero a.msb + n)) = integralF32 rm (unitsF32 a) * 2 ^ 149 := by
    rw [unitsF32_eq_sval, hnat, Fmt.sval_encZero_add hlt, hcode, ← hval, ← hi, ← signed_mul]
    simp
  rw [heval]
  refine ⟨hunits, ?_, ?_⟩
  · have hbit := Fmt.bitAt_encZero_add (f := fp32) (neg := a.msb) hlt
    rwa [← hnat, show fp32.mag = 31 from rfl, bitAt_msb] at hbit
  · simp only [floatOut, hunits, flIf, decide_eq_true_eq, ne_eq, ite_not]

/-! ### Integers to FP32, and QGDEC (R79, R84) -/

theorem integer_measures {neg : Bool} {i : Int} (h : SignOf neg i) : Real'.Measures ⟨neg, i.natAbs, 1⟩ (i * 2 ^ 149) 1 :=
  ⟨Nat.one_pos, Nat.one_pos, by rw [signed_natAbs h]⟩

theorem cvt_i32_result (a b c d : Word) (k : Nat) (rm : RM) :
    ResultF32 rm (a.toInt * 2 ^ 149) 1 (laneEval (.cvt (.f32i32 rm)) a b c d k) :=
  resultF32_of_measures (integer_measures fun _ => rfl) rm

theorem cvt_u32_result (a b c d : Word) (k : Nat) (rm : RM) :
    ResultF32 rm (a.toNat * 2 ^ 149) 1 (laneEval (.cvt (.f32u32 rm)) a b c d k) :=
  resultF32_of_measures (integer_measures (i := a.toNat) fun _ => by simp) rm

theorem qgdec_result (a b d : Word) {c : Word} (k : Nat) (rm : RM) (hc : finiteF32 c = true) :
    ResultF32 rm (qgImage (bitsAt a.toNat (4 * (k % 8)) 4) * (b.toNat % 256 : Nat) * unitsF32 c) 7905
      (laneEval (.qgdec false rm) a b c d k) := by
  change ResultF32 _ _ _ (qgdecEval fp32 rm a b c k)
  unfold qgdecEval
  dsimp only
  split
  next h =>
    have hzero : qgImage (bitsAt a.toNat (4 * (k % 8)) 4) * (b.toNat % 256 : Nat) * unitsF32 c = 0 := by
      rcases h with h | h <;> simp [h]
    have hx : Real'.Measures ⟨false, 0, 1⟩ 0 7905 := ⟨Nat.one_pos, by decide, rfl⟩
    have := resultF32_of_measures hx rm
    rw [roundFP_zero] at this
    rw [hzero]
    exact this
  next h =>
    obtain ⟨m, e, hdc, hmc⟩ := decode_fp32 hc
    rw [hdc]
    dsimp only
    refine resultF32_of_measures ?_ rm
    generalize qgImage (bitsAt a.toNat (4 * (k % 8)) 4) = i
    generalize b.toNat % 256 = code
    obtain ⟨hd, -, e⟩ := hmc
    refine ⟨Nat.mul_pos (by decide) hd, by decide, ?_⟩
    have hi : signed (decide (i < 0)) i.natAbs = i := signed_natAbs fun _ => rfl
    rw [scaled_neg] at e
    rw [Nat.mul_comm, signed_bne, ← signed_mul, hi]
    push_cast at e ⊢
    linear_combination 7905 * i * code * e

/-! ### Square roots in FP32 (R135) -/

theorem isqrt_spec (k : Nat) {n r : Nat} (hle : r * r ≤ n) (hlt : n < (r + 2 ^ k) * (r + 2 ^ k)) :
    isqrt k n r * isqrt k n r ≤ n ∧ n < (isqrt k n r + 1) * (isqrt k n r + 1) := by
  induction k generalizing r with
  | zero => exact ⟨hle, by rwa [pow_zero] at hlt⟩
  | succ k ih =>
    have hpow : (2 : Nat) ^ (k + 1) = 2 ^ k + 2 ^ k := by rw [pow_succ]; ring
    unfold isqrt
    dsimp only
    split
    next h => exact ih h (by rw [hpow, ← add_assoc] at hlt; exact hlt)
    next h => exact ih hle (by omega)

/-- The root with its sticky bit, in units of 2^-162. -/
def stickyRoot (num den : Nat) : Nat := (sqrtReal num den).num

theorem sqrtReal_eq (num den : Nat) : sqrtReal num den = ⟨false, stickyRoot num den, 2 ^ 162⟩ := rfl

/-- On numbers that leave two bits free, the root with its sticky bit compares as the exact root does. -/
theorem stickyRoot_spec {num den : Nat} (hden : 0 < den) (t : Nat) :
    (4 * t ≤ stickyRoot num den ↔ t * t * den ≤ num * 2 ^ 320) ∧ (stickyRoot num den ≤ 4 * t ↔ num * 2 ^ 320 ≤ t * t * den) := by
  have hdiv := Nat.div_mul_le_self (num * 2 ^ 320) den
  have hdiv' := Nat.lt_div_mul_add (a := num * 2 ^ 320) hden
  have hlog : num * 2 ^ 320 / den < (0 + 2 ^ (Nat.log2 (num * 2 ^ 320 / den) / 2 + 1)) * (0 + 2 ^ (Nat.log2 (num * 2 ^ 320 / den) / 2 + 1)) := by
    rw [zero_add, ← pow_add]
    exact Nat.lt_log2_self.trans_le (Nat.pow_le_pow_right (by decide) (by omega))
  obtain ⟨hle, hlt⟩ := isqrt_spec _ (Nat.zero_le _) hlog
  have hdef : stickyRoot num den = 4 * isqrt (Nat.log2 (num * 2 ^ 320 / den) / 2 + 1) (num * 2 ^ 320 / den) 0 +
      if isqrt (Nat.log2 (num * 2 ^ 320 / den) / 2 + 1) (num * 2 ^ 320 / den) 0 *
        isqrt (Nat.log2 (num * 2 ^ 320 / den) / 2 + 1) (num * 2 ^ 320 / den) 0 * den = num * 2 ^ 320 then 0 else 1 := by
    simp only [stickyRoot, sqrtReal, decide_eq_true_eq]
  rw [hdef]
  generalize isqrt (Nat.log2 (num * 2 ^ 320 / den) / 2 + 1) (num * 2 ^ 320 / den) 0 = r at *
  generalize num * 2 ^ 320 / den = n at *
  generalize num * 2 ^ 320 = x at *
  have hlow : r * r * den ≤ x := (Nat.mul_le_mul_right _ hle).trans hdiv
  have hhigh : x < (r + 1) * (r + 1) * den := by nlinarith
  have hsquare {v w : Nat} (h : v ≤ w) : v * v * den ≤ w * w * den := Nat.mul_le_mul_right _ (Nat.mul_le_mul h h)
  constructor
  · rcases Nat.lt_or_ge r t with h | h
    · have := hsquare (show r + 1 ≤ t from h)
      exact iff_of_false (by split <;> omega) (by omega)
    · exact iff_of_true (by omega) ((hsquare h).trans hlow)
  · rcases Nat.lt_or_ge r t with h | h
    · exact iff_of_true (by split <;> omega) (hhigh.le.trans (hsquare h))
    · have := hsquare h
      split
      next he =>
        rcases h.eq_or_lt with rfl | hlt
        · omega
        · have : t * t * den < r * r * den := Nat.mul_lt_mul_of_pos_right (Nat.mul_lt_mul_of_lt_of_lt hlt hlt) hden
          omega
      next he => omega

theorem stickyRoot_measures (num den : Nat) : (sqrtReal num den).Measures (stickyRoot num den) (2 ^ 13) := by
  rw [sqrtReal_eq]
  refine ⟨by positivity, by positivity, ?_⟩
  simp only [signed, Bool.false_eq_true, if_false]
  push_cast
  ring

section
variable {x : Real'} {u : Nat} (hx : x.Measures u 1)
include hx

/-- The root of u units, in units: doubled, it compares with a number w as 4u·2^149 with w². -/
theorem stickyRoot_units (w : Nat) :
    (w * 2 ^ 12 ≤ stickyRoot x.num x.den ↔ w * w ≤ 4 * (u * 2 ^ 149)) ∧
    (stickyRoot x.num x.den ≤ w * 2 ^ 12 ↔ 4 * (u * 2 ^ 149) ≤ w * w) := by
  have habs := hx.natAbs_eq
  obtain ⟨hd, -, -⟩ := hx
  obtain ⟨hle, hge⟩ := stickyRoot_spec (num := x.num) hd (w * 2 ^ 10)
  rw [show w * 2 ^ 12 = 4 * (w * 2 ^ 10) by ring, hle, hge]
  rw [Int.natAbs_natCast, Nat.mul_one] at habs
  have hpos : 0 < 2 ^ 20 * x.den := by positivity
  have e1 : w * 2 ^ 10 * (w * 2 ^ 10) * x.den = (w * w) * (2 ^ 20 * x.den) := by ring
  have e2 : x.num * 2 ^ 320 = 4 * (u * 2 ^ 149) * (2 ^ 20 * x.den) := by
    rw [show 320 = 149 + 171 from rfl, pow_add, ← mul_assoc, habs]
    ring
  rw [e1, e2, Nat.mul_le_mul_right_iff hpos, Nat.mul_le_mul_right_iff hpos]
  exact ⟨Iff.rfl, Iff.rfl⟩

/-- A root neither overflows nor is tiny. -/
theorem roundFP_sqrtReal (hu : 0 < u) (hmax : u < 2 ^ 277) (rm : RM) :
    fp32.Fin (roundFP fp32 rm (sqrtReal x.num x.den)).1 ∧
    bitAt (roundFP fp32 rm (sqrtReal x.num x.den)).1 31 = false ∧
    NearestTo rm (stickyRoot x.num x.den) (2 ^ 13) (fun t => ∃ w, fp32.Fin w ∧ fp32.sval w * (1 : Nat) = t)
      (fp32.sval (roundFP fp32 rm (sqrtReal x.num x.den)).1 * (1 : Nat)) ((roundFP fp32 rm (sqrtReal x.num x.den)).1 % 2 = 0) ∧
    (roundFP fp32 rm (sqrtReal x.num x.den)).2 =
      flIf (decide (fp32.sval (roundFP fp32 rm (sqrtReal x.num x.den)).1 * (1 : Nat) * (2 ^ 13 : Nat) ≠ stickyRoot x.num x.den)) flNX := by
  have hd := roundFP_delivers fp32_regular fp32_unit (stickyRoot_measures x.num x.den) rm
  have hge : 2 ^ 74 * 2 ^ 12 ≤ stickyRoot x.num x.den := (stickyRoot_units hx _).1.2 (by rw [← pow_add]; omega)
  have hle : stickyRoot x.num x.den ≤ 2 ^ 214 * 2 ^ 12 := (stickyRoot_units hx _).2.2 (by
    rw [show 2 ^ 214 * 2 ^ 214 = 4 * (2 ^ 277 * 2 ^ 149) by rw [show 4 = 2 ^ 2 from rfl, ← pow_add, ← pow_add, ← pow_add]]
    exact Nat.mul_le_mul_left _ (Nat.mul_le_mul_right _ hmax.le))
  have hover : fp32.over rm (decide ((stickyRoot x.num x.den : Int) < 0)) (stickyRoot x.num x.den : Int).natAbs (2 ^ 13 * 1) = false :=
    Fmt.over_of_lt (by rw [magVal_maxBits_fp32, Int.natAbs_natCast]; omega)
  have htiny : fp32.tiny rm (decide ((stickyRoot x.num x.den : Int) < 0)) (stickyRoot x.num x.den : Int).natAbs (2 ^ 13 * 1) = false :=
    Fmt.tiny_of_le (by rw [Int.natAbs_natCast, show fp32.mbits = 23 from rfl]; omega)
  rw [hover, if_neg Bool.false_ne_true, htiny, Bool.false_and] at hd
  obtain ⟨hfin, hsign, hnear, hfl⟩ := hd
  refine ⟨hfin, hsign, hnear, ?_⟩
  rw [hfl]
  simp [flIf]

end

theorem nearestTo_zero {q : Nat} (hq : 0 < q) (rm : RM) (S : Int → Prop) (even : Prop) : NearestTo rm 0 q S 0 even := by
  have hq' : (0 : Int) < q := by exact_mod_cast hq
  cases rm with
  | rne => exact fun t _ => ⟨by simp, fun h hne => absurd h.symm (by simp [hne, hq.ne'])⟩
  | rtz => exact ⟨by simp, by simp, fun t _ h => by simpa [hq.ne'] using h⟩
  | rup => exact ⟨by simp, fun t _ h => by nlinarith⟩
  | rdn => exact ⟨by simp, fun t _ h => by nlinarith⟩

/-- The root of u units that an instruction rounds is nearest to a number s of 2^-13 units that compares with doubled values as twice the root. -/
structure RootOf (rm : RM) (u : Nat) (o : LaneOut) (r s : Nat) : Prop where
  finite : finiteF32 o.val = true
  units : unitsF32 o.val = r
  le_iff (w : Nat) : w * 2 ^ 12 ≤ s ↔ w * w ≤ 4 * (u * 2 ^ 149)
  ge_iff (w : Nat) : s ≤ w * 2 ^ 12 ↔ 4 * (u * 2 ^ 149) ≤ w * w
  nearest : NearestTo rm s (2 ^ 13) ValueF32 r (o.val.getLsbD 0 = false)
  flags : o.flags = flIf (decide (r * 2 ^ 13 ≠ s)) flNX

theorem fsqrt_result {a : Word} (b c d : Word) (k : Nat) (rm : RM) (ha : finiteF32 a = true) {u : Nat} (hu : unitsF32 a = u) :
    ∃ r s, RootOf rm u (laneEval (.fsqrt rm) a b c d k) r s := by
  obtain ⟨m, e, hda, hma⟩ := decode_fp32 ha
  have hm : m = 0 ↔ unitsF32 a = 0 := (scaled_num_eq_zero_iff a.msb m e).symm.trans hma.num_eq_zero_iff
  have heval : laneEval (.fsqrt rm) a b c d k = floatOut (fSqrt fp32 rm (.fin a.msb m e)) := by
    change floatOut (fSqrt fp32 rm (fp32.decode a.toNat)) = _
    rw [hda]
  rw [heval]
  unfold fSqrt
  dsimp only
  rcases Nat.eq_zero_or_pos u with rfl | hpos
  · rw [if_pos (hm.2 (by simpa using hu))]
    refine ⟨0, 0, ?_, ?_, fun w => ?_, fun w => ?_, ?_, ?_⟩
    · cases a.msb <;> decide
    · cases a.msb <;> decide
    · simp
    · simp
    · exact nearestTo_zero (by positivity) ..
    · simp [floatOut, flIf]
  · have hne : unitsF32 a ≠ 0 := by omega
    have hneg : a.msb = false := by
      have := hma.signOf hne
      rw [scaled_neg] at this
      rw [this]
      exact decide_eq_false (by omega)
    have hmax : u < 2 ^ 277 := by
      have hmag : (unitsF32 a).natAbs = fp32.magVal (a.toNat % 2 ^ 31) := by rw [unitsF32_eq_sval]; exact natAbs_signed ..
      rw [show u = (unitsF32 a).natAbs by omega, hmag, ← magVal_maxBits_succ_fp32]
      exact fp32.magVal_strictMono (Nat.lt_succ_of_le ((finiteF32_iff a).1 ha))
    rw [if_neg (mt hm.1 hne), hneg, if_neg Bool.false_ne_true]
    rw [hneg, hu] at hma
    have hunits := stickyRoot_units hma
    obtain ⟨hfin, hsign, hnear, hfl⟩ := roundFP_sqrtReal hma hpos hmax rm
    generalize roundFP fp32 rm (sqrtReal (scaled false m e).num (scaled false m e).den) = z at hfin hsign hnear hfl ⊢
    have hval : unitsF32 (BitVec.ofNat 32 z.1) = fp32.magVal (z.1 % 2 ^ 31) := by
      rw [unitsF32_ofNat hfin, Fmt.sval, show fp32.mag = 31 from rfl, hsign]
      simp [signed]
    have hnear' := nearestTo_valueF32 hfin hnear
    rw [hval] at hnear'
    rw [← unitsF32_ofNat hfin, hval] at hfl
    exact ⟨_, _, finiteF32_ofNat hfin, hval, fun w => (hunits w).1, fun w => (hunits w).2, hnear', by rw [floatOut, hfl]; norm_cast⟩

section
variable {rm : RM} {u r s : Nat} {o : LaneOut} (h : RootOf rm u o r s)
include h

theorem RootOf.mul_self_le_iff (v : Nat) : v * v ≤ u * 2 ^ 149 ↔ v * 2 ^ 13 ≤ s := by
  rw [show v * 2 ^ 13 = 2 * v * 2 ^ 12 by ring, h.le_iff, show 2 * v * (2 * v) = 4 * (v * v) by ring]
  omega

theorem RootOf.le_mul_self_iff (v : Nat) : u * 2 ^ 149 ≤ v * v ↔ s ≤ v * 2 ^ 13 := by
  rw [show v * 2 ^ 13 = 2 * v * 2 ^ 12 by ring, h.ge_iff, show 2 * v * (2 * v) = 4 * (v * v) by ring]
  omega

theorem RootOf.flags_eq : o.flags = if r * r = u * 2 ^ 149 then 0 else flNX := by
  have hiff : r * r = u * 2 ^ 149 ↔ r * 2 ^ 13 = s := by
    rw [le_antisymm_iff, le_antisymm_iff, h.mul_self_le_iff, h.le_mul_self_iff]
  rw [h.flags]
  simp only [flIf, hiff, decide_eq_true_eq, ne_eq, ite_not]

/-- Rounded up, a root is the least value that is not below it. -/
theorem RootOf.up (hrm : rm = .rup) : u * 2 ^ 149 ≤ r * r ∧ ∀ v : Nat, ValueF32 v → u * 2 ^ 149 ≤ v * v → r ≤ v := by
  subst hrm
  obtain ⟨hle, hleast⟩ := h.nearest
  refine ⟨(h.le_mul_self_iff r).2 (by exact_mod_cast hle), fun v hv hsq => ?_⟩
  exact_mod_cast hleast v hv (by exact_mod_cast (h.le_mul_self_iff v).1 hsq)

/-- Rounded down or towards zero, it is the greatest that is not above it. -/
theorem RootOf.down (hrm : rm = .rtz ∨ rm = .rdn) : r * r ≤ u * 2 ^ 149 ∧ ∀ v : Nat, ValueF32 v → v * v ≤ u * 2 ^ 149 → v ≤ r := by
  have hmain : (r * 2 ^ 13 ≤ s ∧ ∀ v : Nat, ValueF32 v → v * 2 ^ 13 ≤ s → v ≤ r) := by
    have hn := h.nearest
    rcases hrm with rfl | rfl
    · obtain ⟨hle, -, hgreatest⟩ := hn
      exact ⟨by simpa using hle, fun v hv hsq => by simpa using hgreatest v hv (by simpa using hsq)⟩
    · obtain ⟨hle, hgreatest⟩ := hn
      exact ⟨by exact_mod_cast hle, fun v hv hsq => by exact_mod_cast hgreatest v hv (by exact_mod_cast hsq)⟩
  exact ⟨(h.mul_self_le_iff r).2 hmain.1, fun v hv hsq => hmain.2 v hv ((h.mul_self_le_iff v).1 hsq)⟩

/-- Rounded to nearest, it is on the same side of the middle between it and any other value. -/
theorem RootOf.middle (hrm : rm = .rne) {v : Nat} (hv : ValueF32 v) :
    (v < r → (r + v) * (r + v) ≤ 4 * (u * 2 ^ 149)) ∧ (r < v → 4 * (u * 2 ^ 149) ≤ (r + v) * (r + v)) := by
  subst hrm
  have hn := (h.nearest v hv).1
  push_cast at hn
  rw [← h.le_iff, ← h.ge_iff]
  omega

end

/-- A square root rounded in each mode. -/
theorem fsqrt_rounded {a : Word} (b c d : Word) (k : Nat) (rm : RM) (ha : finiteF32 a = true) {o : LaneOut} {r : Int}
    (h0 : 0 ≤ unitsF32 a) (ho : o = laneEval (.fsqrt rm) a b c d k) (hr : r = unitsF32 o.val) :
    finiteF32 o.val = true ∧ 0 ≤ r ∧ (o.flags = if r * r = unitsF32 a * 2 ^ 149 then 0 else flNX) ∧
    (rm = .rup → unitsF32 a * 2 ^ 149 ≤ r * r ∧
      ∀ w, finiteF32 w = true → 0 ≤ unitsF32 w → unitsF32 a * 2 ^ 149 ≤ unitsF32 w * unitsF32 w → r ≤ unitsF32 w) ∧
    (rm = .rne → ∀ w v, finiteF32 w = true → v = unitsF32 w → 0 ≤ v →
      (v < r → (r + v) * (r + v) ≤ 4 * (unitsF32 a * 2 ^ 149)) ∧ (r < v → 4 * (unitsF32 a * 2 ^ 149) ≤ (r + v) * (r + v))) ∧
    (rm = .rtz ∨ rm = .rdn → r * r ≤ unitsF32 a * 2 ^ 149 ∧
      ∀ w, finiteF32 w = true → unitsF32 w * unitsF32 w ≤ unitsF32 a * 2 ^ 149 → unitsF32 w ≤ r) := by
  obtain ⟨u, hu⟩ := Int.eq_ofNat_of_zero_le h0
  obtain ⟨n, s, h⟩ := fsqrt_result b c d k rm ha hu
  rw [← ho] at h
  rw [h.units] at hr
  subst hr
  rw [hu]
  refine ⟨h.finite, by omega, ?_, fun hrm => ?_, fun hrm w v hw hv hv0 => ?_, fun hrm => ?_⟩
  · rw [h.flags_eq]; norm_cast
  · obtain ⟨hle, hleast⟩ := h.up hrm
    refine ⟨by exact_mod_cast hle, fun w hw hw0 hsq => ?_⟩
    obtain ⟨v, hv⟩ := Int.eq_ofNat_of_zero_le hw0
    rw [hv] at hsq ⊢
    exact_mod_cast hleast v ⟨w, hw, hv⟩ (by exact_mod_cast hsq)
  · obtain ⟨v, rfl⟩ := Int.eq_ofNat_of_zero_le hv0
    have hm := h.middle hrm (v := v) ⟨w, hw, hv.symm⟩
    exact_mod_cast hm
  · obtain ⟨hle, hgreatest⟩ := h.down hrm
    refine ⟨by exact_mod_cast hle, fun w hw hsq => ?_⟩
    rcases lt_or_ge (unitsF32 w) 0 with hneg | hpos
    · omega
    · obtain ⟨v, hv⟩ := Int.eq_ofNat_of_zero_le hpos
      rw [hv] at hsq ⊢
      exact_mod_cast hgreatest v ⟨w, hw, hv⟩ (by exact_mod_cast hsq)

/-! ### The obligation -/

/-- Settles O14: each operation forms an exact real that measures the stated quotient, and `resultF32_of_measures` says how it is rounded. -/
theorem floatingResultsAreRounded : Obligations.FloatingResultsAreRounded := by
  unfold Obligations.FloatingResultsAreRounded
  refine ⟨fun a b c d k rm ha hb hc => ?_, fun a b c d k rm => ⟨cvt_i32_result a b c d k rm, cvt_u32_result a b c d k rm, ?_⟩⟩
  · obtain ⟨hadd, hzero⟩ := fadd_result (c := c) d k rm ha hb
    have hrnd (rm : RM) := frnd_result b c d k rm ha
    refine ⟨hadd, hzero, fsub_result d k rm ha hb, fmul_result d k rm ha hb, fun np nc p hp => ?_, fdiv_result d k rm ha hb,
      fun o r h0 ho hr => ?_, ?_, fun r h0 hrm hr => ?_, ?_, ?_⟩
    · rw [hp]
      exact fma_result d k rm ha hb np nc hc
    · obtain ⟨hfin, hr0, hfl, hup, hne, -⟩ := fsqrt_rounded b c d k rm ha h0 ho hr
      exact ⟨hfin, hr0, hfl, hup, hne⟩
    · rintro o rfl
      exact hrnd rm
    · obtain ⟨-, hr0, -, -, -, hdown⟩ := fsqrt_rounded b c d k rm ha h0 rfl hr
      exact ⟨hr0, hdown hrm⟩
    · rintro o rfl
      obtain ⟨hval, -, hfl⟩ := hrnd .rdn
      exact ⟨hval, hfl⟩
    · rintro o rfl
      obtain ⟨hval, -, hfl⟩ := hrnd .rup
      exact ⟨hval.trans (neg_mul _ _), hfl⟩
  · rintro p hc rfl
    exact qgdec_result a b d k rm hc

end
end Sys2Proof.Machine

namespace Sys2Proof.Machine
section
/-!
# Special values: NaNs, infinities and zeros, order, packed formats and classes
-/

/-! ### Reading NaNs and infinities (R68) -/

theorem fp32_infBits : fp32.infBits = 0x7F800000 := by decide

theorem fp32_maxBits : fp32.maxBits = 0x7F7FFFFF := by decide

theorem nanF32_iff (x : Word) : nanF32 x = true ↔ 0x7F800000 < x.toNat % 2 ^ 31 := by
  unfold nanF32
  rw [Bool.and_eq_true, decide_eq_true_iff, decide_eq_true_iff]
  omega

theorem nanF32_eq_false_of_finite {x : Word} (h : finiteF32 x = true) : nanF32 x = false := by
  rw [finiteF32_iff] at h
  rw [← Bool.not_eq_true, nanF32_iff]
  omega

theorem decode_nan {a : Word} (h : nanF32 a = true) : fp32.decode a.toNat = .nan (signalF32 a) := by
  have hlt := (nanF32_iff a).1 h
  unfold Fmt.decode
  rw [fp32_infBits, fp32_maxBits, show fp32.mag = 31 from rfl, show fp32.mbits = 23 from rfl]
  dsimp only
  rw [if_neg (by omega), if_pos (by omega), signalF32, h, Bool.true_and, BitVec.getLsbD, Nat.testBit_eq_decide_div_mod_eq]
  congr 1
  rw [← decide_not, decide_eq_decide]
  omega

theorem decode_inf {a : Word} (h : nanF32 a = false) (hf : finiteF32 a = false) : fp32.decode a.toNat = .inf a.msb := by
  rw [← Bool.not_eq_true, nanF32_iff] at h
  rw [← Bool.not_eq_true, finiteF32_iff] at hf
  unfold Fmt.decode
  rw [fp32_infBits, show fp32.mag = 31 from rfl, bitAt_msb]
  dsimp only
  rw [if_pos ⟨by omega, rfl⟩]

theorem isNan_decode (a : Word) : (fp32.decode a.toNat).isNan = nanF32 a := by
  cases hn : nanF32 a with
  | true => rw [decode_nan hn]; rfl
  | false =>
    cases hf : finiteF32 a with
    | true =>
      obtain ⟨m, e, hd, -⟩ := decode_fp32 hf
      rw [hd]; rfl
    | false => rw [decode_inf hn hf]; rfl

theorem nvOf_decode (a : Word) : nvOf (fp32.decode a.toNat) = if signalF32 a then flNV else 0 := by
  cases hn : nanF32 a with
  | true =>
    rw [decode_nan hn]
    cases signalF32 a <;> rfl
  | false =>
    have hs : signalF32 a = false := by rw [signalF32, hn, Bool.false_and]
    rw [hs]
    cases hf : finiteF32 a with
    | true =>
      obtain ⟨m, e, hd, -⟩ := decode_fp32 hf
      rw [hd]; rfl
    | false => rw [decode_inf hn hf]; rfl

theorem nvOf_or (a b : Word) : nvOf (fp32.decode a.toNat) ||| nvOf (fp32.decode b.toNat) =
    if signalF32 a || signalF32 b then flNV else 0 := by
  rw [nvOf_decode, nvOf_decode]
  cases signalF32 a <;> cases signalF32 b <;> rfl

/-! ### NaN sources (R68) -/

section
variable {f : Fmt} {rm : RM} {x y : FVal} (h : x.isNan = true ∨ y.isNan = true)
include h

theorem fAdd_of_isNan : fAdd f rm x y = (f.nan, nvOf x ||| nvOf y) := by
  cases x <;> cases y <;> simp_all [FVal.isNan, fAdd]

theorem fMul_of_isNan : fMul f rm x y = (f.nan, nvOf x ||| nvOf y) := by
  cases x <;> cases y <;> simp_all [FVal.isNan, fMul]

theorem fDiv_of_isNan : fDiv f rm x y = (f.nan, nvOf x ||| nvOf y) := by
  cases x <;> cases y <;> simp_all [FVal.isNan, fDiv]

end

theorem FVal.isNan_negate (x : FVal) : x.negate.isNan = x.isNan := by cases x <;> rfl

theorem nvOf_negate (x : FVal) : nvOf x.negate = nvOf x := by cases x <;> rfl

/-- The outcome of VFMIN and VFMAX where a source is a NaN (R133). -/
theorem fMinMax_of_nan (isMax nanProp : Bool) {a b : Word} (h : nanF32 a = true ∨ nanF32 b = true) :
    fMinMax fp32 isMax nanProp a.toNat b.toNat =
      (if nanProp = true ∨ nanF32 a = true ∧ nanF32 b = true then fp32.nan else if nanF32 a = true then b.toNat else a.toNat,
        if signalF32 a || signalF32 b then flNV else 0) := by
  unfold fMinMax
  simp only [isNan_decode, nvOf_or]
  cases ha : nanF32 a <;> cases hb : nanF32 b <;> simp [ha, hb] at h ⊢

theorem floatOut_toNat (x : Word) (fl : Flags) : floatOut (x.toNat, fl) = ⟨x, fl⟩ := by simp [floatOut]

/-! ### Order (R133) -/

theorem unitsF32_natAbs (a : Word) : (unitsF32 a).natAbs = fp32.magVal (a.toNat % 2 ^ 31) := by
  rw [unitsF32_eq_sval]; exact natAbs_signed ..

theorem unitsF32_sign (a : Word) : if a.msb then unitsF32 a ≤ 0 else 0 ≤ unitsF32 a := by
  rw [unitsF32_eq_sval, Fmt.sval, show fp32.mag = 31 from rfl, bitAt_msb]
  cases a.msb <;> simp [signed]

theorem eq_of_unitsF32_eq {a b : Word} (h : unitsF32 a = unitsF32 b) (hs : a.msb = b.msb) : a = b := by
  have hmag := congrArg Int.natAbs h
  rw [unitsF32_natAbs, unitsF32_natAbs] at hmag
  have hlow := fp32.magVal_strictMono.injective hmag
  rw [← bitAt_msb, ← bitAt_msb, bitAt, bitAt, decide_eq_decide] at hs
  apply BitVec.eq_of_toNat_eq
  omega

/-- Significands aligned to the lower exponent compare as the values do. -/
theorem aligned_lt_iff {m n : Nat} {e g : Int} (he : -149 ≤ e) (hg : -149 ≤ g) :
    ((if g ≤ e then m * 2 ^ (e - g).natAbs else m) < (if g ≤ e then n else n * 2 ^ (e - g).natAbs) ↔
      m * 2 ^ (e + 149).toNat < n * 2 ^ (g + 149).toNat) ∧
    ((if g ≤ e then n else n * 2 ^ (e - g).natAbs) < (if g ≤ e then m * 2 ^ (e - g).natAbs else m) ↔
      n * 2 ^ (g + 149).toNat < m * 2 ^ (e + 149).toNat) := by
  split
  · rw [show (e + 149).toNat = (e - g).natAbs + (g + 149).toNat by omega, pow_add, ← mul_assoc, Nat.mul_lt_mul_right (by positivity),
      Nat.mul_lt_mul_right (by positivity)]
    exact ⟨Iff.rfl, Iff.rfl⟩
  · rw [show (g + 149).toNat = (e - g).natAbs + (e + 149).toNat by omega, pow_add, ← mul_assoc, Nat.mul_lt_mul_right (by positivity),
      Nat.mul_lt_mul_right (by positivity)]
    exact ⟨Iff.rfl, Iff.rfl⟩

theorem fin_lt {s t : Bool} {m n : Nat} {e g : Int} (he : -149 ≤ e) (hg : -149 ≤ g) :
    (FVal.fin s m e).lt (.fin t n g) = decide (signed s (m * 2 ^ (e + 149).toNat) < signed t (n * 2 ^ (g + 149).toNat)) := by
  have hx : m ≠ 0 → 0 < m * 2 ^ (e + 149).toNat := fun h => by positivity
  have hy : n ≠ 0 → 0 < n * 2 ^ (g + 149).toNat := fun h => by positivity
  obtain ⟨hlt, hgt⟩ := aligned_lt_iff (m := m) (n := n) he hg
  unfold FVal.lt FVal.key signed
  by_cases hm : m = 0 <;> by_cases hn : n = 0
  · subst hm hn; cases s <;> cases t <;> simp
  · subst hm
    cases s <;> cases t <;> simp [hn] <;> omega
  · subst hn
    cases s <;> cases t <;> simp [hm] <;> omega
  · cases s <;> cases t <;> simp [hm, hn]
    · exact_mod_cast hlt
    · exact (neg_nonpos.2 (by positivity)).trans (by positivity)
    · exact (neg_nonpos.2 (by positivity)).trans_lt (by exact_mod_cast hy hn)
    · exact_mod_cast hgt

section
variable {a b : Word} (ha : finiteF32 a = true) (hb : finiteF32 b = true)
include ha

theorem decode_units : ∃ m e, fp32.decode a.toNat = .fin a.msb m e ∧ -149 ≤ e ∧ unitsF32 a = signed a.msb (m * 2 ^ (e + 149).toNat) ∧
    (m < 2 ^ 23 ↔ a.toNat % 2 ^ 31 < 2 ^ 23) ∧ (m = 0 ↔ unitsF32 a = 0) := by
  obtain ⟨m, e, hd, he, -, hval, hsub⟩ := fp32.decode_of_le (by decide) ((fin_toNat_iff a).2 ha).2
  have hq : fp32.qmin = -149 := by decide
  rw [hq] at he hval
  rw [show fp32.mag = 31 from rfl] at hd hval hsub
  rw [bitAt_msb] at hd
  have hu : unitsF32 a = signed a.msb (m * 2 ^ (e + 149).toNat) := by
    rw [unitsF32_eq_sval, Fmt.sval, show fp32.mag = 31 from rfl, bitAt_msb, ← hval]
    rfl
  refine ⟨m, e, hd, he, hu, hsub, ?_⟩
  rw [hu, ← Int.natAbs_eq_zero, natAbs_signed]
  simp

include hb

theorem decode_lt : (fp32.decode a.toNat).lt (fp32.decode b.toNat) = decide (unitsF32 a < unitsF32 b) := by
  obtain ⟨m, e, hda, he, hua, -⟩ := decode_units ha
  obtain ⟨n, g, hdb, hg, hub, -⟩ := decode_units hb
  rw [hda, hdb, fin_lt he hg, hua, hub]

omit hb in
theorem isZero_decode (s : Bool) : ((fp32.decode a.toNat).isZero == some s) = (decide (unitsF32 a = 0) && (a.msb == s)) := by
  obtain ⟨m, e, hda, -, -, -, hz⟩ := decode_units ha
  simp only [hda, ← hz]
  cases m with
  | zero => simp [FVal.isZero]
  | succ m => simp [FVal.isZero]

/-- The outcome of VFMIN and VFMAX of finite sources: −0 is less than +0 (R133). -/
theorem fMinMax_of_finite (nanProp : Bool) :
    fMinMax fp32 false nanProp a.toNat b.toNat =
      ((if unitsF32 a < unitsF32 b ∨ (unitsF32 a = unitsF32 b ∧ a.msb = true) then a else b).toNat, 0) ∧
    fMinMax fp32 true nanProp a.toNat b.toNat =
      ((if unitsF32 b < unitsF32 a ∨ (unitsF32 a = unitsF32 b ∧ a.msb = false) then a else b).toNat, 0) := by
  have hna := nanF32_eq_false_of_finite ha
  have hnb := nanF32_eq_false_of_finite hb
  unfold fMinMax FVal.eqv
  simp only [isNan_decode, nvOf_or, signalF32, hna, hnb, decode_lt ha hb, decode_lt hb ha, isZero_decode ha, isZero_decode hb,
    Bool.false_and, Bool.or_false, Bool.false_eq_true, if_false]
  rcases lt_trichotomy (unitsF32 a) (unitsF32 b) with h | h | h
  · simp [h, h.not_gt, h.ne]
  · by_cases hs : a.msb = b.msb
    · obtain rfl := eq_of_unitsF32_eq h hs
      simp
    · have hza : unitsF32 a = 0 := by
        have hsa := unitsF32_sign a
        have hsb := unitsF32_sign b
        cases ma : a.msb <;> cases mb : b.msb <;> simp_all <;> omega
      have hzb : unitsF32 b = 0 := h.symm.trans hza
      cases ma : a.msb <;> cases mb : b.msb <;> simp_all
  · simp [h, h.not_gt, h.ne']

end

/-! ### Packed formats (R71) -/

theorem half_false_toNat (x : Word) : (half x false).toNat = x.toNat % 65536 := by simp [half]

theorem half_true_toNat (x : Word) : (half x true).toNat = x.toNat / 65536 := by
  rw [half, if_pos rfl, BitVec.extractLsb'_toNat, Nat.shiftRight_eq_div_pow]
  omega

theorem pack16_ofNat {lo : Nat} (hi : Nat) (h : lo < 65536) :
    pack16 (BitVec.ofNat 16 lo) (BitVec.ofNat 16 hi) = BitVec.ofNat 32 (lo + 65536 * hi) := by
  apply BitVec.eq_of_toNat_eq
  rw [pack16, BitVec.toNat_append, ← Nat.shiftLeft_add_eq_or_of_lt (BitVec.isLt _), Nat.shiftLeft_eq]
  simp only [BitVec.toNat_ofNat]
  omega

/-- Every code that the format delivers has its bits. -/
def Fmt.Delivers (f : Fmt) : Prop := f.nan < 2 ^ (f.mag + 1) ∧ ∀ neg, f.encInf neg < 2 ^ (f.mag + 1)

section
variable {f : Fmt} (hf : f.Delivers) (rm : RM)
include hf

theorem roundFP_lt (x : Real') : (roundFP f rm x).1 < 2 ^ (f.mag + 1) := by
  obtain ⟨neg, num, den⟩ := x
  have hmax := f.maxBits_lt
  rcases Nat.eq_zero_or_pos num with rfl | h
  · rw [roundFP_zero]
    exact Fmt.encZero_add_lt (n := 0) (by positivity)
  · rw [roundFP_of_pos h rfl rfl rfl rfl]
    split
    · unfold Fmt.overflowed
      dsimp only
      split
      · exact hf.2 neg
      · exact Fmt.encZero_add_lt hmax
    · exact Fmt.encZero_add_lt (by omega)

theorem fAdd_lt (x y : FVal) : (fAdd f rm x y).1 < 2 ^ (f.mag + 1) := by
  unfold fAdd
  split
  · exact hf.1
  · exact hf.1
  · split
    · exact hf.2 _
    · exact hf.1
  · exact hf.2 _
  · exact hf.2 _
  · exact roundFP_lt hf rm _

theorem fMul_lt (x y : FVal) : (fMul f rm x y).1 < 2 ^ (f.mag + 1) := by
  unfold fMul
  split
  · exact hf.1
  · exact hf.1
  · exact hf.2 _
  · split
    · exact hf.1
    · exact hf.2 _
  · split
    · exact hf.1
    · exact hf.2 _
  · exact roundFP_lt hf rm _

theorem fCvt_lt (x : FVal) : (fCvt f rm x).1 < 2 ^ (f.mag + 1) := by
  unfold fCvt
  split
  · exact hf.1
  · exact hf.2 _
  · exact roundFP_lt hf rm _

end

theorem fp16_delivers : fp16.Delivers := ⟨by decide, by decide⟩

theorem bf16_delivers : bf16.Delivers := ⟨by decide, by decide⟩

/-- An operation on packed elements. -/
theorem perElement_packed {t : FFmt} (ht : t ≠ .f32) (op : Nat → Nat → Nat → Nat × Flags) (a b c : Word) {lo hi : Nat × Flags}
    (hlo : lo = op (a.toNat % 65536) (b.toNat % 65536) (c.toNat % 65536))
    (hhi : hi = op (a.toNat / 65536) (b.toNat / 65536) (c.toNat / 65536)) (hlt : lo.1 < 65536) :
    perElement t op a b c = ⟨BitVec.ofNat 32 (lo.1 + 65536 * hi.1), lo.2 ||| hi.2⟩ := by
  rw [← pack16_ofNat _ hlt, hlo, hhi]
  simp only [← half_false_toNat, ← half_true_toNat]
  cases t with
  | f32 => exact absurd rfl ht
  | f16x2 => rfl
  | bf16x2 => rfl

/-! ### Classes (R137) -/

theorem magVal_lt_iff (n : Nat) : fp32.magVal n < 2 ^ 23 ↔ n < 2 ^ 23 := by
  have h : fp32.magVal (2 ^ 23) = 2 ^ 23 := by decide
  conv_lhs => rw [← h]
  exact fp32.magVal_strictMono.lt_iff_lt

theorem fClass_eq (a : Word) : BitVec.ofNat 32 (fClass fp32 a.toNat) =
    if nanF32 a then (if signalF32 a then 0x100 else 0x200)
    else if finiteF32 a then
      (if unitsF32 a = 0 then (if a.msb then 0x008 else 0x010)
       else if (unitsF32 a).natAbs < 2 ^ 23 then (if a.msb then 0x004 else 0x020) else (if a.msb then 0x002 else 0x040))
    else (if a.msb then 0x001 else 0x080) := by
  unfold fClass
  cases hn : nanF32 a with
  | true =>
    rw [decode_nan hn]
    cases signalF32 a <;> rfl
  | false =>
    cases hf : finiteF32 a with
    | false =>
      rw [decode_inf hn hf]
      cases a.msb <;> rfl
    | true =>
      obtain ⟨m, e, hd, -, -, hsub, hz⟩ := decode_units hf
      rw [hd]
      simp only [← hz, unitsF32_natAbs, magVal_lt_iff, ← hsub, show fp32.mbits = 23 from rfl, Bool.false_eq_true, if_false, if_true]
      split
      · cases a.msb <;> rfl
      · split <;> cases a.msb <;> rfl

/-! ### Quotients by zero and roots of negative values (R135) -/

theorem fdiv_by_zero {a : Word} (c d : Word) (k : Nat) (rm : RM) (ha : finiteF32 a = true) (h0 : unitsF32 a ≠ 0) :
    laneEval (.fdiv rm) a 0 c d k = ⟨if a.msb then 0xFF800000 else 0x7F800000, flDZ⟩ := by
  obtain ⟨m, e, hd, -, -, -, hz⟩ := decode_units ha
  change floatOut (fDiv fp32 rm (fp32.decode a.toNat) (.fin false 0 (-149))) = _
  rw [hd]
  dsimp only [fDiv]
  rw [if_pos rfl, if_neg (mt hz.1 h0)]
  cases a.msb <;> rfl

theorem fsqrt_of_neg {a : Word} (b c d : Word) (k : Nat) (rm : RM) (ha : finiteF32 a = true) (h0 : unitsF32 a < 0) :
    laneEval (.fsqrt rm) a b c d k = ⟨0x7FC00000, flNV⟩ := by
  obtain ⟨m, e, hd, -, hu, -, hz⟩ := decode_units ha
  have hs : a.msb = true := by
    have := unitsF32_sign a
    by_contra hs
    rw [Bool.not_eq_true] at hs
    rw [hs] at this
    simp at this
    omega
  change floatOut (fSqrt fp32 rm (fp32.decode a.toNat)) = _
  rw [hd]
  dsimp only [fSqrt]
  rw [if_neg (mt hz.1 h0.ne), hs]
  rfl

/-! ### Exact points of the special functions (R136) -/

/-- The root of a quarter. -/
theorem sqrtReal_quarter : sqrtReal (2 ^ 21) (2 ^ 23) = ⟨false, 2 ^ 161, 2 ^ 162⟩ := by
  have hsq : 2 ^ 159 * 2 ^ 159 * 2 ^ 23 = 2 ^ 21 * 2 ^ 320 := by rw [← pow_add, ← pow_add, ← pow_add]
  obtain ⟨hle, hge⟩ := stickyRoot_spec (num := 2 ^ 21) (den := 2 ^ 23) (by positivity) (2 ^ 159)
  rw [sqrtReal_eq, le_antisymm (hge.2 hsq.ge) (hle.2 hsq.le)]
  congr 1

theorem rsqrt_four : sfEval .rsqrt 0x40800000 = ⟨0x3F000000, 0⟩ := by
  have hd : fp32.decode (0x40800000 : Word).toNat = .fin false (2 ^ 23) (-21) := by decide
  have hs : scaled false (2 ^ 23) (-21) = ⟨false, 2 ^ 23, 2 ^ 21⟩ := rfl
  unfold sfEval
  rw [hd]
  dsimp only
  unfold sfFinite
  rw [hs]
  dsimp only
  rw [sqrtReal_quarter]
  decide
theorem sfEval_exact :
    sfEval .rcp 0 = ⟨0x7F800000, flDZ⟩ ∧ sfEval .rcp 0x40000000 = ⟨0x3F000000, 0⟩ ∧ sfEval .rsqrt 0xBF800000 = ⟨0x7FC00000, flNV⟩ ∧
    sfEval .exp2 0x40400000 = ⟨0x41000000, 0⟩ ∧ sfEval .log2 0x41000000 = ⟨0x40400000, 0⟩ ∧ sfEval .log2 0 = ⟨0xFF800000, flDZ⟩ ∧
    sfEval .sinpi 0x3F000000 = ⟨0x3F800000, 0⟩ ∧ sfEval .cospi 0x3F800000 = ⟨0xBF800000, 0⟩ ∧
    sfEval .tanh 0xFF800000 = ⟨0xBF800000, 0⟩ ∧ sfEval .sigmoid 0 = ⟨0x3F000000, 0⟩ := by
  decide

/-! ### The obligation -/

theorem nan_results {a b : Word} (c d : Word) (k : Nat) (rm : RM) (h : nanF32 a = true ∨ nanF32 b = true) {sig : Flags}
    (hsig : sig = if signalF32 a || signalF32 b then flNV else 0) :
    laneEval (.fadd .f32 rm) a b c d k = ⟨0x7FC00000, sig⟩ ∧ laneEval (.fsub .f32 rm) a b c d k = ⟨0x7FC00000, sig⟩ ∧
    laneEval (.fmul .f32 rm) a b c d k = ⟨0x7FC00000, sig⟩ ∧ laneEval (.fdiv rm) a b c d k = ⟨0x7FC00000, sig⟩ ∧
    laneEval (.fmin .f32 true) a b c d k = ⟨0x7FC00000, sig⟩ ∧ laneEval (.fmax .f32 true) a b c d k = ⟨0x7FC00000, sig⟩ := by
  subst hsig
  have hnan : (fp32.decode a.toNat).isNan = true ∨ (fp32.decode b.toNat).isNan = true := by rwa [isNan_decode, isNan_decode]
  refine ⟨?_, ?_, ?_, ?_, ?_, ?_⟩
  · exact congrArg floatOut ((fAdd_of_isNan hnan).trans (by rw [nvOf_or]))
  · exact congrArg floatOut ((fAdd_of_isNan (x := fp32.decode a.toNat) (y := (fp32.decode b.toNat).negate) (by rwa [FVal.isNan_negate])).trans
      (by rw [nvOf_negate, nvOf_or]))
  · exact congrArg floatOut ((fMul_of_isNan hnan).trans (by rw [nvOf_or]))
  · exact congrArg floatOut ((fDiv_of_isNan hnan).trans (by rw [nvOf_or]))
  · exact congrArg floatOut ((fMinMax_of_nan false true h).trans (by rw [if_pos (.inl rfl)]))
  · exact congrArg floatOut ((fMinMax_of_nan true true h).trans (by rw [if_pos (.inl rfl)]))

/-- Settles O15: a NaN source decides by `fAdd_of_isNan` and its kin, finite sources are ordered by their values (`decode_lt`), a packed
result has its bits (`roundFP_lt`), and fixed sources are evaluated. -/
theorem floatingSpecialValues : Obligations.FloatingSpecialValues := by
  unfold Obligations.FloatingSpecialValues
  refine ⟨fun a b c d k rm => ?_, fun a b c d k f g rm hfg => ?_, fun a b c d k => ?_, fun b c d k => ?_⟩
  · refine ⟨fun h => nan_results c d k rm h rfl, fun ha hb => ?_, fun ha hb => ?_, fun ha hb n => ?_, ?_, ?_, ?_,
      fun ha h0 => fdiv_by_zero c d k rm ha h0, fun ha h0 => fsqrt_of_neg b c d k rm ha h0⟩
    · have hmm (isMax : Bool) : floatOut (fMinMax fp32 isMax false a.toNat b.toNat) = ⟨b, if signalF32 a || signalF32 b then flNV else 0⟩ := by
        rw [fMinMax_of_nan isMax false (.inl ha), if_neg (by simp [hb]), if_pos ha, floatOut_toNat]
      exact ⟨hmm false, hmm true⟩
    · have hmm (isMax : Bool) : floatOut (fMinMax fp32 isMax false a.toNat b.toNat) = ⟨a, if signalF32 a || signalF32 b then flNV else 0⟩ := by
        rw [fMinMax_of_nan isMax false (.inr hb), if_neg (by simp [ha]), if_neg (by simp [ha]), floatOut_toNat]
      exact ⟨hmm false, hmm true⟩
    · obtain ⟨hmin, hmax⟩ := fMinMax_of_finite ha hb n
      exact ⟨(congrArg floatOut hmin).trans (floatOut_toNat ..), (congrArg floatOut hmax).trans (floatOut_toNat ..)⟩
    · cases rm <;> rfl
    · cases rm <;> rfl
    · cases rm <;> rfl
  · have hpacked : f ≠ .f32 ∧ FFmt.fmt f = g ∧ g.Delivers ∧ g.mag = 15 := by
      rcases hfg with ⟨rfl, rfl⟩ | ⟨rfl, rfl⟩
      · exact ⟨by decide, rfl, fp16_delivers, rfl⟩
      · exact ⟨by decide, rfl, bf16_delivers, rfl⟩
    obtain ⟨hf, rfl, hdel, hmag⟩ := hpacked
    refine ⟨fun lo hi hlo hhi => ?_, fun lo hi hlo hhi => ?_⟩
    · refine perElement_packed hf (fun x y _ => fAdd (FFmt.fmt f) rm ((FFmt.fmt f).decode x) ((FFmt.fmt f).decode y)) a b c hlo hhi ?_
      have := fAdd_lt hdel rm ((FFmt.fmt f).decode (a.toNat % 65536)) ((FFmt.fmt f).decode (b.toNat % 65536))
      rwa [hmag, ← hlo] at this
    · refine perElement_packed hf (fun x y _ => fMul (FFmt.fmt f) rm ((FFmt.fmt f).decode x) ((FFmt.fmt f).decode y)) a b c hlo hhi ?_
      have := fMul_lt hdel rm ((FFmt.fmt f).decode (a.toNat % 65536)) ((FFmt.fmt f).decode (b.toNat % 65536))
      rwa [hmag, ← hlo] at this
  · exact congrArg plainOut (fClass_eq a)
  · obtain ⟨hrcp0, hrcp, hrsqrt, hrest⟩ := sfEval_exact
    exact ⟨hrcp0, hrcp, rsqrt_four, hrsqrt, hrest⟩

end
end Sys2Proof.Machine

namespace Sys2Proof.Machine
section
/-!
# Conversions between formats

A narrower format is one `SmallFmt.Describes`: every widening and narrowing goes through what it says of the format. QGENC is the search for
the nearest image, which does not change with the unit.
-/

/-! ### The narrower formats (R67) -/

/-- `s` describes the format `f` in units of 2^-149, and its three greatest finite magnitudes stand at even distances. -/
structure SmallFmt.Describes (s : SmallFmt) (f : Fmt) : Prop where
  qmin : f.qmin ≤ 0
  fraction : 1 ≤ f.mbits
  ebits : s.eb = f.ebits
  mbits : s.mb = f.mbits
  unit : 2 ^ f.qmin.natAbs * s.unit = 2 ^ 149
  big : s.big = f.maxBits
  infBits : 0 < f.infBits
  past : s.past = f.encInf false
  pastNeg : s.pastNeg = f.encInf true
  even : f.magVal (f.maxBits + 1) + f.magVal (f.maxBits - 1) = 2 * f.magVal f.maxBits
  short : f.mag ≤ 15
  maxPos : 0 < f.maxBits

theorem smallF16_describes : smallF16.Describes fp16 := by constructor <;> decide

theorem smallBF16_describes : smallBF16.Describes bf16 := by constructor <;> decide

theorem smallE4M3_describes : smallE4M3.Describes e4m3 := by constructor <;> decide

theorem smallE5M2_describes : smallE5M2.Describes e5m2 := by constructor <;> decide

section
variable {s : SmallFmt} {f : Fmt} (h : s.Describes f)
include h

theorem SmallFmt.Describes.regular : f.Regular := ⟨h.qmin, h.fraction⟩

theorem SmallFmt.Describes.finite_iff (x : Nat) : s.finite x ↔ f.Fin x := by
  rw [SmallFmt.finite, h.ebits, h.mbits, h.big]
  rfl

theorem SmallFmt.Describes.units_eq (x : Nat) : s.units x = f.sval x * s.unit := by
  have hdiv : x % 2 ^ f.mag / 2 ^ f.mbits = x / 2 ^ f.mbits % 2 ^ f.ebits := by
    rw [Fmt.mag, Nat.add_comm, pow_add, Nat.mod_mul_right_div_self]
  have hmod : x % 2 ^ f.mag % 2 ^ f.mbits = x % 2 ^ f.mbits :=
    Nat.mod_mod_of_dvd _ (pow_dvd_pow 2 (Nat.le_add_left _ _))
  have hval : f.magVal (x % 2 ^ f.mag) = if x / 2 ^ f.mbits % 2 ^ f.ebits = 0 then x % 2 ^ f.mbits
      else (2 ^ f.mbits + x % 2 ^ f.mbits) * 2 ^ (x / 2 ^ f.mbits % 2 ^ f.ebits - 1) := by
    unfold Fmt.magVal
    rw [hdiv, hmod]
    split
    next hz =>
      rw [← hdiv] at hz
      rw [← hmod, Nat.mod_eq_of_lt ((Nat.div_eq_zero_iff_lt (by positivity)).1 hz)]
    next => rfl
  rw [SmallFmt.units, h.ebits, h.mbits, ← hval, Fmt.sval, bitAt_eq_testBit, show f.ebits + f.mbits = f.mag from rfl, signed]
  cases x.testBit f.mag <;> simp

theorem SmallFmt.Describes.natAbs_units {n : Nat} (hn : n ≤ f.maxBits) : (s.units n).natAbs = f.magVal n * s.unit := by
  have hlt := hn.trans_lt f.maxBits_lt
  rw [h.units_eq, ← Nat.zero_add n, ← show f.encZero false = 0 from rfl, Fmt.sval_encZero_add hlt, signed_mul, natAbs_signed]
  simp [Fmt.encZero]

theorem SmallFmt.Describes.overflows_eq (rm : RM) (num : Int) :
    s.overflows rm num = f.over rm (decide (num < 0)) num.natAbs (1 * s.unit) := by
  have htop := h.natAbs_units le_rfl
  have hprev := h.natAbs_units (Nat.sub_le f.maxBits 1)
  have hstep := congrArg (· * s.unit) h.even
  simp only [add_mul] at hstep
  rw [mul_assoc] at hstep
  have hle : f.magVal (f.maxBits - 1) * s.unit ≤ f.magVal f.maxBits * s.unit :=
    Nat.mul_le_mul_right _ (f.magVal_strictMono.monotone (Nat.sub_le _ _))
  unfold SmallFmt.overflows Fmt.over
  rw [h.big, htop, hprev, one_mul, add_mul]
  dsimp only
  congr 1
  · congr 2
    · exact propext (by omega)
    · congr 1
      exact propext (by omega)
  · congr 2
    exact propext (by omega)

theorem SmallFmt.Rounds.of_nearestTo {rm : RM} {num : Int} {n : Nat} (hn : f.Fin n)
    (hnear : NearestTo rm num 1 (fun t => ∃ w, f.Fin w ∧ f.sval w * s.unit = t) (f.sval n * s.unit) (n % 2 = 0)) :
    s.Rounds rm num n := by
  refine ⟨(h.finite_iff n).2 hn, ?_⟩
  have hS (w : Nat) (hw : s.finite w) : ∃ v, f.Fin v ∧ f.sval v * s.unit = s.units w := ⟨w, (h.finite_iff w).1 hw, (h.units_eq w).symm⟩
  rw [← h.units_eq] at hnear
  cases rm with
  | rne => exact fun w hw => by simpa using hnear _ (hS w hw)
  | rtz =>
    obtain ⟨hle, hsign, hgreatest⟩ := hnear
    exact ⟨by simpa using hle, hsign, fun w hw hwle => hgreatest _ (hS w hw) (by simpa using hwle)⟩
  | rup =>
    obtain ⟨hle, hleast⟩ := hnear
    exact ⟨by simpa using hle, fun w hw hwle => hleast _ (hS w hw) (by simpa using hwle)⟩
  | rdn =>
    obtain ⟨hle, hgreatest⟩ := hnear
    exact ⟨by simpa using hle, fun w hw hwle => hgreatest _ (hS w hw) (by simpa using hwle)⟩

theorem SmallFmt.Describes.over_zero (rm : RM) (neg : Bool) : f.over rm neg 0 (1 * s.unit) = false := by
  have hmax := f.magVal_strictMono h.maxPos
  rw [f.magVal_zero] at hmax
  exact Fmt.over_of_lt (Nat.mul_pos hmax (by rw [one_mul]; exact Fmt.unit_pos h.unit))

/-- What an overflow delivers, with SAT the largest finite value (R70, R80). -/
theorem SmallFmt.Describes.past_eq (sat away neg : Bool) :
    (if away && !sat then (if neg then s.pastNeg else s.past) else s.big + (if neg then 2 ^ (s.eb + s.mb) else 0)) =
      if sat then f.encZero neg + f.maxBits else if away then f.encInf neg else f.encZero neg + f.maxBits := by
  have hz : f.encZero neg = if neg then 2 ^ (s.eb + s.mb) else 0 := by
    rw [h.ebits, h.mbits, Fmt.encZero]
    rfl
  rw [h.past, h.pastNeg, h.big, hz, Nat.add_comm]
  cases sat <;> cases away <;> cases neg <;> rfl

/-- An exact real narrowed to the format, with SAT or without. -/
theorem SmallFmt.Describes.narrows {x : Real'} {num : Int} (hx : x.Measures num 1) (sat : Bool) (rm : RM) :
    s.Narrows sat rm num (if sat && (roundFP f rm x).2 &&& flOF ≠ 0 then floatOut (f.encZero x.neg + f.maxBits, (roundFP f rm x).2)
      else floatOut (roundFP f rm x)) := by
  have hd := roundFP_delivers h.regular h.unit hx rm
  unfold SmallFmt.Narrows
  rw [h.overflows_eq]
  split
  next ho =>
    have hne : num ≠ 0 := by
      rintro rfl
      exact Bool.false_ne_true ((h.over_zero _ _).symm.trans ho)
    rw [if_pos ho] at hd
    have hpast := h.past_eq sat (RM.away rm (decide (num < 0))) (decide (num < 0))
    simp only [decide_eq_true_eq] at hpast
    have hof : decide ((flOF ||| flNX) &&& flOF ≠ 0) = true := by decide
    rw [hd, hx.signOf hne, hpast, Fmt.overflowed, hof]
    cases sat
    · rfl
    · rfl
  next ho =>
    rw [if_neg ho] at hd
    obtain ⟨hfin, -, hnear, hfl⟩ := hd
    have hof : decide ((roundFP f rm x).2 &&& flOF ≠ 0) = false := by
      rw [hfl]
      cases (f.tiny rm (decide (num < 0)) num.natAbs (1 * s.unit)) <;>
        cases (decide (f.sval (roundFP f rm x).1 * s.unit * (1 : Nat) ≠ num)) <;> decide
    have hnat : (BitVec.ofNat 32 (roundFP f rm x).1).toNat = (roundFP f rm x).1 :=
      Nat.mod_eq_of_lt (hfin.1.trans_le (Nat.pow_le_pow_right (by decide) (by have := h.short; omega)))
    obtain ⟨hnx, -, hother⟩ := flags_of_rounded _ _ _ hfl
    rw [hof, Bool.and_false, if_neg Bool.false_ne_true, floatOut, hnat]
    refine ⟨.of_nearestTo h hfin hnear, ?_, hother⟩
    rw [hnx, h.units_eq]
    simp

end

/-! ### Narrowing of finite elements (R79, R80) -/

section
variable {s : SmallFmt} {f : Fmt} (h : s.Describes f)
include h

theorem SmallFmt.Describes.narrows_fCvt {x : FVal} {neg : Bool} {m : Nat} {e num : Int} (hx : x = .fin neg m e)
    (hm : (scaled neg m e).Measures num 1) (rm : RM) : s.Narrows false rm num (floatOut (fCvt f rm x)) := by
  subst hx
  exact h.narrows hm false rm

theorem SmallFmt.Describes.narrows_cvt8To {a : Word} (ha : finiteF32 a = true) (sat : Bool) (rm : RM) :
    s.Narrows sat rm (unitsF32 a) (cvt8To f sat rm a) := by
  obtain ⟨m, e, hd, hm⟩ := decode_fp32 ha
  have hn := h.narrows hm sat rm
  rw [scaled_neg] at hn
  rw [cvt8To, hd]
  exact hn

theorem SmallFmt.Describes.narrows_fp32 {a : Word} (ha : finiteF32 a = true) (rm : RM) :
    s.Narrows false rm (unitsF32 a) (floatOut (fCvt f rm (fp32.decode a.toNat))) := by
  obtain ⟨m, e, hd, hm⟩ := decode_fp32 ha
  exact h.narrows_fCvt hd hm rm

theorem SmallFmt.Describes.decode {x : Nat} (hx : x % 2 ^ f.mag ≤ f.maxBits) : ∃ m e, f.decode x = .fin (bitAt x f.mag) m e ∧
    (scaled (bitAt x f.mag) m e).Measures (s.units x) 1 := by
  rw [h.units_eq]
  exact f.decode_measures h.infBits h.qmin h.unit hx

/-- A finite code widened to FP32 is exact (R79, R80). -/
theorem SmallFmt.Describes.widens {x c : Nat} (hx : x % 2 ^ f.mag ≤ f.maxBits) (hc : c ≤ fp32.maxBits)
    (hval : fp32.magVal c = f.magVal (x % 2 ^ f.mag) * s.unit) :
    fCvt fp32 .rne (f.decode x) = (fp32.encZero (bitAt x f.mag) + c, 0) := by
  obtain ⟨m, e, hd, hm⟩ := h.decode hx
  have hr := roundFP_exact fp32_regular fp32_unit hm hc ?_ .rne
  · rw [scaled_neg] at hr
    rw [hd]
    exact hr
  · rw [h.units_eq, Fmt.sval, signed_mul, natAbs_signed, hval]
    simp

/-- A finite code of few enough bits is worth what its FP32 element is worth. -/
theorem SmallFmt.Describes.widens_units (k : Nat) (hk : s.unit = 2 ^ k) (hbits : f.mbits ≤ fp32.mbits)
    (hmax : f.magVal f.maxBits * s.unit ≤ fp32.magVal fp32.maxBits) {x : Nat} (hx : x % 2 ^ f.mag ≤ f.maxBits) :
    unitsF32 (floatOut (fCvt fp32 .rne (f.decode x))).val = s.units x ∧ (floatOut (fCvt fp32 .rne (f.decode x))).flags = 0 := by
  obtain ⟨b, j, hb, hlt, hj⟩ := f.exists_eq_add_mul (x % 2 ^ f.mag)
  have hmag : f.magVal (x % 2 ^ f.mag) * s.unit = b * 2 ^ (j + k) := by
    rw [hb, f.magVal_add_mul hlt.le hj, hk, mul_assoc, ← pow_add]
  obtain ⟨c, hc⟩ := fp32.exists_magVal_eq (j + k) (hlt.le.trans (Nat.pow_le_pow_right (by decide) (Nat.succ_le_succ hbits)))
  rw [← hmag] at hc
  have hle : c ≤ fp32.maxBits := fp32.magVal_strictMono.le_iff_le.1
    ((hc.trans_le (Nat.mul_le_mul_right _ (f.magVal_strictMono.monotone hx))).trans hmax)
  have hfit := hle.trans_lt fp32.maxBits_lt
  rw [h.widens hx hle hc]
  refine ⟨?_, rfl⟩
  rw [floatOut, unitsF32_ofNat ⟨Fmt.encZero_add_lt hfit, by rwa [Fmt.encZero_add_mod hfit]⟩, Fmt.sval_encZero_add hfit, hc, h.units_eq,
    Fmt.sval, signed_mul, signed_mul, mul_one]

end

/-! ### BF16, the high half of FP32 -/

theorem magVal_mul_bf16 (n : Nat) : fp32.magVal (n * 2 ^ 16) = bf16.magVal n * 2 ^ 16 := by
  unfold Fmt.magVal
  rw [show fp32.mbits = 7 + 16 from rfl, show bf16.mbits = 7 from rfl, pow_add 2 7 16, Nat.mul_div_mul_right _ _ (by positivity),
    Nat.mul_mod_mul_right]
  split <;> ring

theorem shiftLeft_toNat (a : Word) : (a <<< 16).toNat = a.toNat % 65536 * 2 ^ 16 := by
  rw [BitVec.toNat_shiftLeft, Nat.shiftLeft_eq]
  omega

theorem unitsF32_shiftLeft (a : Word) : unitsF32 (a <<< 16) = smallBF16.units (a.toNat % 65536) := by
  have hlow : a.toNat % 65536 * 2 ^ 16 % 2 ^ 31 = a.toNat % 65536 % 2 ^ 15 * 2 ^ 16 := by omega
  rw [unitsF32_eq_sval, smallBF16_describes.units_eq, shiftLeft_toNat, Fmt.sval, Fmt.sval, show fp32.mag = 31 from rfl, hlow,
    magVal_mul_bf16, show smallBF16.unit = 2 ^ 16 from rfl, signed_mul]
  congr 1
  rw [bitAt, bitAt, decide_eq_decide, show bf16.mag = 15 from rfl]
  omega

theorem finiteF32_shiftLeft_iff (a : Word) : finiteF32 (a <<< 16) = true ↔ a.toNat % 65536 % 2 ^ 15 ≤ 0x7F7F := by
  rw [finiteF32_iff, shiftLeft_toNat]
  omega

/-- BF16 widened to FP32 is the same bits with zeros below (R79). -/
theorem cvt_f32bf16 {a : Word} (h : nanF32 (a <<< 16) = false) : cvtEval .f32bf16 a = ⟨a <<< 16, 0⟩ := by
  have hnan : ¬ 0x7F800000 < a.toNat % 65536 * 2 ^ 16 % 2 ^ 31 := by
    rw [← shiftLeft_toNat, ← nanF32_iff, h]; exact Bool.false_ne_true
  have henc : fp32.encZero (bitAt (a.toNat % 65536) 15) + a.toNat % 65536 % 2 ^ 15 * 2 ^ 16 = (a <<< 16).toNat := by
    rw [shiftLeft_toNat, bitAt, Fmt.encZero, show fp32.signBit = 2 ^ 31 from rfl]
    simp only [decide_eq_true_eq]
    split <;> omega
  have hcode : fCvt fp32 .rne (bf16.decode (a.toNat % 65536)) = ((a <<< 16).toNat, 0) := by
    rw [← henc]
    by_cases hf : a.toNat % 65536 % 2 ^ 15 ≤ 0x7F7F
    · refine smallBF16_describes.widens hf ?_ (magVal_mul_bf16 _)
      rw [fp32_maxBits]
      omega
    · have hinf : a.toNat % 65536 % 2 ^ 15 = 0x7F80 := by omega
      have hd : bf16.decode (a.toNat % 65536) = .inf (bitAt (a.toNat % 65536) 15) := by
        unfold Fmt.decode
        exact if_pos ⟨hinf, rfl⟩
      rw [hd, hinf]
      rfl
  exact (congrArg floatOut hcode).trans (floatOut_toNat _ _)

/-! ### Conversion to an integer with saturation (R83) -/

theorem satF32_nan {a : Word} (h : nanF32 a = true) (rm : RM) (lo hi : Int) : satF32 rm lo hi a = ⟨0, flNV⟩ := by
  rw [satF32, decode_nan h]
  rfl

theorem satF32_inf {a : Word} (h : nanF32 a = false) (hf : finiteF32 a = false) (rm : RM) (lo hi : Int) :
    satF32 rm lo hi a = ⟨BitVec.ofInt 32 (if a.msb then lo else hi), flNV⟩ := by
  rw [satF32, decode_inf h hf]
  rfl

theorem satF32_finite {a : Word} (h : finiteF32 a = true) (rm : RM) (lo hi : Int) :
    satF32 rm lo hi a = if integralF32 rm (unitsF32 a) < lo then ⟨BitVec.ofInt 32 lo, flNV⟩
      else if hi < integralF32 rm (unitsF32 a) then ⟨BitVec.ofInt 32 hi, flNV⟩
      else ⟨BitVec.ofInt 32 (integralF32 rm (unitsF32 a)),
        if unitsF32 a = integralF32 rm (unitsF32 a) * 2 ^ 149 then 0 else flNX⟩ := by
  obtain ⟨m, e, hd, hm⟩ := decode_fp32 h
  have hround := roundTo_zero_of_measures hm rm
  have hval := signed_roundNat hm.signOf rm
  have hlost := roundNat_lost hm.signOf rm
  rw [← hround] at hval hlost
  rw [scaled_neg] at hval hlost
  have hint : (if a.msb then -((roundTo rm a.msb (scaled a.msb m e).num (scaled a.msb m e).den 0).1 : Int)
      else (roundTo rm a.msb (scaled a.msb m e).num (scaled a.msb m e).den 0).1) = integralF32 rm (unitsF32 a) := hval
  rw [satF32, hd, fToInt]
  simp only [hint, hlost, flIf]
  split
  · rfl
  · split
    · rfl
    · simp only [decide_eq_true_eq, ne_eq, ite_not, eq_comm (a := unitsF32 a)]

theorem cvtsat_i8i32 (a : Word) : cvtsatEval .i8i32 a =
    ⟨BitVec.ofInt 32 (max (-128) (min a.toInt 127)), if -128 ≤ a.toInt ∧ a.toInt ≤ 127 then 0 else flNV⟩ := by
  change satInt _ _ _ = _
  unfold satInt
  split
  next h => rw [if_neg (by omega), show max (-128) (min a.toInt 127) = -128 by omega]
  next h =>
    split
    next h' => rw [if_neg (by omega), show max (-128) (min a.toInt 127) = 127 by omega]
    next h' => rw [if_pos (by omega), show max (-128) (min a.toInt 127) = a.toInt by omega]

theorem cvtsat_u8u32 (a : Word) : cvtsatEval .u8u32 a = ⟨BitVec.ofNat 32 (min a.toNat 255), if a.toNat ≤ 255 then 0 else flNV⟩ := by
  change satInt _ _ _ = _
  unfold satInt
  rw [if_neg (by omega)]
  split
  next h => rw [if_neg (by omega), show min a.toNat 255 = 255 by omega]; rfl
  next h => rw [if_pos (by omega), show min a.toNat 255 = a.toNat by omega]; rfl

/-! ### Packing and unpacking (R81, R82) -/

theorem setWidth_setWidth_16 (a : Word) : (a.setWidth 16).setWidth 32 = a &&& 0xFFFF := by
  have hmask : (0xFFFF : Word) = (BitVec.allOnes 16).setWidth 32 := by decide
  refine BitVec.eq_of_getLsbD_eq fun i h => ?_
  rw [hmask]
  simp only [BitVec.getLsbD_setWidth, BitVec.getLsbD_and, BitVec.getLsbD_allOnes, h, decide_true, Bool.true_and]
  exact Bool.and_comm _ _

theorem setWidth_shiftLeft_16 (a : Word) : (a.setWidth 16).setWidth 32 <<< 16 = a <<< 16 := by
  refine BitVec.eq_of_getLsbD_eq fun i h => ?_
  simp only [BitVec.getLsbD_setWidth, BitVec.getLsbD_shiftLeft, h, decide_true, Bool.true_and]
  by_cases low : i < 16
  · simp [low]
  · simp [low, show i - 16 < 32 by omega, show i - 16 < 16 by omega]

theorem pack16_setWidth (a b : Word) : pack16 (a.setWidth 16) (b.setWidth 16) = (a &&& (0xFFFF : Word)) ||| (b <<< 16) := by
  rw [pack16_eq, setWidth_setWidth_16, setWidth_shiftLeft_16]

theorem pack16_ofNat_eq {lo hi : Nat} (hlo : lo < 2 ^ 16) (hhi : hi < 2 ^ 16) :
    pack16 (BitVec.ofNat 16 lo) (BitVec.ofNat 16 hi) = BitVec.ofNat 32 lo ||| (BitVec.ofNat 32 hi <<< 16) := by
  rw [pack16_eq, BitVec.setWidth_ofNat_of_le_of_lt (by decide) hlo, BitVec.setWidth_ofNat_of_le_of_lt (by decide) hhi]

/-- A pair of narrowed elements (R81). -/
theorem pack_floats {f : Fmt} (hf : f.Delivers) (hw : f.mag + 1 = 16) (rm : RM) (x y : FVal) {lo hi : LaneOut}
    (hlo : lo = floatOut (fCvt f rm x)) (hhi : hi = floatOut (fCvt f rm y)) :
    (⟨pack16 (BitVec.ofNat 16 (fCvt f rm x).1) (BitVec.ofNat 16 (fCvt f rm y).1), (fCvt f rm x).2 ||| (fCvt f rm y).2⟩ : LaneOut) =
      ⟨lo.val ||| (hi.val <<< 16), lo.flags ||| hi.flags⟩ := by
  have hx := fCvt_lt hf (rm := rm) x
  have hy := fCvt_lt hf (rm := rm) y
  rw [hw] at hx hy
  rw [hlo, hhi, pack16_ofNat_eq hx hy]
  rfl

theorem ofInt_setWidth_16 (x : Int) : BitVec.ofInt 16 x = (BitVec.ofInt 32 x).setWidth 16 := by
  apply BitVec.eq_of_toNat_eq
  rw [BitVec.toNat_setWidth, BitVec.toNat_ofInt, BitVec.toNat_ofInt]
  omega

theorem satS_16 (x : Int) : satS x 16 = max (-32768) (min x 32767) := by
  change min (max x (-32768)) 32767 = _
  omega

theorem pack_i16x2sat (a b d : Word) (k : Nat) {lo hi : Int} (hlo : lo = max (-32768) (min a.toInt 32767))
    (hhi : hi = max (-32768) (min b.toInt 32767)) :
    packEval .i16x2sat a b d k = ⟨(BitVec.ofInt 32 lo &&& 0xFFFF) ||| (BitVec.ofInt 32 hi <<< 16),
      if lo = a.toInt ∧ hi = b.toInt then 0 else flNV⟩ := by
  rw [packEval]
  simp only [satS_16, ← hlo, ← hhi]
  rw [ofInt_setWidth_16, ofInt_setWidth_16, pack16_setWidth, flIf]
  by_cases hl : lo = a.toInt <;> by_cases hh : hi = b.toInt <;> simp [hl, hh]

/-! ### Bit fields (R127) -/

theorem fieldMask_getLsbD (p w : Nat) (i : Nat) (hi : i < 32) :
    (BitVec.ofNat 32 ((2 ^ w - 1) * 2 ^ p)).getLsbD i = decide (p ≤ i ∧ i < p + w) := by
  rw [BitVec.getLsbD_ofNat, Nat.testBit_mul_two_pow, Nat.testBit_two_pow_sub_one, decide_eq_true hi, Bool.true_and, ← Bool.decide_and,
    decide_eq_decide]
  omega

theorem bfi_getLsbD (d x : Word) {p w : Nat} (h : p + w ≤ 32) (i : Nat) :
    (bfi d x p w).getLsbD i = if p ≤ i ∧ i < p + w then x.getLsbD (i - p) else d.getLsbD i := by
  by_cases hi : i < 32
  · simp only [bfi, BitVec.getLsbD_or, BitVec.getLsbD_and, BitVec.getLsbD_not, BitVec.getLsbD_shiftLeft, fieldMask_getLsbD p w i hi]
    by_cases hin : p ≤ i ∧ i < p + w
    · simp [hin, hi, show ¬ i < p by omega]
    · simp [hin, hi]
  · rw [BitVec.getLsbD_of_ge _ _ (not_lt.1 hi), if_neg (by omega), BitVec.getLsbD_of_ge _ _ (not_lt.1 hi)]

theorem half_toNat (a : Word) (k : Nat) : (half a (k % 2 = 1)).toNat = (a >>> (16 * (k % 2))).toNat % 65536 := by
  rw [BitVec.toNat_ushiftRight, Nat.shiftRight_eq_div_pow]
  rcases Nat.mod_two_eq_zero_or_one k with h | h
  · rw [h]
    exact (half_false_toNat a).trans (by omega)
  · rw [h]
    exact (half_true_toNat a).trans (by omega)

theorem bfeU_16 (a : Word) (p : Nat) : bfeU a p 16 = (a >>> p) &&& 0xFFFF := by
  apply BitVec.eq_of_toNat_eq
  rw [bfeU, BitVec.toNat_ofNat, BitVec.toNat_and, BitVec.toNat_ushiftRight, Nat.shiftRight_eq_div_pow,
    show (0xFFFF : Word).toNat = 2 ^ 16 - 1 from rfl, Nat.and_two_pow_sub_one_eq_mod]
  omega

theorem bfeI_8 (a : Word) (p : Nat) : bfeI a p 8 = ((a >>> p).setWidth 8).signExtend 32 := by
  have hn : ((a >>> p).setWidth 8).toNat = a.toNat / 2 ^ p % 2 ^ 8 := by
    rw [BitVec.toNat_setWidth, BitVec.toNat_ushiftRight, Nat.shiftRight_eq_div_pow]
  rw [BitVec.signExtend, BitVec.toInt_eq_toNat_cond, hn]
  unfold bfeI
  rw [if_neg (by decide)]
  dsimp only
  have hiff : a.toNat / 2 ^ p % 2 ^ 8 < 2 ^ (8 - 1) ↔ 2 * (a.toNat / 2 ^ p % 2 ^ 8) < 2 ^ 8 := by omega
  split
  next h => rw [if_pos (hiff.1 h)]; rfl
  next h => rw [if_neg (mt hiff.2 h)]; rfl

/-! ### The nearest QG4 index (R74, R85) -/

theorem qgImage_strictMono : ∀ i < 16, ∀ j < 16, i < j → qgImage i < qgImage j := by decide

/-- Index `i` has the image nearest num/den, and an even one where two are. -/
structure QgNearest (num den : Int) (i : Nat) : Prop where
  lt : i < 16
  le : ∀ j < 16, (num - qgImage i * den).natAbs ≤ (num - qgImage j * den).natAbs
  even : ∀ j < 16, (num - qgImage j * den).natAbs = (num - qgImage i * den).natAbs → j ≠ i → i % 2 = 0

section
variable {num den : Int} {i : Nat} (hden : 0 < den)
include hden

theorem qgImage_mul_lt {i j : Nat} (hi : i < 16) (hj : j < 16) (h : i < j) : qgImage i * den < qgImage j * den :=
  mul_lt_mul_of_pos_right (qgImage_strictMono i hi j hj h) hden

/-- Two indexes at one least distance have no index between them. -/
theorem qgImage_tie {i j : Nat} (hj : j < 16) (hij : i < j)
    (hle : (num - qgImage i * den).natAbs ≤ (num - qgImage (i + 1) * den).natAbs)
    (htie : (num - qgImage j * den).natAbs = (num - qgImage i * den).natAbs) : j = i + 1 := by
  by_contra hne
  have h1 := qgImage_mul_lt hden (i := i) (j := i + 1) (by omega) (by omega) (by omega)
  have h2 := qgImage_mul_lt hden (i := i + 1) (j := j) (by omega) hj (by omega)
  generalize qgImage i * den = x at *
  generalize qgImage (i + 1) * den = y at *
  generalize qgImage j * den = z at *
  omega

theorem qgNearest_first (h : num < -31 * den) : QgNearest num den 0 := by
  have hlt : ∀ j < 16, j ≠ 0 → (num - qgImage 0 * den).natAbs < (num - qgImage j * den).natAbs := fun j hj hne => by
    have hx := qgImage_mul_lt hden (i := 0) (by decide) hj (by omega)
    rw [show qgImage 0 = -31 from rfl] at *
    omega
  refine ⟨by decide, fun j hj => ?_, fun _ _ _ _ => rfl⟩
  by_cases hz : j = 0
  · rw [hz]
  · exact (hlt j hj hz).le

theorem qgNearest_last (h : 31 * den < num) : QgNearest num den 15 := by
  have hlt : ∀ j < 16, j ≠ 15 → (num - qgImage 15 * den).natAbs < (num - qgImage j * den).natAbs := fun j hj hne => by
    have hx := qgImage_mul_lt hden (j := 15) hj (by decide) (by omega)
    rw [show qgImage 15 = 31 from rfl] at *
    omega
  refine ⟨by decide, fun j hj => ?_, fun j hj he hne => absurd he (hlt j hj hne).ne'⟩
  by_cases hz : j = 15
  · rw [hz]
  · exact (hlt j hj hz).le

end

/-- One step of the search of R85: the nearer index, on a tie an even one. -/
def qgCloser (dist : Nat → Nat) (best i : Nat) : Nat :=
  if dist i < dist best then i else if dist i = dist best ∧ i % 2 = 0 then i else best

/-- The best of the first `n` indexes; where another is as near, it is even or the other is odd. -/
structure QgBest (dist : Nat → Nat) (n best : Nat) : Prop where
  lt : best < n
  le : ∀ j < n, dist best ≤ dist j
  tie : ∀ j < n, dist j = dist best → j ≠ best → best % 2 = 0 ∨ j % 2 = 1

theorem QgBest.step {dist : Nat → Nat} {n best : Nat} (h : QgBest dist n best) : QgBest dist (n + 1) (qgCloser dist best n) := by
  obtain ⟨hlt, hle, htie⟩ := h
  have hcases (j : Nat) (hj : j < n + 1) : j < n ∨ j = n := by omega
  unfold qgCloser
  split
  next hnear =>
    refine ⟨by omega, fun j hj => ?_, fun j hj he hne => ?_⟩
    · rcases hcases j hj with h | rfl
      · exact hnear.le.trans (hle j h)
      · exact le_rfl
    · have := hle j (by omega)
      omega
  next hfar =>
    split
    next heven =>
      obtain ⟨heq, heven⟩ := heven
      refine ⟨by omega, fun j hj => ?_, fun _ _ _ _ => .inl heven⟩
      rcases hcases j hj with h | rfl
      · exact heq.trans_le (hle j h)
      · exact le_rfl
    next hodd =>
      refine ⟨by omega, fun j hj => ?_, fun j hj he hne => ?_⟩
      · rcases hcases j hj with h | rfl
        · exact hle j h
        · exact not_lt.1 hfar
      · rcases hcases j hj with h | rfl
        · exact htie j h he hne
        · exact .inr (by omega)

theorem qgBest_foldl (dist : Nat → Nat) (n : Nat) : QgBest dist (n + 1) ((List.range (n + 1)).foldl (qgCloser dist) 0) := by
  induction n with
  | zero =>
    have hz : qgCloser dist 0 0 = 0 := by simp [qgCloser]
    refine ⟨?_, ?_, ?_⟩ <;> simp [hz]
  | succ n ih =>
    rw [List.range_succ, List.foldl_append]
    exact ih.step

theorem qgNearest_spec {num : Int} {den : Nat} (hden : 0 < den) : QgNearest num den (qgNearest num den) := by
  have hpos : (0 : Int) < den := by exact_mod_cast hden
  obtain ⟨hlt, hle, htie⟩ := qgBest_foldl (fun i => (num - qgImage i * den).natAbs) 15
  refine ⟨hlt, hle, fun j hj he hne => ?_⟩
  by_contra hbest
  have hodd := (htie j hj he hne).resolve_left hbest
  change qgNearest num den < 16 at hlt
  change ∀ j < 16, (num - qgImage (qgNearest num den) * den).natAbs ≤ (num - qgImage j * den).natAbs at hle
  rcases Nat.lt_or_gt_of_ne hne with h | h
  · have := qgImage_tie hpos hlt h (he.trans_le (hle (j + 1) (by omega))) he.symm
    omega
  · have := qgImage_tie hpos hj h (hle _ (by omega)) he
    omega

/-- The index that QGENC writes. -/
def qgIndex (num : Int) (den : Nat) : Nat :=
  if num < -31 * (den : Int) then 0 else if 31 * (den : Int) < num then 15 else qgNearest num den

theorem qgIndex_spec {num : Int} {den : Nat} (hden : 0 < den) : QgNearest num den (qgIndex num den) := by
  unfold qgIndex
  have hpos : (0 : Int) < den := by exact_mod_cast hden
  split
  next h => exact qgNearest_first hpos h
  next =>
    split
    next h => exact qgNearest_last hpos h
    next => exact qgNearest_spec hden

section
variable {num den num' den' : Int} {p q : Nat} (hp : 0 < p) (hq : 0 < q) (hnum : num * p = num' * q) (hden : den * p = den' * q)
include hp hq hnum hden

omit hp hq in
theorem qgDist_scale (i : Nat) : (num - qgImage i * den).natAbs * p = (num' - qgImage i * den').natAbs * q := by
  have h : (num - qgImage i * den) * p = (num' - qgImage i * den') * q := by linear_combination hnum - qgImage i * hden
  simpa [Int.natAbs_mul] using congrArg Int.natAbs h

theorem qgDist_le_iff (i j : Nat) : (num - qgImage i * den).natAbs ≤ (num - qgImage j * den).natAbs ↔
    (num' - qgImage i * den').natAbs ≤ (num' - qgImage j * den').natAbs := by
  rw [← Nat.mul_le_mul_right_iff hp, qgDist_scale hnum hden, qgDist_scale hnum hden, Nat.mul_le_mul_right_iff hq]

theorem QgNearest.scale {i : Nat} (h : QgNearest num den i) : QgNearest num' den' i := by
  have hiff := qgDist_le_iff hp hq hnum hden
  refine ⟨h.lt, fun j hj => (hiff i j).1 (h.le j hj), fun j hj he => h.even j hj ?_⟩
  exact le_antisymm ((hiff j i).2 he.le) ((hiff i j).2 he.ge)

theorem qgImage_eq_scale (i : Nat) : qgImage i * den = num ↔ qgImage i * den' = num' := by
  have h := qgDist_scale hnum hden i
  have hz : (num - qgImage i * den).natAbs = 0 ↔ (num' - qgImage i * den').natAbs = 0 := by
    constructor <;> intro h0 <;> rw [h0, zero_mul] at h
    · exact (Nat.mul_eq_zero.1 h.symm).resolve_right hq.ne'
    · exact (Nat.mul_eq_zero.1 h).resolve_right hp.ne'
  omega

end

/-! ### QGENC and QGSCL (R85, R86) -/

theorem bitsAt_bfi (d : Word) {p i : Nat} (hp : p + 4 ≤ 32) (hi : i < 16) : bitsAt (bfi d (BitVec.ofNat 32 i) p 4).toNat p 4 = i := by
  refine Nat.eq_of_testBit_eq fun j => ?_
  rw [bitsAt, Nat.testBit_mod_two_pow, Nat.testBit_div_two_pow]
  by_cases hj : j < 4
  · have h := bfi_getLsbD d (BitVec.ofNat 32 i) hp (j + p)
    rw [if_pos (by omega), BitVec.getLsbD_ofNat, Nat.add_sub_cancel, decide_eq_true (by omega : j < 32), Bool.true_and] at h
    rw [decide_eq_true hj, Bool.true_and, ← h]
    rfl
  · rw [decide_eq_false hj, Bool.false_and]
    exact (Nat.testBit_lt_two_pow (hi.trans_le (Nat.pow_le_pow_right (n := 2) (i := 4) (by decide) (by omega)))).symm

theorem msb_of_unitsF32_pos {c : Word} (h : 0 < unitsF32 c) : c.msb = false := by
  have hs := unitsF32_sign c
  rw [← Bool.not_eq_true]
  intro hm
  rw [if_pos hm] at hs
  omega

theorem decode_fp32_pos {c : Word} (h : finiteF32 c = true) (hpos : 0 < unitsF32 c) : ∃ m e, fp32.decode c.toNat = .fin false m e ∧
    (scaled false m e).Measures (unitsF32 c) 1 ∧ m ≠ 0 := by
  obtain ⟨m, e, hd, hm⟩ := decode_fp32 h
  rw [msb_of_unitsF32_pos hpos] at hd hm
  refine ⟨m, e, hd, hm, fun hz => hpos.ne' ?_⟩
  rw [← hm.num_eq_zero_iff, scaled_num_eq_zero_iff, hz]

/-- Whatever QGENC reads, it replaces one field of four bits. -/
theorem qgencEval_val (src : Fmt) (a b c d : Word) (k : Nat) :
    ∃ i, (qgencEval src a b c d k).val = bfi d (BitVec.ofNat 32 i) (4 * (k % 8)) 4 := by
  unfold qgencEval
  dsimp only
  split
  · exact ⟨_, rfl⟩
  · split
    · exact ⟨_, rfl⟩
    · exact ⟨_, rfl⟩
    · exact ⟨_, rfl⟩
    · split
      · exact ⟨_, rfl⟩
      · split <;> exact ⟨_, rfl⟩

theorem qgencEval_eq {a b c d : Word} {k m n : Nat} {e g : Int} {s : Bool} (ha : fp32.decode a.toNat = .fin s m e)
    (hc : fp32.decode c.toNat = .fin false n g) (hn : n ≠ 0) (hb : b.toNat % 256 ≠ 0) {num : Int} {den : Nat}
    (hnum : num = (if s then -1 else 1) * (((scaled s m e).num * 7905 * (scaled false n g).den : Nat) : Int))
    (hden : den = b.toNat % 256 * (scaled false n g).num * (scaled s m e).den) :
    qgencEval fp32 a b c d k = ⟨bfi d (BitVec.ofNat 32 (qgIndex num den)) (4 * (k % 8)) 4,
      flIf (decide (qgImage (qgIndex num den) * den ≠ num)) flNX⟩ := by
  have hmod : a.toNat % 2 ^ (fp32.mag + 1) = a.toNat := Nat.mod_eq_of_lt a.isLt
  have hsign : ¬ (n = 0 ∨ false = true) := by simp [hn]
  unfold qgencEval
  dsimp only
  rw [if_neg hb, hmod, ha, hc, hnum, hden]
  exact if_neg hsign

/-- The fraction of a finite value in units of 2^-149. -/
theorem scaled_num_eq {s : Bool} {m : Nat} {e num : Int} (h : (scaled s m e).Measures num 1) :
    0 < (scaled s m e).den ∧ (if s then -1 else 1) * ((scaled s m e).num : Int) * 2 ^ 149 = num * (scaled s m e).den := by
  obtain ⟨hd, -, heq⟩ := h
  have hsign : signed s (scaled s m e).num = (if s then -1 else 1) * ((scaled s m e).num : Int) := by cases s <;> simp [signed]
  rw [scaled_neg, hsign, Nat.cast_one, mul_one] at heq
  exact ⟨hd, heq⟩

theorem qgencEval_finite {a b c : Word} (d : Word) (k : Nat) (ha : finiteF32 a = true) (hc : finiteF32 c = true) (hpos : 0 < unitsF32 c)
    (hb : b.toNat % 256 ≠ 0) : ∃ i, QgNearest (unitsF32 a * 7905) ((b.toNat % 256 : Nat) * unitsF32 c) i ∧
      qgencEval fp32 a b c d k = ⟨bfi d (BitVec.ofNat 32 i) (4 * (k % 8)) 4,
        if unitsF32 a * 7905 = qgImage i * ((b.toNat % 256 : Nat) * unitsF32 c) then 0 else flNX⟩ := by
  obtain ⟨m, e, hda, hma⟩ := decode_fp32 ha
  obtain ⟨n, g, hdc, hmc, hn⟩ := decode_fp32_pos hc hpos
  obtain ⟨num, hnum⟩ : ∃ x,
      x = (if a.msb then -1 else 1) * (((scaled a.msb m e).num * 7905 * (scaled false n g).den : Nat) : Int) := ⟨_, rfl⟩
  obtain ⟨den, hden⟩ : ∃ x, x = b.toNat % 256 * (scaled false n g).num * (scaled a.msb m e).den := ⟨_, rfl⟩
  have hS := hmc.num_eq_zero_iff.not.2 hpos.ne'
  obtain ⟨hX, hx⟩ := scaled_num_eq hma
  obtain ⟨hY, hy⟩ := scaled_num_eq hmc
  rw [if_neg Bool.false_ne_true] at hy
  have hnum' : num * (2 ^ 149 : Nat) = unitsF32 a * 7905 * ((scaled a.msb m e).den * (scaled false n g).den : Nat) := by
    rw [hnum]; push_cast; linear_combination (7905 * (scaled false n g).den : Int) * hx
  have hden' : (den : Int) * (2 ^ 149 : Nat) =
      (b.toNat % 256 : Nat) * unitsF32 c * ((scaled a.msb m e).den * (scaled false n g).den : Nat) := by
    rw [hden]; push_cast; linear_combination ((b.toNat : Int) % 256 * (scaled a.msb m e).den) * hy
  have hpos' : 0 < den := by rw [hden]; positivity
  have hexact := qgImage_eq_scale (Nat.two_pow_pos 149) (Nat.mul_pos hX hY) hnum' hden' (qgIndex num den)
  refine ⟨_, (qgIndex_spec hpos').scale (Nat.two_pow_pos 149) (Nat.mul_pos hX hY) hnum' hden', ?_⟩
  rw [qgencEval_eq hda hdc hn hb hnum hden]
  simp only [flIf, decide_eq_true_eq, ne_eq, ite_not, hexact, eq_comm (a := unitsF32 a * 7905)]

theorem qgsclEval_eq {a b : Word} {m n : Nat} {e g : Int} (ha : fp32.decode (a.toNat % 2 ^ 31) = .fin false m e)
    (hb : fp32.decode b.toNat = .fin false n g) (hn : n ≠ 0) {num den k : Nat}
    (hnum : num = 255 * (scaled false m e).num * (scaled false n g).den) (hden : den = (scaled false n g).num * (scaled false m e).den)
    (hk : k = (2 * num + den) / (2 * den)) :
    qgsclEval a b = if m = 0 then plainOut 0 else if 255 < k then ⟨255, flOF⟩
      else ⟨BitVec.ofNat 32 k, flIf (decide (k * den ≠ num)) flNX⟩ := by
  have hsign : ¬ (n = 0 ∨ false = true) := by simp [hn]
  unfold qgsclEval
  rw [ha, hb, hk, hnum, hden]
  exact if_neg hsign

theorem decode_abs {a : Word} (h : finiteF32 a = true) : ∃ m e, fp32.decode (a.toNat % 2 ^ 31) = .fin false m e ∧
    (scaled false m e).Measures (unitsF32 a).natAbs 1 := by
  have hlow : a.toNat % 2 ^ 31 % 2 ^ 31 = a.toNat % 2 ^ 31 := Nat.mod_mod _ _
  have hbit : bitAt (a.toNat % 2 ^ 31) 31 = false := by
    rw [bitAt, decide_eq_false]
    omega
  have hval : fp32.sval (a.toNat % 2 ^ 31) * (1 : Nat) = (unitsF32 a).natAbs := by
    rw [Fmt.sval, show fp32.mag = 31 from rfl, hbit, hlow, ← unitsF32_natAbs]
    simp [signed]
  have hd := fp32.decode_measures (x := a.toNat % 2 ^ 31) (by decide) (by decide) fp32_unit
    (by rw [show fp32.mag = 31 from rfl, hlow]; exact ((fin_toNat_iff a).2 h).2)
  rw [hval, show fp32.mag = 31 from rfl, hbit] at hd
  exact hd

/-- A quotient rounded to nearest, in units that are l and p times as large. -/
theorem nearest_quotient {num den n p l : Nat} {x y : Int} (hp : 0 < p) (hl : 0 < l) (hnum : (num : Int) * p = x * l)
    (hscale : (den : Int) * p = y * l) (hlow : (2 * n - 1) * y ≤ 2 * x) (hhigh : 2 * x < (2 * n + 1) * y) :
    (2 * num + den) / (2 * den) = n ∧ (n * den = num ↔ n * y = x) := by
  have hp' : (0 : Int) < p := by exact_mod_cast hp
  have hl' : (0 : Int) < l := by exact_mod_cast hl
  have hle : (2 * n - 1) * (den : Int) ≤ 2 * num := le_of_mul_le_mul_right
    (by have := mul_le_mul_of_nonneg_right hlow hl'.le; linear_combination this + (2 * n - 1) * hscale - 2 * hnum) hp'
  have hlt : 2 * (num : Int) < (2 * n + 1) * den := lt_of_mul_lt_mul_right
    (by have := mul_lt_mul_of_pos_right hhigh hl'; linear_combination this - (2 * n + 1) * hscale + 2 * hnum) hp'.le
  refine ⟨Nat.div_eq_of_lt_le ?_ ?_, ?_⟩
  · zify; linear_combination hle
  · zify; linear_combination hlt
  · have hscaled : ((n * den : Int) - num) * p = (n * y - x) * l := by linear_combination n * hscale - hnum
    have hiff : (n * den : Int) - num = 0 ↔ n * y - x = 0 := by
      rw [← mul_left_inj' hp'.ne', zero_mul, hscaled, mul_eq_zero_iff_right hl'.ne']
    rw [← sub_eq_zero (b := x), ← hiff, sub_eq_zero]
    norm_cast

theorem qgsclEval_finite {a b : Word} (ha : finiteF32 a = true) (hb : finiteF32 b = true) (hpos : 0 < unitsF32 b) {n : Nat}
    (hlow : (2 * n - 1 : Int) * unitsF32 b ≤ 510 * (unitsF32 a).natAbs) (hhigh : 510 * (unitsF32 a).natAbs < (2 * n + 1 : Int) * unitsF32 b) :
    qgsclEval a b = if 255 < n then ⟨255, flOF⟩
      else ⟨BitVec.ofNat 32 n, if (n : Int) * unitsF32 b = 255 * (unitsF32 a).natAbs then 0 else flNX⟩ := by
  obtain ⟨m, e, hda, hma⟩ := decode_abs ha
  obtain ⟨m', g, hdb, hmb, hn⟩ := decode_fp32_pos hb hpos
  obtain ⟨num, hnum⟩ : ∃ x, x = 255 * (scaled false m e).num * (scaled false m' g).den := ⟨_, rfl⟩
  obtain ⟨den, hden⟩ : ∃ x, x = (scaled false m' g).num * (scaled false m e).den := ⟨_, rfl⟩
  have hS := hmb.num_eq_zero_iff.not.2 hpos.ne'
  have hzero : m = 0 ↔ num = 0 := by
    obtain ⟨hd, -⟩ := hmb
    rw [hnum, ← scaled_num_eq_zero_iff false m e]
    simp [hd.ne']
  obtain ⟨hX, hx⟩ := scaled_num_eq hma
  obtain ⟨hY, hy⟩ := scaled_num_eq hmb
  rw [if_neg Bool.false_ne_true] at hx hy
  have hpos' : 0 < den := by rw [hden]; positivity
  obtain ⟨hk, hexact⟩ := nearest_quotient (num := num) (den := den)
    (x := 255 * ((unitsF32 a).natAbs : Nat)) (y := unitsF32 b) (n := n) (Nat.two_pow_pos 149) (Nat.mul_pos hX hY)
    (by rw [hnum]; simp only [Nat.cast_mul, Nat.cast_ofNat, Nat.cast_pow]; linear_combination (255 * (scaled false m' g).den : Int) * hx)
    (by rw [hden]; push_cast; linear_combination ((scaled false m e).den : Int) * hy)
    (by linear_combination hlow) (by linear_combination hhigh)
  rw [qgsclEval_eq hda hdb hn hnum hden hk.symm]
  simp only [flIf, decide_eq_true_eq, ne_eq, ite_not, hexact]
  split
  next hm =>
    have hn0 : n = 0 := by
      rw [← hk, hzero.1 hm, Nat.mul_zero, Nat.zero_add]
      exact Nat.div_eq_of_lt (by omega)
    have hz : (n : Int) * unitsF32 b = 255 * (unitsF32 a).natAbs := hexact.1 (by rw [hn0, hzero.1 hm, Nat.zero_mul])
    rw [if_neg (by omega), if_pos hz, hn0]
    rfl
  next => rfl

/-! ### What each conversion computes in one lane -/

theorem cvt_f32f16_units {a : Word} (h : a.toNat % 32768 < 31744) :
    unitsF32 (cvtEval .f32f16 a).val = smallF16.units (a.toNat % 65536) ∧ (cvtEval .f32f16 a).flags = 0 :=
  smallF16_describes.widens_units 125 rfl (by decide) (by decide)
    (by rw [show fp16.mag = 15 from rfl, show fp16.maxBits = 31743 from rfl]; omega)

/-- The value of the code in the low bits of an element, by its fields (R67). -/
theorem SmallFmt.units_low (s : SmallFmt) (a : Word) : s.units (a.toNat % 2 ^ (s.eb + s.mb + 1)) =
    (if a.getLsbD (s.eb + s.mb) then -1 else 1) * (if a.toNat / 2 ^ s.mb % 2 ^ s.eb = 0 then ((a.toNat % 2 ^ s.mb : Nat) : Int)
      else ((2 ^ s.mb + a.toNat % 2 ^ s.mb) * 2 ^ (a.toNat / 2 ^ s.mb % 2 ^ s.eb - 1) : Nat)) * s.unit := by
  have hbit : (a.toNat % 2 ^ (s.eb + s.mb + 1)).testBit (s.eb + s.mb) = a.getLsbD (s.eb + s.mb) := by
    rw [Nat.testBit_mod_two_pow, decide_eq_true (Nat.lt_succ_self _), Bool.true_and, BitVec.getLsbD]
  have hexp : a.toNat % 2 ^ (s.eb + s.mb + 1) / 2 ^ s.mb % 2 ^ s.eb = a.toNat / 2 ^ s.mb % 2 ^ s.eb := by
    rw [show s.eb + s.mb + 1 = s.mb + (s.eb + 1) by omega, pow_add, Nat.mod_mul_right_div_self,
      Nat.mod_mod_of_dvd _ (pow_dvd_pow 2 (Nat.le_succ _))]
  have hfr : a.toNat % 2 ^ (s.eb + s.mb + 1) % 2 ^ s.mb = a.toNat % 2 ^ s.mb := Nat.mod_mod_of_dvd _ (pow_dvd_pow 2 (by omega))
  rw [SmallFmt.units, hbit, hexp, hfr, Nat.cast_mul, Nat.cast_ite, mul_assoc]

theorem cvt8_f32e4m3_units {a : Word} (h : a.toNat % 128 ≠ 127) :
    unitsF32 (cvt8Eval .f32e4m3 a).val = smallE4M3.units (a.toNat % 256) :=
  (smallE4M3_describes.widens_units 140 rfl (by decide) (by decide)
    (by rw [show e4m3.mag = 7 from rfl, show e4m3.maxBits = 126 from rfl]; omega)).1

theorem cvt8_f32e5m2_units {a : Word} (h : a.toNat % 128 ≤ 0x7B) :
    unitsF32 (cvt8Eval .f32e5m2 a).val = smallE5M2.units (a.toNat % 256) :=
  (smallE5M2_describes.widens_units 133 rfl (by decide) (by decide)
    (by rw [show e5m2.mag = 7 from rfl, show e5m2.maxBits = 0x7B from rfl]; omega)).1

/-- Two 16-bit formats converted one to the other (R79). -/
theorem SmallFmt.Describes.narrows_small {s t : SmallFmt} {f g : Fmt} (hs : s.Describes f) (ht : t.Describes g) {x : Nat}
    (hx : x % 2 ^ f.mag ≤ f.maxBits) (rm : RM) : t.Narrows false rm (s.units x) (floatOut (fCvt g rm (f.decode x))) := by
  obtain ⟨m, e, hd, hm⟩ := hs.decode hx
  exact ht.narrows_fCvt hd hm rm

theorem cvt_f16bf16_narrows {a : Word} (h : finiteF32 (a <<< 16) = true) (rm : RM) :
    smallF16.Narrows false rm (unitsF32 (a <<< 16)) (cvtEval (.f16bf16 rm) a) := by
  rw [unitsF32_shiftLeft]
  exact smallBF16_describes.narrows_small smallF16_describes ((finiteF32_shiftLeft_iff a).1 h) rm

theorem cvt_bf16f16_narrows {a : Word} (h : smallF16.finite (a.toNat % 65536)) (rm : RM) :
    smallBF16.Narrows false rm (smallF16.units (a.toNat % 65536)) (cvtEval (.bf16f16 rm) a) :=
  smallF16_describes.narrows_small smallBF16_describes h.2 rm

/-- The bounds of the six conversions of an FP32 element to an integer (R83). -/
theorem cvtsatEval_eq {f : CvtsatForm} {rm : RM} {lo hi : Int} (h :
      (f = .i32f32 rm ∧ lo = -2147483648 ∧ hi = 2147483647) ∨ (f = .u32f32 rm ∧ lo = 0 ∧ hi = 4294967295) ∨
      (f = .i16f32 rm ∧ lo = -32768 ∧ hi = 32767) ∨ (f = .u16f32 rm ∧ lo = 0 ∧ hi = 65535) ∨
      (f = .i8f32 rm ∧ lo = -128 ∧ hi = 127) ∨ (f = .u8f32 rm ∧ lo = 0 ∧ hi = 255)) (a : Word) :
    cvtsatEval f a = satF32 rm lo hi a := by
  rcases h with ⟨rfl, rfl, rfl⟩ | ⟨rfl, rfl, rfl⟩ | ⟨rfl, rfl, rfl⟩ |
    ⟨rfl, rfl, rfl⟩ | ⟨rfl, rfl, rfl⟩ | ⟨rfl, rfl, rfl⟩ <;> rfl

theorem unpack_float (a : Word) (k : Nat) :
    unpackEval .f32f16 a k = cvtEval .f32f16 (a >>> (16 * (k % 2))) ∧ unpackEval .f32bf16 a k = cvtEval .f32bf16 (a >>> (16 * (k % 2))) := by
  unfold unpackEval cvtEval
  simp only [half_toNat, and_self]

/-- QGENC of finite sources with a positive scale and a code that is not 0 (R85). -/
theorem qgenc_finite {a b c : Word} (d : Word) (k : Nat) (ha : finiteF32 a = true) (hc : finiteF32 c = true) (hpos : 0 < unitsF32 c)
    (hb : b.toNat % 256 ≠ 0) {i : Nat} {num den : Int} (hi : i = bitsAt (qgencEval fp32 a b c d k).val.toNat (4 * (k % 8)) 4)
    (hnum : num = unitsF32 a * 7905) (hden : den = (b.toNat % 256 : Nat) * unitsF32 c) :
    QgNearest num den i ∧ (qgencEval fp32 a b c d k).flags = if num = qgImage i * den then 0 else flNX := by
  obtain ⟨j, hj, heval⟩ := qgencEval_finite d k ha hc hpos hb
  rw [heval] at hi ⊢
  have hij : i = j := hi.trans (bitsAt_bfi d (by omega) hj.lt)
  rw [hij, hnum, hden]
  exact ⟨hj, rfl⟩

/-- Settles O16: the formats of 8 and 16 bits go through the one rounding of every format, QGENC through the nearest image in units of
2^-149, QGSCL through one nearest quotient. -/
theorem conversionLaneValues : Obligations.ConversionLaneValues := by
  unfold Obligations.ConversionLaneValues
  intro a b c d k
  refine ⟨fun h => ?_, cvt_f32bf16, fun h => ?_, fun f rm lo hi n hf hn => ?_,
    fun rm => ⟨fun ha => ⟨?_, ?_, fun sat => ⟨?_, ?_⟩⟩, ?_, ?_, ?_, ?_⟩, fun lo hi => pack_i16x2sat a b d k,
    (unpack_float a k).1, (unpack_float a k).2, cvt8_f32e5m2_units, cvtsat_i8i32 a, cvtsat_u8u32 a,
    ?_, ?_, ?_, ?_, ?_, ?_, ?_⟩
  · obtain ⟨hval, hfl⟩ := cvt_f32f16_units h
    exact ⟨hval.trans (smallF16.units_low a), hfl⟩
  · exact (cvt8_f32e4m3_units h).trans (smallE4M3.units_low a)
  · have heval : laneEval (.cvtsat f) a b c d k = satF32 rm lo hi a := cvtsatEval_eq hf a
    rw [heval, hn]
    exact ⟨fun h => satF32_nan h rm lo hi, fun h hfin => satF32_inf h hfin rm lo hi, fun h => satF32_finite h rm lo hi⟩
  · exact smallF16_describes.narrows_fp32 ha rm
  · exact smallBF16_describes.narrows_fp32 ha rm
  · exact smallE4M3_describes.narrows_cvt8To ha sat rm
  · exact smallE5M2_describes.narrows_cvt8To ha sat rm
  · exact fun h => cvt_f16bf16_narrows h rm
  · exact fun h => cvt_bf16f16_narrows h rm
  · exact fun lo hi => pack_floats fp16_delivers rfl rm _ _
  · exact fun lo hi => pack_floats bf16_delivers rfl rm _ _
  · change _ = (⟨(a &&& (0xFFFF : Word)) ||| (b <<< 16), 0⟩ : LaneOut)
    rw [← pack16_setWidth, ← half_false, ← half_false]
    rfl
  · rw [← bfeU_16]
    rfl
  · rw [← bfeI_8]
    rfl
  · exact fun i => bfi_getLsbD d a (by omega) i
  · intro ha hc hpos hb i num den hi hnum hden
    obtain ⟨hnear, hfl⟩ := qgenc_finite d k ha hc hpos hb hi hnum hden
    exact ⟨hnear.le, hnear.even, hfl⟩
  · intro i hi
    obtain ⟨j, hj⟩ := qgencEval_val fp32 a b c d k
    exact (congrArg (·.getLsbD i) hj).trans ((bfi_getLsbD _ _ (by omega) i).trans (if_neg (by omega)))
  · intro ha hb hpos n hlow hhigh
    have heval : laneEval .qgscl a b c d k = _ := qgsclEval_finite ha hb hpos hlow hhigh
    rw [heval]
    by_cases hn : 255 < n
    · rw [if_pos hn, if_pos hn, if_neg (Nat.not_le.2 hn)]
      exact ⟨rfl, rfl⟩
    · rw [if_neg hn, if_neg hn, if_pos (Nat.not_lt.1 hn)]
      exact ⟨rfl, rfl⟩

end
end Sys2Proof.Machine

namespace Sys2Proof.Machine
section
/-!
# Counts, reversals and fields of bits

What the helpers of `Machine/Bits.lean` compute, said by the bits of their argument.
-/

/-! ### Counts (R99, R108, R127) -/

theorem popcN_eq_countP (n x : Nat) : popcN n x = (List.range n).countP x.testBit := by
  induction n generalizing x with
  | zero => rfl
  | succ n ih =>
    have hhead : x % 2 = if x.testBit 0 then 1 else 0 := by
      rcases Nat.mod_two_eq_zero_or_one x with h | h <;> simp [Nat.testBit_zero, h]
    rw [popcN, ih, List.range_succ_eq_map, List.countP_cons, List.countP_map, hhead, Nat.add_comm]
    simp only [Function.comp_def, Nat.testBit_succ]

theorem ctzN_eq_find (n x : Nat) : ctzN n x = ((List.range n).find? x.testBit).getD n := by
  induction n generalizing x with
  | zero => rfl
  | succ n ih =>
    rw [ctzN, List.range_succ_eq_map, List.find?_cons, Nat.testBit_zero]
    by_cases h : x % 2 = 1
    · simp [h]
    · rw [if_neg h, ih, decide_eq_false h, List.find?_map]
      simp only [Function.comp_def, Nat.testBit_succ]
      cases (List.range n).find? (x / 2).testBit <;> simp [Nat.add_comm]

theorem popcN_toNat {n : Nat} (v : BitVec n) : popcN n v.toNat = (List.range n).countP (fun i => v.getLsbD i) :=
  popcN_eq_countP n v.toNat

theorem ctzN_toNat {n : Nat} (v : BitVec n) : ctzN n v.toNat = ((List.range n).find? (fun i => v.getLsbD i)).getD n :=
  ctzN_eq_find n v.toNat

/-- The highest set bit of `x`, if it is bit `n`. -/
theorem log2_of_testBit {n x : Nat} (hx : x < 2 ^ (n + 1)) (h : x.testBit n = true) : Nat.log2 x = n :=
  (Nat.log2_eq_iff (by rintro rfl; simp at h)).2 ⟨Nat.ge_two_pow_of_testBit h, hx⟩

theorem lt_two_pow_of_not_testBit {n x : Nat} (hx : x < 2 ^ (n + 1)) (h : x.testBit n = false) : x < 2 ^ n := by
  by_contra hge
  have := Nat.testBit_of_two_pow_le_and_two_pow_add_one_gt (Nat.le_of_not_lt hge) hx
  simp_all

/-- The induction takes the highest bit away: where it is 0, the count goes on below it. -/
theorem clzN_eq_find {n x : Nat} (hx : x < 2 ^ n) : clzN n x = ((List.range n).find? (fun i => x.testBit (n - 1 - i))).getD n := by
  rw [clzN, Nat.mod_eq_of_lt hx]
  induction n with
  | zero => simp [show x = 0 by omega]
  | succ n ih =>
    rw [List.range_succ_eq_map, List.find?_cons, Nat.add_sub_cancel, Nat.sub_zero]
    cases h : x.testBit n with
    | true =>
      have hne : x ≠ 0 := by rintro rfl; simp at h
      simp [hne, log2_of_testBit hx h]
    | false =>
      have hlt := lt_two_pow_of_not_testBit hx h
      have hstep : ((fun i => x.testBit (n - i)) ∘ Nat.succ) = fun i => x.testBit (n - 1 - i) := by
        funext i; simp [Nat.sub_sub, Nat.add_comm]
      have hlog : x ≠ 0 → Nat.log2 x < n := fun hne => (Nat.log2_lt hne).2 hlt
      rw [List.find?_map, hstep]
      have hsucc (o : Option Nat) : (o.map Nat.succ).getD (n + 1) = o.getD n + 1 := by cases o <;> rfl
      rw [hsucc, ← ih hlt]
      split <;> omega

theorem clzN_toNat {n : Nat} (v : BitVec n) :
    clzN n v.toNat = ((List.range n).find? (fun i => v.getLsbD (n - 1 - i))).getD n :=
  clzN_eq_find v.isLt

/-- The highest set bit, as a search from above finds it. -/
theorem find_reverse_range_testBit {n x : Nat} (hx : x < 2 ^ n) :
    ((List.range n).reverse.find? x.testBit) = if x = 0 then none else some (Nat.log2 x) := by
  induction n with
  | zero => simp [show x = 0 by omega]
  | succ n ih =>
    rw [List.range_succ, List.reverse_append, List.reverse_singleton, List.singleton_append, List.find?_cons]
    cases h : x.testBit n with
    | true =>
      have hne : x ≠ 0 := by rintro rfl; simp at h
      rw [if_neg hne, log2_of_testBit hx h]
    | false => exact ih (lt_two_pow_of_not_testBit hx h)

/-! ### Reversals (R99) -/

theorem brevN_lt (n x : Nat) : brevN n x < 2 ^ n := by
  induction n generalizing x with
  | zero => exact Nat.one_pos
  | succ n ih =>
    have := ih (x / 2)
    have : x % 2 * 2 ^ n ≤ 1 * 2 ^ n := Nat.mul_le_mul_right _ (by omega)
    rw [brevN, Nat.pow_succ]
    omega

theorem testBit_brevN (n x i : Nat) : (brevN n x).testBit i = (decide (i < n) && x.testBit (n - 1 - i)) := by
  induction n generalizing x with
  | zero => simp [brevN]
  | succ n ih =>
    rw [brevN, Nat.mul_comm, Nat.testBit_two_pow_mul_add _ (brevN_lt n _), ih, ← Nat.testBit_succ]
    rcases Nat.lt_trichotomy i n with hlt | rfl | hgt
    · simp [hlt, show i < n + 1 by omega, show n - 1 - i + 1 = n - i by omega]
    · simp [Nat.testBit_zero]
    · have hbit : (x % 2).testBit (i - n) = false := Nat.testBit_lt_two_pow (by
        have : 2 ^ 1 ≤ 2 ^ (i - n) := Nat.pow_le_pow_right (by decide) (by omega)
        omega)
      rw [if_neg (by omega), hbit, decide_eq_false (by omega), Bool.false_and]

theorem ofNat_brevN {n : Nat} (v : BitVec n) : BitVec.ofNat n (brevN n v.toNat) = v.reverse := by
  refine BitVec.eq_of_getLsbD_eq fun i hi => ?_
  rw [BitVec.getLsbD_ofNat, testBit_brevN, BitVec.getLsbD_reverse, BitVec.getMsbD_eq_getLsbD, BitVec.testBit_toNat]
  simp [hi]

theorem bswapN_eq_sum (m x : Nat) : bswapN m x = ((List.range m).map (fun i => x / 256 ^ i % 256 * 256 ^ (m - 1 - i))).sum := by
  induction m generalizing x with
  | zero => rfl
  | succ m ih =>
    rw [bswapN, ih, List.range_succ_eq_map, List.map_cons, List.sum_cons, List.map_map]
    have hstep : ((fun i => x / 256 ^ i % 256 * 256 ^ (m - i)) ∘ Nat.succ) = fun i => x / 256 / 256 ^ i % 256 * 256 ^ (m - 1 - i) := by
      funext i
      simp only [Function.comp, Nat.succ_eq_add_one, Nat.div_div_eq_div_mul, ← Nat.pow_succ', show m - (i + 1) = m - 1 - i by omega]
    simp [hstep]

theorem bswapN_toNat {n : Nat} (v : BitVec n) (m : Nat) : bswapN m v.toNat =
    ((List.range m).map (fun i => (v.extractLsb' (8 * i) 8).toNat * 256 ^ (m - 1 - i))).sum := by
  have hbyte (i : Nat) : (v.extractLsb' (8 * i) 8).toNat = v.toNat / 256 ^ i % 256 := by
    rw [BitVec.extractLsb'_toNat, Nat.shiftRight_eq_div_pow, Nat.pow_mul]
  simp only [bswapN_eq_sum, hbyte]

/-! ### Fields (R99, R127) -/

theorem getLsbD_bfeU {n : Nat} (v : BitVec n) {p w : Nat} (h : w ≤ n) (i : Nat) :
    (bfeU v p w).getLsbD i = (decide (i < w) && v.getLsbD (p + i)) := by
  rw [bfeU, BitVec.getLsbD_ofNat, Nat.testBit_mod_two_pow, Nat.testBit_div_two_pow, BitVec.testBit_toNat, Nat.add_comm i p]
  by_cases hi : i < w
  · simp [hi, show i < n by omega]
  · simp [hi]

/-- A signed field is its bits, extended by the highest of them. -/
theorem bfeI_eq_signExtend {n : Nat} (v : BitVec n) {p w : Nat} (h : 0 < w) :
    bfeI v p w = (v.extractLsb' p w).signExtend n := by
  have hn : (v.extractLsb' p w).toNat = v.toNat / 2 ^ p % 2 ^ w := by
    rw [BitVec.extractLsb'_toNat, Nat.shiftRight_eq_div_pow]
  have hpow : 2 ^ w = 2 * 2 ^ (w - 1) := by rw [← Nat.pow_succ', Nat.succ_eq_add_one, Nat.sub_add_cancel h]
  rw [BitVec.signExtend, BitVec.toInt_eq_toNat_cond, hn, bfeI, if_neg (by omega)]
  dsimp only
  by_cases hf : v.toNat / 2 ^ p % 2 ^ w < 2 ^ (w - 1)
  · rw [if_pos hf, if_pos (by omega)]; rfl
  · rw [if_neg hf, if_neg (by omega)]; norm_cast

theorem getLsbD_bfeI {n : Nat} (v : BitVec n) (p w i : Nat) :
    (bfeI v p w).getLsbD i = (decide (i < n) && decide (0 < w) && v.getLsbD (p + min i (w - 1))) := by
  by_cases h : 0 < w
  · rw [bfeI_eq_signExtend v h, BitVec.getLsbD_signExtend, BitVec.msb_eq_getLsbD_last, BitVec.getLsbD_extractLsb',
      BitVec.getLsbD_extractLsb']
    by_cases hi : i < w
    · simp [h, hi, show min i (w - 1) = i by omega]
    · simp [h, hi, show min i (w - 1) = w - 1 by omega]
  · simp [bfeI, show w = 0 by omega]

/-- The mask of a field of `w` bits from bit `p`. -/
theorem getLsbD_field (n p w i : Nat) :
    (BitVec.ofNat n ((2 ^ w - 1) * 2 ^ p)).getLsbD i = (decide (i < n) && decide (p ≤ i ∧ i < p + w)) := by
  rw [BitVec.getLsbD_ofNat, Nat.testBit_mul_two_pow, Nat.testBit_two_pow_sub_one, ← Bool.decide_and]
  congr 2
  exact propext (by omega)

/-- `bfi_getLsbD` at any width. -/
theorem getLsbD_bfi {n : Nat} (old v : BitVec n) {p w : Nat} (h : p + w ≤ n) (i : Nat) :
    (bfi old v p w).getLsbD i = if p ≤ i ∧ i < p + w then v.getLsbD (i - p) else old.getLsbD i := by
  simp only [bfi, BitVec.getLsbD_or, BitVec.getLsbD_and, BitVec.getLsbD_not, BitVec.getLsbD_shiftLeft, getLsbD_field]
  by_cases hin : p ≤ i ∧ i < p + w
  · simp [hin, show i < n by omega, show ¬ i < p by omega]
  · by_cases hi : i < n
    · simp [hin, hi]
    · simp [hin, hi, BitVec.getLsbD_of_ge old i (Nat.le_of_not_lt hi)]

theorem getLsbD_rangeMask (a b i : Nat) : (rangeMask a b).getLsbD i = (decide (i < 96) && decide (a ≤ i) && decide (i < b)) := by
  rw [rangeMask]
  split
  next h =>
    rw [Bool.and_assoc, ← Bool.decide_and, decide_eq_false (p := a ≤ i ∧ i < b) (by omega), Bool.and_false]
    exact BitVec.getLsbD_zero
  next h =>
    rw [getLsbD_field, Bool.and_assoc, ← Bool.decide_and, ← Bool.decide_and, ← Bool.decide_and, decide_eq_decide]
    omega

end
end Sys2Proof.Machine

namespace Sys2Proof.Machine
section
/-!
# Scalar, branch and mask instructions

Each of them is a `State.run` whose effect retires its word, so a theorem about one is what its effect writes and where its next word stands.
-/

/-! ### Words that retire -/

section
variable {s : State} {g g' : Group} {i : Instr} {f : Nat → Group → State}

/-- A ready word with the meaning `e` whose effect is to retire: `e` names the instruction's own function, and that the effect is that
retirement is its definition. -/
theorem retires_of_retire {pc : DWord} {n : Nat} (e : Host.Outcome State Fault Refusal) (h : s.Ready g i)
    (hexec : exec i s = e := by rfl) (hrun : e = s.run i f := by rfl)
    (hf : f s.cur g = s.retire s.cur g' pc n := by rfl) : s.Retires i g' pc :=
  answers_of (hexec.trans (hrun.trans ((run_ready h f).trans (congrArg _ hf)))) (retire_onlyGroup s g' pc n)

/-- A ready word with the meaning `e` that falls through. -/
theorem retires_of_done {l : Lit} {n : Nat} (e : Host.Outcome State Fault Refusal) (hp : g'.pc = g.pc) (h : s.Ready g i)
    (hexec : exec i s = e := by rfl) (hrun : e = s.run i f := by rfl)
    (hf : f s.cur g = s.done s.cur g' i n := by rfl) (hz : Instr.size i = (if l.isSome then 16 else 8) := by rfl) :
    s.Retires i g' (g.nextPc l) :=
  answers_of (hexec.trans (hrun.trans ((run_ready h f).trans (congrArg _ hf)))) (done_onlyGroup s n hz hp rfl)

/-- A taken branch to a bad target faults before every later check (R36, R55 step 1). -/
theorem exec_badTarget {t : DWord} (e : Host.Outcome State Fault Refusal) (ht : s.takenTarget s.cur g i = some t)
    (hbad : ¬ s.GoodTarget t) (hexec : exec i s = e := by rfl) (hrun : e = s.run i f := by rfl) :
    s.group? s.cur = some g → g.place = .resident → Instr.sourcesOk g.vregs g.sregs i = true → g.readsError i = false →
      s.mustWait s.cur g i = false → exec i s = .next (s.systemFault s.cur g { cause := 5, pc := g.pc, addr := t }) := by
  intro hgroup hplace hsources herror hwait
  have hbranch : s.badBranch s.cur g i = some t := by
    simp [State.badBranch, hsources, herror, hwait, ht, badTarget_of_not hbad]
  have hstops : s.stops s.cur g i = some (.fault { cause := 5, pc := g.pc, addr := t }) := by
    rw [State.stops, hbranch]
  rw [hexec, hrun, State.run, hgroup]
  simp [hplace, hstops]

end

/-! ### Scalar destinations -/

theorem loWord_setWidth (x : Word) : loWord (x.setWidth 64) = x := by
  simp [loWord, ← BitVec.setWidth_eq_extractLsb']

theorem loWord_ofNat (n : Nat) : loWord (BitVec.ofNat 64 n) = BitVec.ofNat 32 n := by
  rw [loWord, ← BitVec.setWidth_eq_extractLsb' (by decide), BitVec.setWidth_ofNat_of_le (by decide)]

theorem Group.wd_pc (g : Group) (w64 : Bool) (d : Operand) (x : DWord) : (g.wd w64 d x).pc = g.pc := by
  cases w64 <;> rfl

/-- A destination of the width of its value (R88). -/
theorem Group.wd_ite (g : Group) (w64 : Bool) (d : Operand) (x : DWord) (y : Word) :
    g.wd w64 d (if w64 then x else y.setWidth 64) = if w64 then g.wp (regNo d) x else g.ws (regNo d) y := by
  cases w64
  · exact congrArg (g.ws (regNo d)) (loWord_setWidth y)
  · rfl

/-! ### Arithmetic (R95, R96, R73) -/

theorem addSub_usat_add {n : Nat} (x y : BitVec n) : addSub .usat false x y = BitVec.ofNat n (min (x.toNat + y.toNat) (2 ^ n - 1)) := by
  have hpos := Nat.two_pow_pos n
  have hsat : satU ((x.toNat : Int) + y.toNat) n = (min (x.toNat + y.toNat) (2 ^ n - 1) : Nat) := by
    rw [satU]; push_cast [hpos]; omega
  rw [addSub, hsat, BitVec.ofInt_natCast]

theorem addSub_usat_sub {n : Nat} (x y : BitVec n) : addSub .usat true x y = BitVec.ofNat n (x.toNat - y.toNat) := by
  have hx := x.isLt
  have hsat : satU ((x.toNat : Int) - y.toNat) n = (x.toNat - y.toNat : Nat) := by
    rw [satU]
    have : ((2 ^ n : Nat) : Int) = 2 ^ n := by push_cast; rfl
    omega
  rw [addSub, hsat, BitVec.ofInt_natCast]

theorem divForm_unsigned {n : Nat} (rem : Bool) (x y : BitVec n) : divForm true rem x y =
    if y = 0 then (if rem then x else BitVec.allOnes n) else if rem then x % y else x / y := by
  by_cases hy : y = 0#n <;> cases rem <;> simp [divForm, divRem, hy]

/-- The quotient that overflows is the dividend: so is the quotient of the integers modulo 2^n (R73). -/
theorem divForm_signed {n : Nat} (rem : Bool) (x y : BitVec n) : divForm false rem x y =
    if y = 0 then (if rem then x else BitVec.allOnes n)
    else BitVec.ofInt n (if rem then x.toInt.tmod y.toInt else x.toInt.tdiv y.toInt) := by
  by_cases hy : y = 0#n
  · cases rem <;> simp [divForm, divRem, hy]
  · by_cases hover : x.toInt = -(2 ^ (n - 1) : Int) ∧ y.toInt = -1
    · have hpos : 0 < n := Nat.pos_of_ne_zero (by rintro rfl; exact hy (Subsingleton.elim _ _))
      have hmin : x = BitVec.intMin n := BitVec.eq_of_toInt_eq (hover.1.trans (by simp [BitVec.toInt_intMin_of_pos hpos]))
      have hneg : BitVec.ofInt n (-x.toInt) = x := by rw [BitVec.ofInt_neg, BitVec.ofInt_toInt, hmin, BitVec.neg_intMin]
      rw [hover.1, neg_neg] at hneg
      cases rem <;> simp [divForm, divRem, hy, hover, hneg]
    · cases rem <;> simp [divForm, divRem, hy, hover]

theorem minMaxForm_eq {n : Nat} (u isMax : Bool) (x y : BitVec n) : minMaxForm u isMax x y =
    if toIntU u x ≤ toIntU u y then (if isMax then y else x) else if isMax then x else y := by
  by_cases h : toIntU u x ≤ toIntU u y <;> cases isMax <;> simp [minMaxForm, h]

/-- An operation on two sources writes its result at the width of `.W64` (R95). -/
theorem scalarResult_of {s : State} {g : Group} {i : Instr} {f : SBin} {op r : (n : Nat) → BitVec n → BitVec n → BitVec n}
    (hexec : exec i s = s.scalarBin i f op) (hz : Instr.size i = if f.x.lit.isSome then 16 else 8)
    (hop : ∀ n (x y : BitVec n), op n x y = r n x y) : s.ScalarResult g f i r := by
  have hr : op = r := by funext n x y; exact hop n x y
  subst hr
  refine fun h => retires_of_done _ ?_ h hexec rfl (congrArg (fun h => s.done s.cur h i 1) (Group.wd_ite ..)) hz
  split <;> rfl

/-- Settles O1: every form is one operation at each width (`scalarResult_of`); what is left is saturation, division and the order of
SMIN and SMAX. -/
theorem scalarArithmeticWritesItsResult : Obligations.ScalarArithmeticWritesItsResult := by
  unfold Obligations.ScalarArithmeticWritesItsResult
  intro s g f
  refine ⟨?_, ?_, ?_, ?_, ?_, ?_, ?_, ?_, ?_, ?_, ?_, ?_, ?_, fun inv => ?_, fun inv => ?_, fun inv => ?_, ?_, ?_, ?_, ?_⟩
  · exact scalarResult_of rfl rfl fun n x y => rfl
  · exact scalarResult_of rfl rfl fun n x y => rfl
  · exact scalarResult_of rfl rfl fun n x y => addSub_usat_add x y
  · exact scalarResult_of rfl rfl fun n x y => rfl
  · exact scalarResult_of rfl rfl fun n x y => rfl
  · exact scalarResult_of rfl rfl fun n x y => addSub_usat_sub x y
  · exact scalarResult_of rfl rfl fun n x y => rfl
  · exact scalarResult_of rfl rfl fun n x y => rfl
  · exact scalarResult_of rfl rfl fun n x y => rfl
  · exact scalarResult_of rfl rfl fun n x y => divForm_unsigned false x y
  · exact scalarResult_of rfl rfl fun n x y => divForm_unsigned true x y
  · exact scalarResult_of rfl rfl fun n x y => divForm_signed false x y
  · exact scalarResult_of rfl rfl fun n x y => divForm_signed true x y
  · exact scalarResult_of rfl rfl fun n x y => rfl
  · exact scalarResult_of rfl rfl fun n x y => rfl
  · exact scalarResult_of rfl rfl fun n x y => rfl
  · exact scalarResult_of rfl rfl fun n x y => minMaxForm_eq false false x y
  · exact scalarResult_of rfl rfl fun n x y => (minMaxForm_eq true false x y).trans (if_congr Int.ofNat_le rfl rfl)
  · exact scalarResult_of rfl rfl fun n x y => minMaxForm_eq false true x y
  · exact scalarResult_of rfl rfl fun n x y => (minMaxForm_eq true true x y).trans (if_congr Int.ofNat_le rfl rfl)

/-! ### Shifts, comparisons and the selection (R96 to R98) -/

section
variable {s : State} {g : Group}

/-- A shift writes its result at the width of `.W64`. -/
theorem retires_shift {i : Instr} {f : SBin} {op : (n : Nat) → BitVec n → Nat → BitVec n}
    (hexec : exec i s = s.run i (fun k g => s.done k (g.wd f.w64 f.d (s.shiftValue k g f op)) i 1))
    (hz : Instr.size i = if f.x.lit.isSome then 16 else 8) (h : s.Ready g i) :
    s.Retires i (if f.w64 then g.wp (regNo f.d) (op 64 (s.uni64 s.cur g f.x f.a) ((s.uni32 s.cur g f.x f.b).toNat % 64))
      else g.ws (regNo f.d) (op 32 (s.uni32 s.cur g f.x f.a) ((s.uni32 s.cur g f.x f.b).toNat % 32))) (g.nextPc f.x.lit) := by
  refine retires_of_done _ ?_ h hexec rfl (congrArg (fun h => s.done s.cur h i 1) (Group.wd_ite ..)) hz
  split <;> rfl

/-- A comparison writes whether its condition holds (R97). -/
theorem compareResult_of {f : SBin} {c : SCond} {r : (n : Nat) → BitVec n → BitVec n → Bool}
    (hr : ∀ n (x y : BitVec n), scond c x y = r n x y) : s.CompareResult g f c r := by
  refine fun h => retires_of_done (execScmp c f s) rfl h
    (hf := congrArg (fun v => s.done s.cur (g.ws (regNo f.d) v) (.scmp c f) 1) ?_)
  simp only [State.scmpHolds, hr]
  cases f.w64 <;> rfl

/-- SSEL writes the source `o` that it selects (R98). -/
theorem retires_ssel {f : SBin} {c o : Operand} (ho : (if s.uni32 s.cur g f.x c ≠ 0 then f.a else f.b) = o) (h : s.Ready g (.ssel c f)) :
    s.Retires (.ssel c f) (if f.w64 then g.wp (regNo f.d) (s.uni64 s.cur g f.x o) else g.ws (regNo f.d) (s.uni32 s.cur g f.x o))
      (g.nextPc f.x.lit) := by
  subst ho
  refine retires_of_done (execSsel c f s) ?_ h (hf := congrArg (fun h => s.done s.cur h (.ssel c f) 1) (Group.wd_ite ..))
  split <;> rfl

end

/-- Settles O2: the shifts by `retires_shift`, each condition as `scond` gives it, and the source that SSEL selects. -/
theorem scalarShiftsComparesAndSelects : Obligations.ScalarShiftsComparesAndSelects := by
  unfold Obligations.ScalarShiftsComparesAndSelects
  intro s g f
  refine ⟨retires_shift rfl rfl, retires_shift rfl rfl, retires_shift rfl rfl,
    compareResult_of fun n x y => rfl, compareResult_of fun n x y => decide_not,
    compareResult_of fun n x y => rfl, compareResult_of fun n x y => rfl,
    compareResult_of fun n x y => rfl, compareResult_of fun n x y => rfl,
    compareResult_of fun n x y => rfl, compareResult_of fun n x y => rfl,
    compareResult_of fun n x y => rfl, compareResult_of fun n x y => rfl,
    fun c hc => retires_ssel (if_pos hc), fun c hc => retires_ssel (if_neg (not_not.2 hc))⟩

/-! ### Bits (R99) -/

section
variable {s : State} {g : Group} {op : SbitOp} {w64 : Bool} {d a : Operand} {x : Ext}

/-- A count is one register in both widths. -/
theorem countResult_of {r : (n : Nat) → BitVec n → Nat} (hcount : sbitCounts op = true)
    (hr : ∀ n (v old : BitVec n) b c, sbitValue op v old b c = BitVec.ofNat n (r n v)) : s.CountResult g op w64 d a x r := by
  refine fun h => retires_of_done (execSbit op w64 d a x s) rfl h
    (hf := congrArg (fun h => s.done s.cur h (.sbit op w64 d a x) 1) ?_)
  simp only [hcount, hr, Bool.not_true, Bool.and_false]
  cases w64
  · exact congrArg (g.ws (regNo d)) (loWord_setWidth _)
  · exact congrArg (g.ws (regNo d)) (loWord_ofNat _)

/-- Every other SBIT writes its value at the width of `.W64`. -/
theorem retires_sbit (hcount : sbitCounts op = false) (h : s.Ready g (.sbit op w64 d a x)) :
    s.Retires (.sbit op w64 d a x)
      (if w64 then
        g.wp (regNo d) (sbitValue op (s.uni64 s.cur g x a) (g.rp (regNo d)) (s.sbitPW s.cur g x op).1 (s.sbitPW s.cur g x op).2)
       else g.ws (regNo d) (sbitValue op (s.uni32 s.cur g x a) (g.rs (regNo d)) (s.sbitPW s.cur g x op).1 (s.sbitPW s.cur g x op).2))
      (g.nextPc x.lit) := by
  refine retires_of_done (execSbit op w64 d a x s) ?_ h
    (hf := congrArg (fun h => s.done s.cur h (.sbit op w64 d a x) 1) ?_)
  · split <;> rfl
  · rw [hcount, Bool.not_false, Bool.and_true]
    exact Group.wd_ite ..

/-- A reversal is one operation at each width. -/
theorem bitResult_of {r : (n : Nat) → BitVec n → BitVec n} (hcount : sbitCounts op = false)
    (hr : ∀ n (v old : BitVec n) b c, sbitValue op v old b c = r n v) : s.BitResult g op w64 d a x r := by
  intro h
  simpa only [hr] using retires_sbit hcount h

/-- `retires_sbit` said for a width `n`, a source `v` and an old destination `old` that are those of `.W64`. -/
theorem retires_sbit_at {n : Nat} {v old r : BitVec n} (hcount : sbitCounts op = false) (hn : n = if w64 then 64 else 32)
    (hv : v.toNat = if w64 then (s.uni64 s.cur g x a).toNat else (s.uni32 s.cur g x a).toNat)
    (hold : old.toNat = if w64 then (g.rp (regNo d)).toNat else (g.rs (regNo d)).toNat)
    (hr : sbitValue op v old (s.sbitPW s.cur g x op).1 (s.sbitPW s.cur g x op).2 = r) (h : s.Ready g (.sbit op w64 d a x)) :
    s.Retires (.sbit op w64 d a x) (if w64 then g.wp (regNo d) (r.setWidth 64) else g.ws (regNo d) (r.setWidth 32))
      (g.nextPc x.lit) := by
  have hall := retires_sbit hcount h
  subst hr
  cases w64
  · obtain rfl : n = 32 := hn
    obtain rfl := BitVec.eq_of_toNat_eq hv
    obtain rfl := BitVec.eq_of_toNat_eq hold
    simpa using hall
  · obtain rfl : n = 64 := hn
    obtain rfl := BitVec.eq_of_toNat_eq hv
    obtain rfl := BitVec.eq_of_toNat_eq hold
    simpa using hall

end

/-- Settles O3: the counts and reversals are those of the bits of the source, and a field is given bit by bit, so it is the stated one. -/
theorem scalarBitOperations : Obligations.ScalarBitOperations := by
  unfold Obligations.ScalarBitOperations
  intro s g w64 d a x
  refine ⟨countResult_of rfl fun n v _ _ _ => congrArg (BitVec.ofNat n) (popcN_toNat v),
    countResult_of rfl fun n v _ _ _ => congrArg (BitVec.ofNat n) (clzN_toNat v),
    countResult_of rfl fun n v _ _ _ => congrArg (BitVec.ofNat n) (ctzN_toNat v),
    bitResult_of rfl fun _ v _ _ _ => ofNat_brevN v,
    bitResult_of rfl fun n v _ _ _ => congrArg (BitVec.ofNat n) (bswapN_toNat v (n / 8)), ?_⟩
  intro b c n p w v old r hn hv hold hp hw put
  have hpn : p + w ≤ n := by
    have : p < n := hp ▸ Nat.mod_lt _ (by rw [hn]; split <;> decide)
    omega
  subst hp hw
  refine ⟨fun hr => retires_sbit_at rfl hn hv hold ?_, fun hr => retires_sbit_at rfl hn hv hold ?_,
    fun hr => retires_sbit_at rfl hn hv hold ?_⟩
  · exact BitVec.eq_of_getLsbD_eq fun i _ => (getLsbD_bfeU v (by omega) i).trans (hr i).symm
  · exact BitVec.eq_of_getLsbD_eq fun i _ => (getLsbD_bfeI v _ _ i).trans (hr i).symm
  · exact BitVec.eq_of_getLsbD_eq fun i _ => (getLsbD_bfi old v hpn i).trans (hr i).symm

/-! ### Moves (R93, R94) -/

/-- SMOV into an s-register writes what it moves, as a pair where it is wide. -/
theorem retires_smov {s : State} {g : Group} {d : Operand} {m : SmovForm} {l : Lit} (hl : Instr.litOf (.smov d m) = l)
    (h : s.Ready g (.smov d m)) :
    s.Retires (.smov d m) (g.wd (smovWide m) d (s.smovValue s.cur g m)) (g.nextPc l) :=
  retires_of_done (execSmov d m s) (Group.wd_pc ..) h (hz := by subst hl; rfl)

/-- SMOV.F32 of an operand that is no integer constant takes its bits (R94). -/
theorem smovValue_f32 {s : State} {g : Group} {a : Operand} {x : Ext} (ha : ∀ c, a ≠ .int c) :
    s.smovValue s.cur g (.f32 a x) = (s.uni32 s.cur g x a).setWidth 64 := by
  cases a with
  | int c => exact absurd rfl (ha c)
  | _ => rfl

/-- Settles O4: every SMOV into an s-register by `retires_smov`; a 32-bit value comes back from the 64 bits that the model moves. -/
theorem scalarMoves : Obligations.ScalarMoves := by
  unfold Obligations.ScalarMoves
  intro s g d a x l
  have word (v : Word) : g.wd false d (v.setWidth 64) = g.ws (regNo d) v := congrArg (g.ws (regNo d)) (loWord_setWidth v)
  refine ⟨retires_of_done (execNop l s) rfl, fun h => ?_, retires_smov rfl, fun ha h => ?_, fun c v hv h => ?_, fun n h => ?_,
    fun h => retires_of_done (execSmovToSpecial 0x0F a l s) rfl h,
    fun h => retires_of_done (execSmovToSpecial 0x10 a l s) rfl h⟩
  · exact word _ ▸ retires_smov rfl h
  · rw [← word, ← smovValue_f32 ha]
    exact retires_smov rfl h
  · subst hv
    exact word _ ▸ retires_smov rfl h
  · exact retires_smov rfl h

/-! ### Branches (R100 to R106) -/

section
variable {s : State} {g : Group} {a b d : Operand} {x : Ext} {t : DWord}

/-- BRC branches where `P` holds, which is its condition on the value `v` (R102). -/
theorem retires_brc {c : BrCond} {w64 : Bool} {v : Int} {P : Prop} [Decidable P] (ht : t = g.pc + 8 * s.uni64 s.cur g x b)
    (hv : v = if w64 then (s.uni64 s.cur g x a).toInt else (s.uni32 s.cur g x a).toInt) (hc : brHolds c v = decide P)
    (h : s.Ready g (.brc c w64 a b x)) : s.Retires (.brc c w64 a b x) g (if P then t else g.nextPc x.lit) := by
  subst hv ht
  by_cases hP : P
  · rw [if_pos hP]
    exact retires_of_retire (execBrc c w64 a b x s) h (hf := if_pos (hc.trans (decide_eq_true hP)))
  · have hnot := ne_true_of_eq_false (hc.trans (decide_eq_false hP))
    rw [if_neg hP]
    exact retires_of_done (execBrc c w64 a b x s) rfl h (hf := if_neg hnot)

/-- BRM branches where `P` holds, which is its condition on the selected and the participating lanes (R103). -/
theorem retires_brm {c : BrmCond} {sel part : BitVec 96} {P : Prop} [Decidable P] (ht : t = g.pc + 8 * s.uni64 s.cur g x b)
    (hpart : part = g.em &&& ~~~g.dead) (hsel : sel = s.tripleSrc s.cur g x a &&& part) (hc : brmHolds c sel part = decide P)
    (h : s.Ready g (.brm c a b x)) : s.Retires (.brm c a b x) g (if P then t else g.nextPc x.lit) := by
  subst hsel hpart ht
  by_cases hP : P
  · rw [if_pos hP]
    exact retires_of_retire (execBrm c a b x s) h (hf := if_pos (hc.trans (decide_eq_true hP)))
  · have hnot := ne_true_of_eq_false (hc.trans (decide_eq_false hP))
    rw [if_neg hP]
    exact retires_of_done (execBrm c a b x s) rfl h (hf := if_neg hnot)

/-- A CALL links to the word after it. -/
theorem retires_call {target : CallTarget} (ht : s.takenTarget s.cur g (.call d target x) = some t)
    (h : s.Ready g (.call d target x)) : s.Retires (.call d target x) (g.wp (regNo d) (g.nextPc x.lit)) t := by
  have hlink : g.after (.call d target x) = g.nextPc x.lit := after_eq rfl rfl
  rw [← hlink]
  cases target <;> obtain rfl := Option.some.inj ht
  · exact retires_of_retire (execCall d _ x s) h
  · exact retires_of_retire (execCall d _ x s) h

/-- LOOP branches while its count, after it has been taken down, is not 0. -/
theorem retires_loop_taken (ht : t = g.pc + 8 * s.uni64 s.cur g x b) (hcount : g.rs (regNo d) ≠ 1) (h : s.Ready g (.loop d b x)) :
    s.Retires (.loop d b x) (g.ws (regNo d) (g.rs (regNo d) - 1)) t := by
  subst ht
  exact retires_of_retire (execLoop d b x s) h (hf := if_pos (sub_ne_zero.2 hcount))

theorem retires_loop_ended (hcount : g.rs (regNo d) = 1) (h : s.Ready g (.loop d b x)) :
    s.Retires (.loop d b x) (g.ws (regNo d) 0) (g.nextPc x.lit) := by
  have hzero : g.rs (regNo d) - 1 = 0 := sub_eq_zero.2 hcount
  rw [← hzero]
  exact retires_of_done (execLoop d b x s) rfl h (hf := if_neg (not_not.2 hzero))

end

/-- Settles O5: a ready branch retires to its target or to the word after it; one that would go to a bad target stops in `badBranch`. -/
theorem branchesGoToTheirTargets : Obligations.BranchesGoToTheirTargets := by
  unfold Obligations.BranchesGoToTheirTargets
  constructor
  · intro s g d a b x l w64 t v sel part
    refine ⟨fun ht _ => ⟨fun h => ?_, ?_, fun h hcount => ?_, fun hv => ?_, fun hpart hsel => ?_⟩,
      fun ht _ => ?_, fun ht _ h => ?_, fun ht _ h => ?_, retires_loop_ended⟩
    · exact ht ▸ retires_of_retire (execBr b x s) h
    · exact retires_call (congrArg some ht.symm)
    · exact retires_loop_taken ht hcount h
    · exact ⟨retires_brc ht hv rfl, retires_brc ht hv rfl, retires_brc ht hv rfl, retires_brc ht hv rfl, retires_brc ht hv rfl,
        retires_brc ht hv rfl⟩
    · exact ⟨retires_brm ht hpart hsel rfl, retires_brm ht hpart hsel rfl, retires_brm ht hpart hsel rfl,
        retires_brm ht hpart hsel rfl⟩
    · exact retires_call (congrArg some ht.symm)
    · exact ht ▸ retires_of_retire (execJmp (.reg a) l s) h
    · exact ht ▸ retires_of_retire (execJmp .tpc l s) h
  · intro s g d a b x l t hbad faults
    refine ⟨fun ht => ⟨?_, ?_, fun hzero => ?_, fun hnone => ?_, fun hcount => ?_⟩, fun ht => ?_, fun ht => ?_, fun ht => ?_⟩
    · exact exec_badTarget (execBr b x s) (congrArg some ht.symm) hbad
    · exact exec_badTarget (execCall d (.offset b) x s) (congrArg some ht.symm) hbad
    · have htaken : brHolds .z (s.uni32 s.cur g x a).toInt = true := by rw [hzero]; rfl
      exact exec_badTarget (execBrc .z false a b x s) ((if_pos htaken).trans (congrArg some ht.symm)) hbad
    · exact exec_badTarget (execBrm .none a b x s) ((if_pos (decide_eq_true hnone)).trans (congrArg some ht.symm)) hbad
    · exact exec_badTarget (execLoop d b x s) ((if_neg hcount).trans (congrArg some ht.symm)) hbad
    · exact exec_badTarget (execCall d (.reg a) x s) (congrArg some ht.symm) hbad
    · exact exec_badTarget (execJmp (.reg a) l s) (congrArg some ht.symm) hbad
    · exact exec_badTarget (execJmp .tpc l s) (congrArg some ht.symm) hbad

/-! ### Masks (R108, R109) -/

/-- The group after the execution mask has been saved, where SAVE is given (R109). -/
def Group.saveMask (g : Group) : Option Operand → Group
  | some d => g.wt (regNo d) g.em
  | none => g

theorem Group.saveMask_pc (g : Group) (save : Option Operand) : (g.saveMask save).pc = g.pc := by
  cases save <;> rfl

/-- EMOP writes its value, computed from the old mask, after the old mask has been saved. -/
theorem retires_emop {s : State} {g : Group} {op : EmopOp} {save : Option Operand} {x : Ext} (h : s.Ready g (.emop op save x)) :
    s.Retires (.emop op save x) ((g.saveMask save).wt 125 (s.emopValue s.cur g x op)) (g.nextPc x.lit) :=
  retires_of_done (execEmop op save x s) (Group.saveMask_pc g save) h

theorem firstLane_eq (m : BitVec 96) : firstLane m = ((List.range 96).find? (fun i => m.getLsbD i)).getD 96 :=
  ctzN_toNat m

theorem lastLane_eq (m : BitVec 96) : lastLane m = ((List.range 96).reverse.find? (fun i => m.getLsbD i)).getD 96 := by
  change _ = ((List.range 96).reverse.find? m.toNat.testBit).getD 96
  rw [find_reverse_range_testBit m.isLt, lastLane]
  by_cases hm : m = 0
  · rw [hm]; rfl
  · have hn : m.toNat ≠ 0 := fun h => hm (BitVec.eq_of_toNat_eq h)
    rw [if_neg hm, if_neg hn]; rfl

/-- Settles O6: EMOP by its value on the old mask, MASKOP by the triple or the count that it writes. -/
theorem maskOperations : Obligations.MaskOperations := by
  unfold Obligations.MaskOperations
  intro s g d a b x save ma mb na nb hma hmb hna hnb saved em mask count
  subst hma hmb hna hnb
  have hem (op : EmopOp) : em op (s.emopValue s.cur g x op) := fun h => by cases save <;> exact retires_emop h
  refine ⟨hem _, hem _, hem _, hem _, hem _, hem _, ?_, ?_, ?_, ?_, ?_, ?_, ?_, fun m hm h => ?_, fun h => ?_, fun h => ?_, fun h => ?_⟩
  · exact fun h => retires_of_done (execMaskop (.and a b) d x s) rfl h
  · exact fun h => retires_of_done (execMaskop (.or a b) d x s) rfl h
  · exact fun h => retires_of_done (execMaskop (.xor a b) d x s) rfl h
  · exact fun h => retires_of_done (execMaskop (.andn a b) d x s) rfl h
  · exact fun h => retires_of_done (execMaskop (.not a) d x s) rfl h
  · exact fun h => retires_of_done (execMaskop (.mov a) d x s) rfl h
  · exact fun h => retires_of_done (execMaskop (.live a) d x s) rfl h
  · have hrange : rangeMask (s.uni32 s.cur g x a).toNat (s.uni32 s.cur g x b).toNat = m :=
      BitVec.eq_of_getLsbD_eq fun i _ => (getLsbD_rangeMask _ _ i).trans (hm i).symm
    exact hrange ▸ retires_of_done (execMaskop (.range a b) d x s) rfl h
  · rw [← popcN_toNat]
    exact retires_of_done (execMaskop (.popc a) d x s) (Group.ws_pc g _ _) h
  · exact firstLane_eq _ ▸ retires_of_done (execMaskop (.first a) d x s) rfl h
  · exact lastLane_eq _ ▸ retires_of_done (execMaskop (.last a) d x s) rfl h

end
end Sys2Proof.Machine

namespace Sys2Proof.Machine
section
/-!
# The lane loop

A word of the lane loop reads the group as it stood, kills the lanes that read an error (`State.die`), and then passes over the lanes that
took part as it issued, each writing its own element and flags (`foldl_laneWrite`).
-/

/-! ### Lanes that die (R118, R154) -/

theorem Group.live_kill (g : Group) (lane : Nat) {l : Nat} (h : l < 96) :
    (g.kill lane).live l = true ↔ g.live l = true ∧ lane ≠ l := by
  rw [Group.live, Group.live, Group.kill, BitVec.getLsbD_or, BitVec.getLsbD_ofNat, Nat.testBit_two_pow]
  simp [h]

section
variable (s : State) (k : Nat) (g : Group) (regs dying : List Nat) (ds : List Death)

theorem Group.foldl_kill_eta : ds.foldl (fun g d => g.kill d.lane) g =
    { g with dead := (ds.foldl (fun g d => g.kill d.lane) g).dead } := by
  induction ds generalizing g with
  | nil => rfl
  | cons d ds ih => rw [List.foldl_cons, ih]; rfl

theorem Group.live_foldl_kill {l : Nat} (h : l < 96) :
    (ds.foldl (fun g d => g.kill d.lane) g).live l = true ↔ g.live l = true ∧ ∀ d ∈ ds, d.lane ≠ l := by
  induction ds generalizing g with
  | nil => simp
  | cons d ds ih => rw [List.foldl_cons, ih, Group.live_kill g _ h, List.forall_mem_cons, and_assoc]

/-- Error records change the error log and the contexts' error areas alone. -/
theorem State.killLanes_eta : (s.killLanes k g ds).1 = { s with
    errorLog := (s.killLanes k g ds).1.errorLog, errorOver := (s.killLanes k g ds).1.errorOver
    ctxs := (s.killLanes k g ds).1.ctxs } := by
  unfold State.killLanes
  induction ds generalizing s with
  | nil => rfl
  | cons d ds ih =>
    dsimp only [List.foldl_cons] at ih ⊢
    rw [ih, State.groupError, State.errorRec_eta]

theorem State.die_state_eta : (s.die k g regs dying).1 = { s with
    errorLog := (s.die k g regs dying).1.errorLog, errorOver := (s.die k g regs dying).1.errorOver
    ctxs := (s.die k g regs dying).1.ctxs } := by
  unfold State.die
  split
  · rfl
  · exact State.killLanes_eta ..

theorem State.die_group_eta : (s.die k g regs dying).2 = { g with dead := (s.die k g regs dying).2.dead } := by
  unfold State.die
  split
  · rfl
  · exact Group.foldl_kill_eta ..

theorem State.live_die {l : Nat} (h : l < 96) : (s.die k g regs dying).2.live l = true ↔ g.live l = true ∧ l ∉ dying := by
  unfold State.die
  split
  next hnil => simp [List.isEmpty_iff.1 hnil]
  next =>
    rw [State.killLanes, Group.live_foldl_kill g _ h, Group.deaths, List.forall_mem_map]
    exact and_congr_right fun _ => ⟨fun hne hmem => hne l hmem rfl, fun hnot L hL e => hnot (e ▸ hL)⟩

end

theorem Group.mem_dying {g : Group} {regs : List Nat} {L : Nat} (hL : L < 96) (hpart : g.part L = true) :
    L ∈ g.dying regs ↔ ∃ r ∈ regs, r * 96 + L ∈ g.vBad := by
  unfold Group.dying
  split
  next hnil => simp [List.isEmpty_iff.1 hnil]
  next => simp [mem_lanes, hL, hpart]

/-! ### The pass (R117) -/

/-- What a lane writes in the lane loop: 0 and no flags where it dies. -/
def State.laneOut (s : State) (k : Nat) (g : Group) (dying : List Nat) (op : LaneOp) (f : VOps) (L : Nat) : LaneOut :=
  if L ∈ dying then ⟨0, 0⟩ else s.laneResult k g op f L

/-- A write without flags. -/
theorem Group.laneWrite_plain (g : Group) (d L : Nat) (x : Word) : g.laneWrite d L ⟨x, 0⟩ = g.wv d L x := by
  rw [Group.laneWrite, Group.orFlags, if_pos rfl]

theorem foldl_laneWrite_plain (ls : List Nat) (g : Group) (d : Nat) (x : Nat → Word) :
    ls.foldl (fun acc L => acc.laneWrite d L ⟨x L, 0⟩) g = ls.foldl (fun acc L => acc.wv d L (x L)) g := by
  simp only [Group.laneWrite_plain]

theorem State.laneLoop_eq_foldl (s : State) (k : Nat) (g : Group) (dying : List Nat) (op : LaneOp) (f : VOps) (acc : Group) :
    s.laneLoop k g dying op f acc =
      g.lanes.foldl (fun acc L => acc.laneWrite (regNo f.d) L (s.laneOut k g dying op f L)) acc := by
  unfold State.laneLoop State.laneOut
  congr 1
  funext acc L
  by_cases h : L ∈ dying
  · rw [if_pos h, if_pos (List.contains_iff_mem.2 h), Group.laneWrite_plain]
  · rw [if_neg h, if_neg (mt List.contains_iff_mem.1 h), Group.laneWrite]

/-- A ready word with the meaning `e` whose effect is to retire after such a pass over the group. -/
theorem laneResults_of_done {s : State} {g : Group} {i : Instr} {f : Nat → Group → State} {l : Lit} {d n : Nat} {out : Nat → LaneOut}
    (e : Host.Outcome State Fault Refusal) (h : s.Ready g i)
    (hf : f s.cur g = s.done s.cur (g.lanes.foldl (fun acc L => acc.laneWrite d L (out L)) g) i n)
    (hexec : exec i s = e := by rfl) (hrun : e = s.run i f := by rfl)
    (hz : Instr.size i = (if l.isSome then 16 else 8) := by rfl) : s.LaneResults i g d out l :=
  ⟨_, foldl_lanes g d out, retires_of_done e (foldl_lanes g d out).pc_eq h hexec hrun hf hz⟩

/-! ### The words of the lane loop (R117) -/

section
variable {s : State} {g : Group} {i : Instr} {op : LaneOp} {f : VOps} (hi : Instr.lane? i = some (op, f))
include hi

/-- An instruction of the lane loop is its lane operation, run. -/
theorem exec_of_lane? (s : State) : exec i s = s.runLane op f i := by
  unfold Instr.lane? at hi
  split at hi <;> cases hi <;> rfl

theorem size_of_lane? : Instr.size i = if f.x.lit.isSome then 16 else 8 := by
  unfold Instr.lane? at hi
  split at hi <;> cases hi <;> rfl

/-- A word without SCR runs on registers. -/
theorem exec_lane (hscr : f.scr = false) (h : s.Ready g i) : exec i s = .next
    ((s.die s.cur g (laneReads op f) (g.dying (laneReads op f))).1.done s.cur
      (s.laneLoop s.cur g (g.dying (laneReads op f)) op f (s.die s.cur g (laneReads op f) (g.dying (laneReads op f))).2) i
      (s.laneTime g op f)) := by
  rw [exec_of_lane? hi, State.runLane, run_ready h, hscr]
  rfl

theorem laneResults_of_sound (hscr : f.scr = false) (h : s.Ready g i) (hsound : g.SoundIn (laneReads op f)) :
    s.LaneResults i g (regNo f.d) (s.laneResult s.cur g op f) f.x.lit := by
  refine laneResults_of_done (s.runLane op f i) h ?_ (exec_of_lane? hi s) rfl (size_of_lane? hi) (n := s.laneTime g op f)
  rw [hscr, dying_nil hsound, ← State.laneLoop_eq]
  rfl

/-- What a word of the lane loop does to each lane that took part as it issued. -/
theorem answers_lane (hscr : f.scr = false) (h : s.Ready g i) :
    Answers (exec i s) (fun t => ∃ h, t.group? s.cur = some h ∧ s.SameMemory t ∧ h.pc = g.nextPc f.x.lit ∧
      ∀ L, L < 96 → g.part L = true →
        h.rv (regNo f.d) L = (s.laneOut s.cur g (g.dying (laneReads op f)) op f L).val ∧
        h.rf L = g.rf L ||| (s.laneOut s.cur g (g.dying (laneReads op f)) op f L).flags ∧
        (h.live L = true ↔ L ∉ g.dying (laneReads op f))) := by
  refine answers_of (exec_lane hi hscr h) ?_
  have hstate := s.die_state_eta s.cur g (laneReads op f) (g.dying (laneReads op f))
  have hgroup := s.die_group_eta s.cur g (laneReads op f) (g.dying (laneReads op f))
  have hlive (L : Nat) (hL : L < 96) := s.live_die s.cur g (laneReads op f) (g.dying (laneReads op f)) hL
  generalize s.die s.cur g (laneReads op f) (g.dying (laneReads op f)) = r at hstate hgroup hlive ⊢
  obtain ⟨u, g'⟩ := r
  dsimp only at hstate hgroup hlive ⊢
  obtain ⟨hval, -, hflags, -, heta⟩ := foldl_laneWrite (regNo f.d) (s.laneOut s.cur g (g.dying (laneReads op f)) op f) g.lanes g' _
    (lanes_nodup g) (fun L hL => (mem_lanes.1 hL).1) rfl
  rw [← State.laneLoop_eq_foldl] at hval hflags heta
  generalize s.laneLoop s.cur g (g.dying (laneReads op f)) op f g' = x at hval hflags heta ⊢
  have hcur : u.cur = s.cur := by rw [hstate]
  have hpc : x.pc = g.pc := by rw [heta, hgroup]
  have hrf (L : Nat) : g'.rf L = g.rf L := by rw [hgroup]; rfl
  have hxlive (L : Nat) : x.live L = g'.live L := by rw [heta]; rfl
  obtain ⟨hat, -, -, -, hmem, -⟩ := done_onlyGroup u (g' := x) (s.laneTime g op f) (size_of_lane? hi) hpc rfl
  rw [hcur] at hat hmem
  refine ⟨_, hat, .trans ?_ hmem, rfl, fun L hL hpart => ?_⟩
  · rw [hstate]; exact .of_eq
  · have hlanes : L ∈ g.lanes := mem_lanes.2 ⟨hL, hpart⟩
    have hwas : g.live L = true := (Bool.and_eq_true_iff.1 hpart).1
    refine ⟨(hval L hL).trans (if_pos hlanes), ((hflags L).trans (if_pos hlanes)).trans (by rw [hrf]), ?_⟩
    exact (Bool.eq_iff_iff.1 (hxlive L)).trans ((hlive L hL).trans (and_iff_right hwas))

end

/-- Settles O12: without an error no lane dies and the loop is one pass over the group (`laneResults_of_sound`); with one, `answers_lane`
says what each lane writes by whether it is among the dying. -/
theorem laneInstructionsWriteTheirLanes : Obligations.LaneInstructionsWriteTheirLanes := by
  unfold Obligations.LaneInstructionsWriteTheirLanes
  refine ⟨fun s g i op f hi hscr hready hsound => laneResults_of_sound hi hscr hready hsound, fun s g i op f hi hscr hready => ?_⟩
  obtain ⟨t, ht, h, hat, hmem, hpc, hlanes⟩ := answers_lane hi hscr hready
  refine answers_of ht ⟨h, hat, hmem, hpc, fun L hL hpart => ?_⟩
  obtain ⟨hval, hflags, hlive⟩ := hlanes L hL hpart
  have hdying := Group.mem_dying (regs := laneReads op f) hL hpart
  unfold State.laneOut at hval hflags
  refine ⟨fun hbad => ?_, fun hgood => ?_⟩
  · have hin := hdying.2 hbad
    rw [if_pos hin] at hval hflags
    exact ⟨hval, hflags.trans (BitVec.or_zero ..), Bool.eq_false_iff.2 fun hl => hlive.1 hl hin⟩
  · have hout : L ∉ g.dying (laneReads op f) := fun hin => absurd (hdying.1 hin) (by simpa using hgood)
    rw [if_neg hout] at hval hflags
    exact ⟨hval, hflags, hlive.2 hout⟩

end
end Sys2Proof.Machine

namespace Sys2Proof.Machine
section
/-!
# Integer lane values

Each operation of R121 to R129 on 32-bit elements, by the arithmetic or the bits of its sources.
-/

/-! ### Saturation (R58, R121, R122, R129) -/

theorem plainOut_satS_word (x : Int) :
    plainOut (BitVec.ofInt 32 (satS x 32)) = ⟨BitVec.ofInt 32 (max (-(2 ^ 31)) (min x (2 ^ 31 - 1))), 0⟩ := by
  have h : satS x 32 = max (-(2 ^ 31)) (min x (2 ^ 31 - 1)) := by unfold satS; omega
  rw [h, plainOut]

theorem ofInt_satU_word (x : Nat) : BitVec.ofInt 32 (satU x 32) = BitVec.ofNat 32 (min x (2 ^ 32 - 1)) := by
  have h : satU x 32 = (min x (2 ^ 32 - 1) : Nat) := by unfold satU; omega
  rw [h, BitVec.ofInt_natCast]

/-! ### Division (R73, R123) -/

theorem laneEval_div (u rem : Bool) (a b c d : Word) (k : Nat) : laneEval (.div u rem) a b c d k =
    if b = 0#32 then ⟨if rem then a else BitVec.allOnes 32, flIDZ⟩
    else if u then ⟨if rem then a % b else a / b, 0⟩
    else if a.toInt = -(2 ^ 31) ∧ b.toInt = -1 then ⟨if rem then 0 else a, flIOV⟩
    else ⟨BitVec.ofInt 32 (if rem then a.toInt.tmod b.toInt else a.toInt.tdiv b.toInt), 0⟩ := by
  have h : laneEval (.div u rem) a b c d k = (let r := divRem u a b
      ⟨if rem then r.2.1 else r.1, flIf r.2.2.1 flIDZ ||| flIf r.2.2.2 flIOV⟩) := rfl
  rw [h, divRem]
  by_cases hb : b = 0#32
  · simp [hb, flIf]
  · cases u with
    | true => simp [hb, flIf]
    | false =>
      rw [if_neg hb, if_neg hb, if_neg Bool.false_ne_true, if_neg Bool.false_ne_true]
      by_cases hover : a.toInt = -(2 ^ 31) ∧ b.toInt = -1
      · rw [if_pos hover, if_pos hover]; simp [flIf]
      · rw [if_neg hover, if_neg hover]; cases rem <;> simp [flIf]

/-! ### The bytes of an element reversed (R128) -/

theorem bswapN_lt (m x : Nat) : bswapN m x < 2 ^ (8 * m) := by
  induction m generalizing x with
  | zero => exact Nat.one_pos
  | succ m ih =>
    have hlow := ih (x / 256)
    have hhigh : x % 256 * 2 ^ (8 * m) ≤ 255 * 2 ^ (8 * m) := Nat.mul_le_mul_right _ (by omega)
    rw [bswapN, show 256 ^ m = 2 ^ (8 * m) from (Nat.pow_mul 2 8 m).symm, Nat.mul_succ, Nat.pow_add]
    omega

theorem testBit_bswapN (m x i : Nat) :
    (bswapN m x).testBit i = (decide (i < 8 * m) && x.testBit (8 * (m - 1 - i / 8) + i % 8)) := by
  induction m generalizing x with
  | zero => simp [bswapN]
  | succ m ih =>
    rw [bswapN, show 256 ^ m = 2 ^ (8 * m) from (Nat.pow_mul 2 8 m).symm, Nat.mul_comm,
      Nat.testBit_two_pow_mul_add _ (bswapN_lt m _), ih, show (256 : Nat) = 2 ^ 8 from rfl, Nat.testBit_div_two_pow,
      Nat.testBit_mod_two_pow]
    by_cases hlow : i < 8 * m
    · rw [if_pos hlow, decide_eq_true hlow, decide_eq_true (by omega : i < 8 * (m + 1))]
      congr 2
      omega
    · rw [if_neg hlow, show 8 * (m + 1 - 1 - i / 8) + i % 8 = i % 8 by omega]
      by_cases htop : i < 8 * (m + 1)
      · rw [decide_eq_true htop, decide_eq_true (by omega : i - 8 * m < 8), show i - 8 * m = i % 8 by omega]
      · rw [decide_eq_false htop, decide_eq_false (by omega : ¬ i - 8 * m < 8), Bool.false_and, Bool.false_and]

theorem ofNat_bswapN_word (a : Word) : BitVec.ofNat 32 (bswapN 4 a.toNat) =
    ((a &&& 0xFF) <<< 24) ||| ((a &&& 0xFF00) <<< 8) ||| ((a >>> 8) &&& 0xFF00) ||| (a >>> 24) := by
  have hmask0 (i : Nat) : (0xFF#32).getLsbD i = (decide (i < 32) && decide (0 ≤ i ∧ i < 0 + 8)) := getLsbD_field 32 0 8 i
  have hmask1 (i : Nat) : (0xFF00#32).getLsbD i = (decide (i < 32) && decide (8 ≤ i ∧ i < 8 + 8)) := getLsbD_field 32 8 8 i
  refine BitVec.eq_of_getLsbD_eq fun i hi => ?_
  rw [BitVec.getLsbD_ofNat, testBit_bswapN, BitVec.testBit_toNat]
  simp only [BitVec.getLsbD_or, BitVec.getLsbD_and, BitVec.getLsbD_shiftLeft, BitVec.getLsbD_ushiftRight, BitVec.ofNat_eq_ofNat,
    BitVec.natCast_eq_ofNat, hmask0, hmask1]
  have hbyte : i / 8 = 0 ∧ 8 * (4 - 1 - i / 8) + i % 8 = 24 + i ∨ i / 8 = 1 ∧ 8 * (4 - 1 - i / 8) + i % 8 = 8 + i ∨
    i / 8 = 2 ∧ 8 * (4 - 1 - i / 8) + i % 8 = i - 8 ∨ i / 8 = 3 ∧ 8 * (4 - 1 - i / 8) + i % 8 = i - 24 := by omega
  rcases hbyte with ⟨h, e⟩ | ⟨h, e⟩ | ⟨h, e⟩ | ⟨h, e⟩ <;> rw [e] <;> simp (disch := omega) [decide_eq_true, decide_eq_false]

/-! ### Byte products (R129) -/

theorem toIntU_byte (u : Bool) (x : Word) (i : Nat) : toIntU u (x.extractLsb' (8 * i) 8) =
    if u then ((((x >>> (8 * i)).setWidth 8 : Byte)).toNat : Int) else ((x >>> (8 * i)).setWidth 8 : Byte).toInt := by
  rw [BitVec.setWidth_ushiftRight_eq_extractLsb, toIntU]

theorem dotSum_eq (ua ub : Bool) (a b : Word) : dotSum ua ub a b =
    toIntU ua (a.extractLsb' (8 * 0) 8) * toIntU ub (b.extractLsb' (8 * 0) 8) +
    toIntU ua (a.extractLsb' (8 * 1) 8) * toIntU ub (b.extractLsb' (8 * 1) 8) +
    toIntU ua (a.extractLsb' (8 * 2) 8) * toIntU ub (b.extractLsb' (8 * 2) 8) +
    toIntU ua (a.extractLsb' (8 * 3) 8) * toIntU ub (b.extractLsb' (8 * 3) 8) := by
  simp [dotSum, List.range_succ]

/-- The types of VDOT4 say which bytes are read as unsigned. -/
theorem laneEval_dot4 {t : DotTypes} {ua ub : Bool}
    (h : (t = .ss ∧ ua = false ∧ ub = false) ∨ (t = .uu ∧ ua = true ∧ ub = true) ∨ (t = .su ∧ ua = false ∧ ub = true))
    (sat : Bool) (a b c d : Word) (k : Nat) : laneEval (.dot4 t sat) a b c d k =
      plainOut (BitVec.ofInt 32 (if sat then satS (c.toInt + dotSum ua ub a b) 32 else c.toInt + dotSum ua ub a b)) := by
  rcases h with ⟨rfl, rfl, rfl⟩ | ⟨rfl, rfl, rfl⟩ | ⟨rfl, rfl, rfl⟩ <;> rfl

/-- Products of unsigned bytes add up without a sign. -/
theorem dotSum_unsigned (a b : Word) : dotSum true true a b =
    ((a.toNat % 256) * (b.toNat % 256) + (a.toNat / 256 % 256) * (b.toNat / 256 % 256) +
      (a.toNat / 65536 % 256) * (b.toNat / 65536 % 256) + (a.toNat / 16777216) * (b.toNat / 16777216) : Nat) := by
  have hbyte (x : Word) (i : Nat) : toIntU true (x.extractLsb' (8 * i) 8) = (x.toNat / 2 ^ (8 * i) % 256 : Nat) := by
    rw [toIntU, if_pos rfl, BitVec.extractLsb'_toNat, Nat.shiftRight_eq_div_pow]
  have htop (x : Word) : x.toNat / 16777216 % 256 = x.toNat / 16777216 := Nat.mod_eq_of_lt (by omega)
  simp only [dotSum_eq, hbyte]
  norm_num [htop]

/-- Settles O13: sums and products by saturation, division by `laneEval_div`, the bit operations by the bits of their source, and VDOT4 by
`dotSum_eq`. -/
theorem integerLaneValues : Obligations.IntegerLaneValues := by
  unfold Obligations.IntegerLaneValues
  intro a b c d k inv
  refine ⟨rfl, congrArg plainOut (addSub_usat_add a b), rfl, congrArg plainOut (addSub_usat_sub a b), rfl, ?_, rfl, rfl,
    congrArg plainOut (ofInt_satU_word (a.toNat * b.toNat + c.toNat)), fun r hr => hr ▸ plainOut_satS_word _,
    fun r hr => hr ▸ plainOut_satS_word _, fun r hr => hr ▸ plainOut_satS_word _, ?_, ?_, laneEval_div .., laneEval_div ..,
    rfl, rfl, rfl, rfl, rfl, rfl, ?_, congrArg plainOut (minMaxForm_eq false false a b), ?_,
    congrArg plainOut (minMaxForm_eq false true a b), rfl, fun n hn => ?_, congrArg plainOut (ofNat_brevN a), fun n hn => ?_,
    fun n hn => ?_, congrArg plainOut (ofNat_bswapN_word a), fun r p w hp hw => ⟨fun hr => ?_, fun hr => ?_⟩,
    fun t ua ub v => ?_, fun r hr => ?_, ?_⟩
  · exact congrArg plainOut (BitVec.ofInt_natCast 32 (a.toNat * b.toNat / 2 ^ 32))
  · rw [laneEval_div, ← BitVec.udiv_def]; rfl
  · rw [laneEval_div, ← BitVec.umod_def]; rfl
  · exact congrArg plainOut ((minMaxForm_eq true false a b).trans (if_congr Int.ofNat_le rfl rfl))
  · exact congrArg plainOut ((minMaxForm_eq true true a b).trans (if_congr Int.ofNat_le rfl rfl))
  · rw [hn, ← popcN_toNat]; rfl
  · rw [hn, ← clzN_toNat]; rfl
  · rw [hn, ← ctzN_toNat]; rfl
  · subst hp hw
    exact congrArg plainOut (BitVec.eq_of_getLsbD_eq fun i _ => (getLsbD_bfeI a _ _ i).trans (hr i).symm)
  · subst hp hw
    exact congrArg plainOut (BitVec.eq_of_getLsbD_eq fun i _ => (getLsbD_bfi d a (by omega) i).trans (hr i).symm)
  · intro byte htypes hv
    have hsum : c.toInt + dotSum ua ub a b = v := by
      simp only [dotSum_eq, toIntU_byte, hv, byte]
      omega
    rw [laneEval_dot4 htypes, laneEval_dot4 htypes, hsum]
    exact ⟨rfl, plainOut_satS_word v⟩
  · exact congrArg plainOut (BitVec.eq_of_getLsbD_eq fun i _ => (getLsbD_bfeU a (by omega) i).trans (hr i).symm)
  · rw [laneEval_dot4 (.inr (.inl ⟨rfl, rfl, rfl⟩)), dotSum_unsigned, if_neg Bool.false_ne_true, BitVec.ofInt_add, BitVec.ofInt_toInt,
      BitVec.ofInt_natCast]
    rfl

end
end Sys2Proof.Machine

namespace Sys2Proof.Machine
section
/-!
# Comparisons, selection and flags

A comparison writes the triple of the participating lanes that satisfy it (`getLsbD_ballot`); VFLAG and the flags of VFCMP are passes over
the participating lanes that write `vflags` alone (`Group.flagWrites_foldl`).
-/

/-! ### Triples of lanes (R125) -/

/-- A sum of distinct powers of two has the bits of its exponents. -/
theorem testBit_foldl_two_pow (p : Nat → Bool) (n : Nat) :
    ((List.range n).filter p).foldl (fun m L => m + 2 ^ L) 0 < 2 ^ n ∧
    ∀ i, (((List.range n).filter p).foldl (fun m L => m + 2 ^ L) 0).testBit i = (decide (i < n) && p i) := by
  induction n with
  | zero => simp
  | succ n ih =>
    rw [List.range_succ, List.filter_append, List.foldl_append]
    generalize ((List.range n).filter p).foldl (fun m L => m + 2 ^ L) 0 = m at ih ⊢
    obtain ⟨hlt, hbits⟩ := ih
    cases hp : p n with
    | false =>
      rw [List.filter_singleton, hp]
      refine ⟨hlt.trans (Nat.pow_lt_pow_succ (by decide)), fun i => (hbits i).trans ?_⟩
      rcases Nat.lt_trichotomy i n with h | rfl | h
      · simp [h, Nat.lt_succ_of_lt h]
      · simp [hp]
      · simp [show ¬ i < n by omega, show ¬ i < n + 1 by omega]
    | true =>
      rw [List.filter_singleton, hp, Nat.pow_succ]
      refine ⟨?_, fun i => ?_⟩
      · change m + 2 ^ n < _
        omega
      · change (m + 2 ^ n).testBit i = _
        rw [Nat.add_comm, ← Nat.mul_one (2 ^ n), Nat.testBit_two_pow_mul_add _ hlt, hbits]
        rcases Nat.lt_trichotomy i n with h | rfl | h
        · simp [h, Nat.lt_succ_of_lt h]
        · simp [hp]
        · rw [if_neg (by omega), decide_eq_false (by omega : ¬ i < n + 1), Bool.false_and,
            Nat.testBit_lt_two_pow (Nat.one_lt_two_pow (by omega))]

theorem getLsbD_ballot (g : Group) (p : Nat → Bool) (L : Nat) :
    (g.ballot p).getLsbD L = (decide (L < 96) && g.part L && p L) := by
  rw [Group.ballot, Group.lanes, List.filter_filter, BitVec.getLsbD_ofNat, (testBit_foldl_two_pow _ 96).2, ← Bool.and_assoc,
    Bool.and_self, Bool.and_comm (p L), Bool.and_assoc]

theorem ballot_eq {g : Group} {p q : Nat → Bool} {m : BitVec 96} (h : ∀ L, m.getLsbD L = (decide (L < 96) && g.part L && q L))
    (hpq : ∀ L, p L = q L) : g.ballot p = m :=
  BitVec.eq_of_getLsbD_eq fun L _ => (getLsbD_ballot g p L).trans (by rw [hpq, h])

/-! ### Passes over the flags (R58, R134, R139) -/

/-- `h` is `g` after every participating lane has set its flags to `p`. -/
def Group.FlagWrites (g h : Group) (p : Nat → Flags) : Prop :=
  h = { g with vflags := h.vflags } ∧ ∀ L, h.rf L = if L < 96 ∧ g.part L = true then p L else g.rf L

theorem Group.FlagWrites.pc_eq {g h : Group} {p : Nat → Flags} (w : g.FlagWrites h p) : h.pc = g.pc := by
  obtain ⟨e, -⟩ := w
  rw [e]

/-- What a list of lanes, each once, does to the flags, where the step of a lane writes its own as `p` says. -/
theorem foldl_flags {step : Group → Nat → Group} {p : Nat → Flags → Flags}
    (heta : ∀ g L, step g L = { g with vflags := (step g L).vflags })
    (hrf : ∀ g L l, (step g L).rf l = if l = L then p L (g.rf L) else g.rf l) (ls : List Nat) (hn : ls.Nodup) (g : Group) :
    ls.foldl step g = { g with vflags := (ls.foldl step g).vflags } ∧
    ∀ l, (ls.foldl step g).rf l = if l ∈ ls then p l (g.rf l) else g.rf l := by
  induction ls generalizing g with
  | nil => exact ⟨rfl, fun l => by simp⟩
  | cons j ls ih =>
    obtain ⟨hj, hn⟩ := List.nodup_cons.1 hn
    obtain ⟨he, hf⟩ := ih hn (step g j)
    rw [List.foldl_cons]
    refine ⟨?_, fun l => ?_⟩
    · rw [he, heta g j]
    · rw [hf l, hrf]
      by_cases e : l = j
      · subst e; simp [hj]
      · simp [e]

/-- A pass over the flags of the participating lanes. -/
theorem Group.flagWrites_foldl {step : Group → Nat → Group} (g : Group) {p : Nat → Flags → Flags}
    (heta : ∀ g L, step g L = { g with vflags := (step g L).vflags })
    (hrf : ∀ g L l, (step g L).rf l = if l = L then p L (g.rf L) else g.rf l) :
    g.FlagWrites (g.lanes.foldl step g) (fun L => p L (g.rf L)) := by
  obtain ⟨he, hf⟩ := foldl_flags heta hrf g.lanes (lanes_nodup g) g
  exact ⟨he, fun L => by simp only [hf L, mem_lanes]⟩

/-- A pass that writes flags outright. -/
theorem Group.flagWrites_wf (g : Group) (p : Nat → Flags → Flags) :
    g.FlagWrites (g.lanes.foldl (fun acc L => acc.wf L (p L (acc.rf L))) g) (fun L => p L (g.rf L)) :=
  g.flagWrites_foldl (fun _ _ => rfl) fun _ _ _ => rf_wf ..

/-- A pass that raises flags. -/
theorem Group.flagWrites_orFlags (g : Group) (fl : Nat → Flags) :
    g.FlagWrites (g.lanes.foldl (fun acc L => acc.orFlags L (fl L)) g) (fun L => g.rf L ||| fl L) :=
  g.flagWrites_foldl (p := fun L f => f ||| fl L) (fun _ _ => orFlags_eta ..) fun _ _ _ => orFlags_rf ..

/-! ### Conditions (R125, R134) -/

/-- Sources are equal where the integers that they are read as are. -/
theorem toIntU_eq_iff {n : Nat} (u : Bool) (x y : BitVec n) : toIntU u x = toIntU u y ↔ x = y := by
  cases u
  · exact BitVec.toInt_inj
  · exact Int.ofNat_inj.trans BitVec.toNat_inj

section
variable {a b : Word}

/-- The value of an infinity, were its code a finite one: it lies beyond every finite value. -/
theorem unitsF32_of_inf (ha : nanF32 a = false) (hf : finiteF32 a = false) :
    unitsF32 a = signed a.msb (fp32.magVal 0x7F800000) := by
  rw [← Bool.not_eq_true, nanF32_iff] at ha
  rw [← Bool.not_eq_true, finiteF32_iff] at hf
  rw [unitsF32_eq_sval, Fmt.sval, show fp32.mag = 31 from rfl, bitAt_msb, show a.toNat % 2 ^ 31 = 0x7F800000 by omega]

theorem natAbs_unitsF32_lt (ha : finiteF32 a = true) : (unitsF32 a).natAbs < fp32.magVal 0x7F800000 := by
  rw [unitsF32_natAbs]
  have hle := (finiteF32_iff a).1 ha
  exact fp32.magVal_strictMono (by omega)

section
variable {s t : Bool} {m : Nat} {e : Int}

theorem inf_lt_inf : (FVal.inf s).lt (.inf t) = (s && !t) := by
  cases s <;> cases t <;> rfl

theorem inf_lt_fin : (FVal.inf s).lt (.fin t m e) = s := by
  unfold FVal.lt FVal.key
  by_cases hm : m = 0 <;> cases s <;> cases t <;> simp [hm]

theorem fin_lt_inf : (FVal.fin t m e).lt (.inf s) = !s := by
  unfold FVal.lt FVal.key
  by_cases hm : m = 0 <;> cases s <;> cases t <;> simp [hm]

end

/-- Sources that are not NaN, infinities among them, are ordered by their values. -/
theorem decode_lt_of_not_nan (ha : nanF32 a = false) (hb : nanF32 b = false) :
    (fp32.decode a.toNat).lt (fp32.decode b.toNat) = decide (unitsF32 a < unitsF32 b) := by
  cases hfa : finiteF32 a <;> cases hfb : finiteF32 b
  · have hpos : fp32.magVal 0 < fp32.magVal 0x7F800000 := fp32.magVal_strictMono (by decide)
    rw [decode_inf ha hfa, decode_inf hb hfb, inf_lt_inf, unitsF32_of_inf ha hfa, unitsF32_of_inf hb hfb]
    cases a.msb <;> cases b.msb <;> simp [signed]
    omega
  · have hlt := natAbs_unitsF32_lt hfb
    obtain ⟨m, e, hd, -⟩ := decode_units hfb
    rw [decode_inf ha hfa, hd, inf_lt_fin, unitsF32_of_inf ha hfa]
    cases a.msb <;> simp [signed] <;> omega
  · have hlt := natAbs_unitsF32_lt hfa
    obtain ⟨m, e, hd, -⟩ := decode_units hfa
    rw [decode_inf hb hfb, hd, fin_lt_inf, unitsF32_of_inf hb hfb]
    cases b.msb <;> simp [signed] <;> omega
  · exact decode_lt hfa hfb

variable (a b) in
theorem fcond_decode (k : FCond) : fcond k (fp32.decode a.toNat) (fp32.decode b.toNat) = comparesF32 k a b := by
  unfold fcond comparesF32 FVal.eqv
  rw [isNan_decode, isNan_decode]
  by_cases h : nanF32 a = true ∨ nanF32 b = true
  · have hun : (nanF32 a || nanF32 b) = true := Bool.or_eq_true_iff.2 h
    rw [hun]
    cases k <;> rfl
  · obtain ⟨ha, hb⟩ : nanF32 a = false ∧ nanF32 b = false := by simpa using h
    rw [decode_lt_of_not_nan ha hb, decode_lt_of_not_nan hb ha, ha, hb]
    rcases lt_trichotomy (unitsF32 a) (unitsF32 b) with h | h | h
    · cases k <;> simp [h, h.ne, h.le, h.not_ge, h.not_gt]
    · cases k <;> simp [h]
    · cases k <;> simp [h, h.ne', h.le, h.not_ge, h.not_gt]

variable (a b) in
theorem fcondFlags_decode (k : FCond) :
    fcondFlags k (fp32.decode a.toNat) (fp32.decode b.toNat) = if comparesNV k a b then flNV else 0 := by
  unfold fcondFlags comparesNV
  rw [nvOf_or, isNan_decode, isNan_decode]
  generalize (nanF32 a || nanF32 b) = un
  cases (signalF32 a || signalF32 b) <;> cases un <;> cases k <;> rfl

end

/-! ### The words -/

section
variable {s : State} {g : Group} {d a b c : Operand} {x : Ext} {l : Lit} {m : BitVec 96}

theorem retires_vcmp {u : Bool} {k : VCond} {q : Nat → Bool} (hsound : g.SoundIn (vReg? a ++ vReg? b))
    (hq : ∀ L, vcond k u (s.laneSrc s.cur g .int x a L) (s.laneSrc s.cur g .int x b L) = q L) (h : s.Ready g (.vcmp k u d a b x))
    (hm : ∀ L, m.getLsbD L = (decide (L < 96) && g.part L && q L)) :
    s.Retires (.vcmp k u d a b x) (g.wt (regNo d) m) (g.nextPc x.lit) := by
  rw [← ballot_eq hm hq]
  exact retires_of_done (execVcmp k u d a b x s) rfl h (n := s.nonEmptyBeats g) (hf := by rw [dying_nil hsound]; rfl)

theorem retires_vfcmp {k : FCond} (hsound : g.SoundIn (vReg? a ++ vReg? b)) {fa fb : Nat → Word}
    (hfa : ∀ L, fa L = s.laneSrc s.cur g (.flt fp32) x a L) (hfb : ∀ L, fb L = s.laneSrc s.cur g (.flt fp32) x b L)
    (h : s.Ready g (.vfcmp k d a b x))
    (hm : ∀ L, m.getLsbD L = (decide (L < 96) && g.part L && comparesF32 k (fa L) (fb L))) :
    ∃ h, s.Retires (.vfcmp k d a b x) (h.wt (regNo d) m) (g.nextPc x.lit) ∧
      g.FlagWrites h (fun L => g.rf L ||| (if comparesNV k (fa L) (fb L) then flNV else 0)) := by
  obtain rfl := funext hfa
  obtain rfl := funext hfb
  have hw := g.flagWrites_orFlags fun L => fcondFlags k (fp32.decode (s.laneSrc s.cur g (.flt fp32) x a L).toNat)
    (fp32.decode (s.laneSrc s.cur g (.flt fp32) x b L).toNat)
  rw [← ballot_eq hm fun L => fcond_decode ..]
  refine ⟨_, retires_of_done (execVfcmp k d a b x s) hw.pc_eq h (n := s.nonEmptyBeats g)
    (hf := by rw [dying_nil hsound]; rfl), ?_⟩
  simpa only [fcondFlags_decode] using hw

theorem laneResults_vsel (hsound : g.SoundIn (vReg? a ++ vReg? b)) (h : s.Ready g (.vsel d a b c x)) :
    s.LaneResults (.vsel d a b c x) g (regNo d)
      (fun L => ⟨s.laneSrc s.cur g .int x (if (g.rt (regNo c)).getLsbD L then a else b) L, 0⟩) x.lit := by
  refine laneResults_of_done (execVsel d a b c x s) h (n := s.nonEmptyBeats g) ?_
  rw [dying_nil hsound, foldl_laneWrite_plain]
  rfl

end

/-- Settles O18: a comparison is the ballot of its condition (`retires_vcmp`, `retires_vfcmp`), the selection a pass over the lanes, and
each form of VFLAG the ballot of the selected flags, a pass over the flags, or both. -/
theorem vectorComparesSelectsAndFlags : Obligations.VectorComparesSelectsAndFlags := by
  unfold Obligations.VectorComparesSelectsAndFlags
  intro s g d a b c x l u m va vb hva hvb cmp
  refine ⟨fun hsound => ?_, fun sel => ?_⟩
  · obtain rfl : va = fun L => toIntU u (s.laneSrc s.cur g .int x a L) := funext hva
    obtain rfl : vb = fun L => toIntU u (s.laneSrc s.cur g .int x b L) := funext hvb
    exact ⟨retires_vcmp hsound fun L => decide_eq_decide.2 (toIntU_eq_iff ..).symm,
      retires_vcmp hsound fun L => decide_eq_decide.2 (not_congr (toIntU_eq_iff ..).symm),
      retires_vcmp hsound fun L => rfl, retires_vcmp hsound fun L => rfl, retires_vcmp hsound fun L => rfl,
      retires_vcmp hsound fun L => rfl, laneResults_vsel hsound, fun k fa fb => retires_vfcmp hsound⟩
  intro any flags
  have hany (hm : any m) : g.ballot (fun L => decide (g.rf L &&& sel ≠ 0)) = m := ballot_eq hm fun _ => rfl
  refine ⟨fun hm h => ?_, fun hm h => ?_, fun h => ?_, fun h => ?_, fun h => ?_, fun hsound h => ?_⟩
  · exact hany hm ▸ retires_of_done (execVflag (.read d sel) l s) rfl h
  · have hw := g.flagWrites_wf fun _ f => f &&& ~~~sel
    exact ⟨_, hw, hany hm ▸ retires_of_done (execVflag (.readclr d sel) l s) hw.pc_eq h⟩
  · have hw := g.flagWrites_wf fun _ f => f &&& ~~~sel
    exact ⟨_, hw, retires_of_done (execVflag (.clr sel) l s) hw.pc_eq h⟩
  · have hw := g.flagWrites_wf fun _ f => f ||| sel
    exact ⟨_, hw, retires_of_done (execVflag (.set sel) l s) hw.pc_eq h⟩
  · exact laneResults_of_done (execVflag (.get d) l s) h
      (congrArg (fun h => s.done s.cur h (.vflag (.get d) l) (s.nonEmptyBeats g)) (foldl_laneWrite_plain ..).symm)
  · have hw := g.flagWrites_wf fun L _ => (s.laneSrc s.cur g .int ⟨0, l⟩ a L).setWidth 7
    exact ⟨_, hw, retires_of_done (execVflag (.put a) l s) hw.pc_eq h (n := s.nonEmptyBeats g)
      (hf := by simp only [dying_nil hsound]; rfl)⟩

end
end Sys2Proof.Machine

namespace Sys2Proof.Machine
section
/-!
# What cross-lane words combine

The values of RED and SCAN: an operation without flags is one fold, the floating sum of RED the tree of R147, and the other floating forms
give the element of least place in an order of the encodings.
-/

/-! ### The operations in one fold (R146, R149) -/

/-- The operation sets no flag: it folds `f` from `one`. -/
structure ScanOp.Folds (op : ScanOp) (f : Word → Word → Word) (one : Word) : Prop where
  isF : ScanOp.isF op = false
  identity : ScanOp.identity op = one
  combine : ∀ m y, ScanOp.combine op m y = (f m y, 0)

theorem scanOp_folds : ScanOp.Folds .add (fun m y => m + y) 0 ∧
    ScanOp.Folds (.min false) (fun m y => if m.toInt ≤ y.toInt then m else y) 0x7FFFFFFF ∧
    ScanOp.Folds (.min true) (fun m y => if m.toNat ≤ y.toNat then m else y) 0xFFFFFFFF ∧
    ScanOp.Folds (.max false) (fun m y => if m.toInt ≤ y.toInt then y else m) 0x80000000 ∧
    ScanOp.Folds (.max true) (fun m y => if m.toNat ≤ y.toNat then y else m) 0 ∧
    ScanOp.Folds .and (fun m y => m &&& y) 0xFFFFFFFF ∧ ScanOp.Folds .or (fun m y => m ||| y) 0 ∧
    ScanOp.Folds .xor (fun m y => m ^^^ y) 0 := by
  refine ⟨⟨rfl, rfl, fun m y => rfl⟩, ⟨rfl, rfl, fun m y => congrArg (·, 0) ?_⟩, ⟨rfl, rfl, fun m y => congrArg (·, 0) ?_⟩,
    ⟨rfl, rfl, fun m y => congrArg (·, 0) ?_⟩, ⟨rfl, rfl, fun m y => congrArg (·, 0) ?_⟩, ⟨rfl, rfl, fun m y => rfl⟩,
    ⟨rfl, rfl, fun m y => rfl⟩, ⟨rfl, rfl, fun m y => rfl⟩⟩
  · exact minMaxForm_eq false false m y
  · exact (minMaxForm_eq true false m y).trans (if_congr Int.ofNat_le rfl rfl)
  · exact minMaxForm_eq false true m y
  · exact (minMaxForm_eq true true m y).trans (if_congr Int.ofNat_le rfl rfl)

/-! ### The tree of RED.FADD.F32 (R147) -/

/-- The sum of the neighbours 2i and 2i + 1. -/
def treePair (rm : RM) (leaf : Nat → Word) (i : Nat) : Word := (ScanOp.combine (.fadd rm) (leaf (2 * i)) (leaf (2 * i + 1))).1

theorem treeLevel_range (rm : RM) (leaf : Nat → Word) (m : Nat) :
    (treeLevel rm ((List.range (2 * m)).map leaf)).1 = (List.range m).map (treePair rm leaf) := by
  induction m generalizing leaf with
  | zero => rfl
  | succ m ih =>
    have hleaves : (List.range (2 * (m + 1))).map leaf = leaf 0 :: leaf 1 :: (List.range (2 * m)).map (fun i => leaf (i + 2)) := by
      rw [Nat.mul_succ, List.range_succ_eq_map, List.range_succ_eq_map]
      simp [Function.comp_def]
    rw [hleaves, treeLevel, ih, List.range_succ_eq_map, List.map_cons, List.map_map]
    rfl

theorem treeNode_succ (rm : RM) (leaf : Nat → Word) (n i : Nat) : treeNode rm leaf (n + 1) i = treeNode rm (treePair rm leaf) n i := by
  induction n generalizing i with
  | zero => rfl
  | succ n ih => rw [treeNode, ih, ih, treeNode]

theorem treeSum_range (rm : RM) (leaf : Nat → Word) (n : Nat) (f : Flags) :
    (treeSum rm n ((List.range (2 ^ n)).map leaf) f).1 = treeNode rm leaf n 0 := by
  induction n generalizing leaf f with
  | zero => rfl
  | succ n ih => rw [treeSum, Nat.pow_succ, Nat.mul_comm, treeLevel_range, ih, treeNode_succ]

/-! ### The least and the largest of some floating values (R133, R147) -/

/-- The place of an encoding that is no NaN in the order of R133: by value, and −0 before +0. -/
def rankF32 (x : Word) : Int := 2 * unitsF32 x + (if x.msb then 0 else 1)

theorem belowF32_iff (x y : Word) : belowF32 x y ↔ rankF32 x < rankF32 y := by
  unfold belowF32 rankF32
  cases x.msb <;> cases y.msb <;> simp <;> omega

theorem rankF32_injective : Function.Injective rankF32 := by
  intro x y h
  unfold rankF32 at h
  refine eq_of_unitsF32_eq ?_ ?_ <;> cases hx : x.msb <;> cases hy : y.msb <;> simp [hx, hy] at h ⊢ <;> omega

/-- The place where the largest comes first, with `isMax`. -/
def orderF32 (isMax : Bool) (x : Word) : Int := if isMax then -rankF32 x else rankF32 x

theorem orderF32_injective (isMax : Bool) : Function.Injective (orderF32 isMax) := by
  intro x y h
  cases isMax
  · exact rankF32_injective h
  · exact rankF32_injective (neg_injective h)

section
variable {a b : Word} (ha : nanF32 a = false) (hb : nanF32 b = false)
include ha

theorem isZero_decode_of_not_nan (s : Bool) : ((fp32.decode a.toNat).isZero == some s) = (decide (unitsF32 a = 0) && (a.msb == s)) := by
  cases hf : finiteF32 a with
  | true => exact isZero_decode hf s
  | false =>
    have hpos : fp32.magVal 0 < fp32.magVal 0x7F800000 := fp32.magVal_strictMono (by decide)
    have hne : unitsF32 a ≠ 0 := by
      rw [unitsF32_of_inf ha hf]
      cases a.msb <;> simp [signed] <;> omega
    rw [decode_inf ha hf, decide_eq_false hne]
    rfl

include hb

/-- The comparison of R133 goes by rank. -/
theorem minMax_less_iff : ((fp32.decode a.toNat).lt (fp32.decode b.toNat) || ((fp32.decode a.toNat).eqv (fp32.decode b.toNat) &&
    (fp32.decode a.toNat).isZero == some true && (fp32.decode b.toNat).isZero == some false)) = decide (rankF32 a < rankF32 b) := by
  unfold FVal.eqv
  rw [decode_lt_of_not_nan ha hb, decode_lt_of_not_nan hb ha, isZero_decode_of_not_nan ha, isZero_decode_of_not_nan hb, Bool.eq_iff_iff]
  have hsa := unitsF32_sign a
  have hsb := unitsF32_sign b
  unfold rankF32
  cases hma : a.msb <;> cases hmb : b.msb <;> simp [hma, hmb] at hsa hsb ⊢ <;> omega

theorem fMinMax_of_not_nan (isMax nanProp : Bool) :
    (fMinMax fp32 isMax nanProp a.toNat b.toNat).1 = (if decide (rankF32 a < rankF32 b) != isMax then a else b).toNat := by
  unfold fMinMax
  dsimp only
  rw [minMax_less_iff ha hb, isNan_decode, isNan_decode, ha, hb]
  exact (apply_ite BitVec.toNat _ a b).symm

/-- One of the two, at the earlier place. -/
theorem fMinMax_least (isMax nanProp : Bool) : ∃ c, (fMinMax fp32 isMax nanProp a.toNat b.toNat).1 = c.toNat ∧ (c = a ∨ c = b) ∧
    orderF32 isMax c ≤ orderF32 isMax a ∧ orderF32 isMax c ≤ orderF32 isMax b := by
  refine ⟨_, fMinMax_of_not_nan ha hb isMax nanProp, ?_⟩
  unfold orderF32
  by_cases h : rankF32 a < rankF32 b <;> cases isMax <;> simp [h] <;> omega

end

theorem foldl_fMinMax_least (isMax : Bool) (vs : List Word) (v : Word) (h : ∀ y ∈ v :: vs, nanF32 y = false) :
    ∃ r ∈ v :: vs, (vs.map BitVec.toNat).foldl (fun m x => (fMinMax fp32 isMax false m x).1) v.toNat = r.toNat ∧
      ∀ y ∈ v :: vs, orderF32 isMax r ≤ orderF32 isMax y := by
  induction vs generalizing v with
  | nil => exact ⟨v, by simp, rfl, by simp⟩
  | cons w vs ih =>
    obtain ⟨hv, hw, hvs⟩ : nanF32 v = false ∧ nanF32 w = false ∧ ∀ y ∈ vs, nanF32 y = false := by simpa using h
    obtain ⟨c, hc, hmem, hcv, hcw⟩ := fMinMax_least hv hw isMax false
    have hcnan : nanF32 c = false := by rcases hmem with rfl | rfl <;> assumption
    obtain ⟨r, hr, hfold, hle⟩ := ih c (List.forall_mem_cons.2 ⟨hcnan, hvs⟩)
    obtain ⟨hrc, hrvs⟩ := List.forall_mem_cons.1 hle
    refine ⟨r, ?_, ?_, ?_⟩
    · rcases List.mem_cons.1 hr with rfl | hr
      · rcases hmem with rfl | rfl <;> simp
      · simp [hr]
    · rw [List.map_cons, List.foldl_cons, hc, hfold]
    · simp only [List.forall_mem_cons]
      exact ⟨hrc.trans hcv, hrc.trans hcw, hrvs⟩

/-- The result of a floating minimum, maximum or largest magnitude: `vals` are the compared values of those participants `xs` that are no
NaN, `empty` the result without a participant (R146). -/
def minMaxOver (isMax : Bool) (empty : Nat) (xs vals : List Word) : Word :=
  match vals with
  | [] => BitVec.ofNat 32 (if xs.isEmpty then empty else f32NaN)
  | v :: vs => BitVec.ofNat 32 ((vs.map BitVec.toNat).foldl (fun m x => (fMinMax fp32 isMax false m x).1) v.toNat)

theorem minMaxOver_nil (isMax : Bool) (empty : Nat) (xs : List Word) :
    minMaxOver isMax empty xs [] = if xs = [] then BitVec.ofNat 32 empty else 0x7FC00000 := by
  cases xs <;> rfl

theorem minMaxOver_eq {isMax : Bool} {empty : Nat} {r : Word} {xs vals : List Word}
    (hnan : ∀ y ∈ vals, nanF32 y = false) (hr : r ∈ vals)
    (hle : ∀ y ∈ vals, orderF32 isMax r ≤ orderF32 isMax y) : minMaxOver isMax empty xs vals = r := by
  cases vals with
  | nil => simp at hr
  | cons v vs =>
    obtain ⟨r', hr', hfold, hle'⟩ := foldl_fMinMax_least isMax vs v hnan
    rw [minMaxOver, hfold, BitVec.ofNat_toNat, BitVec.setWidth_eq]
    exact orderF32_injective isMax (le_antisymm (hle' r hr) (hle r' hr'))

/-- NV of any signalling NaN among some elements (R148). -/
def signalFlags (xs : List Word) : Flags := if ∃ y ∈ xs, signalF32 y = true then flNV else 0

theorem foldl_nvOf (xs : List Word) (f : Flags) : xs.foldl (fun f x => f ||| nvOf (fp32.decode x.toNat)) f =
    f ||| signalFlags xs := by
  unfold signalFlags
  induction xs generalizing f with
  | nil => simp
  | cons x xs ih =>
    rw [List.foldl_cons, ih, nvOf_decode, BitVec.or_assoc]
    by_cases hx : signalF32 x = true <;> by_cases hxs : ∃ y ∈ xs, signalF32 y = true <;> simp [hx, hxs]

/-- The magnitude of an element, with a clear sign bit. -/
def magF32 (x : Word) : Word := x &&& 0x7FFFFFFF

theorem magF32_toNat (x : Word) : (magF32 x).toNat = x.toNat % 2 ^ 31 := by
  rw [magF32, BitVec.toNat_and]
  exact Nat.and_two_pow_sub_one_eq_mod _ 31

theorem nanF32_magF32 (x : Word) : nanF32 (magF32 x) = nanF32 x := by
  rw [Bool.eq_iff_iff, nanF32_iff, nanF32_iff, magF32_toNat, Nat.mod_mod]

theorem msb_magF32 (x : Word) : (magF32 x).msb = false := by
  rw [BitVec.msb_eq_decide, magF32_toNat, decide_eq_false]
  omega

theorem orderF32_magF32 (x : Word) : orderF32 true (magF32 x) = -(2 * unitsF32 (magF32 x) + 1) := by
  simp [orderF32, rankF32, msb_magF32]

/-- The participants that are no NaN. -/
def numbersF32 (xs : List Word) : List Word := xs.filter (fun y => !nanF32 y)

theorem redMinMax_eq (xs : List Word) :
    redMinMax .fmin xs = (minMaxOver false 0x7F800000 xs (numbersF32 xs), signalFlags xs) ∧
    redMinMax .fmax xs = (minMaxOver true 0xFF800000 xs (numbersF32 xs), signalFlags xs) ∧
    redMinMax .amax xs = (minMaxOver true 0 xs ((numbersF32 xs).map magF32), signalFlags xs) := by
  have hflags : xs.foldl (fun f x => f ||| nvOf (fp32.decode x.toNat)) 0 = signalFlags xs := (foldl_nvOf xs 0).trans (BitVec.zero_or ..)
  have hnumbers : xs.filter (fun y => !nanF32 y) = numbersF32 xs := rfl
  have hmag : (numbersF32 xs).map (fun x => x.toNat % 2 ^ 31) = ((numbersF32 xs).map magF32).map BitVec.toNat := by
    rw [List.map_map]
    exact List.map_congr_left fun x _ => (magF32_toNat x).symm
  unfold redMinMax
  simp only [isNan_decode, hflags, hnumbers, hmag]
  refine ⟨?_, ?_, ?_⟩ <;> cases numbersF32 xs <;> rfl

end
end Sys2Proof.Machine

namespace Sys2Proof.Machine
section
/-!
# Cross-lane instructions

Where no element is marked no lane dies, and a cross-lane word is either a pass over the participating lanes (`laneResults_of_done`) or a
write of a scalar destination (`retires_of_done`): what is left of each is the value it delivers.
-/

/-! ### Where no element is marked (R154) -/

section
variable {g : Group} (hsound : g.vBad = [])
include hsound

theorem Group.soundIn_of_unmarked (regs : List Nat) : g.SoundIn regs := by
  simp [Group.SoundIn, hsound]

theorem Group.dying_of_unmarked (regs : List Nat) : g.dying regs = [] := dying_nil (Group.soundIn_of_unmarked hsound regs)

theorem Group.badSources_of_unmarked (o : Operand) (ls : List Nat) : g.badSources o ls = [] := by
  simp [Group.badSources, hsound]

theorem expDying_of_unmarked (o : Operand) (t : BitVec 96) (n : Nat) : expDying o t n g = [] := by
  cases n with
  | zero => rfl
  | succ n => simp [expDying, Group.badSources_of_unmarked hsound]

end

/-! ### SHFL and BCAST (R144, R145) -/

/-- What a reader gets of the source lane `src` of `g`, whose element is `el`: 0 and NV of one that is dead. -/
def Group.supplied (g : Group) (el : Nat → Word) (src : Nat) : LaneOut :=
  if g.dead.getLsbD src = true then ⟨0, flNV⟩ else ⟨el src, 0⟩

section
variable {s : State} {g : Group} {d a b : Operand} {x : Ext}

theorem Group.laneWrite_supplied (h : Group) (el : Nat → Word) (d L src : Nat) :
    h.laneWrite d L (g.supplied el src) = if !g.live src then (h.wv d L 0).orFlags L flNV else h.wv d L (el src) := by
  unfold Group.supplied Group.live
  cases g.dead.getLsbD src
  · exact Group.laneWrite_plain ..
  · rfl

theorem laneResults_shfl {m : ShflMode} (hsound : g.vBad = []) (h : s.Ready g (.shfl m d a b x)) :
    s.LaneResults (.shfl m d a b x) g (regNo d) (fun L =>
      let src := s.shflFrom s.cur g m b x L
      if src < 0 ∨ 95 < src then ⟨s.laneSrc s.cur g .int x a L, 0⟩ else g.supplied (s.laneSrc s.cur g .int x a) src.toNat) x.lit := by
  refine laneResults_of_done (execShfl m d a b x s) h (n := if g.lanes.isEmpty then 1 else s.beats g) ?_
  simp only [Group.badSources_of_unmarked hsound, Group.dying_of_unmarked hsound, List.append_nil, List.eraseDups_nil,
    List.contains_nil, Bool.false_eq_true, if_false]
  refine congrArg (fun h => s.done s.cur h _ _) (List.foldl_ext _ _ _ fun acc L _ => ?_)
  split
  · exact (Group.laneWrite_plain ..).symm
  · exact (Group.laneWrite_supplied ..).symm

theorem bcastSource_of_unmarked (hsound : g.vBad = []) (n : Nat) :
    bcastSource g (.lane b) a n = (n, []) ∧ bcastSource g .first a n = (g.lanes.head?.getD 96, []) ∧
    bcastSource g .last a n = (g.lanes.getLast?.getD 96, []) := by
  have hwalk (l : List Nat) : l.find? (fun _ => true) = l.head? := by cases l <;> rfl
  simp [bcastSource, Group.badSources_of_unmarked hsound, hwalk]

/-- A vector form of BCAST whose source lane is `src` (R145). -/
theorem laneResults_bcast {k : BcastSrc} {src : Nat}
    (hsrc : ∀ n, (∀ b, k = .lane b → n = (s.uni32 s.cur g x b).toNat % 128) → bcastSource g k a n = (src, []))
    (h : s.Ready g (.bcast k d a x)) : s.LaneResults (.bcast k d a x) g (regNo d) (fun _ =>
      if 95 < src ∨ g.dead.getLsbD src = true then ⟨0, flNV⟩ else ⟨s.laneSrc s.cur g .int x a src, 0⟩) x.lit := by
  refine laneResults_of_done (execBcast k d a x s) h (n := if g.lanes.isEmpty then 1 else s.beats g) ?_
  dsimp only
  rw [hsrc _ (by rintro b rfl; rfl)]
  simp only [List.contains_nil, Bool.false_eq_true, if_false]
  refine congrArg (fun h => s.done s.cur h _ _) (List.foldl_ext _ _ _ fun acc L _ => ?_)
  by_cases hhigh : 95 < src
  · simp only [hhigh, true_or, if_true]
    rfl
  · simp only [hhigh, false_or]
    exact (Group.laneWrite_supplied acc _ (regNo d) L src).symm

theorem retires_bcastS (hsound : g.vBad = []) (h : s.Ready g (.bcastS d a b x)) : s.Retires (.bcastS d a b x)
    (g.ws (regNo d) (if 95 < (s.uni32 s.cur g x b).toNat % 128 ∨ g.dead.getLsbD ((s.uni32 s.cur g x b).toNat % 128) = true then 0
      else s.laneSrc s.cur g .int x a ((s.uni32 s.cur g x b).toNat % 128))) (g.nextPc x.lit) := by
  refine retires_of_done (execBcastS d a b x s) rfl h (n := 1) (hf := ?_)
  simp only [Group.badSources_of_unmarked hsound, State.die, List.isEmpty_nil, if_true, Group.live, Bool.not_not]

theorem Group.head_lanes {L : Nat} (hL : L < 96) (hpart : g.part L = true) (hfirst : ∀ j, j < L → g.part j = false) :
    g.lanes.head? = some L := by
  rw [Group.lanes, List.head?_filter, List.find?_range_eq_some]
  exact ⟨hpart, List.mem_range.2 hL, fun j hj => by simp [hfirst j hj]⟩

theorem find_reverse_range_eq_some {p : Nat → Bool} {n L : Nat} (hL : L < n) (hp : p L = true)
    (hlast : ∀ j, L < j → j < n → p j = false) :
    (List.range n).reverse.find? p = some L := by
  induction n with
  | zero => omega
  | succ n ih =>
    rw [List.range_succ, List.reverse_append, List.reverse_singleton, List.singleton_append, List.find?_cons]
    rcases Nat.lt_succ_iff_lt_or_eq.1 hL with hlt | rfl
    · rw [hlast n hlt n.lt_succ_self]
      exact ih hlt fun j hj hn => hlast j hj (Nat.lt_succ_of_lt hn)
    · rw [hp]

theorem Group.getLast_lanes {L : Nat} (hL : L < 96) (hpart : g.part L = true) (hlast : ∀ j, L < j → j < 96 → g.part j = false) :
    g.lanes.getLast? = some L := by
  rw [Group.lanes, List.getLast?_filter, find_reverse_range_eq_some hL hpart hlast]

end

/-- Settles O19: SHFL and the vector forms of BCAST are passes over the lanes in which a lane receives what its source supplies. -/
theorem shufflesAndBroadcasts : Obligations.ShufflesAndBroadcasts := by
  unfold Obligations.ShufflesAndBroadcasts
  intro s g d a b x hsound el shuffle broadcast
  have hshuffle (m : ShflMode) : shuffle m (shflSource m) := laneResults_shfl hsound
  have hsource := bcastSource_of_unmarked (a := a) (b := b) hsound
  refine ⟨hshuffle .idx, hshuffle .up, hshuffle .down, hshuffle .xor, hshuffle .rot, laneResults_bcast fun n hn => ?_,
    fun L hL hpart hlow => laneResults_bcast fun n _ => ?_, fun L hL hpart hhigh => laneResults_bcast fun n _ => ?_,
    retires_bcastS hsound⟩
  · rw [(hsource n).1, hn b rfl]
  · rw [(hsource n).2.1, Group.head_lanes hL hpart hlow, Option.getD_some]
  · rw [(hsource n).2.2, Group.getLast_lanes hL hpart hhigh, Option.getD_some]

end
end Sys2Proof.Machine

namespace Sys2Proof.Machine
section
/-!
# Reductions and scans

RED writes one value, to a scalar register or to every participating lane; a scan is a pass over the lanes in which each lane's result
depends on the lanes below it alone (`foldl_scan`).
-/

/-! ### RED (R146 to R148) -/

section
variable {s : State} {g : Group} {d a : Operand} {x : Ext}

theorem orFlagsAll_zero (g : Group) (ls : List Nat) : g.orFlagsAll ls 0 = g := by
  unfold Group.orFlagsAll
  induction ls with
  | nil => rfl
  | cons L ls ih => exact ih

theorem Group.FlagWrites.lanes_eq {g h : Group} {p : Nat → Flags} (w : g.FlagWrites h p) : h.lanes = g.lanes := by
  obtain ⟨e, -⟩ := w
  rw [e]
  rfl

/-- Flags raised in every lane, and then an element written without flags, are one write. -/
theorem Group.laneWrites_of_flagWrites {g h t : Group} {d : Nat} {r : Word} {fl : Flags} (w : g.FlagWrites h (fun L => g.rf L ||| fl))
    (hw : h.LaneWrites t d (fun _ => ⟨r, 0⟩)) : g.LaneWrites t d (fun _ => ⟨r, fl⟩) := by
  obtain ⟨e, hflags⟩ := w
  obtain ⟨hval, hother, hrf, hbad, heta⟩ := hw
  have hv (r L : Nat) : h.rv r L = g.rv r L := by rw [e]; rfl
  have hpart (L : Nat) : h.part L = g.part L := by rw [e]; rfl
  have hvBad : h.vBad = g.vBad := by rw [e]
  refine ⟨fun L hL => ?_, fun r L hr hL => ?_, fun L => ?_, fun y => ?_, ?_⟩
  · rw [hval L hL, hv, hpart]
  · rw [hother r L hr hL, hv]
  · simpa only [BitVec.ofNat_eq_ofNat, BitVec.or_zero, ite_self, hflags] using hrf L
  · simp only [hbad y, hvBad, hpart]
  · rw [heta, e]

/-- RED writes its result and raises the flags in every participating lane. -/
theorem retires_red {op : RedOp} {r : Word} {fl : Flags} (hsound : g.vBad = []) (hr : s.redValue s.cur g op x a = (r, fl)) :
    (s.Ready g (.red op false d a x) →
      s.Retires (.red op false d a x) ((g.orFlagsAll g.lanes fl).ws (regNo d) r) (g.nextPc x.lit)) ∧
    (s.Ready g (.red op true d a x) → s.LaneResults (.red op true d a x) g (regNo d) (fun _ => ⟨r, fl⟩) x.lit) := by
  have hflags := g.flagWrites_orFlags fun _ => fl
  refine ⟨fun h => ?_, fun h => ?_⟩
  · refine retires_of_done (execRed op false d a x s) hflags.pc_eq h (n := if g.lanes.isEmpty then 1 else s.beats g) (hf := ?_)
    simp only [Group.dying_of_unmarked hsound, State.die, List.isEmpty_nil, if_true, hr, Bool.false_eq_true, if_false]
  · have hw := Group.laneWrites_of_flagWrites hflags (foldl_lanes _ (regNo d) fun _ => ⟨r, 0⟩)
    refine ⟨_, hw, retires_of_done (execRed op true d a x s) hw.pc_eq h (n := if g.lanes.isEmpty then 1 else s.beats g) (hf := ?_)⟩
    rw [foldl_laneWrite_plain, hflags.lanes_eq]
    simp only [Group.dying_of_unmarked hsound, State.die, List.isEmpty_nil, if_true, hr, List.foldl_nil]
    rfl

theorem redValue_of_folds {op : ScanOp} {f : Word → Word → Word} {one : Word} (hop : ScanOp.Folds op f one) (k : Nat) :
    s.redValue k g (.scan op) x a = ((g.lanes.map (s.laneSrc k g .int x a)).foldl f one, 0) := by
  obtain ⟨hF, rfl, hcombine⟩ := hop
  have hvalue : s.redValue k g (.scan op) x a =
      (g.lanes.foldl (fun acc L => (ScanOp.combine op acc (s.laneSrc k g .int x a L)).1) (ScanOp.identity op), 0) := by
    cases op with
    | fadd rm => cases hF
    | _ => rfl
  simp only [hvalue, hcombine, List.foldl_map]

theorem redValue_fadd (k : Nat) (rm : RM) : ∃ fl, s.redValue k g (.scan (.fadd rm)) x a =
    (treeNode rm (fun L => if L < 96 ∧ g.part L = true then s.laneSrc k g (.flt fp32) x a L else 0x80000000) 7 0, fl) := by
  refine ⟨(s.redValue k g (.scan (.fadd rm)) x a).2, Prod.ext ?_ rfl⟩
  dsimp only
  rw [← treeSum_range _ _ 7 0]
  simp only [State.redValue, Bool.and_eq_true, decide_eq_true_eq]
  rfl

theorem minMaxOver_of_extreme {isMax : Bool} {empty : Nat} {r : Word} {xs : List Word} {m : Word → Word} {Q : Prop}
    (hm : ∀ y, nanF32 (m y) = nanF32 y)
    (hr : if xs = [] then r = BitVec.ofNat 32 empty else if numbersF32 xs = [] then r = 0x7FC00000 else Q)
    (hQ : Q → ∃ z ∈ numbersF32 xs, r = m z ∧ ∀ y ∈ numbersF32 xs, orderF32 isMax r ≤ orderF32 isMax (m y)) :
    minMaxOver isMax empty xs ((numbersF32 xs).map m) = r := by
  by_cases hnone : numbersF32 xs = []
  · rw [hnone, List.map_nil, minMaxOver_nil]
    split_ifs at hr ⊢ <;> exact hr.symm
  · have hxs : xs ≠ [] := by rintro rfl; exact hnone rfl
    rw [if_neg hxs, if_neg hnone] at hr
    obtain ⟨z, hz, rfl, hle⟩ := hQ hr
    have hnan (y : Word) (hy : y ∈ numbersF32 xs) : nanF32 (m y) = false := by
      rw [hm]; simpa using (List.mem_filter.1 hy).2
    exact minMaxOver_eq (List.forall_mem_map.2 hnan) (List.mem_map_of_mem hz) (List.forall_mem_map.2 hle)

/-- What RED.FMIN, RED.FMAX and RED.AMAX.F32 give, by what makes it the least or the largest of the numbers (R146, R147). -/
theorem redMinMax_of_extreme {op : RedOp} {r : Word} {xs : List Word}
    (hop : (op = .fmin ∧ (if xs = [] then r = 0x7F800000 else if numbersF32 xs = [] then r = 0x7FC00000
        else r ∈ numbersF32 xs ∧ ∀ y ∈ numbersF32 xs, ¬ belowF32 y r)) ∨
      (op = .fmax ∧ (if xs = [] then r = 0xFF800000 else if numbersF32 xs = [] then r = 0x7FC00000
        else r ∈ numbersF32 xs ∧ ∀ y ∈ numbersF32 xs, ¬ belowF32 r y)) ∨
      (op = .amax ∧ (if xs = [] then r = 0 else if numbersF32 xs = [] then r = 0x7FC00000
        else ∃ z ∈ numbersF32 xs, r = magF32 z ∧ ∀ y ∈ numbersF32 xs, unitsF32 (magF32 y) ≤ unitsF32 r))) :
    redMinMax op xs = (r, signalFlags xs) := by
  obtain ⟨hfmin, hfmax, hamax⟩ := redMinMax_eq xs
  rcases hop with ⟨rfl, hr⟩ | ⟨rfl, hr⟩ | ⟨rfl, hr⟩
  · rw [hfmin, ← List.map_id (numbersF32 xs), minMaxOver_of_extreme (m := id) (fun _ => rfl) hr]
    exact fun ⟨hmem, hle⟩ => ⟨r, hmem, rfl, fun y hy => not_lt.1 (mt (belowF32_iff y r).2 (hle y hy))⟩
  · rw [hfmax, ← List.map_id (numbersF32 xs), minMaxOver_of_extreme (m := id) (fun _ => rfl) hr]
    exact fun ⟨hmem, hle⟩ => ⟨r, hmem, rfl, fun y hy => neg_le_neg (not_lt.1 (mt (belowF32_iff r y).2 (hle y hy)))⟩
  · rw [hamax, minMaxOver_of_extreme nanF32_magF32 hr]
    rintro ⟨z, hz, rfl, hle⟩
    refine ⟨z, hz, rfl, fun y hy => ?_⟩
    have := hle y hy
    rw [orderF32_magF32, orderF32_magF32]
    omega

theorem redValue_of_extreme {op : RedOp} (h : op = .fmin ∨ op = .fmax ∨ op = .amax) (k : Nat) :
    s.redValue k g op x a = redMinMax op (g.lanes.map (s.laneSrc k g (.flt fp32) x a)) := by
  rcases h with rfl | rfl | rfl <;> rfl

/-! ### SCAN (R149) -/

theorem Group.LaneWrites.congr {h : Group} {n : Nat} {out out' : Nat → LaneOut} (w : g.LaneWrites h n out)
    (he : ∀ L ∈ g.lanes, out L = out' L) : g.LaneWrites h n out' := by
  obtain ⟨hval, hother, hrf, hbad, heta⟩ := w
  refine ⟨fun L hL => ?_, hother, fun L => ?_, hbad, heta⟩
  · rw [hval L hL]
    split
    next hpart => rw [he L (mem_lanes.2 ⟨hL, hpart⟩)]
    next => rfl
  · rw [hrf L]
    split
    next hpart => rw [he L (mem_lanes.2 hpart)]
    next => rfl

theorem State.LaneResults.congr {i : Instr} {n : Nat} {out out' : Nat → LaneOut} {l : Lit} (w : s.LaneResults i g n out l)
    (he : ∀ L ∈ g.lanes, out L = out' L) : s.LaneResults i g n out' l := by
  obtain ⟨h, hw, hret⟩ := w
  exact ⟨h, hw.congr he, hret⟩

theorem lanes_sorted (g : Group) : g.lanes.Pairwise (· < ·) := List.Pairwise.filter _ List.pairwise_lt_range

theorem filter_le_of_sorted {ls : List Nat} (hs : ls.Pairwise (· < ·)) {L : Nat} (hL : L ∈ ls) :
    ls.filter (fun j => decide (j ≤ L)) = ls.filter (fun j => decide (j < L)) ++ [L] := by
  induction ls with
  | nil => simp at hL
  | cons j ls ih =>
    obtain ⟨hj, hs⟩ := List.pairwise_cons.1 hs
    rcases List.mem_cons.1 hL with rfl | hL
    · have hnone (p : Nat → Bool) (hp : ∀ i, p i = true → i ≤ L) : ls.filter p = [] :=
        List.filter_eq_nil_iff.2 fun i hi hpi => absurd (hp i hpi) (by have := hj i hi; omega)
      rw [List.filter_cons_of_pos (by simp), List.filter_cons_of_neg (by simp), hnone _ (by simp), hnone _ (by simp; omega),
        List.nil_append]
    · have hlt := hj L hL
      rw [List.filter_cons_of_pos (by simp; omega), List.filter_cons_of_pos (by simpa using hlt), ih hs hL, List.cons_append]

/-- What the lanes `ls` below lane L combine to, from `acc`. -/
def scanBelow (f : Word → Word → Word) (el : Nat → Word) (ls : List Nat) (acc : Word) (L : Nat) : Word :=
  ((ls.filter (fun j => decide (j < L))).map el).foldl f acc

/-- What lane L receives in a scan whose combination is `c`. -/
def scanOut (c : Word → Word → Word × Flags) (el : Nat → Word) (excl : Bool) (ls : List Nat) (acc : Word) (L : Nat) : LaneOut :=
  let below := scanBelow (fun m y => (c m y).1) el ls acc L
  ⟨if excl then below else (c below (el L)).1, (c below (el L)).2⟩

/-- A scan of ascending lanes is a pass in which each writes its own result. -/
theorem foldl_scan (c : Word → Word → Word × Flags) (el : Nat → Word) (excl : Bool) (d : Nat) {ls : List Nat}
    (hs : ls.Pairwise (· < ·)) (acc : Word) (g : Group) :
    (ls.foldl (fun (ag : Word × Group) L =>
      let r := c ag.1 (el L)
      (r.1, (ag.2.wv d L (if excl then ag.1 else r.1)).orFlags L r.2)) (acc, g)).2 =
    ls.foldl (fun h L => h.laneWrite d L (scanOut c el excl ls acc L)) g := by
  induction ls generalizing acc g with
  | nil => rfl
  | cons j ls ih =>
    obtain ⟨hj, hs⟩ := List.pairwise_cons.1 hs
    have hfirst : scanBelow (fun m y => (c m y).1) el (j :: ls) acc j = acc := by
      rw [scanBelow, List.filter_eq_nil_iff.2 (by simpa using fun i hi => (hj i hi).le)]
      rfl
    have hrest (L : Nat) (hL : L ∈ ls) : scanBelow (fun m y => (c m y).1) el (j :: ls) acc L =
        scanBelow (fun m y => (c m y).1) el ls (c acc (el j)).1 L := by
      rw [scanBelow, List.filter_cons_of_pos (by simpa using hj L hL)]
      rfl
    rw [List.foldl_cons, List.foldl_cons, ih hs]
    have hout : g.laneWrite d j (scanOut c el excl (j :: ls) acc j) =
        (g.wv d j (if excl then acc else (c acc (el j)).1)).orFlags j (c acc (el j)).2 := by
      rw [scanOut, hfirst]; rfl
    rw [hout]
    exact List.foldl_ext _ _ _ fun h L hL => by rw [scanOut, scanOut, hrest L hL]

theorem laneResults_scan {op : ScanOp} {excl : Bool} (hsound : g.vBad = []) (h : s.Ready g (.scan op excl d a x)) :
    s.LaneResults (.scan op excl d a x) g (regNo d)
      (scanOut (ScanOp.combine op) (s.laneSrc s.cur g (if ScanOp.isF op then .flt fp32 else .int) x a) excl g.lanes
        (ScanOp.identity op)) x.lit := by
  refine laneResults_of_done (execScan op excl d a x s) h (n := if g.lanes.isEmpty then 1 else s.beats g) ?_
  rw [← foldl_scan _ _ _ _ (lanes_sorted g)]
  simp only [Group.dying_of_unmarked hsound, State.die, List.isEmpty_nil, if_true, List.foldl_nil]

theorem scanOut_of_folds {op : ScanOp} {f : Word → Word → Word} {one : Word} (hop : ScanOp.Folds op f one)
    (el : Nat → Word) (excl : Bool) {L : Nat} (hL : L ∈ g.lanes) : scanOut (ScanOp.combine op) el excl g.lanes (ScanOp.identity op) L =
      ⟨((g.lanes.filter (fun j => if excl then decide (j < L) else decide (j ≤ L))).map el).foldl f one, 0⟩ := by
  obtain ⟨-, rfl, hcombine⟩ := hop
  simp only [scanOut, scanBelow, hcombine]
  cases excl
  · simp [filter_le_of_sorted (lanes_sorted g) hL]
  · simp

end

/-- Settles O20: an integer reduction is one fold, FADD the tree of `treeSum_range`, the other floating forms the element of least place
(`redMinMax_of_extreme`); in a scan each lane writes what the lanes below it combine to (`laneResults_scan`). -/
theorem reductionsAndScans : Obligations.ReductionsAndScans := by
  unfold Obligations.ReductionsAndScans
  intro s g d a x P hsound hP el fel reduces
  obtain rfl : P = g.lanes := hP
  obtain ⟨hadd, hmin, hminu, hmax, hmaxu, hand, hor, hxor⟩ := scanOp_folds
  have hreduces {op : ScanOp} {f : Word → Word → Word} {one : Word} (hop : ScanOp.Folds op f one) :
      reduces (.scan op) ((g.lanes.map el).foldl f one) := by
    obtain ⟨hs, hv⟩ := retires_red (d := d) hsound (redValue_of_folds (s := s) (g := g) (x := x) (a := a) hop s.cur)
    rw [orFlagsAll_zero] at hs
    exact ⟨hs, hv⟩
  refine ⟨hreduces hadd, hreduces hminu, hreduces hmax, hreduces hmin, hreduces hmaxu, ?_, hreduces hand, hreduces hor, hreduces hxor,
    fun rm h => ?_, fun rm h => ?_, fun op excl f one hop h => ?_, fun rm excl acc hacc h => ?_⟩
  · rintro op r N rfl hop nv
    have hkind : op = .fmin ∨ op = .fmax ∨ op = .amax := hop.imp And.left (Or.imp And.left And.left)
    have hextreme : redMinMax op (g.lanes.map fel) = (r, nv) := redMinMax_of_extreme (by simp only [List.map_eq_nil_iff]; exact hop)
    obtain ⟨hs, hv⟩ := retires_red (d := d) hsound ((redValue_of_extreme hkind s.cur).trans hextreme)
    exact ⟨fun h => ⟨_, hs h, g.flagWrites_orFlags fun _ => nv⟩, hv⟩
  · obtain ⟨fl, hvalue⟩ := redValue_fadd (s := s) (g := g) (x := x) (a := a) s.cur rm
    obtain ⟨heta, hrf⟩ := g.flagWrites_orFlags fun _ => fl
    exact ⟨_, (retires_red hsound hvalue).1 h, heta, fun L hL => (hrf L).trans (if_neg hL)⟩
  · obtain ⟨fl, hvalue⟩ := redValue_fadd (s := s) (g := g) (x := x) (a := a) s.cur rm
    exact ⟨fl, (retires_red hsound hvalue).2 h⟩
  · have hfolds : ScanOp.Folds op f one := by
      rcases hop with ⟨rfl, rfl, rfl⟩ | ⟨rfl, rfl, rfl⟩ | ⟨rfl, rfl, rfl⟩ | ⟨rfl, rfl, rfl⟩ | ⟨rfl, rfl, rfl⟩ | ⟨rfl, rfl, rfl⟩ |
        ⟨rfl, rfl, rfl⟩ | ⟨rfl, rfl, rfl⟩ <;> assumption
    have hscan := laneResults_scan hsound h
    rw [hfolds.isF] at hscan
    exact hscan.congr fun L hL => scanOut_of_folds hfolds el excl hL
  · obtain rfl := funext hacc
    exact laneResults_scan hsound h

end
end Sys2Proof.Machine

namespace Sys2Proof.Machine
section
/-!
# Votes, packing and lane status

COMPACT pairs the participating lanes with the selected ones by their places in the two lists; LMAP and LNSTAT read the lane map, in which a
beat and a physical lane belong to one logical lane at most (`laneAt_eq`).
-/

/-! ### VOTE (R150) -/

/-- The answer to a question, as a word. -/
theorem ofNat_answer {P : Prop} [Decidable P] {b : Bool} (h : b = true ↔ P) :
    BitVec.ofNat 32 (if P then 1 else 0) = if b then (1 : Word) else 0 := by
  by_cases hP : P
  · rw [if_pos hP, if_pos (h.2 hP)]; rfl
  · rw [if_neg hP, if_neg (mt h.1 hP)]; rfl

theorem all_eq_head_iff (ls : List Nat) (el : Nat → Word) :
    ls.all (fun L => decide (el L = el (ls.headD 0))) = true ↔ ∀ L ∈ ls, ∀ j ∈ ls, el L = el j := by
  cases ls with
  | nil => simp
  | cons i ls =>
    rw [List.all_eq_true]
    exact ⟨fun h L hL j hj => (of_decide_eq_true (h L hL)).trans (of_decide_eq_true (h j hj)).symm,
      fun h L hL => decide_eq_true (h L hL i List.mem_cons_self)⟩

section
variable {s : State} {g : Group} {d a c : Operand} {x : Ext}

theorem retires_vote_any (hsound : g.vBad = []) (h : s.Ready g (.vote .any d a x)) : s.Retires (.vote .any d a x)
    (g.ws (regNo d) (BitVec.ofNat 32 (if ∃ L ∈ g.lanes, s.laneSrc s.cur g .int x a L ≠ 0 then 1 else 0))) (g.nextPc x.lit) := by
  rw [ofNat_answer (b := !(g.lanes.filter (fun L => decide (s.laneSrc s.cur g .int x a L ≠ 0))).isEmpty) (by simp)]
  exact retires_of_done (execVote .any d a x s) rfl h (n := s.nonEmptyBeats g) (hf := by rw [Group.dying_of_unmarked hsound]; rfl)

theorem retires_vote_all (hsound : g.vBad = []) (h : s.Ready g (.vote .all d a x)) : s.Retires (.vote .all d a x)
    (g.ws (regNo d) (BitVec.ofNat 32 (if ∀ L ∈ g.lanes, s.laneSrc s.cur g .int x a L ≠ 0 then 1 else 0))) (g.nextPc x.lit) := by
  rw [ofNat_answer (b := decide ((g.lanes.filter (fun L => decide (s.laneSrc s.cur g .int x a L ≠ 0))).length = g.lanes.length))
    (by simp only [decide_eq_true_eq, List.length_filter_eq_length_iff])]
  exact retires_of_done (execVote .all d a x s) rfl h (n := s.nonEmptyBeats g) (hf := by rw [Group.dying_of_unmarked hsound]; rfl)

theorem retires_vote_popc (hsound : g.vBad = []) (h : s.Ready g (.vote .popc d a x)) : s.Retires (.vote .popc d a x)
    (g.ws (regNo d) (BitVec.ofNat 32 (g.lanes.countP (fun L => s.laneSrc s.cur g .int x a L ≠ 0)))) (g.nextPc x.lit) := by
  rw [List.countP_eq_length_filter]
  exact retires_of_done (execVote .popc d a x s) rfl h (n := s.nonEmptyBeats g) (hf := by rw [Group.dying_of_unmarked hsound]; rfl)

theorem retires_vote_uni (hsound : g.vBad = []) (h : s.Ready g (.vote .uni d a x)) : s.Retires (.vote .uni d a x)
    (g.ws (regNo d) (BitVec.ofNat 32 (if ∀ L ∈ g.lanes, ∀ j ∈ g.lanes, s.laneSrc s.cur g .int x a L = s.laneSrc s.cur g .int x a j
      then 1 else 0))) (g.nextPc x.lit) := by
  rw [ofNat_answer (all_eq_head_iff g.lanes _)]
  exact retires_of_done (execVote .uni d a x s) rfl h (n := s.nonEmptyBeats g) (hf := by rw [Group.dying_of_unmarked hsound]; rfl)

theorem retires_vote_ballot {m : BitVec 96} (hsound : g.vBad = [])
    (hm : ∀ L, m.getLsbD L = (decide (L ∈ g.lanes) && decide (s.laneSrc s.cur g .int x a L ≠ 0)))
    (h : s.Ready g (.vote .ballot d a x)) :
    s.Retires (.vote .ballot d a x) (g.wt (regNo d) m) (g.nextPc x.lit) := by
  have hmask (L : Nat) : m.getLsbD L = (decide (L < 96) && g.part L && decide (s.laneSrc s.cur g .int x a L ≠ 0)) := by
    rw [hm L, decide_eq_decide.2 mem_lanes, Bool.decide_and, Bool.decide_eq_true]
  rw [← ballot_eq hmask fun _ => rfl]
  exact retires_of_done (execVote .ballot d a x s) rfl h (n := s.nonEmptyBeats g) (hf := by rw [Group.dying_of_unmarked hsound]; rfl)

/-! ### COMPACT (R151) -/

theorem zipIdx_of_nodup {ls : List Nat} (hn : ls.Nodup) : ls.zipIdx = ls.map (fun L => (L, ls.idxOf L)) := by
  refine List.ext_getElem (by simp) fun i hi hi' => ?_
  have hlt : i < ls.length := by simpa using hi
  rw [List.getElem_zipIdx, List.getElem_map, hn.idxOf_getElem i hlt, Nat.zero_add]

/-- The lanes of `ps` with those of `qs` at the same places. -/
theorem zip_of_nodup {ps qs : List Nat} (hn : ps.Nodup) (hlen : ps.length ≤ qs.length) :
    ps.zip qs = ps.map (fun L => (L, qs.getD (ps.idxOf L) 0)) := by
  refine List.ext_getElem (by simpa using hlen) fun i hi hi' => ?_
  have hlt : i < ps.length := by simpa using hi'
  rw [List.getElem_zip, List.getElem_map, hn.idxOf_getElem i hlt, List.getD_eq_getElem _ _ (hlt.trans_le hlen)]

theorem laneResults_pack (hsound : g.vBad = []) (h : s.Ready g (.compact false d a c x)) :
    s.LaneResults (.compact false d a c x) g (regNo d) (fun L =>
      ⟨match (g.lanes.filter (g.rt (regNo c)).getLsbD)[g.lanes.idxOf L]? with
        | some j => s.laneSrc s.cur g .int x a j
        | none => 0, 0⟩) x.lit := by
  refine laneResults_of_done (execCompact false d a c x s) h (n := if g.lanes.isEmpty then 1 else s.beats g) ?_
  rw [foldl_laneWrite_plain]
  simp only [Bool.false_eq_true, if_false, Group.badSources_of_unmarked hsound, State.die, List.isEmpty_nil, if_true, List.foldl_nil,
    zipIdx_of_nodup (lanes_nodup g), List.foldl_map] <;> rfl

/-- A pass over some of the participating lanes leaves the elements of the others. -/
theorem Group.laneWrites_of_subset (hsound : g.vBad = []) {ls : List Nat} (hn : ls.Nodup) (hsub : ∀ L ∈ ls, L ∈ g.lanes) (r : Nat)
    (el : Nat → Word) :
    g.LaneWrites (ls.foldl (fun acc L => acc.wv r L (el L)) g) r (fun L => ⟨if L ∈ ls then el L else g.rv r L, 0⟩) := by
  rw [← foldl_laneWrite_plain]
  obtain ⟨hval, hother, hrf, hbad, heta⟩ :=
    foldl_laneWrite r (fun L => ⟨el L, 0⟩) ls g _ hn (fun L hL => (mem_lanes.1 (hsub L hL)).1) rfl
  refine ⟨fun L hL => ?_, hother, fun L => ?_, fun y => ?_, heta⟩
  · rw [hval L hL]
    by_cases hmem : L ∈ ls
    · simp only [hmem, if_true, (mem_lanes.1 (hsub L hmem)).2]
    · simp only [hmem, if_false, ite_self]
  · simpa only [BitVec.ofNat_eq_ofNat, BitVec.or_zero, ite_self] using hrf L
  · simp only [hbad y, hsound, List.not_mem_nil, false_and]

theorem laneResults_expand (hsound : g.vBad = []) (h : s.Ready g (.compact true d a c x)) :
    s.LaneResults (.compact true d a c x) g (regNo d) (fun L =>
      ⟨if L ∈ g.lanes.filter (g.rt (regNo c)).getLsbD
        then s.laneSrc s.cur g .int x a (g.lanes.getD ((g.lanes.filter (g.rt (regNo c)).getLsbD).idxOf L) 0)
        else g.rv (regNo d) L, 0⟩) x.lit := by
  have hnodup : (g.lanes.filter (g.rt (regNo c)).getLsbD).Nodup := (lanes_nodup g).filter _
  have hw := Group.laneWrites_of_subset hsound hnodup (fun L hL => (List.mem_filter.1 hL).1) (regNo d)
    (fun L => s.laneSrc s.cur g .int x a (g.lanes.getD ((g.lanes.filter (g.rt (regNo c)).getLsbD).idxOf L) 0))
  refine ⟨_, hw, retires_of_done (execCompact true d a c x s) hw.pc_eq h (n := if g.lanes.isEmpty then 1 else s.beats g) (hf := ?_)⟩
  simp only [if_true, expDying_of_unmarked hsound, State.die, List.isEmpty_nil, List.foldl_nil,
    zip_of_nodup hnodup (List.length_filter_le ..), List.foldl_map]

/-! ### LMAP (R152) -/

theorem goodLanes_getD_inj (w : Word) {i j : Nat} (hi : i < (goodLanes w).length) (hj : j < (goodLanes w).length)
    (h : (goodLanes w).getD i 0 = (goodLanes w).getD j 0) : i = j := by
  have hn : (goodLanes w).Nodup := List.Nodup.filter _ List.nodup_range
  rw [List.getD_eq_getElem _ _ hi, List.getD_eq_getElem _ _ hj] at h
  exact (hn.getElem_inj_iff).1 h

theorem laneAt_eq {L : Nat} (hL : L < 96) (hgood : 0 < s.goodOf g) : s.laneAt g (s.beatOf g L) (s.physOf g L) = L := by
  have hfind : (List.range 96).find? (fun j => decide (s.beatOf g j = s.beatOf g L) && decide (s.physOf g j = s.physOf g L)) = some L := by
    refine List.find?_range_eq_some.2 ⟨by simp, List.mem_range.2 hL, fun j hj => ?_⟩
    rw [Bool.not_eq_true', Bool.eq_false_iff, ne_eq, Bool.and_eq_true, decide_eq_true_eq, decide_eq_true_eq]
    rintro ⟨hbeat, hphys⟩
    have hmod := goodLanes_getD_inj _ (Nat.mod_lt j hgood) (Nat.mod_lt L hgood) hphys
    have heq : j = L := by
      rw [← Nat.div_add_mod j (s.goodOf g), ← Nat.div_add_mod L (s.goodOf g)]
      exact congrArg₂ (s.goodOf g * · + ·) hbeat hmod
    omega
  exact congrArg (Option.getD · 96) hfind

end

/-- Settles O21: a vote counts or compares the participating lanes, COMPACT pairs them with the selected ones (`zip_of_nodup`), and
LMAP.LANE finds the one logical lane at a place (`laneAt_eq`). -/
theorem votesCompactionAndLaneStatus : Obligations.VotesCompactionAndLaneStatus := by
  unfold Obligations.VotesCompactionAndLaneStatus
  intro s g d a b c x l P Q hsound hQ hP el n st
  obtain rfl : Q = g.lanes := hQ
  obtain rfl : P = g.lanes.filter (g.rt (regNo c)).getLsbD := hP
  refine ⟨retires_vote_any hsound, retires_vote_all hsound, retires_vote_popc hsound, retires_vote_uni hsound,
    fun m hm => retires_vote_ballot hsound hm, laneResults_pack hsound, laneResults_expand hsound, fun h => ?_, fun h => ?_,
    fun L hL hbeat hphys hgood h => ?_, fun h => ?_, fun h => ?_, fun h => ?_, fun h => ?_, fun h => ?_⟩
  · exact laneResults_of_done (execLmap .beat d x s) h
      (congrArg (fun h => s.done s.cur h (.lmap .beat d x) (s.nonEmptyBeats g)) (foldl_laneWrite_plain ..).symm)
  · exact laneResults_of_done (execLmap .phys d x s) h
      (congrArg (fun h => s.done s.cur h (.lmap .phys d x) (s.nonEmptyBeats g)) (foldl_laneWrite_plain ..).symm)
  · have hlane : s.laneAt g (s.uni32 s.cur g x a).toNat (s.uni32 s.cur g x b).toNat = L := by
      rw [← hbeat, ← hphys]
      exact laneAt_eq hL hgood
    rw [← hlane]
    exact retires_of_done (execLmap (.lane a b) d x s) rfl h
  · exact retires_of_done (execLnstat .live d l s) rfl h
  · have hlive : (List.range 96).countP (fun L => g.live L) = popcN 96 (~~~g.dead).toNat := by
      rw [popcN_toNat]
      exact List.countP_congr fun L hL => by
        rw [Group.live, BitVec.getLsbD_not, decide_eq_true (List.mem_range.1 hL), Bool.true_and]
    rw [hlive]
    exact retires_of_done (execLnstat .nlive d l s) (Group.ws_pc ..) h
  · rw [List.countP_eq_length_filter]
    exact retires_of_done (execLnstat .nbeats d l s) rfl h
  · rw [List.countP_eq_length_filter]
    exact retires_of_done (execLnstat .good d l s) rfl h
  · exact retires_of_done (execLnstat .peak d l s) rfl h

end
end Sys2Proof.Machine

namespace Sys2Proof.Machine
section
-- One after another, so that the threads' stacks stay within the memory that a check may take.
set_option Elab.async false
section
/-!
# The tensor table and the instructions of the matrix unit

An instruction that names handles is one `State.withEntries`: its effect where the entries are in the core's table cache, a wait that
brings them there where they are not (R163, R167).
-/

variable {s u : State} {k c idx : Nat} {g g' : Group} {i : Instr} {f : Nat → Group → State}

/-! ### Fields of a word -/

theorem handleIdx_eq (h : Word) : handleIdx h = h.toNat % 4096 := by simp [handleIdx, bitsAt]

theorem bitsAt_low (w : Word) : bitsAt w.toNat 0 16 = w.toNat % 65536 := by simp [bitsAt]

theorem bitsAt_high (w : Word) : bitsAt w.toNat 16 16 = w.toNat / 65536 := by
  have := w.isLt
  simp only [bitsAt]
  omega

/-! ### Ready words -/

/-- A ready word with the meaning `e` runs its effect. -/
theorem exec_of_ready (e : Host.Outcome State Fault Refusal) (h : s.Ready g i)
    (hexec : exec i s = e := by rfl) (hrun : e = s.run i f := by rfl) : exec i s = .next (f s.cur g) :=
  hexec.trans (hrun.trans (run_ready h f))

/-- A ready word whose effect has made the module's state `u` and falls through. -/
theorem retiresInto_of_done {x : Group} {l : Lit} {n : Nat} (hnext : exec i s = .next (u.done s.cur g' i n)) (hcur : u.cur = s.cur)
    (hp : x.pc = g.pc) (hx : g' = x) (hz : Instr.size i = (if l.isSome then 16 else 8) := by rfl) :
    s.RetiresInto u i x (g.nextPc l) := by
  rw [← hcur] at hnext
  exact answers_of hnext (done_onlyGroup u n hz hp hx)

/-- As `retiresInto_of_done`, for a word of commit class. -/
theorem commits_of_commitDone {l : Lit} (hnext : exec i s = .next (u.commitDone s.cur g' i)) (hcur : u.cur = s.cur)
    (hp : g'.pc = g.pc) (hz : Instr.size i = (if l.isSome then 16 else 8) := by rfl) : s.Commits u i g' (g.nextPc l) :=
  retiresInto_of_done (n := 1) hnext hcur hp rfl hz

/-! ### The core's table cache (R163, R167) -/

theorem withEntries_of_hits {hs : List Word} (F : State → State) (hhit : ∀ h ∈ hs, s.hasEntry g.core (s.ctxOf k) h = true) :
    s.withEntries k g hs F = F (s.useEntries g.core (s.ctxOf k) hs) := by
  have hnone : hs.filter (fun h => !s.hasEntry g.core (s.ctxOf k) h) = [] :=
    List.filter_eq_nil_iff.2 fun h hh => by simp [hhit h hh]
  simp [State.withEntries, hnone]

/-- Entries that are not in the cache, and that can be read, come into it while the word waits. -/
theorem withEntries_of_misses {hs : List Word} (F : State → State) (hmiss : ∃ h ∈ hs, s.hasEntry g.core (s.ctxOf k) h = false)
    (hgood : ∀ h ∈ hs, s.hasEntry g.core (s.ctxOf k) h = true ∨
      s.entryHeld (s.ctxOf k) (h.toNat % 4096) = false ∧ s.entryBad (s.ctxOf k) (h.toNat % 4096) = false) :
    s.withEntries k g hs F = (s.useEntries g.core (s.ctxOf k) hs).wait k g := by
  obtain ⟨x, hx, hout⟩ := hmiss
  have hmissing (j : Nat) (hj : j ∈ (hs.filter (fun h => !s.hasEntry g.core (s.ctxOf k) h)).map handleIdx) :
      s.entryHeld (s.ctxOf k) j = false ∧ s.entryBad (s.ctxOf k) j = false := by
    obtain ⟨h, hh, rfl⟩ := List.mem_map.1 hj
    obtain ⟨hmem, hno⟩ := List.mem_filter.1 hh
    rw [handleIdx_eq]
    exact (hgood h hmem).resolve_left (by simpa using hno)
  have hsome : (hs.filter (fun h => !s.hasEntry g.core (s.ctxOf k) h)).map handleIdx ≠ [] :=
    mt List.map_eq_nil_iff.1 (List.ne_nil_of_mem (List.mem_filter.2 ⟨hx, by simp [hout]⟩))
  unfold State.withEntries
  dsimp only
  generalize (hs.filter (fun h => !s.hasEntry g.core (s.ctxOf k) h)).map handleIdx = missing at hmissing hsome
  have hheld : missing.any (s.entryHeld (s.ctxOf k)) = false := List.any_eq_false.2 fun j hj => by simp [(hmissing j hj).1]
  have hbad : missing.find? (s.entryBad (s.ctxOf k)) = none := List.find?_eq_none.2 fun j hj => by simp [(hmissing j hj).2]
  simp [hsome, hheld, hbad]

/-- The entry of a handle that is not in the cache cannot be read yet, or not at all. -/
theorem withEntries_of_unread {h : Word} (F : State → State) (hmiss : s.hasEntry g.core (s.ctxOf k) h = false) :
    (s.entryHeld (s.ctxOf k) (h.toNat % 4096) = true → s.withEntries k g [h] F = s.wait k g) ∧
    (s.entryHeld (s.ctxOf k) (h.toNat % 4096) = false → s.entryBad (s.ctxOf k) (h.toNat % 4096) = true →
      s.withEntries k g [h] F = s.loadFault k g .g
        { cause := 0x0A, pc := g.pc, addr := BitVec.ofNat 64 (s.entryPlace (s.ctxOf k) (h.toNat % 4096)) }) := by
  rw [← handleIdx_eq]
  constructor
  · intro hheld
    simp [State.withEntries, hmiss, hheld]
  · intro hheld hbad
    simp [State.withEntries, hmiss, hheld, hbad]

/-- A ready word whose entries are in the cache has its own effect. -/
theorem exec_of_hits {hs : List Word} {F : State → State} (e : Host.Outcome State Fault Refusal) (hr : s.Ready g i)
    (hhit : ∀ h ∈ hs, s.hasEntry g.core (s.ctxOf s.cur) h = true) (hexec : exec i s = e := by rfl) (hrun : e = s.run i f := by rfl)
    (hf : f s.cur g = s.withEntries s.cur g hs F := by rfl) : exec i s = .next (F (s.useEntries g.core (s.ctxOf s.cur) hs)) := by
  rw [exec_of_ready e hr hexec hrun, hf, withEntries_of_hits F hhit]

/-- As `exec_of_hits`, for a word that names one handle. -/
theorem exec_of_hit {h : Word} {F : State → State} (e : Host.Outcome State Fault Refusal) (hr : s.Ready g i)
    (hhit : s.hasEntry g.core (s.ctxOf s.cur) h = true) (hexec : exec i s = e := by rfl) (hrun : e = s.run i f := by rfl)
    (hf : f s.cur g = s.withEntries s.cur g [h] F := by rfl) : exec i s = .next (F (s.useEntries g.core (s.ctxOf s.cur) [h])) :=
  exec_of_hits e hr (fun _ hx => List.mem_singleton.1 hx ▸ hhit) hexec hrun hf

/-- A ready word waits for an entry that can be read. -/
theorem exec_of_misses {hs : List Word} {F : State → State} (e : Host.Outcome State Fault Refusal) (hr : s.Ready g i)
    (hmiss : ∃ h ∈ hs, s.hasEntry g.core (s.ctxOf s.cur) h = false)
    (hgood : ∀ h ∈ hs, s.hasEntry g.core (s.ctxOf s.cur) h = true ∨
      s.entryHeld (s.ctxOf s.cur) (h.toNat % 4096) = false ∧ s.entryBad (s.ctxOf s.cur) (h.toNat % 4096) = false)
    (hexec : exec i s = e := by rfl) (hrun : e = s.run i f := by rfl)
    (hf : f s.cur g = s.withEntries s.cur g hs F := by rfl) :
    exec i s = .next ((s.useEntries g.core (s.ctxOf s.cur) hs).wait s.cur g) := by
  rw [exec_of_ready e hr hexec hrun, hf, withEntries_of_misses F hmiss hgood]

/-- As `exec_of_misses`, for a word that names one handle. -/
theorem exec_of_miss {h : Word} {F : State → State} (e : Host.Outcome State Fault Refusal) (hr : s.Ready g i)
    (hmiss : s.hasEntry g.core (s.ctxOf s.cur) h = false) (hheld : s.entryHeld (s.ctxOf s.cur) (h.toNat % 4096) = false)
    (hbad : s.entryBad (s.ctxOf s.cur) (h.toNat % 4096) = false) (hexec : exec i s = e := by rfl) (hrun : e = s.run i f := by rfl)
    (hf : f s.cur g = s.withEntries s.cur g [h] F := by rfl) :
    exec i s = .next ((s.useEntries g.core (s.ctxOf s.cur) [h]).wait s.cur g) :=
  exec_of_misses e hr ⟨h, List.mem_singleton.2 rfl, hmiss⟩ (fun _ hx => List.mem_singleton.1 hx ▸ .inr ⟨hheld, hbad⟩) hexec hrun hf

theorem hasEntry_useEntries (s : State) (core c : Nat) (h : Word) : (s.useEntries core c [h]).hasEntry core c h = true := by
  simp [State.hasEntry, State.useEntries, core_setCore]

theorem current_useEntries (s : State) (core c c' : Nat) (hs : List Word) (h : Word) :
    (s.useEntries core c hs).current c' h = s.current c' h := rfl

theorem core_mapCores (F : CoreSt → CoreSt) (hF : F {} = {}) (s : State) (j : Nat) :
    ({ s with cores := s.cores.map (fun e => (e.1, F e.2)) } : State).core j = F (s.core j) := by
  simp only [State.core, SMap.getD, SMap.find_map (f := fun e => (e.1, F e.2)) (fun _ => rfl)]
  cases SMap.find? s.cores j with
  | none => exact hF.symm
  | some x => rfl

theorem hasEntry_dropTable (s : State) (core c : Nat) (h : Word) : (s.dropTable c (h.toNat % 4096)).hasEntry core c h = false := by
  rw [State.hasEntry, State.dropTable,
    core_mapCores (fun x => { x with tensorTags := x.tensorTags.filter (fun t => t ≠ (c, h.toNat % 4096)) }) rfl]
  simp [handleIdx_eq]

/-- Entries of an operand cache that stay behind when a tag ends are pinned, and kept for their replay only (R162, R173). -/
theorem mem_dropEntries {p : CacheEntry → Bool} {e : CacheEntry} {es : List CacheEntry}
    (he : e ∈ dropEntries p es) (hpe : p e = true) :
    e.dropped = true ∧ e.pins ≠ [] := by
  obtain ⟨x, hx, rfl⟩ := List.mem_map.1 he
  obtain ⟨-, hkeep⟩ := List.mem_filter.1 hx
  by_cases hpx : p x = true
  · rw [if_pos hpx]
    simp only [hpx, Bool.not_true, Bool.false_or, Bool.not_eq_true', List.isEmpty_eq_false_iff] at hkeep
    exact ⟨rfl, hkeep⟩
  · rw [if_neg hpx] at hpe
    exact absurd hpe hpx

theorem core_dropTag (p : CacheEntry → Bool) (s : State) (j : Nat) :
    (s.dropTag p).core j = { s.core j with opCache := dropEntries p (s.core j).opCache } :=
  core_mapCores (fun x => { x with opCache := dropEntries p x.opCache }) rfl s j

/-! ### Requests that wait at a stack (R235) -/

/-- A value put at a key of a map holds of some entry what the value it replaces did. -/
theorem any_insert {α : Type} {p : α → Bool} {v d : α} (hd : p d = false) {m : SMap α} {k : Nat} (hv : p v = p (SMap.getD m k d)) :
    (SMap.insert m k v).any (fun e => p e.2) = m.any (fun e => p e.2) := by
  induction m with
  | nil => simp [SMap.insert, hv, SMap.getD, SMap.find?, hd]
  | cons e m ih =>
    obtain ⟨j, x⟩ := e
    by_cases hj : j = k
    · have hx : p v = p x := by simpa [SMap.getD, SMap.find?, hj] using hv
      simp [SMap.insert, hj, hx]
    · have hm : p v = p (SMap.getD m k d) := by simpa [SMap.getD, SMap.find?, hj] using hv
      have hfound (hpv : p v = true) : m.any (fun e => p e.2) = true := by
        rw [hm, SMap.getD] at hpv
        cases hfind : SMap.find? m k with
        | none => simp [hfind, hd] at hpv
        | some y => exact List.any_eq_true.2 ⟨(k, y), SMap.mem_of_find hfind, by simpa [hfind] using hpv⟩
      rw [SMap.insert, if_neg hj]
      split
      · cases hpv : p v with
        | false => simp [hpv]
        | true => simp [hfound hpv]
      · simp [ih hm]

/-- What waits at a stack does not depend on the table caches. -/
theorem entryHeld_useEntries (s : State) (core c : Nat) (h : Word) (j : Nat) : (s.useEntries core c [h]).entryHeld c j = s.entryHeld c j := by
  have halive (id : Nat) : (s.useEntries core c [h]).alive id = s.alive id := by
    have hbuf : (s.useEntries core c [h]).cores.any (fun e => e.2.storeBuf.any (fun l => l.id = id)) =
        s.cores.any (fun e => e.2.storeBuf.any (fun l => l.id = id)) := by
      rw [State.useEntries, State.setCore, SMap.setD, if_neg (by simp)]
      exact any_insert (p := fun x : CoreSt => x.storeBuf.any (fun l => l.id = id)) rfl rfl
    rw [State.alive, hbuf]
    rfl
  have hheld (key : Nat) : (s.useEntries core c [h]).heldAt key = s.heldAt key := List.filter_congr fun r _ => halive r.1
  exact congrArg (fun x => s.stackHeld (s.entryPlace c j) || !x.isEmpty) (hheld (s.entryPlace c j))

/-! ### What the read of an image sends (R257, R364) -/

theorem State.pump_eta (s : State) (n : Nat) : ∃ ports outbox, s.pump n = { s with ports := ports, outbox := outbox } := by
  have hfold (msgs : List OutMsg) (F : State → OutMsg → State)
      (hF : ∀ s m, ∃ ports outbox, F s m = { s with ports := ports, outbox := outbox }) :
      ∀ s, ∃ ports outbox, msgs.foldl F s = { s with ports := ports, outbox := outbox } := by
    induction msgs with
    | nil => exact fun s => ⟨_, _, rfl⟩
    | cons m msgs ih =>
      intro s
      obtain ⟨ports, outbox, e⟩ := hF s m
      obtain ⟨ports', outbox', e'⟩ := ih (F s m)
      exact ⟨ports', outbox', by rw [List.foldl_cons, e', e]⟩
  unfold State.pump
  dsimp only
  split
  · exact ⟨_, _, rfl⟩
  · obtain ⟨ports, outbox, e⟩ := hfold _ _ (fun s m => ⟨_, _, rfl⟩) _
    exact ⟨ports, outbox, e⟩

theorem State.choose_eta {α : Type} {t : State} {xs : List α} {x : α} (e : s.choose xs = some (x, t)) :
    ∃ fresh, t = { s with fresh := fresh } := by
  match xs, e with
  | [_], e => exact ⟨_, (Prod.mk.inj (Option.some.inj e)).2.symm⟩
  | _ :: _ :: _, e => exact ⟨_, (Prod.mk.inj (Option.some.inj e)).2.symm⟩

theorem State.linkSend_eta (s : State) (m : OutMsg) : ∃ ports outbox num fresh,
    s.linkSend m = { s with ports := ports, outbox := outbox, linkNum := num, fresh := fresh } := by
  unfold State.linkSend State.sendFlits
  dsimp only
  split
  · exact ⟨_, _, _, _, rfl⟩
  · next n t e =>
    obtain ⟨fresh, rfl⟩ := State.choose_eta e
    obtain ⟨ports, outbox, e'⟩ := State.pump_eta (State.setPort _ _ _) n
    exact ⟨_, _, _, _, e'⟩

theorem State.readSent_eta (s : State) (k : Nat) (g : Group) (sp : Space) (a : Int) (n : Nat) : ∃ ports outbox num fresh,
    s.readSent k g sp a n = { s with ports := ports, outbox := outbox, linkNum := num, fresh := fresh } := by
  unfold State.readSent
  split
  · split
    · exact ⟨_, _, _, _, rfl⟩
    · split
      · exact State.linkSend_eta ..
      · exact ⟨_, _, _, _, rfl⟩
  · exact ⟨_, _, _, _, rfl⟩

/-! ### Updates of an entry (R163, R173, R174) -/

theorem entryBytes_setEntry_same {bs : List Byte} (hlen : bs.length = 64)
    (hmem : ∀ n, n < 64 → destOf ((s.ctx c).tensorTable + 64 * idx + n) = .memory) : (s.setEntry c idx bs).entryBytes c idx = bs := by
  have hctx : (s.setEntry c idx bs).ctx c = s.ctx c := by
    rw [State.ctx, State.setEntry, State.setPhys_ctxs]
    rfl
  have hread := State.getPhys_setPhys s (s.ctx c).owner (s.entryPlace c idx) bs (fun n hn => hmem n (hlen ▸ hn))
  rw [hlen] at hread
  rw [State.entryBytes, State.entryPlace, hctx]
  exact hread

/-- A write to one line leaves what any owner reads of the others. -/
theorem physByte_setPhys_line {o o' : BitVec 8} {a n : Nat} {bs : List Byte} (hlen : a % 64 + bs.length ≤ 64)
    (hline : n / 64 ≠ a / 64) : (s.setPhys o a bs).physByte o' n = s.physByte o' n := by
  induction bs generalizing s a with
  | nil => rfl
  | cons b bs ih =>
    rw [List.length_cons] at hlen
    have hbyte : (s.setPhysByte o a b).physByte o' n = s.physByte o' n := by
      have hraw : (s.setPhysByte o a b).rawByte n = s.rawByte n :=
        (SMap.getD_setD_other _ _ _ _ (by rintro rfl; exact hline rfl)).trans (State.rawByte_rekey_other s o hline)
      have hkey : (s.setPhysByte o a b).lineKey.getD (n / 64) 0 = s.lineKey.getD (n / 64) 0 :=
        (State.lineKey_rekey ..).trans (if_neg hline)
      have hfresh : (s.setPhysByte o a b).fresh = s.fresh := by rw [State.setPhysByte_eta]
      simp only [State.physByte, hraw, hkey, hfresh]
    rw [State.setPhys]
    cases bs with
    | nil => exact hbyte
    | cons b' bs =>
      rw [List.length_cons] at hlen
      rw [ih (by rw [List.length_cons]; omega) (by omega), hbyte]
theorem entryBytes_setEntry_other {bs : List Byte} {c' j : Nat} (hlen : bs.length = 64)
    (halign : ((s.ctx c).tensorTable + 64 * idx) % 64 = 0) (halign' : ((s.ctx c').tensorTable + 64 * j) % 64 = 0)
    (hne : (s.ctx c').tensorTable + 64 * j ≠ (s.ctx c).tensorTable + 64 * idx) :
    (s.setEntry c idx bs).entryBytes c' j = s.entryBytes c' j := by
  have hctx : (s.setEntry c idx bs).ctx c' = s.ctx c' := by
    rw [State.ctx, State.setEntry, State.setPhys_ctxs]
    rfl
  rw [State.entryBytes, State.entryPlace, hctx, State.entryBytes, State.entryPlace, State.getPhys, State.getPhys]
  refine List.map_congr_left fun n hn => ?_
  have hn := List.mem_range.1 hn
  exact physByte_setPhys_line (by rw [State.entryPlace, hlen]; omega) (by rw [State.entryPlace]; omega)

theorem State.updateEntry_of_answering {bs : List Byte} (hlost : s.stackLost (s.entryPlace c idx) = false) :
    s.updateEntry k g c idx bs = s.setEntry c idx bs := by
  rw [State.updateEntry, hlost]
  rfl

/-! ### TDEF (R173) -/

section
variable {gs : Bool} {d a b : Operand} {x : Ext} {v : State} {img : List Byte}

/-- The state in which an entry has been made or ended: written, and gone from every core's table cache. -/
theorem cur_entryUpdate (s : State) (c idx : Nat) (bs : List Byte) (p : CacheEntry → Bool) :
    ((s.setEntry c idx bs).dropTable c idx).cur = s.cur ∧ (((s.setEntry c idx bs).dropTable c idx).dropTag p).cur = s.cur := by
  have hcur : (s.setEntry c idx bs).cur = s.cur := State.setPhys_cur ..
  exact ⟨hcur, hcur⟩

theorem exec_tdef_misaligned {sp : Space} {off : Int} (hsp : sp = if gs then .g else .l) (hoff : off = s.accBase s.cur g sp x a)
    (h : s.Ready g (.tdef gs d a b x)) (hmis : off % 64 ≠ 0) :
    exec (.tdef gs d a b x) s = .next (s.systemFault s.cur g { cause := 6, pc := g.pc, addr := s.faultAddr s.cur sp off }) := by
  subst hsp hoff
  exact (exec_of_ready (execTdef gs d a b x s) h).trans (by simp [hmis])

theorem exec_tdef_held {sp : Space} {off : Int} (hsp : sp = if gs then .g else .l) (hoff : off = s.accBase s.cur g sp x a)
    (h : s.Ready g (.tdef gs d a b x)) (halign : off % 64 = 0) (hhold : s.readHold s.cur g sp off 64 = some g') :
    exec (.tdef gs d a b x) s = .next (s.wait s.cur g') := by
  subst hsp hoff
  exact (exec_of_ready (execTdef gs d a b x s) h).trans (by simp [halign, hhold])

/-- A TDEF that has read its image: it checks the index and the image, and then makes the entry. The old entry, where it was valid, and its
handles end with that. -/
theorem exec_tdef_read {sp : Space} {off : Int} (hsp : sp = if gs then .g else .l) (hoff : off = s.accBase s.cur g sp x a)
    (h : s.Ready g (.tdef gs d a b x)) (halign : off % 64 = 0) (hhold : s.readHold s.cur g sp off 64 = none)
    (hread : s.readAs s.cur g sp off 64 = .ok img) (hv : v = s.readSent s.cur g sp off 64) (hc : c = s.ctxOf s.cur)
    (hidx : idx = (s.uni32 s.cur g x b).toNat) :
    (4096 ≤ idx → exec (.tdef gs d a b x) s = .next (v.systemFault s.cur g { cause := 8, pc := g.pc })) ∧
    (idx < 4096 → malformedImage img = true →
      exec (.tdef gs d a b x) s = .next (v.systemFault s.cur g { cause := 8, detail := 2, pc := g.pc })) ∧
    (idx < 4096 → malformedImage img = false → v.entryHeld c idx = false → v.stackLost ((s.ctx c).tensorTable + 64 * idx) = false →
      ((v.entry c idx).valid = false → s.Commits
        ((v.setEntry c idx (img.take 60 ++ leBytes 4 (256 + (v.entry c idx).gen))).dropTable c idx) (.tdef gs d a b x)
        (g.ws (regNo d) (BitVec.ofNat 32 ((v.entry c idx).gen * 4096 + idx))) (g.nextPc x.lit)) ∧
      ((v.entry c idx).valid = true → ∀ gen, gen = ((v.entry c idx).gen + 1) % 256 → s.Commits
        (((v.setEntry c idx (img.take 60 ++ leBytes 4 (256 + gen))).dropTable c idx).dropTag
          (fun e => e.ctx = c ∧ e.idx = idx ∧ e.gen = (v.entry c idx).gen)) (.tdef gs d a b x)
        (g.ws (regNo d) (BitVec.ofNat 32 (gen * 4096 + idx))) (g.nextPc x.lit))) := by
  have hexec := exec_of_ready (execTdef gs d a b x s) h
  obtain ⟨hctxOf, hctx, hcur⟩ : v.ctxOf s.cur = c ∧ v.ctx c = s.ctx c ∧ v.cur = s.cur := by
    obtain ⟨_, _, _, _, e⟩ := State.readSent_eta s s.cur g sp off 64
    rw [hv, e, hc]
    exact ⟨rfl, rfl, rfl⟩
  subst hsp hoff hidx
  dsimp only at hexec
  rw [← hv] at hexec
  refine ⟨fun hbig => ?_, fun hsmall hmal => ?_, fun hsmall hmal hheld hlost => ?_⟩
  · simpa [halign, hhold, hread, hbig] using hexec
  · simpa [halign, hhold, hread, hmal, Nat.not_le.2 hsmall] using hexec
  · rw [← hctx] at hlost
    simp only [halign, hhold, hread, hmal, Nat.not_le.2 hsmall, hctxOf, hheld, State.updateEntry_of_answering hlost, ne_eq,
      not_true_eq_false, if_false, Bool.false_eq_true] at hexec
    refine ⟨fun hfree => ?_, fun hvalid gen hgen => ?_⟩
    · simp only [hfree, Bool.false_eq_true, if_false] at hexec
      exact commits_of_commitDone hexec ((cur_entryUpdate v c _ _ fun _ => true).1.trans hcur) rfl
    · subst hgen
      simp only [hvalid, if_true] at hexec
      exact commits_of_commitDone hexec ((cur_entryUpdate ..).2.trans hcur) rfl

end

/-! ### TFREE and TQRY (R174, R175) -/

section
variable {a d : Operand} {x : Ext} {l : Lit} {h : Word}

/-- A TFREE of a current handle whose entry can be written ends it. -/
theorem commits_tfree (hr : s.Ready g (.tfree a x)) (hc : c = s.ctxOf s.cur) (hh : h = s.uni32 s.cur g x a)
    (hhit : s.hasEntry g.core c h = true) (hcurrent : s.current c h = true) (hidx : idx = h.toNat % 4096)
    (hheld : s.entryHeld c idx = false) (hlost : s.stackLost ((s.ctx c).tensorTable + 64 * idx) = false) {gen : Nat}
    (hgen : gen = h.toNat / 4096 % 256) : s.Commits
      ((((s.useEntries g.core c [h]).setEntry c idx ((s.entryBytes c idx).take 60 ++ leBytes 4 ((gen + 1) % 256))).dropTable c idx).dropTag
        (fun e => e.ctx = c ∧ e.idx = idx ∧ e.gen = gen)) (.tfree a x) g (g.nextPc x.lit) := by
  subst hc hh
  rw [← handleIdx_eq] at hidx
  subst hidx hgen
  refine commits_of_commitDone ((exec_of_hit (execTfree a x s) hr hhit).trans (congrArg _ ?_)) (cur_entryUpdate ..).2 rfl
  dsimp only
  rw [current_useEntries, hcurrent, entryHeld_useEntries, hheld,
    State.updateEntry_of_answering (s := s.useEntries g.core (s.ctxOf s.cur) [s.uni32 s.cur g x a]) hlost]
  rfl

/-- A handle that is not current (R167). -/
theorem exec_tfree_stale (hr : s.Ready g (.tfree a x)) (hc : c = s.ctxOf s.cur) (hh : h = s.uni32 s.cur g x a)
    (hhit : s.hasEntry g.core c h = true) (hstale : s.current c h = false) : exec (.tfree a x) s = .next
      (((s.useEntries g.core c [h]).userTrap s.cur g 0x40 (h.toNat % 2 ^ 20)).tick 8) := by
  subst hc hh
  refine (exec_of_hit (execTfree a x s) hr hhit).trans (congrArg _ ?_)
  rw [current_useEntries, hstale]
  rfl

theorem retiresInto_tqry {f : TqryForm} {r : Word} (hr : s.Ready g (.tqry f d a l)) (hc : c = s.ctxOf s.cur)
    (hh : h = s.uni32 s.cur g ⟨0, l⟩ a) (hhit : s.hasEntry g.core c h = true) (hval : s.tqryValue s.cur f h = r) :
    s.RetiresInto (s.useEntries g.core c [h]) (.tqry f d a l) (g.ws (regNo d) r) (g.nextPc l) := by
  subst hc hh hval
  exact retiresInto_of_done (n := 1) (exec_of_hit (execTqry f d a l s) hr hhit) rfl rfl rfl

end
end

/-- Settles O35: TDEF, TFREE and TQRY by what `State.withEntries` does with an entry that is in the cache and with one that is not; an
entry reads back as it was written (`entryBytes_setEntry_same`), and one of another line as before. -/
theorem tensorTableInstructions : Obligations.TensorTableInstructions := by
  unfold Obligations.TensorTableInstructions
  intro s g gs d a b x img c idx gen h sp base i v old u here ofGen hc himg
  refine ⟨fun hidx hr halign hhold hread => ?_, fun g' hr halign hhold => exec_tdef_held rfl rfl hr halign hhold,
    fun hr hmis => exec_tdef_misaligned rfl rfl hr hmis, fun hh hr => ⟨fun hhit => ⟨?_, exec_tfree_stale hr hc hh hhit⟩, fun hmiss => ?_⟩,
    fun l n hh hidx => ⟨fun hhit => ⟨fun hr => ?_, fun hr => ?_⟩, fun hmiss hheld hbad f hr => ?_⟩,
    ⟨hasEntry_useEntries .., hasEntry_dropTable ..⟩, rfl, entryBytes_setEntry_same himg, fun halign c' j => entryBytes_setEntry_other himg halign,
    fun n k e he hgen => ?_⟩
  · obtain ⟨hrange, hmalformed, hmade⟩ := exec_tdef_read rfl rfl hr halign hhold hread rfl hc hidx
    refine ⟨fun hsmall hgood ⟨hheld, hlost⟩ => ?_, hrange, hmalformed⟩
    obtain ⟨hfree, hvalid⟩ := hmade hsmall hgood hheld hlost
    exact ⟨hfree, fun h => hvalid h gen⟩
  · exact fun hcurrent hidx hheld hlost hgen => commits_tfree hr hc hh hhit hcurrent hidx hheld hlost hgen
  · subst hc hh
    refine ⟨fun hheld => ?_, fun hheld => ⟨fun hbad => ?_, fun hbad => ?_⟩⟩
    · rw [exec_of_ready (execTfree a x s) hr, (withEntries_of_unread _ hmiss).1 hheld]
    · exact exec_of_miss (execTfree a x s) hr hmiss hheld hbad
    · exact (exec_of_ready (execTfree a x s) hr).trans (congrArg _ ((withEntries_of_unread _ hmiss).2 hheld hbad))
  · subst hidx
    refine retiresInto_tqry hr hc hh hhit ?_
    rw [hc, ← handleIdx_eq]
    rfl
  · exact retiresInto_tqry hr hc hh hhit (by rw [hc]; rfl)
  · subst hc hh hidx
    exact exec_of_miss (execTqry f d a l s) hr hmiss hheld hbad
  · rw [core_dropTag] at he
    exact mem_dropEntries he hgen

end
end Sys2Proof.Machine


namespace Sys2Proof.Machine
section
-- One after another, so that the threads' stacks stay within the memory that a check may take.
set_option Elab.async false
section
/-!
# The engine queue and the tiles

A matrix instruction whose checks pass is one `State.enqueue` (R158); what reads a tile waits for the engine first (R172).
-/

variable {s u : State} {k : Nat} {g : Group} {i : Instr} {l : Lit} {f : Nat → Group → State}

/-! ### Entering the queue (R158) -/

/-- An operation at the end of a core's engine queue. -/
def State.entered (s : State) (core : Nat) (o : EngineOp) : State :=
  { s with nextId := s.nextId + 1 }.setCore core { s.core core with engine := (s.core core).engine ++ [o] }

/-- The operation that a matrix instruction of a group enters the queue with. -/
def State.queuedOp (s : State) (k : Nat) (g : Group) (kind : EngineKind) (tile : Nat) (counter : Option Nat) : EngineOp :=
  { id := s.nextId, group := k, tile := tile, kind := kind, counter := counter, pc := g.pc }

theorem retiresInto_of_enqueue {kind : EngineKind} {tile : Nat} (hnext : exec i s = .next (u.enqueue s.cur g i tile kind none false))
    (hcur : u.cur = s.cur) (hz : Instr.size i = (if l.isSome then 16 else 8) := by rfl) :
    s.RetiresInto (u.entered g.core (u.queuedOp s.cur g kind tile none)) i g (g.nextPc l) :=
  retiresInto_of_done (n := 1) hnext hcur rfl (by rw [Bool.false_or]) hz

theorem retiresInto_of_enqueue_counted {kind : EngineKind} {tile n : Nat}
    (hnext : exec i s = .next (u.enqueue s.cur g i tile kind (some n) false)) (hcur : u.cur = s.cur)
    (hz : Instr.size i = (if l.isSome then 16 else 8) := by rfl) :
    s.RetiresInto (u.entered g.core (u.queuedOp s.cur g kind tile (some n))) i (g.wa n (g.ra n + 1)) (g.nextPc l) :=
  retiresInto_of_done (n := 1) hnext hcur rfl (by rw [Bool.false_or]; rfl) hz

theorem commits_of_enqueue {kind : EngineKind} {tile n : Nat} (hnext : exec i s = .next (u.enqueue s.cur g i tile kind (some n) true))
    (hcur : u.cur = s.cur) (hz : Instr.size i = (if l.isSome then 16 else 8) := by rfl) :
    s.Commits (u.entered g.core (u.queuedOp s.cur g kind tile (some n))) i (g.wa n (g.ra n + 1)) (g.nextPc l) :=
  commits_of_commitDone hnext hcur rfl hz

/-! ### The checks (R166, R176 to R178) -/

theorem footprintFault_eq_none {rs : List (Nat × Nat)} (hfits : ∀ r ∈ rs, r.1 + r.2 ≤ (s.team k).scratch) :
    s.footprintFault k g rs = none := by
  have hnone : rs.find? (fun r => decide ((s.team k).scratch < r.1 + r.2)) = none :=
    List.find?_eq_none.2 fun r hr => by simpa using hfits r hr
  rw [State.footprintFault, hnone]
  rfl

theorem windowSegs_eq (w : Word) (ea eb : TEntry) : windowSegs w ea eb =
    if w.toNat % 65536 ≠ 0 then w.toNat % 65536 else (max ea.kdim eb.kdim + 63) / 64 - w.toNat / 65536 := by
  simp only [windowSegs, bitsAt_low, bitsAt_high]

theorem mmaFit_iff {e : TEntry} (hspace : e.space = 0) : e.mmaFit = true ↔ mmaClass e.fmt ≠ 0 := by
  simp [TEntry.mmaFit, hspace]

/-! ### MMA (R176 to R178) -/

section
variable {z : Bool} {a b w : Operand} {n : BitVec 4} {t : BitVec 3} {ha hb win : Word}

theorem exec_mma_of_partial (hr : s.Ready g (.mma z a b w n t l)) (hmask : ∃ L, L < 96 ∧ g.live L = true ∧ g.active L = false) :
    exec (.mma z a b w n t l) s = .next ((s.userTrap s.cur g 0x42 0).tick 8) := by
  obtain ⟨L, hL, hlive, hactive⟩ := hmask
  have hany : (List.range 96).any (fun L => g.live L && !g.active L) = true :=
    List.any_eq_true.2 ⟨L, List.mem_range.2 hL, by simp [hlive, hactive]⟩
  exact (exec_of_ready (execMma z a b w n t l s) hr).trans (congrArg _ (if_pos hany))

theorem any_inactive_of_full (hmask : ∀ L, L < 96 → g.live L = true → g.active L = true) :
    ¬ (List.range 96).any (fun L => g.live L && !g.active L) = true := by
  rw [Bool.not_eq_true, List.any_eq_false]
  intro L hL
  cases hlive : g.live L with
  | false => simp
  | true => simp [hmask L (List.mem_range.1 hL) hlive]

theorem exec_mma_of_miss (hr : s.Ready g (.mma z a b w n t l)) (hmask : ∀ L, L < 96 → g.live L = true → g.active L = true)
    (hmiss : ∃ h ∈ [s.uni32 s.cur g ⟨0, l⟩ a, s.uni32 s.cur g ⟨0, l⟩ b], s.hasEntry g.core (s.ctxOf s.cur) h = false)
    (hgood : ∀ h ∈ [s.uni32 s.cur g ⟨0, l⟩ a, s.uni32 s.cur g ⟨0, l⟩ b], s.hasEntry g.core (s.ctxOf s.cur) h = true ∨
      s.entryHeld (s.ctxOf s.cur) (h.toNat % 4096) = false ∧ s.entryBad (s.ctxOf s.cur) (h.toNat % 4096) = false) :
    exec (.mma z a b w n t l) s = .next
      ((s.useEntries g.core (s.ctxOf s.cur) [s.uni32 s.cur g ⟨0, l⟩ a, s.uni32 s.cur g ⟨0, l⟩ b]).wait s.cur g) :=
  exec_of_misses (execMma z a b w n t l s) hr hmiss hgood rfl rfl (if_neg (any_inactive_of_full hmask))

section
variable (hr : s.Ready g (.mma z a b w n t l)) (hmask : ∀ L, L < 96 → g.live L = true → g.active L = true)
  (hha : ha = s.uni32 s.cur g ⟨0, l⟩ a) (hhb : hb = s.uni32 s.cur g ⟨0, l⟩ b) (hwin : win = s.uni32 s.cur g ⟨0, l⟩ w)
  (hhit : ∀ h ∈ [ha, hb], s.hasEntry g.core (s.ctxOf s.cur) h = true)
include hr hmask hha hhb hhit

theorem exec_mma_of_stale (hstale : s.current (s.ctxOf s.cur) ha = false) : exec (.mma z a b w n t l) s = .next
    (((s.useEntries g.core (s.ctxOf s.cur) [ha, hb]).userTrap s.cur g 0x40 (ha.toNat % 2 ^ 20)).tick 8) := by
  subst hha hhb
  refine (exec_of_hits (execMma z a b w n t l s) hr hhit rfl rfl (if_neg (any_inactive_of_full hmask))).trans (congrArg _ ?_)
  rw [current_useEntries, hstale]
  rfl

section
variable {ea eb : TEntry} (hcura : s.current (s.ctxOf s.cur) ha = true) (hcurb : s.current (s.ctxOf s.cur) hb = true)
  (hea : ea = s.entry (s.ctxOf s.cur) (ha.toNat % 4096)) (heb : eb = s.entry (s.ctxOf s.cur) (hb.toNat % 4096))
  (hspacea : ea.space = 0) (hspaceb : eb.space = 0)
include hcura hcurb hea heb hspacea hspaceb

theorem exec_mma_of_unfit (hfit : mmaClass ea.fmt = 0 ∨ mmaClass eb.fmt = 0) : exec (.mma z a b w n t l) s = .next
    ((s.useEntries g.core (s.ctxOf s.cur) [ha, hb]).systemFault s.cur g { cause := 8, detail := 2, pc := g.pc }) := by
  have hunfit : (ea.mmaFit && eb.mmaFit) = false := by
    rw [Bool.and_eq_false_iff, ← Bool.not_eq_true, ← Bool.not_eq_true, mmaFit_iff hspacea, mmaFit_iff hspaceb]
    exact hfit.imp not_not_intro not_not_intro
  rw [← handleIdx_eq] at hea heb
  subst hha hhb hea heb
  refine (exec_of_hits (execMma z a b w n t l s) hr hhit rfl rfl (if_neg (any_inactive_of_full hmask))).trans (congrArg _ ?_)
  rw [State.entry, State.entry] at hunfit
  rw [current_useEntries, current_useEntries, hcura, hcurb, hunfit]
  rfl

include hwin in
theorem commits_mma (hfita : mmaClass ea.fmt ≠ 0) (hfitb : mmaClass eb.fmt ≠ 0)
    (hin : ∀ r ∈ ea.footprint (win.toNat / 65536) (windowSegs win ea eb) ++ eb.footprint (win.toNat / 65536) (windowSegs win ea eb),
      r.1 + r.2 ≤ (s.team s.cur).scratch) :
    s.Commits ((s.useEntries g.core (s.ctxOf s.cur) [ha, hb]).entered g.core (s.queuedOp s.cur g (.mma z
      (s.entryBytes (s.ctxOf s.cur) (ha.toNat % 4096)) (s.entryBytes (s.ctxOf s.cur) (hb.toNat % 4096)) ha hb win) t.toNat
      (some n.toNat))) (.mma z a b w n t l) (g.wa n.toNat (g.ra n.toNat + 1)) (g.nextPc l) := by
  have hfit : (ea.mmaFit && eb.mmaFit) = true := by
    rw [Bool.and_eq_true, mmaFit_iff hspacea, mmaFit_iff hspaceb]
    exact ⟨hfita, hfitb⟩
  rw [← bitsAt_high] at hin
  rw [← handleIdx_eq] at hea heb
  rw [← handleIdx_eq, ← handleIdx_eq]
  subst hha hhb hwin hea heb
  refine commits_of_enqueue ((exec_of_hits (execMma z a b w n t l s) hr hhit rfl rfl (if_neg (any_inactive_of_full hmask))).trans
    (congrArg _ ?_)) rfl
  rw [State.entry, State.entry] at hfit hin
  have hnone := footprintFault_eq_none (s := s.useEntries g.core (s.ctxOf s.cur) [s.uni32 s.cur g ⟨0, l⟩ a, s.uni32 s.cur g ⟨0, l⟩ b])
    (k := s.cur) (g := g) hin
  rw [current_useEntries, current_useEntries, hcura, hcurb, hfit, hnone]
  rfl

end
end
end

/-! ### MLOAD and MSTORE (R181, R182) -/

section
variable {a w : Operand} {n : BitVec 4} {t : BitVec 3} {h win : Word} {mk : List Byte → Word → EngineKind}

theorem retiresInto_tileMove (e : Host.Outcome State Fault Refusal) (hr : s.Ready g i) (hh : h = s.uni32 s.cur g ⟨0, l⟩ a)
    (hwin : win = s.uni32 s.cur g ⟨0, l⟩ w) (hhit : s.hasEntry g.core (s.ctxOf s.cur) h = true)
    (hcurrent : s.current (s.ctxOf s.cur) h = true) (hfit : (s.entry (s.ctxOf s.cur) (h.toNat % 4096)).tileFit = true)
    (hin : ∀ r ∈ (s.entry (s.ctxOf s.cur) (h.toNat % 4096)).tileFootprint win, r.1 + r.2 ≤ (s.team s.cur).scratch)
    (hexec : exec i s = e := by rfl) (hrun : e = s.run i (fun k g => s.tileMove k g i a w n t l mk) := by rfl)
    (hz : Instr.size i = (if l.isSome then 16 else 8) := by rfl) :
    s.RetiresInto ((s.useEntries g.core (s.ctxOf s.cur) [h]).entered g.core (s.queuedOp s.cur g
      (mk (s.entryBytes (s.ctxOf s.cur) (h.toNat % 4096)) win) t.toNat (some n.toNat))) i (g.wa n.toNat (g.ra n.toNat + 1))
      (g.nextPc l) := by
  rw [← handleIdx_eq] at hfit hin ⊢
  subst hh hwin
  refine retiresInto_of_enqueue_counted ((exec_of_hit e hr hhit hexec hrun (by unfold State.tileMove; rfl)).trans (congrArg _ ?_)) rfl hz
  rw [State.entry] at hfit hin
  have hnone := footprintFault_eq_none (s := s.useEntries g.core (s.ctxOf s.cur) [s.uni32 s.cur g ⟨0, l⟩ a]) (k := s.cur) (g := g) hin
  rw [current_useEntries, hcurrent, hfit, hnone]
  rfl

end

/-! ### SWFENCE (R186) -/

theorem retiresInto_swfence {form : SwfenceForm} {x : Ext} {idx : Option (List Nat)} (hr : s.Ready g (.swfence form x))
    (hidx : s.swfenceIdx s.cur g x form = idx) :
    s.RetiresInto (s.entered g.core (s.queuedOp s.cur g (.swfence idx) 0 none)) (.swfence form x) g (g.nextPc x.lit) := by
  subst hidx
  exact retiresInto_of_enqueue (exec_of_ready (execSwfence form x s) hr) rfl

/-! ### Reading a tile (R172, R183 to R185) -/

section
variable {d a : Operand} {t : BitVec 3}

theorem exec_of_busy {F : State} {n : Nat} (e : Host.Outcome State Fault Refusal) (hbusy : s.tileBusy s.cur n = true) (hr : s.Ready g i)
    (hexec : exec i s = e := by rfl) (hrun : e = s.run i f := by rfl)
    (hf : f s.cur g = if s.tileBusy s.cur n = true then s.wait s.cur g else F := by rfl) : exec i s = .next (s.wait s.cur g) := by
  rw [exec_of_ready e hr hexec hrun, hf, if_pos hbusy]

theorem retiresInto_of_idle {n m : Nat} {g' : Group} (e : Host.Outcome State Fault Refusal) (hidle : s.tileBusy s.cur n = false)
    (hr : s.Ready g i) (hcur : u.cur = s.cur) (hp : g'.pc = g.pc) (hexec : exec i s = e := by rfl) (hrun : e = s.run i f := by rfl)
    (hf : f s.cur g = (if s.tileBusy s.cur n = true then s.wait s.cur g else u.done s.cur g' i m) := by rfl)
    (hz : Instr.size i = (if l.isSome then 16 else 8) := by rfl) : s.RetiresInto u i g' (g.nextPc l) := by
  refine retiresInto_of_done (n := m) ?_ hcur hp rfl hz
  rw [exec_of_ready e hr hexec hrun, hf, if_neg (by simp [hidle])]

end

end

/-- Settles O36: every check is one branch of the instruction's effect, and the branch that is left enters the queue (`retiresInto_of_enqueue`);
what reads a tile waits while `State.tileBusy` and then retires. -/
theorem matrixInstructions : Obligations.MatrixInstructions := by
  unfold Obligations.MatrixInstructions
  refine ⟨?_, fun s g part1 cb clr d a t l x hx => ?_⟩
  · intro s g z a b w rm n t l f x ha hb win ba bb c o u one two counted good fits hha hhb hwin hba hbb
    subst hba hbb
    refine ⟨fun hr => ?_, fun hr => ?_, fun hmiss hgood => ?_, fun hhit hcurrent hfit hin => ?_, fun hr => ?_⟩
    · intro ea eb k0 m
      refine ⟨exec_mma_of_partial hr, fun hmask => ⟨fun hmiss hgooda hgoodb => ?_, fun hhita hhitb => ?_⟩⟩
      · subst hha hhb
        refine exec_mma_of_miss hr hmask ?_ ?_
        · simpa using hmiss
        · simpa using ⟨hgooda, hgoodb⟩
      · have hhit : ∀ h ∈ [ha, hb], s.hasEntry g.core (s.ctxOf s.cur) h = true := by simpa using ⟨hhita, hhitb⟩
        refine ⟨exec_mma_of_stale hr hmask hha hhb hhit, fun hcura hcurb hspacea hspaceb => ⟨?_, fun hfita hfitb hina hinb => ?_⟩⟩
        · exact exec_mma_of_unfit hr hmask hha hhb hhit hcura hcurb rfl rfl hspacea hspaceb
        · refine commits_mma hr hmask hha hhb hwin hhit hcura hcurb rfl rfl hspacea hspaceb hfita hfitb fun r hmem => ?_
          rw [windowSegs_eq] at hmem
          exact (List.mem_append.1 hmem).elim (hina r) (hinb r)
    · exact retiresInto_of_enqueue (exec_of_ready (execMzero t l s) hr) rfl
    · subst hha
      exact ⟨fun hr => exec_of_miss (execMload a w n t l s) hr hmiss hgood.1 hgood.2 rfl rfl (by unfold State.tileMove; rfl),
        fun hr => exec_of_miss (execMstore rm a w n t l s) hr hmiss hgood.1 hgood.2 rfl rfl (by unfold State.tileMove; rfl)⟩
    · exact ⟨fun hr => retiresInto_tileMove (execMload a w n t l s) hr hha hwin hhit hcurrent hfit hin,
        fun hr => retiresInto_tileMove (execMstore rm a w n t l s) hr hha hwin hhit hcurrent hfit hin⟩
    · cases f with
      | h a => exact retiresInto_swfence hr (by rw [State.swfenceIdx, handleIdx_eq])
      | h2 a b => exact retiresInto_swfence hr (by rw [State.swfenceIdx, handleIdx_eq, handleIdx_eq])
      | all => exact retiresInto_swfence hr rfl
  · subst hx
    refine ⟨fun hidle => ⟨fun hr => ?_, fun hr => ?_, fun hr => ?_, fun hr => ?_⟩, fun hbusy i hi hr => ?_⟩
    · exact retiresInto_of_idle (execMcorr part1 cb d a t l s) hidle hr rfl rfl
    · exact retiresInto_of_idle (execMstat false d t l s) hidle hr rfl rfl
    · exact retiresInto_of_idle (execMstat true d t l s) hidle hr rfl rfl
    · exact retiresInto_of_idle (execMsig d t l s) hidle hr rfl rfl
    · rcases hi with rfl | rfl | rfl
      · exact exec_of_busy (execMcorr part1 cb d a t l s) hbusy hr
      · exact exec_of_busy (execMstat clr d t l s) hbusy hr
      · exact exec_of_busy (execMsig d t l s) hbusy hr

end
end Sys2Proof.Machine


namespace Sys2Proof.Machine
section
-- One after another, so that the threads' stacks stay within the memory that a check may take.
set_option Elab.async false
section
/-!
# The matrix engine at work

`State.engineLeaves` is what every instruction does when its whole effect is there (R171); `exec_engineOpComplete` says that the engine's
step is the effect of the instruction at the head of the queue and then that.
-/

variable {s t u : State} {core k n id : Nat} {o : EngineOp} {rest : List EngineOp} {g : Group}

/-! ### Counters that go down (R171, R213) -/

theorem State.countDown_eta (s : State) (k n id : Nat) : ∃ groups log lost ctxs records, s.countDown k n id =
    { s with groups := groups, errorLog := log, errorOver := lost, ctxs := ctxs, records := records } := by
  unfold State.countDown
  dsimp only
  rw [State.saveRecord_eta]
  split
  · split
    · rw [State.groupError, State.errorRec_eta]
      exact ⟨_, _, _, _, _, rfl⟩
    · exact ⟨_, _, _, _, _, rfl⟩
  · exact ⟨_, _, _, _, _, rfl⟩

theorem Group.noteWait_eta (g : Group) (now : Nat) (step : Bool) : ∃ pc hold cyc start test met skip halt, g.noteWait now step =
    { g with pc := pc, hold := hold, waitcyc := cyc, waitFrom := start, waitTest := test, waitMet := met, bpSkip := skip,
             haltPending := halt } := by
  unfold Group.noteWait
  split
  · split
    · exact ⟨_, _, _, _, _, _, _, _, rfl⟩
    · split <;> exact ⟨_, _, _, _, _, _, _, _, rfl⟩
  · exact ⟨_, _, _, _, _, _, _, _, rfl⟩

theorem group?_countDown (hg : s.group? k = some g) (hcounts : g.Counts n) : ∃ h, (s.countDown k n id).group? k = some h ∧
    h.ra n = g.ra n - 1 ∧ ∀ m, m ≠ n → h.ra m = g.ra m := by
  obtain ⟨hrcd, hsound⟩ := hcounts
  have hdec : ∀ m, (g.decA n).ra m = if m = n then g.ra n - 1 else g.ra m := fun m => ra_wa ..
  obtain ⟨pc, hold, cyc, start, test, met, skip, halt, e⟩ := (g.decA n).noteWait_eta s.cycle (g.singleStep && s.armed k)
  have hrcd' : (g.decA n).rcd = none := hrcd
  unfold State.countDown
  simp only [hg, hrcd, Option.isNone_none, Bool.true_and, List.contains_iff_mem, hsound, if_false]
  rw [State.group?_saveRecord, State.group?, State.modGroup, SMap.find_modify, if_pos rfl, ← State.group?, hg, Option.map_some]
  simp only [hrcd, Option.isSome_none, Bool.false_eq_true, hsound, if_false, e, hrcd', Bool.false_and]
  exact ⟨_, rfl, (hdec n).trans (if_pos rfl), fun m hm => (hdec m).trans (if_neg hm)⟩

/-- An instruction whose whole effect is there leaves the engine, and its counter goes down (R171). -/
def State.engineLeaves (u : State) (core : Nat) (o : EngineOp) (rest : List EngineOp) : State :=
  let s := { u with fresh := u.fresh + 257 }.setCore core { u.core core with engine := rest }
  (match o.counter with
    | some n => if o.abandoned then s else s.countDown o.group n o.id
    | none => s).settle (gangOf o.group)

theorem exec_engineOpComplete {run : MmaRun} (hq : (s.core core).engine = o :: rest) (hstarted : o.started = true)
    (hrun : s.engineRun core o = (u, run, true)) : exec (.engineOpComplete core) s = .next (u.engineLeaves core o rest) := by
  show execEngineOpComplete core s = _
  unfold execEngineOpComplete
  rw [hq]
  simp only [hstarted, hrun]
  rfl

theorem State.engineLeaves_eta (u : State) (core : Nat) (o : EngineOp) (rest : List EngineOp) :
    ∃ groups gangs log lost ctxs records, u.engineLeaves core o rest =
      { u with
        groups := groups, gangs := gangs, errorLog := log, errorOver := lost, ctxs := ctxs, records := records, fresh := u.fresh + 257,
        cores := SMap.setD u.cores core { u.core core with engine := rest } {} } := by
  unfold State.engineLeaves
  dsimp only
  rw [State.settle_eta]
  split
  · split
    · exact ⟨_, _, _, _, _, _, rfl⟩
    · obtain ⟨_, _, _, _, _, e⟩ := State.countDown_eta ({ u with fresh := u.fresh + 257 }.setCore core { u.core core with engine := rest })
        o.group _ o.id
      rw [e]
      exact ⟨_, _, _, _, _, _, rfl⟩
  · exact ⟨_, _, _, _, _, _, rfl⟩

theorem core_engineLeaves (u : State) (core : Nat) (o : EngineOp) (rest : List EngineOp) :
    (u.engineLeaves core o rest).core core = { u.core core with engine := rest } := by
  obtain ⟨_, _, _, _, _, _, e⟩ := u.engineLeaves_eta core o rest
  rw [e]
  exact (SMap.getD_setD ..).trans (if_pos rfl)

theorem teams_engineLeaves (u : State) (core : Nat) (o : EngineOp) (rest : List EngineOp) :
    (u.engineLeaves core o rest).teams = u.teams := by
  obtain ⟨_, _, _, _, _, _, e⟩ := u.engineLeaves_eta core o rest
  rw [e]

theorem memory_engineLeaves (u : State) (core : Nat) (o : EngineOp) (rest : List EngineOp) :
    (u.engineLeaves core o rest).phys = u.phys ∧ (u.engineLeaves core o rest).spad = u.spad ∧ u.SameMemory (u.engineLeaves core o rest) := by
  obtain ⟨_, _, _, _, _, _, e⟩ := u.engineLeaves_eta core o rest
  rw [e]
  exact ⟨rfl, rfl, .of_eq⟩

theorem group?_engineLeaves (hg : u.group? o.group = some g) (hcounter : o.counter = some n) (habandoned : o.abandoned = false)
    (hcounts : g.Counts n) : ∃ h, (u.engineLeaves core o rest).group? o.group = some h ∧ h.ra n = g.ra n - 1 ∧
      ∀ m, m ≠ n → h.ra m = g.ra m := by
  unfold State.engineLeaves
  rw [State.settle_eta]
  simp only [hcounter, habandoned, Bool.false_eq_true, if_false]
  exact group?_countDown (s := { u with fresh := u.fresh + 257 }.setCore core { u.core core with engine := rest }) hg hcounts

/-! ### Tiles -/

theorem tile_setTile (s : State) (k n : Nat) (x : Tile) : (s.setTile k n x).tile k n = x := by
  have hteam : (s.setTile k n x).team k = { s.team k with tiles := (s.team k).tiles.setD n x {} } := by
    rw [State.team, SMap.getD, State.setTile, State.setTeam, SMap.find_insert, if_pos rfl]
    rfl
  rw [State.tile, hteam]
  exact (SMap.getD_setD ..).trans (if_pos rfl)

theorem team_setTile_other (s : State) {k j : Nat} (n : Nat) (x : Tile) (hj : teamOf j ≠ teamOf k) :
    (s.setTile k n x).team j = s.team j := by
  rw [State.team, SMap.getD, State.setTile, State.setTeam, SMap.find_insert, if_neg hj]
  rfl

theorem tile_engineLeaves (u : State) (core : Nat) (o : EngineOp) (rest : List EngineOp) (k n : Nat) :
    (u.engineLeaves core o rest).tile k n = u.tile k n := by
  rw [State.tile, State.team, teams_engineLeaves]
  rfl

/-- A value made of each element of a list, at that element as its key. -/
theorem find_filterMap_key {α : Type} (F : Nat → Option α) (xs : List Nat) (j : Nat) :
    SMap.find? (xs.filterMap (fun i => (F i).map (fun v => (i, v)))) j = if j ∈ xs then F j else none := by
  induction xs with
  | nil => rfl
  | cons i xs ih =>
    cases hF : F i with
    | none =>
      rw [List.filterMap_cons_none (by simp [hF]), ih]
      by_cases hj : j = i
      · subst hj
        simp [hF]
      · simp [hj]
    | some v =>
      rw [List.filterMap_cons_some (b := (i, v)) (by simp [hF]), SMap.find?]
      by_cases hj : i = j
      · subst hj
        simp [hF]
      · simp [hj, Ne.symm hj, ih]

/-! ### MLOAD (R181) -/

theorem foldl_errors_eta {F : State → Nat → State}
    (hF : ∀ s x, ∃ log lost ctxs, F s x = { s with errorLog := log, errorOver := lost, ctxs := ctxs }) (xs : List Nat) (s : State) :
    ∃ log lost ctxs, xs.foldl F s = { s with errorLog := log, errorOver := lost, ctxs := ctxs } := by
  induction xs generalizing s with
  | nil => exact ⟨_, _, _, rfl⟩
  | cons x xs ih =>
    obtain ⟨_, _, _, e⟩ := ih (F s x)
    obtain ⟨_, _, _, e'⟩ := hF s x
    rw [List.foldl_cons, e, e']
    exact ⟨_, _, _, rfl⟩

theorem State.engineErrors_eta (s : State) (core : Nat) (o : EngineOp) (source : Nat) (keys : List Nat) :
    ∃ log lost ctxs, s.engineErrors core o source keys = { s with errorLog := log, errorOver := lost, ctxs := ctxs } :=
  foldl_errors_eta (fun _ _ => ⟨_, _, _, State.errorRec_eta ..⟩) _ s

theorem State.tileErrors_eta (s : State) (core : Nat) (o : EngineOp) (words : List Nat) :
    ∃ log lost ctxs, s.tileErrors core o words = { s with errorLog := log, errorOver := lost, ctxs := ctxs } :=
  foldl_errors_eta (fun _ _ => ⟨_, _, _, State.errorRec_eta ..⟩) _ s

theorem State.mloadRun_eta (s : State) (core : Nat) (o : EngineOp) (e : List Byte) (w : Word) :
    ∃ teams log lost ctxs, s.mloadRun core o e w = { s with teams := teams, errorLog := log, errorOver := lost, ctxs := ctxs } := by
  unfold State.mloadRun
  dsimp only
  obtain ⟨log, lost, ctxs, he⟩ := State.engineErrors_eta s core o 1
    ((((parseEntry e).tileElems w).filter (fun x => s.spadMarked (s.lKey o.group x.2) (parseEntry e).size)).map
      (fun x => s.lKey o.group x.2 / 4 * 4))
  rw [he]
  exact ⟨_, _, _, _, rfl⟩

/-- The word that an element of two or four bytes fills (R181). -/
def tileWord (fmt raw : Nat) : Word :=
  if fmt = 1 then BitVec.ofNat 32 (fCvt fp32 .rne (bf16.decode raw)).1
  else if fmt = 2 then BitVec.ofNat 32 (fCvt fp32 .rne (fp16.decode raw)).1
  else BitVec.ofNat 32 raw

theorem tileFmt_cases (fmt : Nat) : fmt = 1 ∧ tileFmt fmt = some bf16 ∨ fmt = 2 ∧ tileFmt fmt = some fp16 ∨
    fmt ≠ 1 ∧ fmt ≠ 2 ∧ tileFmt fmt = none := by
  by_cases h1 : fmt = 1
  · exact .inl ⟨h1, by rw [h1]; rfl⟩
  · by_cases h2 : fmt = 2
    · exact .inr (.inl ⟨h2, by rw [h2]; rfl⟩)
    · exact .inr (.inr ⟨h1, h2, by simp [tileFmt]⟩)

theorem operandByte_of_snap (hsnap : ∀ x, o.snap.getD x 0 = s.spadByte x) (x : Nat) : s.operandByte o x = s.spadByte x := by
  rw [State.operandByte]
  split
  · exact hsnap x
  · rfl

theorem lKey_add (s : State) (k a i : Nat) : s.lKey k (a + i) = s.lKey k a + i := by
  simp only [State.lKey, spadKey]
  omega

theorem ite_some_pair (v : Word) (ij : Nat) : (if v = 0 then none else some (ij, v)) =
    ((some v).filter (· ≠ 0)).map (fun v => (ij, v)) := by
  by_cases hv : v = 0
  · rw [if_pos hv, Option.filter_some, if_neg (by simpa using hv)]
    rfl
  · rw [if_neg hv, Option.filter_some, if_pos (by simpa using hv)]
    rfl

/-- The word that an MLOAD puts at place 64 i + j of its tile, where the element is in the tensor (R181). -/
def State.loadedWord (s : State) (k : Nat) (y : TEntry) (l0 k0 ij : Nat) : Option Word :=
  if l0 + ij / 64 < y.lines ∧ k0 + ij % 64 < y.kdim then
    some (tileWord y.fmt
      (leNat (s.getSpad (s.lKey k (y.base + (l0 + ij / 64) * y.lstride + (k0 + ij % 64) * y.size)) y.size)))
  else none

section
variable {e : List Byte} {w : Word} {y : TEntry} {l0 k0 : Nat} (hbad : s.spadBad = []) (hsnap : ∀ x, o.snap.getD x 0 = s.spadByte x)
  (hy : y = parseEntry e) (hl0 : l0 = w.toNat / 65536) (hk0 : k0 = w.toNat % 65536)
include hbad hsnap hy hl0 hk0

theorem mloadRun_words : ((s.mloadRun core o e w).tile o.group o.tile).words = (List.range 4096).filterMap (fun ij =>
    ((s.loadedWord o.group y l0 k0 ij).filter (· ≠ 0)).map (fun v => (ij, v))) := by
  have hmark (key n : Nat) : s.spadMarked key n = false := by rw [State.spadMarked, hbad]; rfl
  have hread (a : Nat) : (List.range y.size).map (fun i => s.operandByte o (s.lKey o.group (a + i))) = s.getSpad (s.lKey o.group a) y.size :=
    List.map_congr_left fun i _ => by rw [operandByte_of_snap hsnap, lKey_add]
  unfold State.mloadRun
  simp only [hmark, Bool.false_eq_true, if_false, ← hy, hread]
  rw [tile_setTile, TEntry.tileElems, bitsAt_high, bitsAt_low, ← hl0, ← hk0]
  simp only [List.filterMap_filterMap]
  refine List.filterMap_congr fun ij _ => ?_
  rw [State.loadedWord]
  split
  · rcases tileFmt_cases y.fmt with ⟨h1, hf⟩ | ⟨h2, hf⟩ | ⟨h1, h2, hf⟩
    · simp only [Option.bind_some, hf]
      rw [tileWord, if_pos h1]
      exact ite_some_pair ..
    · simp only [Option.bind_some, hf]
      rw [tileWord, if_neg (show y.fmt ≠ 1 by omega), if_pos h2]
      exact ite_some_pair ..
    · simp only [Option.bind_some, hf]
      rw [tileWord, if_neg h1, if_neg h2]
      exact ite_some_pair ..
  · rfl

theorem mloadRun_word {i j : Nat} (hi : i < 64) (hj : j < 64) :
    ((s.mloadRun core o e w).tile o.group o.tile).words.getD (64 * i + j) 0 =
      if l0 + i < y.lines ∧ k0 + j < y.kdim then
        tileWord y.fmt (leNat (s.getSpad (s.lKey o.group (y.base + (l0 + i) * y.lstride + (k0 + j) * y.size)) y.size))
      else 0 := by
  have hrow : (64 * i + j) / 64 = i := by omega
  have hcol : (64 * i + j) % 64 = j := by omega
  rw [mloadRun_words hbad hsnap hy hl0 hk0, SMap.getD, find_filterMap_key, if_pos (List.mem_range.2 (by omega)), State.loadedWord, hrow, hcol]
  split
  · rw [Option.filter_some]
    split <;> simp_all
  · rfl

end

/-! ### MSTORE (R182, R188) -/

theorem length_leBytes (n x : Nat) : (leBytes n x).length = n := by
  induction n generalizing x with
  | zero => rfl
  | succ n ih => rw [leBytes, List.length_cons, ih]

theorem State.storeSpad_eta (s : State) (key : Nat) (bs : List Byte) : ∃ spad spadBad,
    s.storeSpad key bs = { s with spad := spad, spadBad := spadBad } := by
  rw [State.storeSpad, State.setSpad_eta]
  exact ⟨_, _, rfl⟩

/-- A write of bytes from a key on covers a byte. -/
def CoversByte (w : Nat × List Byte) (x : Nat) : Prop := w.1 ≤ x ∧ x < w.1 + w.2.length

/-- Some of a list of writes, one after another. -/
def State.storeSome (s : State) (sel : Nat × List Byte → Bool) (ws : List (Nat × List Byte)) : State :=
  ws.foldl (fun s w => if sel w then s.storeSpad w.1 w.2 else s) s

theorem State.storeSome_eta (s : State) (sel : Nat × List Byte → Bool) (ws : List (Nat × List Byte)) : ∃ spad spadBad,
    s.storeSome sel ws = { s with spad := spad, spadBad := spadBad } := by
  unfold State.storeSome
  induction ws generalizing s with
  | nil => exact ⟨_, _, rfl⟩
  | cons w ws ih =>
    rw [List.foldl_cons]
    split
    · obtain ⟨_, _, e⟩ := ih (s.storeSpad w.1 w.2)
      obtain ⟨_, _, e'⟩ := s.storeSpad_eta w.1 w.2
      rw [e, e']
      exact ⟨_, _, rfl⟩
    · exact ih s

theorem spadByte_storeSpad (s : State) (key x : Nat) (bs : List Byte) : (s.storeSpad key bs).spadByte x =
    if key ≤ x ∧ x < key + bs.length then bs.getD (x - key) 0 else s.spadByte x := State.spadByte_setSpad ..

theorem spadByte_storeSome_of_uncovered {sel : Nat × List Byte → Bool} {ws : List (Nat × List Byte)} {x : Nat}
    (hw : ∀ w ∈ ws, ¬ CoversByte w x) : (s.storeSome sel ws).spadByte x = s.spadByte x := by
  induction ws generalizing s with
  | nil => rfl
  | cons w ws ih =>
    rw [State.storeSome, List.foldl_cons]
    refine (ih fun w' hw' => hw w' (List.mem_cons_of_mem _ hw')).trans ?_
    split
    · exact (spadByte_storeSpad ..).trans (if_neg (hw w List.mem_cons_self))
    · rfl

/-- A byte that one write alone covers, however often it is in the list. -/
theorem spadByte_storeSome_of_covered {sel : Nat × List Byte → Bool} {ws : List (Nat × List Byte)} {w : Nat × List Byte} {x : Nat}
    (hmem : w ∈ ws) (hcovers : CoversByte w x) (honly : ∀ w' ∈ ws, CoversByte w' x → w' = w) :
    (s.storeSome sel ws).spadByte x = if sel w then w.2.getD (x - w.1) 0 else s.spadByte x := by
  induction ws generalizing s with
  | nil => exact absurd hmem List.not_mem_nil
  | cons v ws ih =>
    have honly' : ∀ w' ∈ ws, CoversByte w' x → w' = w := fun w' hw' => honly w' (List.mem_cons_of_mem _ hw')
    rw [State.storeSome, List.foldl_cons]
    by_cases hin : w ∈ ws
    · refine (ih hin honly').trans ?_
      by_cases hv : CoversByte v x
      · obtain rfl := honly v List.mem_cons_self hv
        by_cases hsel : sel v = true
        · rw [if_pos hsel, if_pos hsel]
        · rw [if_neg hsel, if_neg hsel, if_neg hsel]
      · have hstep : (if sel v then s.storeSpad v.1 v.2 else s).spadByte x = s.spadByte x := by
          split
          · exact (spadByte_storeSpad ..).trans (if_neg hv)
          · rfl
        rw [hstep]
    · obtain rfl : w = v := (List.mem_cons.1 hmem).resolve_right hin
      refine (spadByte_storeSome_of_uncovered fun w' hw' hc => hin (honly' w' hw' hc ▸ hw')).trans ?_
      split
      · exact (spadByte_storeSpad ..).trans (if_pos hcovers)
      · rfl

/-- All of a list of writes, some of them before the others. -/
def State.storeAll (s : State) (early : Nat × List Byte → Bool) (ws : List (Nat × List Byte)) : State :=
  (s.storeSome (fun w => early w == true) ws).storeSome (fun w => early w == false) ws

theorem spadByte_storeAll_of_uncovered {early : Nat × List Byte → Bool} {ws : List (Nat × List Byte)} {x : Nat}
    (hw : ∀ w ∈ ws, ¬ CoversByte w x) : (s.storeAll early ws).spadByte x = s.spadByte x :=
  (spadByte_storeSome_of_uncovered hw).trans (spadByte_storeSome_of_uncovered hw)

theorem spadByte_storeAll_of_covered {early : Nat × List Byte → Bool} {ws : List (Nat × List Byte)} {w : Nat × List Byte} {x : Nat}
    (hmem : w ∈ ws) (hcovers : CoversByte w x) (honly : ∀ w' ∈ ws, CoversByte w' x → w' = w) :
    (s.storeAll early ws).spadByte x = w.2.getD (x - w.1) 0 := by
  rw [State.storeAll, spadByte_storeSome_of_covered hmem hcovers honly, spadByte_storeSome_of_covered hmem hcovers honly]
  cases early w <;> rfl

/-- The bits of the element that an MSTORE makes of a tile word (R182). -/
theorem storeElem_fst (fmt : Nat) (rm : RM) (x : Word) : (storeElem fmt rm x).1 =
    if fmt = 1 then (fCvt bf16 rm (fp32.decode x.toNat)).1
    else if fmt = 2 then (fCvt fp16 rm (fp32.decode x.toNat)).1 else x.toNat := by
  rw [storeElem]
  rcases tileFmt_cases fmt with ⟨h1, hf⟩ | ⟨h2, hf⟩ | ⟨h1, h2, hf⟩
  · rw [hf, if_pos h1]
  · rw [hf, if_neg (by omega), if_pos h2]
  · rw [hf, if_neg h1, if_neg h2]

/-- Element (i, j) of the window lies in the tensor (R181, R182). -/
def TEntry.HasElem (y : TEntry) (w : Word) (i j : Nat) : Prop :=
  i < 64 ∧ j < 64 ∧ w.toNat / 65536 + i < y.lines ∧ w.toNat % 65536 + j < y.kdim

/-- The L address of element (i, j) of the window. -/
def TEntry.elemAddr (y : TEntry) (w : Word) (i j : Nat) : Nat :=
  y.base + (w.toNat / 65536 + i) * y.lstride + (w.toNat % 65536 + j) * y.size

theorem mem_tileElems {y : TEntry} {w : Word} {x : Nat × Nat} :
    x ∈ y.tileElems w ↔ ∃ i j, y.HasElem w i j ∧ x = (64 * i + j, y.elemAddr w i j) := by
  rw [TEntry.tileElems, bitsAt_high, bitsAt_low]
  simp only [List.mem_filterMap, List.mem_range]
  constructor
  · rintro ⟨ij, hij, hx⟩
    split at hx
    · next hin =>
      refine ⟨ij / 64, ij % 64, ⟨by omega, by omega, hin.1, hin.2⟩, ?_⟩
      rw [Nat.div_add_mod]
      exact (Option.some.inj hx).symm
    · cases hx
  · rintro ⟨i, j, ⟨hi, hj, hline, hcol⟩, rfl⟩
    have hrow : (64 * i + j) / 64 = i := by omega
    have hrest : (64 * i + j) % 64 = j := by omega
    refine ⟨64 * i + j, by omega, ?_⟩
    rw [hrow, hrest, if_pos ⟨hline, hcol⟩]
    rfl

section
variable {rm : RM} {y : TEntry} {w : Word} {early : Nat × List Byte → Bool} (hbad : (s.tile o.group o.tile).bad = [])
include hbad

theorem mem_mstoreWrites {x : Nat × List Byte} : x ∈ s.mstoreWrites o rm y w ↔ ∃ i j, y.HasElem w i j ∧
    x = (s.lKey o.group (y.elemAddr w i j), leBytes y.size (storeElem y.fmt rm ((s.tile o.group o.tile).words.getD (64 * i + j) 0)).1) := by
  simp only [State.mstoreWrites, List.mem_map, mem_tileElems, hbad, List.contains_nil, Bool.false_eq_true, if_false]
  constructor
  · rintro ⟨_, ⟨i, j, hin, rfl⟩, rfl⟩
    exact ⟨i, j, hin, rfl⟩
  · rintro ⟨i, j, hin, rfl⟩
    exact ⟨_, ⟨i, j, hin, rfl⟩, rfl⟩

/-- The writes that cover a byte are those of the elements whose bytes it is one of. -/
theorem exists_of_coversByte {v : Nat × List Byte} {x : Nat} (hv : v ∈ s.mstoreWrites o rm y w) (hc : CoversByte v x) :
    ∃ i j, y.HasElem w i j ∧ s.lKey o.group (y.elemAddr w i j) ≤ x ∧ x < s.lKey o.group (y.elemAddr w i j) + y.size ∧
      v = (s.lKey o.group (y.elemAddr w i j),
        leBytes y.size (storeElem y.fmt rm ((s.tile o.group o.tile).words.getD (64 * i + j) 0)).1) := by
  obtain ⟨i, j, hin, rfl⟩ := (mem_mstoreWrites hbad).1 hv
  rw [CoversByte, length_leBytes] at hc
  exact ⟨i, j, hin, hc.1, hc.2, rfl⟩

theorem spadByte_storeAll_elem (hapart : ∀ i j i' j', y.HasElem w i j → y.HasElem w i' j' → i ≠ i' ∨ j ≠ j' →
      s.lKey o.group (y.elemAddr w i j) + y.size ≤ s.lKey o.group (y.elemAddr w i' j') ∨
      s.lKey o.group (y.elemAddr w i' j') + y.size ≤ s.lKey o.group (y.elemAddr w i j))
    {i j m : Nat} (hin : y.HasElem w i j) (hm : m < y.size) :
    (t.storeAll early (s.mstoreWrites o rm y w)).spadByte (s.lKey o.group (y.elemAddr w i j) + m) =
      (leBytes y.size (storeElem y.fmt rm ((s.tile o.group o.tile).words.getD (64 * i + j) 0)).1).getD m 0 := by
  rw [spadByte_storeAll_of_covered ((mem_mstoreWrites hbad).2 ⟨i, j, hin, rfl⟩)]
  · rw [Nat.add_sub_cancel_left]
  · exact ⟨Nat.le_add_right .., by rw [length_leBytes]; omega⟩
  · intro v hv hc
    obtain ⟨i', j', hin', hlow, hhigh, rfl⟩ := exists_of_coversByte hbad hv hc
    by_cases hsame : i = i' ∧ j = j'
    · obtain ⟨rfl, rfl⟩ := hsame
      rfl
    · have := hapart i j i' j' hin hin' (by omega)
      omega

theorem spadByte_storeAll_elsewhere {x : Nat} (hx : ∀ i j, y.HasElem w i j →
      x < s.lKey o.group (y.elemAddr w i j) ∨ s.lKey o.group (y.elemAddr w i j) + y.size ≤ x) :
    (t.storeAll early (s.mstoreWrites o rm y w)).spadByte x = t.spadByte x := by
  refine spadByte_storeAll_of_uncovered fun v hv hc => ?_
  obtain ⟨i, j, hin, hlow, hhigh, -⟩ := exists_of_coversByte hbad hv hc
  have := hx i j hin
  omega

end

/-! ### An instruction begins (R158, R293) -/

/-- An operation as it is once it has begun: with the team's allocation as it stands (R171, R188). -/
def State.begun (s : State) (o : EngineOp) : EngineOp :=
  let t := s.team o.group
  { o with started := true, seed := s.fresh,
           snap := s.spad.filter (fun e => decide (spadKey t.core t.base ≤ e.1 ∧ e.1 < spadKey t.core t.base + t.scratch)) }

/-- The state in which the engine has begun the operation at the head of its queue. -/
def State.engineTakes (s : State) (core : Nat) (o : EngineOp) (rest : List EngineOp) : State :=
  { s.setCore core { s.core core with engine := s.begun o :: rest } with fresh := s.fresh + 1 }

theorem exec_engineOpStart_mstore {rm : RM} {e : List Byte} {w : Word} (hq : (s.core core).engine = o :: rest)
    (hstarted : o.started = false) (hearlier : s.accessesBefore o = false) (hkind : o.kind = .mstore rm e w) :
    exec (.engineOpStart core) s = .next ((s.engineTakes core o rest).mstoreWrite (s.begun o) rm e w true) := by
  show execEngineOpStart core s = _
  unfold execEngineOpStart
  dsimp only
  rw [hq]
  refine (if_neg (by simp [hstarted, hearlier])).trans ?_
  obtain ⟨_, _, _, kind⟩ := o
  obtain rfl : kind = _ := hkind
  rfl

theorem exec_engineOpStart_other (hq : (s.core core).engine = o :: rest) (hstarted : o.started = false)
    (hearlier : s.accessesBefore o = false) (hkind : ∀ rm e w, o.kind ≠ .mstore rm e w) :
    exec (.engineOpStart core) s = .next (s.engineTakes core o rest) := by
  show execEngineOpStart core s = _
  unfold execEngineOpStart
  dsimp only
  rw [hq]
  refine (if_neg (by simp [hstarted, hearlier])).trans ?_
  obtain ⟨_, _, _, kind⟩ := o
  cases kind with
  | mstore rm e w => exact absurd rfl (hkind rm e w)
  | _ => rfl

theorem core_engineTakes (s : State) (core : Nat) (o : EngineOp) (rest : List EngineOp) :
    ((s.engineTakes core o rest).core core).engine = s.begun o :: rest :=
  congrArg CoreSt.engine ((core_setCore ..).trans (if_pos rfl))

theorem exec_engineOpStart_idle (hq : (s.core core).engine = o :: rest) (hidle : o.started = true ∨ s.accessesBefore o = true) :
    exec (.engineOpStart core) s = .next s := by
  show execEngineOpStart core s = _
  simp only [execEngineOpStart, hq]
  exact if_pos (by simpa using hidle)

theorem exec_engineOpComplete_idle (hq : (s.core core).engine = o :: rest) (hstarted : o.started = false) :
    exec (.engineOpComplete core) s = .next s := by
  show execEngineOpComplete core s = _
  simp only [execEngineOpComplete, hq, hstarted]
  rfl

/-! ### The effect of each instruction but MMA (R180 to R182, R186) -/

theorem engineRun_mzero (hkind : o.kind = .mzero) : s.engineRun core o = (s.setTile o.group o.tile {}, o.run, true) := by
  simp only [State.engineRun, hkind]

theorem engineRun_mload {e : List Byte} {w : Word} (hkind : o.kind = .mload e w) :
    s.engineRun core o = (s.mloadRun core o e w, o.run, true) := by
  simp only [State.engineRun, hkind]

theorem engineRun_mstore {rm : RM} {e : List Byte} {w : Word} (hkind : o.kind = .mstore rm e w) :
    s.engineRun core o = (s.mstoreRun core o rm e w, o.run, true) := by
  simp only [State.engineRun, hkind]

/-- The operand-cache entries that an SWFENCE ends (R186). -/
def namesEntry (c : Nat) (idx : Option (List Nat)) (e : CacheEntry) : Bool :=
  decide (e.ctx = c) && idx.all (fun l => l.contains e.idx)

theorem engineRun_swfence {idx : Option (List Nat)} (hkind : o.kind = .swfence idx) : s.engineRun core o =
    (s.setCore core { s.core core with opCache := dropEntries (namesEntry (s.ctxOf o.group) idx) (s.core core).opCache }, o.run, true) := by
  simp only [State.engineRun, hkind]
  cases idx <;> rfl

theorem State.mstoreRun_eta (s : State) (core : Nat) (o : EngineOp) (rm : RM) (e : List Byte) (w : Word) : ∃ teams log lost ctxs,
    s.mstoreRun core o rm e w =
      { s.mstoreWrite o rm e w false with teams := teams, errorLog := log, errorOver := lost, ctxs := ctxs } := by
  unfold State.mstoreRun
  dsimp only
  obtain ⟨_, _, _, he⟩ := State.tileErrors_eta (s.mstoreWrite o rm e w false) core o
    ((((parseEntry e).tileElems w).filter (fun x => (s.tile o.group o.tile).bad.contains x.1)).map (·.1))
  rw [he]
  generalize s.mstoreWrite o rm e w false = v
  exact ⟨_, _, _, _, rfl⟩

theorem mstoreWrite_eq (s : State) (o : EngineOp) (rm : RM) (e : List Byte) (w : Word) (early : Bool) : s.mstoreWrite o rm e w early =
    s.storeSome (fun x => Config.readsOld o.seed (x.1 / 4) == early) (s.mstoreWrites o rm (parseEntry e) w) := rfl

theorem memory_mstoreRun (s : State) (core : Nat) (o : EngineOp) (rm : RM) (e : List Byte) (w : Word) :
    (s.mstoreRun core o rm e w).phys = s.phys ∧ (s.mstoreRun core o rm e w).spad = (s.mstoreWrite o rm e w false).spad := by
  obtain ⟨_, _, _, _, eta⟩ := s.mstoreRun_eta core o rm e w
  obtain ⟨_, _, eta'⟩ := s.storeSome_eta (fun x => Config.readsOld o.seed (x.1 / 4) == false) (s.mstoreWrites o rm (parseEntry e) w)
  have hphys : (s.mstoreWrite o rm e w false).phys = s.phys := by rw [mstoreWrite_eq, eta']
  generalize s.mstoreWrite o rm e w false = v at eta hphys ⊢
  rw [eta]
  exact ⟨hphys, rfl⟩

/-- An MSTORE has written all its elements when it leaves the engine: some when it began, the others now (R188). -/
theorem exec_mstore_complete {rm : RM} {e : List Byte} {w : Word} (hkind : o.kind = .mstore rm e w)
    (ht : t = (s.engineTakes core o rest).mstoreWrite (s.begun o) rm e w true) :
    Answers (exec (.engineOpComplete core) t) (fun u => (u.core core).engine = rest ∧ u.phys = s.phys ∧ ∀ x, u.spadByte x =
      ((s.engineTakes core o rest).storeAll (fun x => Config.readsOld s.fresh (x.1 / 4)) (s.mstoreWrites o rm (parseEntry e) w)).spadByte x) := by
  obtain ⟨spad, spadBad, eta⟩ : ∃ spad spadBad, t = { s.engineTakes core o rest with spad := spad, spadBad := spadBad } :=
    ht ▸ State.storeSome_eta ..
  have hq : (t.core core).engine = s.begun o :: rest := by
    rw [eta]
    exact core_engineTakes ..
  have hphys : t.phys = s.phys := by
    rw [eta]
    rfl
  have hwrites : t.mstoreWrites (s.begun o) rm (parseEntry e) w = s.mstoreWrites o rm (parseEntry e) w := by
    rw [eta]
    rfl
  have hlate : t.mstoreWrite (s.begun o) rm e w false =
      (s.engineTakes core o rest).storeAll (fun x => Config.readsOld s.fresh (x.1 / 4)) (s.mstoreWrites o rm (parseEntry e) w) := by
    rw [ht] at hwrites ⊢
    exact congrArg (State.storeSome _ _) hwrites
  obtain ⟨hphys', hspad⟩ := memory_mstoreRun t core (s.begun o) rm e w
  obtain ⟨hphys'', hspad', -⟩ := memory_engineLeaves (t.mstoreRun core (s.begun o) rm e w) core (s.begun o) rest
  refine answers_of (exec_engineOpComplete hq rfl (engineRun_mstore hkind)) ⟨by rw [core_engineLeaves],
    hphys''.trans (hphys'.trans hphys), fun x => ?_⟩
  rw [State.spadByte, hspad', hspad, hlate]
  rfl

/-- The counter of an MZERO or MLOAD goes down when it leaves the engine. -/
theorem counter_engineOpComplete {run : MmaRun} (hq : (s.core core).engine = o :: rest) (hstarted : o.started = true)
    (hrun : s.engineRun core o = (u, run, true)) (hgroups : u.groups = s.groups) (hcounter : o.counter = some n)
    (habandoned : o.abandoned = false) (hg : s.group? o.group = some g) (hcounts : g.Counts n) :
    Answers (exec (.engineOpComplete core) s) (fun t => ∃ h, t.group? o.group = some h ∧ h.ra n = g.ra n - 1 ∧
      ∀ m, m ≠ n → h.ra m = g.ra m) := by
  rw [State.group?, ← hgroups] at hg
  exact answers_of (exec_engineOpComplete hq hstarted hrun) (group?_engineLeaves hg hcounter habandoned hcounts)

end

/-- Settles O37: the engine's steps are `exec_engineOpStart_mstore` and its kin and `exec_engineOpComplete`; a tile word after an MLOAD is
`mloadRun_word`, and a byte after an MSTORE is that of the one write that covers it (`spadByte_storeAll_of_covered`). -/
theorem engineRunsItsQueue : Obligations.EngineRunsItsQueue := by
  unfold Obligations.EngineRunsItsQueue
  intro s core o rest hq
  refine ⟨fun _ hearlier => exec_engineOpStart_idle hq (.inr hearlier), fun hnew hnone => ?_, exec_engineOpComplete_idle hq,
    fun hstarted => exec_engineOpStart_idle hq (.inl hstarted), fun hstarted hkind => ?_, fun e w a hstarted hkind hfit hbad hsnap ha => ?_,
    fun rm e w t hnew hnone hkind hfit hbad ht => ?_, fun idx hstarted hkind => ?_,
    fun n g hstarted hkind hcounter habandoned hg hcounts => ?_⟩
  · have htaken : ((s.engineTakes core o rest).core core).engine = s.begun o :: rest := core_engineTakes ..
    by_cases hkind : ∀ rm e w, o.kind ≠ .mstore rm e w
    · exact answers_of (exec_engineOpStart_other hq hnew hnone hkind) ⟨⟨_, _, htaken⟩, rfl, rfl, rfl, fun _ => .of_eq⟩
    · have hstore : ∃ rm e w, o.kind = .mstore rm e w := by simpa using hkind
      obtain ⟨rm, e, w, hstore⟩ := hstore
      refine answers_of (exec_engineOpStart_mstore hq hnew hnone hstore) ?_
      obtain ⟨_, _, eta⟩ := (s.engineTakes core o rest).storeSome_eta (fun x => Config.readsOld s.fresh (x.1 / 4) == true)
        ((s.engineTakes core o rest).mstoreWrites (s.begun o) rm (parseEntry e) w)
      rw [mstoreWrite_eq, show (s.begun o).seed = s.fresh from rfl, eta]
      exact ⟨⟨_, _, htaken⟩, rfl, rfl, rfl, fun h => absurd hstore (h rm e w)⟩
  · refine answers_of (exec_engineOpComplete hq hstarted (engineRun_mzero hkind)) ?_
    obtain ⟨-, -, hmem⟩ := memory_engineLeaves (s.setTile o.group o.tile {}) core o rest
    refine ⟨by rw [core_engineLeaves], by rw [tile_engineLeaves, tile_setTile], .trans .of_eq hmem, fun k hk => ?_⟩
    rw [State.team, teams_engineLeaves]
    exact team_setTile_other s o.tile {} hk
  · intro y l0 k0
    subst ha
    refine answers_of (exec_engineOpComplete hq hstarted (engineRun_mload hkind)) ?_
    obtain ⟨-, -, hmem⟩ := memory_engineLeaves (s.mloadRun core o e w) core o rest
    obtain ⟨_, _, _, _, eta⟩ := s.mloadRun_eta core o e w
    refine ⟨by rw [core_engineLeaves], .trans ?_ hmem, fun i j hi hj => ?_⟩
    · rw [eta]
      exact .of_eq
    · rw [tile_engineLeaves]
      exact mloadRun_word hbad hsnap rfl rfl rfl hi hj
  · intro y l0 k0 in_ place stored hapart
    rw [exec_engineOpStart_mstore hq hnew hnone hkind] at ht
    obtain ⟨u, hu, hqu, hphys, hbytes⟩ := exec_mstore_complete (core := core) (rest := rest) hkind (Host.Outcome.next.inj ht).symm
    refine ⟨u, hu, hqu, hphys, fun i j n hin hn => ?_, fun x hx => (hbytes x).trans (spadByte_storeAll_elsewhere hbad hx)⟩
    have hstored : leBytes y.size (storeElem y.fmt rm ((s.tile o.group o.tile).words.getD (64 * i + j) 0)).1 = stored i j := by
      rw [storeElem_fst]
    rw [← hstored]
    exact (hbytes _).trans (spadByte_storeAll_elem hbad hapart hin hn)
  · refine answers_of (exec_engineOpComplete hq hstarted (engineRun_swfence hkind)) ?_
    obtain ⟨-, -, hmem⟩ := memory_engineLeaves (s.setCore core { s.core core with
      opCache := dropEntries (namesEntry (s.ctxOf o.group) idx) (s.core core).opCache }) core o rest
    refine ⟨by rw [core_engineLeaves], .trans .of_eq hmem, teams_engineLeaves .., fun x hx hctx hnamed => ?_⟩
    rw [core_engineLeaves, core_setCore, if_pos rfl] at hx
    refine (mem_dropEntries hx ?_).1
    rw [namesEntry, decide_eq_true hctx, Bool.true_and]
    rcases hnamed with rfl | ⟨l, rfl, hl⟩
    · rfl
    · simpa using hl
  · rcases hkind with hkind | ⟨e, w, hkind⟩
    · exact counter_engineOpComplete hq hstarted (engineRun_mzero hkind) rfl hcounter habandoned hg hcounts
    · obtain ⟨_, _, _, _, eta⟩ := s.mloadRun_eta core o e w
      exact counter_engineOpComplete hq hstarted (engineRun_mload hkind) (by rw [eta]) hcounter habandoned hg hcounts

end
end Sys2Proof.Machine


namespace Sys2Proof.Machine
section
-- One after another, so that the threads' stacks stay within the memory that a check may take.
set_option Elab.async false
section
/-!
# An MMA with too few superblock partials

`Obligations.ByteMatrixProduct` takes every operation at the head of an engine's queue, also one with an `MmaRun` that no step makes: no
hypothesis ties the run's superblock partials, CRC and error mark to the segments drained. A segment is drained into as many elements as the
run lists partials, where it lists any.
-/

variable {s t : State} {core key : Nat} {o : EngineOp} {rest : List EngineOp}

theorem cellWords_beyond {cs : List Cell} (h : cs.length ≤ key) : (cellWords cs).getD key 0 = 0 := by
  have hnone : SMap.find? (cellWords cs) key = none := by
    rw [Option.eq_none_iff_forall_ne_some]
    intro v hv
    obtain ⟨⟨i, c⟩, hx, he⟩ := List.mem_filterMap.1 (SMap.mem_of_find hv)
    obtain ⟨m, hm, hget⟩ := List.mem_iff_getElem.1 hx
    rw [List.getElem_zip, List.getElem_range] at hget
    rw [List.length_zip] at hm
    dsimp only at he
    split at he
    · cases he
    · have hi := congrArg Prod.fst hget
      have hk := congrArg Prod.fst (Option.some.inj he)
      dsimp only at hi hk
      omega
  rw [SMap.getD, hnone]
  rfl

theorem length_tileCells_le {q : List Word} (x : Tile) (int : Bool) (hq : q ≠ []) : (tileCells x q int).length ≤ q.length := by
  rw [tileCells, if_neg (mt List.isEmpty_iff.1 hq), List.length_map, List.length_zip]
  exact Nat.min_le_right ..

theorem teams_sampleSeg (s : State) (core : Nat) (o : EngineOp) (xa xb : Stream) (seg : Nat) (sig exact : Word) :
    (s.sampleSeg core o xa xb seg sig exact).teams = s.teams := by
  unfold State.sampleSeg
  dsimp only
  split
  · split
    · rfl
    · split <;> rfl
  · split
    · rfl
    · split <;> rfl

theorem words_mmaSeg_beyond (xa xb : Stream) (k0 n : Nat) (hq : o.run.q ≠ []) (hkey : o.run.q.length ≤ key) :
    ((s.mmaSeg core o xa xb k0 n).1.tile o.group o.tile).words.getD key 0 = 0 := by
  unfold State.mmaSeg
  dsimp only
  rw [State.tile, State.team, teams_sampleSeg, ← State.team, ← State.tile, tile_setTile]
  dsimp only
  refine cellWords_beyond ?_
  rw [List.length_map, List.length_zip, List.length_zip]
  refine (Nat.min_le_left ..).trans ((Nat.min_le_left ..).trans (le_trans ?_ hkey))
  exact length_tileCells_le _ _ hq

theorem words_mmaRun_beyond {z : Bool} {a b : List Byte} {ha hb w : Word} (hsegs : windowSegs w (parseEntry a) (parseEntry b) ≠ 0)
    (hq : o.run.q ≠ []) (hkey : o.run.q.length ≤ key) :
    ((s.mmaRun core o z a b ha hb w).1.tile o.group o.tile).words.getD key 0 = 0 := by
  unfold State.mmaRun
  dsimp only
  rw [if_neg hsegs]
  generalize (if (z && decide (o.run.drained = 0)) = true then
    s.setTile o.group o.tile { s.tile o.group o.tile with words := [], bad := [] } else s) = v
  obtain ⟨o', ho', hgroup, htile, hrun⟩ : ∃ o', (if o.run.drained = 0 then
      { o with run := { o.run with arrays := (v.core core).arrayEn } } else o) = o' ∧ o'.group = o.group ∧ o'.tile = o.tile ∧
      o'.run.q = o.run.q := by
    split <;> exact ⟨_, rfl, rfl, rfl, rfl⟩
  rw [ho', ← hgroup, ← htile]
  rw [← hrun] at hq hkey
  have hseg (xa xb : Stream) (k0 n : Nat) := words_mmaSeg_beyond (s := v) (core := core) xa xb k0 n hq hkey
  split
  · exact hseg ..
  · rw [tile_setTile]
    exact hseg ..

theorem tile_engineOpComplete (hq : (s.core core).engine = o :: rest) (hstarted : o.started = true)
    (e : exec (.engineOpComplete core) s = .next t) (k n : Nat) : t.tile k n = (s.engineRun core o).1.tile k n := by
  obtain ⟨⟨u, run, whole⟩, hrun⟩ : ∃ x, s.engineRun core o = x := ⟨_, rfl⟩
  rw [hrun]
  cases whole with
  | true =>
    rw [exec_engineOpComplete hq hstarted hrun] at e
    rw [← Host.Outcome.next.inj e]
    exact tile_engineLeaves ..
  | false =>
    have hnext : exec (.engineOpComplete core) s = .next
        ({ u with fresh := u.fresh + 257 }.setCore core { u.core core with engine := { o with run := run } :: rest }) := by
      show execEngineOpComplete core s = _
      unfold execEngineOpComplete
      rw [hq]
      simp only [hstarted, hrun]
      rfl
    rw [hnext] at e
    rw [← Host.Outcome.next.inj e]
    rfl

/-- An I8 tensor of one line of one element, at 0 of L space. -/
def oneByteEntry : List Byte := leBytes 24 0 ++ leBytes 4 1 ++ leBytes 4 1 ++ leBytes 12 0 ++ leBytes 4 5 ++ leBytes 16 0

/-- An MMA of two such tensors that has begun, with a list of one superblock partial. -/
def shortRunOp : EngineOp :=
  { id := 0, group := 0, tile := 0, kind := .mma false oneByteEntry oneByteEntry 0 1 0, counter := none, pc := 0, started := true,
    run := { q := [0x80000000] } }

/-- Core 0 runs `shortRunOp`; element (0, 1) of its tile holds 5. -/
def shortRun : State :=
  { State.reset with cores := [(0, { engine := [shortRunOp] })], teams := [(0, { tiles := [(0, { words := [(1, 5)] })] })] }

theorem engineRun_shortRun : shortRun.engineRun 0 shortRunOp =
    shortRun.mmaRun 0 shortRunOp false oneByteEntry oneByteEntry 0 1 0 := rfl

/-- The MMA leaves no word at element (0, 1). -/
theorem word_engineOpComplete_shortRun (e : exec (.engineOpComplete 0) shortRun = .next t) : (t.tile 0 0).words.getD 1 0 = 0 := by
  rw [tile_engineOpComplete (o := shortRunOp) rfl rfl e, engineRun_shortRun]
  exact words_mmaRun_beyond (o := shortRunOp) (by decide) (by decide) (by decide)

end

/-- Refutes O38: its clause of an MMA takes any `MmaRun`. In `shortRun` the run of an I8 MMA lists one superblock partial, so that one
element is drained; element (0, 1), which held 5 and to which line 1 of B, outside the tensor, adds 0, is 0 after the segment. -/
theorem not_byteMatrixProduct : ¬ Obligations.ByteMatrixProduct := by
  unfold Obligations.ByteMatrixProduct
  rintro ⟨-, -, h⟩
  obtain ⟨t, e, run, -, -, -, -, -, -, -, -, hint, -⟩ := h shortRun 0 shortRunOp [] false oneByteEntry oneByteEntry 0 1 0
    (parseEntry oneByteEntry) (parseEntry oneByteEntry) 1 0 { words := [(1, 5)] } rfl rfl rfl rfl rfl (by decide) (by decide) (by decide)
    (by decide) (by decide) (by decide) (by decide) (by decide) (by decide) rfl rfl (by decide) rfl (fun _ => rfl)
  obtain ⟨hsum, -⟩ := hint (by decide)
  have hzero := (hsum 0 1 (by decide) (by decide)).symm.trans (congrArg BitVec.toInt (word_engineOpComplete_shortRun e))
  exact absurd hzero (by decide)

end
end Sys2Proof.Machine
